-- ==== Sys2Proof/Word.lean ====
section
/-! DEFINITION. The word types of the device: registers, packet fields and memory words are bit vectors of these widths. -/

namespace Sys2Proof

/-- A register of the register space (R50) and an engine scalar register. -/
abbrev Word := BitVec 32

/-- A memory word of Mica and of the engine memories, and an engine vector register. -/
abbrev W64 := BitVec 64

/-- A flit of data: the 256 data bits of a ring data word. -/
abbrev W256 := BitVec 256

/-- A byte. -/
abbrev Byte := BitVec 8

/-- An accumulator of a signal engine. -/
abbrev W384 := BitVec 384

end Sys2Proof
end

