-- ==== Sys2Proof/Types.lean ====
section
/-! DEFINITION. The plain data that commands and the state share: endpoints, packets, access paths, links and the kinds of
memory words. -/

namespace Sys2Proof.Machine

/-- An endpoint `(dx,dy)/d:(x,y).p` (R12, R315). -/
structure Ep where
  dx : BitVec 7
  dy : BitVec 7
  die : BitVec 3
  x : BitVec 3
  y : BitVec 3
  p : BitVec 4
  deriving DecidableEq, Repr, Inhabited

/-- One data flit with its poison bits and its CRC-24 (R317, R318). -/
structure Flit where
  data : W256
  poison : BitVec 4
  crc : BitVec 24
  deriving DecidableEq, Repr, Inhabited

/-- A packet: the fields of its header flit (R315) and its data flits. -/
structure Packet where
  cmd : BitVec 8
  len : BitVec 8
  cls : BitVec 2
  vc : BitVec 1
  ord : BitVec 1
  rsv : BitVec 4
  dst : Ep
  src : Ep
  tag : BitVec 12
  addr : BitVec 48
  status : BitVec 4
  gran : BitVec 8
  spec : BitVec 74
  hcrc : BitVec 32
  data : List Flit
  deriving DecidableEq, Repr, Inhabited

/-- The path a register access comes from (R55 to R60); `ring` carries the endpoint that sent the packet. -/
inductive Path where
  | flint
  | mgmt
  | pcie (port : Bool)
  | ring (src : Ep)
  deriving DecidableEq, Repr

/-- What the check bits of a code word of the (72,64) code say of it (R199 to R201): it was written as data or as a poison code
word, and these of its 72 bits (check bits from 64 up) have been upset since. `single` and `other` hold one wrong bit of a data word
and every other set of wrong bits. -/
inductive Syn where
  | clean
  | single (n : Nat)
  | poison
  | other (poison : Bool) (bits : BitVec 72)
  deriving DecidableEq, Repr

/-- A stored memory word of Mica, of a vein array or of an engine memory (R199, R200). -/
structure Cell where
  data : W64
  syn : Syn
  deriving DecidableEq, Repr

/-- A signal engine: die, group and engine of the group (R221 to R224). -/
structure EngRef where
  die : Fin 4
  grp : Fin 192
  eng : Fin 12
  deriving DecidableEq, Repr

/-- An upset of one bit of a word of an engine memory: 0 P, 1 X, 2 Y; bits from 64 up are check bits (R230). -/
structure Upset where
  mem : Fin 3
  word : BitVec 10
  bit : Fin 72
  deriving DecidableEq, Repr

/-- A link with a Strata link layer: internal bundle `16d + b`, bridge port or Lode port (R400, R432, R514). -/
inductive LinkRef where
  | bundle (i : Fin 64)
  | bridge (k : Fin 8)
  | lode (k : Fin 4)
  deriving DecidableEq, Repr

/-- One end of a link: the hub end is Bedrock's, or a bridge or Lode port's own end. -/
structure LinkEnd where
  link : LinkRef
  leaf : Bool
  deriving DecidableEq, Repr

/-- A 320-bit slot of a packet-mode half (R414). -/
abbrev Slot := BitVec 320

/-- The bits of the physical lanes of a half during one slot: lane `p` of an `n`-lane half in UI `u` is bit n u + p (R401, R414, R514). -/
abbrev Lanes := BitVec 1280

/-- The result of a memory access of a host port or the flash, as it comes from outside. -/
inductive HostRead where
  | data (bytes : List Byte)
  | poisoned (bytes : List Byte)
  | unsupported
  | abort
  | timeout
  deriving DecidableEq, Repr

/-- A copy of a training set that arrives altered (R407): of the map set or of the fail report, copy 0 to 15, lane, and the bits that are
wrong. -/
structure SetErr where
  map : Bool
  copy : Fin 16
  lane : Nat
  mask : BitVec 256
  deriving DecidableEq, Repr

/-- The training set that a partner device sends, and the copies of training sets that arrive altered (R407, R522). -/
structure SentSet where
  bits : BitVec 256
  errs : List SetErr
  deriving DecidableEq, Repr

/-- What step 3 of start-up finds in a DDR5 channel (R444, R445): nothing, an RDIMM that does not train, or one of a capacity in
GiB, a number of ranks, a DRAM device width and a highest rate code of DDR_STATUS (0: below 4,800 MT/s). -/
inductive Dimm where
  | empty
  | failed
  | ok (gib ranks width rate : Nat)
  deriving DecidableEq, Repr

/-- What a start samples from outside: the straps (R75, R565, R584), the bank nominals (R657), whether both copies of NEXTLEAF are
uncorrectable (R627), and the state of VBAK (R598). -/
structure StartIn where
  rcvryN : Bool
  pudcN : Bool
  xadly : BitVec 3
  bankNom : BitVec 32
  leafLost : Bool
  vbakLow : Bool
  bakAbsent : Bool
  deriving DecidableEq, Repr

/-- The state of VBAK when VAON fails (R597, R598). -/
inductive Vbak where
  | holds
  | low
  | absent
  deriving DecidableEq, Repr

/-- What the code of a DDR5 line says when it is read (R446, R451, R452): clean, an error confined to one device, an
uncorrectable error, or the poison code word of a cause. -/
inductive DCode where
  | clean
  | oneDevice
  | uncorrectable
  | poison (cause : Nat)
  deriving DecidableEq, Repr

/-- A stored DDR5 line. -/
structure DLine where
  data : BitVec 512
  code : DCode
  deriving DecidableEq, Repr

/-- What time has done to a line of the metadata reserve (R446, R477, R478, R480): an error that the code corrects, one that it
"corrects" to other contents, an uncorrectable one, or other contents under a clean code. -/
inductive MetaErr where
  | correctable
  | miscorrected (data : BitVec 512)
  | uncorrectable
  | altered (data : BitVec 512)
  deriving DecidableEq, Repr

/-- What time has done to metadata when the patrol comes by: to the line of the reserve that it reads, and to a line of the counter cache,
true where its code cannot correct it (R467, R477). -/
structure MetaFound where
  line : Option MetaErr
  cache : Option (BitVec 18 × Bool)
  deriving DecidableEq, Repr

/-- An upset of one bit of a word of a vein array (R209). -/
structure VeinUpset where
  die : Fin 4
  index : BitVec 21
  bit : Fin 72
  deriving DecidableEq, Repr

/-- The two parts of VLOST (R394): slice `router` of a die finds a set lost, with the lines `bad` of it unreadable, or a home agent
serves delivered packet `n`. -/
inductive LostSet where
  | found (die : Fin 4) (router : Fin 64) (set : Nat) (bad : List Nat)
  | report (n : Nat)
  deriving DecidableEq, Repr

/-- What a host sets in the configuration space of a port's function (R484, R485, R487): BAR4 of 2^bar4 GiB, and MSI-X Enable. -/
structure PcieCfg where
  bar4 : Fin 7
  msix : Bool
  deriving DecidableEq, Repr

/-- What a trained PCIe link brings: its width, and what the host then sets (R483 to R485). -/
structure LinkHost where
  width : Nat
  cfg : PcieCfg
  deriving DecidableEq, Repr

/-- An access of a doorbell word: a write, or a read whose PCIe request has a number (R496). -/
inductive BellOp where
  | write (v : Word)
  | read (id : Nat)
  deriving DecidableEq, Repr

/-- What the debug port does (R623): nothing, a register access, or a memory request. -/
inductive DebugOp where
  | idle
  | reg (addr : Word) (value : Option Word)
  | mem (cmd : Byte) (addr : BitVec 48) (gran : Byte) (spec : BitVec 74) (data : List Flit)
  deriving DecidableEq, Repr

/-! ## Boundary scan (R539, R540) -/

/-- A signal ball: a system pin, user I/O pin `k` of Slate die `d`, an AC-coupled lane of a Slate die or of the hub, or another ball of one of
them. -/
inductive Ball where
  | pin (p : Nat)
  | pad (d k : Nat)
  | lane (d : Option Nat) (n : Nat)
  | other (d : Option Nat) (n : Nat)
  deriving DecidableEq, Repr

/-- The Slate die of a ball. -/
def Ball.die : Ball → Option Nat
  | .pin _ => none
  | .pad d _ => some d
  | .lane d _ => d
  | .other d _ => d

/-- What a boundary cell observes or controls at its ball: its level, the value it drives, or whether it drives. -/
inductive CellRole where
  | input | output | enable
  deriving DecidableEq, Repr

/-- A boundary cell. -/
structure BCell where
  ball : Ball
  role : CellRole
  deriving DecidableEq, Repr

end Sys2Proof.Machine
end

