-- ==== Sys2Proof/Syntax.lean ====
section
/-! DEFINITION. The commands of the device: one constructor for each row of the opcode table, with what the row needs to know from
outside: a register path and a value, a place in the network, an engine and an instruction's fields, or what a pin or a link
brings. Engine instructions carry the transfer slots `x` of their word (R273, R274). -/

namespace Sys2Proof

open Sys2Proof.Machine

/-- A command. -/
inductive Instr where
  /-- VAON becomes valid with RESET_N high; outside hold it is a cold start (R594, R596). -/
  | powerOn (i : StartIn)
  /-- RESET_N goes low and high again (R596). -/
  | resetN (i : StartIn)
  /-- Step 3, with what the DDR5 channels hold and what the flash holds at 0x00F0_0000 (R594, R634). -/
  | startupReferencePresent (dimms : List Dimm) (patch : List Byte)
  /-- Step 4 (R594, R405). -/
  | startupBedrockUp
  /-- Step 5 (R594, R41). -/
  | startupBundlesTrained
  /-- Step 6, with what the flash holds from 0x0100_0000 (R561). -/
  | startupFlashLoad (image : List Byte)
  /-- Step 7 (R594). -/
  | handOver
  /-- The watchdog expires, at a time in ms since the start (R48). -/
  | flintWatchdogExpiry (ms : Nat)
  /-- Flint reads poison from memory, or an SRAM word of its own (R49, R676). -/
  | flintPoisonRead (sram : Bool) (addr : BitVec 48)
  /-- An access by Flint that is a bus error (R49). -/
  | flintBusError (addr : Nat) (shapeOk : Bool) (value : Option Word)
  /-- A register access over a path; without a value it is a read, whose PCIe request is `id` (R54, R64). -/
  | registerWrite (path : Path) (addr : Nat) (shapeOk : Bool) (value : Option Word) (id : Nat)
  /-- The boundary of a register with a waiting write (R64). -/
  | shadowApply (addr : Nat)
  /-- CANCEL in the PEND register of the block at `addr` (R66). -/
  | pendCancel (path : Path) (addr : Nat)
  /-- LOCK in the GUARD register of the block at `addr` (R70). -/
  | guardLock (path : Path) (addr : Nat)
  /-- A write to the UNLOCK register of the block at `addr` (R72). -/
  | unlock (path : Path) (addr : Nat) (v : Word)
  /-- An unused arm of the block at `addr` lapses after 100 µs (R72). -/
  | kArmLapse (addr : Nat)
  /-- A READ frame (R56). -/
  | mgmtRead (addr : Word)
  /-- A WRITE frame (R56). -/
  | mgmtWrite (addr v : Word)
  /-- A STATUS frame (R58). -/
  | mgmtStatus
  /-- MSEL_N ends a frame before its sync byte (R57). -/
  | mgmtFrameAbandon
  /-- A block has not answered within 1 ms (R57). -/
  | mgmtTimeout
  /-- Take semaphore `k` (R78). -/
  | semAcquire (path : Path) (k : Fin 64)
  /-- Free semaphore `k` (R78). -/
  | semRelease (path : Path) (k : Fin 64)
  /-- An owner is declared faulted (R79). -/
  | flnRevoke (path : Path) (owner : Word)
  /-- The effects of R76 on an owner's resources are complete (R80). -/
  | revocationComplete (owner : Word)
  /-- A write to PLL_CTRL, PLL_FRAC or PLL_OUT (R147). -/
  | pllSettingWrite (path : Path) (d : Fin 4) (p : Fin 8) (which : Fin 3) (v : Word)
  /-- A PLL locks (R149). -/
  | pllLock (d : Fin 4) (p : Fin 8)
  /-- A PLL loses lock without a write (R150). -/
  | pllLossOfLock (d : Fin 4) (p : Fin 8)
  /-- A write to SPL_SPINEk (R154). -/
  | spineWrite (path : Path) (d : Fin 4) (k : Fin 16) (v : Word)
  /-- A write to a tree's SEL (R162). -/
  | treeSelWrite (path : Path) (d : Fin 4) (sec : Fin 16) (t : Fin 24) (v : Word)
  /-- The edges that a switch waits for come (R162). -/
  | treeSwitchComplete (d : Fin 4) (sec : Fin 16) (t : Fin 24)
  /-- A region clock reset of the named trees (R169). -/
  | secRclkRst (path : Path) (d : Fin 4) (sec : Fin 16) (v : Word)
  /-- A port accepts a read; `flips` are the upsets that the word has suffered (R191). -/
  | micaRead (d : Fin 4) (port : Fin 3072) (word : BitVec 12) (flips : List (Fin 72))
  /-- A port accepts a write (R194). -/
  | micaWrite (d : Fin 4) (port : Fin 3072) (word : BitVec 12) (data : W64) (be : Byte) (wpoison : Bool)
  /-- The oldest response of a port leaves it (R192). -/
  | micaResponse (d : Fin 4) (port : Fin 3072)
  /-- A Mica layer is initialised (R203). -/
  | micaInitDone (d : Fin 4)
  /-- GO in MCA_ERASE (R205). -/
  | mcaErase (path : Path) (d : Fin 4) (index : BitVec 8)
  /-- The group is erased (R205). -/
  | eraseDone (d : Fin 4)
  /-- VALID of a correction log entry is written with 1 (R211). -/
  | mcaLogClear (path : Path) (d : Fin 4) (e : Fin 16)
  /-- One sample of the 72 sensors; none is one that fails its self-check (R604). -/
  | thermalSample (l : List (Option (BitVec 12)))
  /-- RESET in SEG_ECTLe (R258). -/
  | engineReset (path : Path) (r : EngRef)
  /-- HALT in SEG_ECTLe (R258). -/
  | engineHalt (path : Path) (r : EngRef)
  /-- RUN in SEG_ECTLe, with USE_START and START (R258). -/
  | engineRun (path : Path) (r : EngRef) (start : Option (BitVec 10))
  /-- A write to SEG_DBELLe (R269). -/
  | segDbell (path : Path) (r : EngRef) (bells : Word)
  /-- The engine instruction or event NOP (R282). -/
  | nop (r : EngRef) (up : Option Upset) (x : BitVec 32)
  /-- The engine instruction or event RPT (R251). -/
  | rpt (r : EngRef) (n : BitVec 13) (x : BitVec 32)
  /-- The engine instruction or event RPTS (R282). -/
  | rpts (r : EngRef) (ss : BitVec 3) (x : BitVec 32)
  /-- The engine instruction or event HALT (R283). -/
  | halt (r : EngRef)
  /-- The engine instruction or event WAIT (R283). -/
  | wait (r : EngRef)
  /-- The engine instruction or event MOVTC (R284). -/
  | movtc (r : EngRef) (cr : BitVec 4) (ss : BitVec 3) (x : BitVec 32)
  /-- The engine instruction or event MOVFC (R284). -/
  | movfc (r : EngRef) (sd : BitVec 3) (cr : BitVec 4) (x : BitVec 32)
  /-- The engine instruction or event B (R285). -/
  | b (r : EngRef) (cond : BitVec 4) (sc : BitVec 3) (target : BitVec 10) (x : BitVec 32)
  /-- The engine instruction or event CALL (R285). -/
  | call (r : EngRef) (cond : BitVec 4) (sc sd : BitVec 3) (target : BitVec 10) (x : BitVec 32)
  /-- The engine instruction or event JR (R285). -/
  | jr (r : EngRef) (cond : BitVec 4) (sc sd : BitVec 3) (x : BitVec 32)
  /-- The engine instruction or event RETI (R289). -/
  | reti (r : EngRef) (x : BitVec 32)
  /-- The engine instruction or event ADD (R290). -/
  | add (r : EngRef) (sd sa sb : BitVec 3) (x : BitVec 32)
  /-- The engine instruction or event SUB (R290). -/
  | sub (r : EngRef) (sd sa sb : BitVec 3) (x : BitVec 32)
  /-- The engine instruction or event AND (R290). -/
  | and (r : EngRef) (sd sa sb : BitVec 3) (x : BitVec 32)
  /-- The engine instruction or event OR (R290). -/
  | or (r : EngRef) (sd sa sb : BitVec 3) (x : BitVec 32)
  /-- The engine instruction or event XOR (R290). -/
  | xor (r : EngRef) (sd sa sb : BitVec 3) (x : BitVec 32)
  /-- The engine instruction or event SHL (R290). -/
  | shl (r : EngRef) (sd sa sb : BitVec 3) (x : BitVec 32)
  /-- The engine instruction or event SHR (R290). -/
  | shr (r : EngRef) (sd sa sb : BitVec 3) (x : BitVec 32)
  /-- The engine instruction or event SRA (R290). -/
  | sra (r : EngRef) (sd sa sb : BitVec 3) (x : BitVec 32)
  /-- The engine instruction or event SLT (R290). -/
  | slt (r : EngRef) (sd sa sb : BitVec 3) (x : BitVec 32)
  /-- The engine instruction or event SLTU (R290). -/
  | sltu (r : EngRef) (sd sa sb : BitVec 3) (x : BitVec 32)
  /-- The engine instruction or event MIN (R290). -/
  | min (r : EngRef) (sd sa sb : BitVec 3) (x : BitVec 32)
  /-- The engine instruction or event MAX (R290). -/
  | max (r : EngRef) (sd sa sb : BitVec 3) (x : BitVec 32)
  /-- The engine instruction or event MUL (R290). -/
  | mul (r : EngRef) (sd sa sb : BitVec 3) (x : BitVec 32)
  /-- The engine instruction or event MOV (R290). -/
  | mov (r : EngRef) (sd sa : BitVec 3) (x : BitVec 32)
  /-- The engine instruction or event CARRY (R290). -/
  | carry (r : EngRef) (sd sa sb : BitVec 3) (x : BitVec 32)
  /-- The engine instruction or event ADDI (R291). -/
  | addi (r : EngRef) (sd sa : BitVec 3) (imm : BitVec 16) (x : BitVec 32)
  /-- The engine instruction or event ANDI (R291). -/
  | andi (r : EngRef) (sd sa : BitVec 3) (imm : BitVec 16) (x : BitVec 32)
  /-- The engine instruction or event ORI (R291). -/
  | ori (r : EngRef) (sd sa : BitVec 3) (imm : BitVec 16) (x : BitVec 32)
  /-- The engine instruction or event XORI (R291). -/
  | xori (r : EngRef) (sd sa : BitVec 3) (imm : BitVec 16) (x : BitVec 32)
  /-- The engine instruction or event SHLI (R291). -/
  | shli (r : EngRef) (sd sa : BitVec 3) (imm : BitVec 16) (x : BitVec 32)
  /-- The engine instruction or event SHRI (R291). -/
  | shri (r : EngRef) (sd sa : BitVec 3) (imm : BitVec 16) (x : BitVec 32)
  /-- The engine instruction or event SRAI (R291). -/
  | srai (r : EngRef) (sd sa : BitVec 3) (imm : BitVec 16) (x : BitVec 32)
  /-- The engine instruction or event LI (R291). -/
  | li (r : EngRef) (sd : BitVec 3) (imm : BitVec 16) (x : BitVec 32)
  /-- The engine instruction or event LUI (R291). -/
  | lui (r : EngRef) (sd : BitVec 3) (imm : BitVec 16) (x : BitVec 32)
  /-- The engine instruction or event SLTI (R291). -/
  | slti (r : EngRef) (sd sa : BitVec 3) (imm : BitVec 16) (x : BitVec 32)
  /-- The engine instruction or event SETI (R293). -/
  | seti (r : EngRef) (ar : BitVec 3) (fld : BitVec 2) (imm : BitVec 11) (x : BitVec 32)
  /-- The engine instruction or event SETS (R293). -/
  | sets (r : EngRef) (ar : BitVec 3) (fld : BitVec 2) (sr : BitVec 3) (x : BitVec 32)
  /-- The engine instruction or event GET (R293). -/
  | get (r : EngRef) (ar : BitVec 3) (fld : BitVec 2) (sr : BitVec 3) (x : BitVec 32)
  /-- The engine instruction or event ADDA (R293). -/
  | adda (r : EngRef) (ar : BitVec 3) (imm : BitVec 11) (x : BitVec 32)
  /-- The engine instruction or event MAC_INT8 (R240). -/
  | macInt8 (r : EngRef) (wd : BitVec 2) (va vb vc : BitVec 4) (sa sb neg clr : Bool) (x : BitVec 32)
  /-- The engine instruction or event MAC_18X27 (R240). -/
  | mac18x27 (r : EngRef) (wd : BitVec 2) (va vb : BitVec 4) (sa sb neg clr : Bool) (x : BitVec 32)
  /-- The engine instruction or event MAC_BF16 (R240). -/
  | macBf16 (r : EngRef) (wd : BitVec 2) (va vb : BitVec 4) (neg clr : Bool) (x : BitVec 32)
  /-- The engine instruction or event MAC_FP32 (R243). -/
  | macFp32 (r : EngRef) (wd : BitVec 2) (va vb : BitVec 4) (neg clr : Bool) (x : BitVec 32)
  /-- The engine instruction or event ACLR (R296). -/
  | aclr (r : EngRef) (wd : BitVec 2) (x : BitVec 32)
  /-- The engine instruction or event AMOV (R297). -/
  | amov (r : EngRef) (wd : BitVec 2) (vd : BitVec 4) (mo : BitVec 3) (q : BitVec 4) (sh : BitVec 6) (rnd : Bool) (x : BitVec 32)
  /-- The engine instruction or event ALD (R299). -/
  | ald (r : EngRef) (wd : BitVec 2) (vs : BitVec 4) (mo : BitVec 3) (q : BitVec 4) (sh : BitVec 6) (x : BitVec 32)
  /-- The engine instruction or event VMOV (R300). -/
  | vmov (r : EngRef) (vd va : BitVec 4) (x : BitVec 32)
  /-- The engine instruction or event VINS (R300). -/
  | vins (r : EngRef) (vd : BitVec 4) (ss : BitVec 3) (h : Bool) (x : BitVec 32)
  /-- The engine instruction or event VEXT (R300). -/
  | vext (r : EngRef) (sd : BitVec 3) (va : BitVec 4) (h : Bool) (x : BitVec 32)
  /-- The engine instruction or event SIN (R254). -/
  | sin (r : EngRef) (vd : BitVec 4) (port : Bool) (x : BitVec 32)
  /-- The engine instruction or event SOUT (R254). -/
  | sout (r : EngRef) (port : Bool) (va : BitVec 4) (x : BitVec 32)
  /-- The engine instruction or event VSPL (R300). -/
  | vspl (r : EngRef) (vd : BitVec 4) (ss : BitVec 3) (x : BitVec 32)
  /-- The engine instruction or event RLD (R301). -/
  | rld (r : EngRef) (mem : Bool) (sa sb sc : BitVec 3) (x : BitVec 32)
  /-- The engine instruction or event RST (R301). -/
  | rst (r : EngRef) (mem : Bool) (sa sb sc : BitVec 3) (x : BitVec 32)
  /-- The engine instruction or event RLDNC (R301). -/
  | rldnc (r : EngRef) (mem : Bool) (sa sb sc : BitVec 3) (len : BitVec 5) (x : BitVec 32)
  /-- The engine instruction or event RSTNC (R301). -/
  | rstnc (r : EngRef) (mem : Bool) (sa sb sc : BitVec 3) (len : BitVec 5) (x : BitVec 32)
  /-- The engine instruction or event RDB (R301). -/
  | rdb (r : EngRef) (sa sb sc : BitVec 3) (x : BitVec 32)
  /-- The engine instruction or event RATOM (R301). -/
  | ratom (r : EngRef) (mem : Bool) (sa sb sc : BitVec 3) (atop : BitVec 3) (x : BitVec 32)
  /-- The engine instruction or event RFENCE (R304). -/
  | rfence (r : EngRef) (x : BitVec 32)
  /-- The engine instruction or event INTERRUPT_ENTRY (R261). -/
  | interruptEntry (r : EngRef)
  /-- The engine instruction or event ENGINE_TIMER_EXPIRY (R260). -/
  | engineTimerExpiry (r : EngRef)
  /-- The engine instruction or event RING_COMMAND_COMPLETE (R270). -/
  | ringCommandComplete (n : Nat)
  /-- The engine instruction or event LOADER_ACCESS_FORCED (R268). -/
  | loaderAccessForced (n : Nat)
  /-- User logic injects a packet at its fabric port (R323, R353). -/
  | packetInject (e : Ep) (p : Packet)
  /-- Flight `n` moves one hop (R325). -/
  | routerForward (n : Nat)
  /-- Flight `n` leaves its edge stop or die station by a bundle (R326). -/
  | edgeStopExit (n : Nat)
  /-- Flight `n` is placed on its hub ring and stop (R327). -/
  | ingressSwitch (n : Nat)
  /-- Flight `n` is delivered to its local port (R319). -/
  | packetEject (n : Nat)
  /-- Delivered packet `n`, an RD, is served; `up` is an upset of a vein array that it may meet (R379). -/
  | rd (n : Nat) (up : Option VeinUpset)
  /-- Delivered packet `n`, an RDX, is served (R379). -/
  | rdx (n : Nat)
  /-- Delivered packet `n`, a WR, is served (R379). -/
  | wr (n : Nat)
  /-- Delivered packet `n`, a WRG, is served (R379). -/
  | wrg (n : Nat)
  /-- Delivered packet `n`, an ATOM, is served (R385). -/
  | atom (n : Nat)
  /-- User logic sends a FENCE at its port, which holds it until every earlier request has its response (R384). -/
  | fence (e : Ep) (tag : BitVec 12)
  /-- Delivered packet `n`, an RDNC, is served (R388). -/
  | rdnc (n : Nat)
  /-- Delivered packet `n`, a WRNC, is served (R388). -/
  | wrnc (n : Nat)
  /-- Delivered packet `n`, a DB, is served (R269, R320). -/
  | db (n : Nat)
  /-- Delivered packet `n`, a MSG, reaches user logic (R320). -/
  | msg (n : Nat)
  /-- Delivered packet `n`, a CFGRD, reads a register (R59). -/
  | cfgrd (n : Nat)
  /-- Delivered packet `n`, a CFGWR, writes a register (R59). -/
  | cfgwr (n : Nat)
  /-- Delivered packet `n`, a SNPS, is served (R374). -/
  | snps (n : Nat)
  /-- Delivered packet `n`, a SNPI, is served (R374). -/
  | snpi (n : Nat)
  /-- Delivered packet `n`, a SNPD, is served (R374). -/
  | snpd (n : Nat)
  /-- Delivered packet `n`, an ACKG, ends its transaction (R372). -/
  | ackg (n : Nat)
  /-- A slice finds a set lost and reports it, or a home agent serves such a report (R394). -/
  | vlost (x : LostSet)
  /-- Delivered packet `n`, a RSP_DATA, is matched (R343). -/
  | rspData (n : Nat)
  /-- Delivered packet `n`, a RSP_ACK, is matched (R343). -/
  | rspAck (n : Nat)
  /-- Delivered packet `n`, a RSP_ERR, is matched (R343). -/
  | rspErr (n : Nat)
  /-- A tag entry has had no response for TIMEOUT (R342). -/
  | requestTimeout (e : Ep) (tag : BitVec 12)
  /-- An expired entry frees (R342). -/
  | expiredEntryFree (e : Ep) (tag : BitVec 12)
  /-- A held packet's domain is not ON after 40 µs (R345). -/
  | wakeHoldTimeout (e : Ep)
  /-- A write to RTR_PORTp (R337). -/
  | resvWrite (path : Path) (d : Fin 4) (r : Fin 64) (p : Fin 16) (v : Word)
  /-- A draining port has drained, or has met the drain limit (R347). -/
  | portFenceRaised (e : Ep) (limit : Bool)
  /-- A slice's request to home has had no response (R393). -/
  | sliceRequestTimeout (d : Fin 4) (r : Fin 64) (tag : BitVec 12)
  /-- A snoop has had no answer (R392). -/
  | snoopTimeout (h : Fin 16) (d : Fin 4) (tag : BitVec 12)
  /-- Flint resets a Slate die (R684). -/
  | dieReset (d : Fin 4)
  /-- The home agents' walk for a die completes (R391). -/
  | dieResetWalkDone (d : Fin 4)
  /-- A directory set is uncorrectable (R395). -/
  | directorySetError (h : Fin 16) (set : Fin 5120) (line : BitVec 42) (d : Fin 4)
  /-- The failed set restarts empty (R395). -/
  | directorySetRestart (h : Fin 16) (set : Fin 5120)
  /-- GO in HRG_FLUSH_CTRL (R389). -/
  | flush (path : Path) (discard : Bool)
  /-- The flush walk ends (R389). -/
  | flushDone
  /-- GO in VEN_REWRITE; `flips` are the upsets that the word has suffered (R399). -/
  | venRewrite (path : Path) (d : Fin 4) (index : BitVec 21) (flips : List (Fin 72))
  /-- A link epoch boundary (R404). -/
  | linkEpoch
  /-- An attempt up to the link start, with the lanes that fail (R406). -/
  | trainingAttempt (l : LinkRef) (failRx failTx : Nat) (set : SentSet) (rekey : Bool)
  /-- A training step overruns its time (R408). -/
  | trainingStepTimeout (l : LinkRef)
  /-- A trained link becomes LIVE (R406). -/
  | bundleLive (l : LinkRef)
  /-- A forwarded clock is lost (R409). -/
  | forwardedClockLoss (l : LinkRef)
  /-- One slot of a link (R418). -/
  | linkSlotReceive (l : LinkRef) (leaf : Bool) (x : Lanes) (ok : Bool)
  /-- A bundle that is not usable gives its packets to the other bundle of its pair (R412). -/
  | bundleUnusable (i : Fin 64)
  /-- Maintenance packet `n`, an LPARAM, is handled (R422). -/
  | lparam (n : Nat)
  /-- Maintenance packet `n`, an LPARAM_ACK, is handled (R422). -/
  | lparamAck (n : Nat)
  /-- Maintenance packet `n`, an ECHO, is answered (R422). -/
  | echo (n : Nat)
  /-- Maintenance packet `n`, an ECHO_RSP, is handled (R422). -/
  | echoRsp (n : Nat)
  /-- Maintenance packet `n`, a RETRAIN, is handled (R422). -/
  | retrain (n : Nat)
  /-- Maintenance packet `n`, a CAPTRIG, is handled (R440). -/
  | captrig (n : Nat)
  /-- Every flit of a draining pair is acknowledged (R426). -/
  | wireDrainEnd (k : Fin 16)
  /-- A connected pair goes DOWN (R430). -/
  | wirePairDown (k : Fin 16)
  /-- A write to STR_BPk_CTRL (R434). -/
  | bridgePortEnable (path : Path) (k : Fin 8) (v : Word)
  /-- A packet that has arrived on a bridge port is handled (R435). -/
  | bridgePortArrival (k : Fin 8)
  /-- ARM = 1 in STR_BPk_CAPCTRL (R440). -/
  | captureArm (path : Path) (k : Fin 8) (v : Word)
  /-- SENDTRIG = 1 in STR_BPk_CAPCTRL (R440). -/
  | captureSendtrig (path : Path) (k : Fin 8) (v : Word)
  /-- The next line of a channel is scrubbed; `found` is what the line has become (R447). -/
  | patrolScrub (ch : Fin 8) (found : Option DLine) (metaFound : MetaFound)
  /-- GEN for a key slot (R460). -/
  | keyGen (path : Path) (k : Fin 64) (v : Word)
  /-- LOAD for a key slot (R460). -/
  | keyLoad (path : Path) (k : Fin 64) (v : Word)
  /-- ZERO for a key slot (R461). -/
  | keyZero (path : Path) (k : Fin 64) (v : Word)
  /-- INIT of a range (R473). -/
  | init (path : Path) (r : Fin 64)
  /-- REKEY of a range (R476). -/
  | rekey (path : Path) (r : Fin 64)
  /-- RETIRE of a range (R474). -/
  | retire (path : Path) (r : Fin 64)
  /-- DISABLE of a range (R475). -/
  | disable (path : Path) (r : Fin 64)
  /-- The boundary block is re-encrypted (R476). -/
  | rekeyBlockDone (r : Fin 64)
  /-- INIT, RETIRE or DISABLE completes (R472). -/
  | rangeOperationDone (r : Fin 64)
  /-- A BAR4 read of `len` bytes at offset `off` (R489). -/
  | windowRead (port : Bool) (id off len : Nat)
  /-- A BAR4 write; bytes not enabled are none (R490). -/
  | windowWrite (port : Bool) (off : Nat) (bytes : List (Option Byte)) (ep : Bool)
  /-- An access of the SQ_TAIL doorbell (R496, R498). -/
  | sqTail (port : Bool) (q : Fin 256) (shapeOk : Bool) (v : BellOp)
  /-- An access of the CQ_HEAD doorbell (R496, R498). -/
  | cqHead (port : Bool) (q : Fin 256) (shapeOk : Bool) (v : BellOp)
  /-- EN = 1 in QUE_Qq_CTRL (R495). -/
  | queueEnable (path : Path) (q : Fin 256) (v : Word)
  /-- EN = 0 in QUE_Qq_CTRL (R495). -/
  | queueDelete (path : Path) (q : Fin 256) (v : Word)
  /-- An FLR (R487). -/
  | functionLevelReset (port : Bool)
  /-- A port loses its link (R509). -/
  | pcieLinkDown (port : Bool)
  /-- The device reads the next submission entry (R502). -/
  | sqEntryFetch (q : Fin 256)
  /-- A chunk of an H2D descriptor starts (R501). -/
  | h2d (q : Fin 256) (num : Nat)
  /-- A chunk of a D2H descriptor starts (R501). -/
  | d2h (q : Fin 256) (num : Nat)
  /-- A chunk of a D2D descriptor starts (R501). -/
  | d2d (q : Fin 256) (num : Nat)
  /-- A chunk of an H2P descriptor starts (R501). -/
  | h2p (q : Fin 256) (num : Nat)
  /-- A chunk of a P2H descriptor starts (R501). -/
  | p2h (q : Fin 256) (num : Nat)
  /-- A DB descriptor sends its packet (R501). -/
  | dmaDb (q : Fin 256) (num : Nat)
  /-- A NOP descriptor moves nothing (R501). -/
  | dmaNop (q : Fin 256) (num : Nat)
  /-- A finished descriptor completes (R508). -/
  | descriptorFinish (q : Fin 256) (num : Nat)
  /-- A write to LOD_SYS (R516). -/
  | lodSys (path : Path) (v : Word)
  /-- A write to LOD_CTRL (R526). -/
  | lodeEnable (path : Path) (k : Fin 4) (v : Word)
  /-- The partner's training set arrives (R523). -/
  | lodeTrainingSet (k : Fin 4) (set : SentSet)
  /-- REKEY = 1 in LOD_CTRL (R527). -/
  | lodeRekey (path : Path) (k : Fin 4) (v : Word)
  /-- A packet that has arrived on a Lode port is handled (R517). -/
  | lodePortArrival (k : Fin 4)
  /-- A Lode port stops being usable (R528). -/
  | lodePortDown (k : Fin 4)
  /-- TAP_INC at the tap that TAP_SEL names (R538). -/
  | tapInc (d : Fin 4) (t : Fin 12) (sel : BitVec 3)
  /-- TAP_DEC at the tap that TAP_SEL names (R538). -/
  | tapDec (d : Fin 4) (t : Fin 12) (sel : BitVec 3)
  /-- The word boundary moves (R537). -/
  | rxSlip (d : Fin 4) (t : Fin 12)
  /-- The presented word starts a code word (R537). -/
  | rxCwset (d : Fin 4) (t : Fin 12)
  /-- The next word starts a code word (R537). -/
  | txCwstart (d : Fin 4) (t : Fin 12)
  /-- The line needs a word and none is ready (R536). -/
  | txUnderrun (d : Fin 4) (t : Fin 12)
  /-- The instruction BYPASS and one data scan (R540). -/
  | bypass (tdi : List Bool)
  /-- The instruction IDCODE and one data scan (R540). -/
  | idcode (tdi : List Bool)
  /-- The instruction SAMPLE/PRELOAD and one data scan (R540). -/
  | samplePreload (tdi : List Bool)
  /-- The instruction EXTEST and one data scan (R540). -/
  | extest (tdi : List Bool)
  /-- The instruction CLAMP and one data scan (R540). -/
  | clamp (tdi : List Bool)
  /-- The instruction HIGHZ and one data scan (R540). -/
  | highz (tdi : List Bool)
  /-- The instruction EXTEST_PULSE and one data scan (R540). -/
  | extestPulse (tdi : List Bool)
  /-- The instruction EXTEST_TRAIN and one data scan (R540). -/
  | extestTrain (tdi : List Bool)
  /-- The debug port: bypass while closed, a register access or a memory request while open (R623). -/
  | dbgacc (tdi : List Bool) (x : DebugOp)
  /-- Take the configuration-port lock (R555). -/
  | cfgLockAcquire (path : Path)
  /-- Free the configuration-port lock (R555). -/
  | cfgLockRelease (path : Path)
  /-- LOAD by CFG_CMD over a path, or by the queue entry in hand (R558). -/
  | load (src : Option Path) (v : Word)
  /-- LOADF, with what the flash answers (R561). -/
  | loadf (src : Option Path) (v : Word) (image : List Byte)
  /-- FREEZE of a region (R566). -/
  | freeze (src : Option Path) (v : Word)
  /-- Every port of the frozen region has fenced (R566). -/
  | freezeComplete
  /-- COMMIT of a region (R571). -/
  | commit (src : Option Path) (v : Word)
  /-- ABORT of the open stream (R559). -/
  | abort (src : Option Path) (v : Word)
  /-- CLEAR of a region (R568). -/
  | clear (src : Option Path) (v : Word)
  /-- READ of frames (R575). -/
  | read (src : Option Path) (v : Word)
  /-- A write of the loader queue's tail (R557). -/
  | cfgLqTail (path : Path) (v : Word)
  /-- A write to CFG_DATA, or a read of it (R558, R575). -/
  | cfgData (path : Path) (value : Option Word) (id : Nat)
  /-- The next block is verified and written (R559). -/
  | loaderBlock
  /-- A loader epoch boundary (R569). -/
  | loaderEpoch
  /-- The commits of the present epoch apply (R572). -/
  | commitEpoch
  /-- The scrubber reads its next frame; frames of the die then suffer the upsets `flips`: frame, word and bit of its code word (R574). -/
  | scrubFrame (d : Fin 4) (flips : List (Nat × Nat × Nat))
  /-- Acquire or release the probe multiplexer (R578). -/
  | prbOwnerOp (path : Path) (d : Fin 4) (op : Bool)
  /-- A probe slot names a position (R579). -/
  | prbSel (path : Path) (d : Fin 4) (k : Fin 256) (v : Word)
  /-- ARM = 1 (R580). -/
  | prbArm (path : Path) (d : Fin 4) (v : Word)
  /-- A read of PRBd_RDDATA (R580). -/
  | prbRddata (path : Path) (d : Fin 4) (id : Nat)
  /-- A write of REFA_EN that leaves the rest of CLK_CTRL (R686). -/
  | refaEn (path : Path) (en : Bool)
  /-- A write of REFB_EN that leaves the rest of CLK_CTRL (R686). -/
  | refbEn (path : Path) (en : Bool)
  /-- REFA's start delay ends (R584). -/
  | startDelayComplete
  /-- 4,096 good cycles against MCLK or a present REFA (R583). -/
  | refbQualified (mclk : Bool)
  /-- The monitor finds REFA or REFB wrong (R587). -/
  | referenceTrip (second mclk : Bool)
  /-- No AON edge during 64 MCLK edges (R589). -/
  | mclkWatch
  /-- A write of AONSEL that leaves the enables (R586). -/
  | aonsel (path : Path) (sel : BitVec 2)
  /-- 10 ms of holdover (R593). -/
  | holdoverExpiry
  /-- VAON falls below 1.62 V (R597). -/
  | vaonLoss (v : Vbak)
  /-- VAON has been valid again for 1 ms (R597). -/
  | vaonReturn (i : StartIn)
  /-- REQ = 1 for a domain (R600). -/
  | domainPowerOn (path : Path) (d : Fin 56)
  /-- REQ = 0 for a domain (R600). -/
  | domainPowerOff (path : Path) (d : Fin 56)
  /-- A waking domain reaches ON (R600). -/
  | domainOn (d : Fin 56)
  /-- A draining domain has drained (R602, R603). -/
  | domainOff (d : Fin 56)
  /-- A monitored rail leaves its range for 2 µs (R658). -/
  | supplyReset (rail : Fin 30) (high : Bool)
  /-- Every monitored rail has been valid for 1 ms (R658). -/
  | supplyResetEnd (i : StartIn)
  /-- Steps 2 to 5 of a halt whose trigger has come (R677, R678). -/
  | deviceHalt
  /-- OP 1 (R613). -/
  | testToDev (path : Path)
  /-- OP 2 (R613). -/
  | devToField (path : Path)
  /-- OP 3 (R616). -/
  | toReturn (path : Path)
  /-- OP 4 (R617). -/
  | toEnd (path : Path)
  /-- OP 5 (R613). -/
  | diagnosticSession (path : Path)
  /-- FIELD 1 (R621). -/
  | fuseOwnerPk (path : Path)
  /-- FIELD 2 (R621). -/
  | fuseOwnerAes (path : Path)
  /-- GO in LCS_ATT_CMD (R629). -/
  | attestation (path : Path)
  /-- The report is signed; `bad` are leaves whose fuses cannot be used (R630). -/
  | attestationDone (bad : List Nat)
  /-- GO in LCS_PATCH_CMD (R634). -/
  | patchApply (path : Path)
  /-- A write to PIN_CFGp (R639). -/
  | pinClaim (path : Path) (p : Fin 64) (v : Word)
  /-- One AON tick, with what the board drives from now on (R641). -/
  | pinFrame (drive level : BitVec 64)
  /-- A masked write to GPIO_OUT_Mn (R642). -/
  | gpioOut (path : Path) (n : Fin 4) (v : Word)
  /-- A masked write to GPIO_OE_Mn (R642). -/
  | gpioOe (path : Path) (n : Fin 4) (v : Word)
  /-- Acquire filter timer `k` (R644). -/
  | ftAcquire (path : Path) (k : Fin 4)
  /-- Release filter timer `k` (R644). -/
  | ftRelease (path : Path) (k : Fin 4)
  /-- A running filter timer strobes (R645). -/
  | filterStrobe (k : Fin 4)
  /-- A write to UART_DATAu pushes a byte, a read pops one (R648). -/
  | uartData (path : Path) (u : Fin 2) (value : Option Byte) (id : Nat)
  /-- I2C_CMD with OP 0 (R648). -/
  | i2cWrite (path : Path) (i : Fin 2) (v : Word)
  /-- I2C_CMD with OP 1 (R648). -/
  | i2cReadAck (path : Path) (i : Fin 2) (v : Word)
  /-- I2C_CMD with OP 2 (R648). -/
  | i2cReadNack (path : Path) (i : Fin 2) (v : Word)
  /-- An edge on the pin of a timer in capture mode (R648). -/
  | timerCapture (k : Fin 8) (rising : Bool)
  /-- PIN_TICKS equals VAL of a timer in compare mode (R648). -/
  | timerMatch (k : Fin 8)
  /-- The fan TACH counts are latched (R648). -/
  | tachWindow
  /-- The engine instruction or event STREAM_TRANSFER (R254). -/
  | streamTransfer (r : EngRef) (port : Fin 4) (w : W64) (poison : Bool)
  /-- A port trains its link, and the host sets up its function (R483). -/
  | pcieLinkUp (port : Bool) (rate : Nat) (link : LinkHost)
  /-- The completion of a read of host memory arrives (R505). -/
  | hostReadCompletion (id : Nat) (r : HostRead)
  /-- A read of host memory gets no completion in time (R509). -/
  | hostReadTimeout (id : Nat)
  /-- A word is received, with the channel's errors in it (R536). -/
  | xcvRxWord (d : Fin 4) (t : Fin 12) (word err : BitVec 160)
  /-- The receiver locks (R534). -/
  | cdrLock (d : Fin 4) (t : Fin 12)
  /-- The receiver loses lock (R537). -/
  | cdrLockLoss (d : Fin 4) (t : Fin 12)
  /-- A byte arrives (R648). -/
  | uartRxByte (u : Fin 2) (b : Byte) (stopOk : Bool)
  /-- A byte leaves the TX FIFO (R648). -/
  | uartTxByteSent (u : Fin 2)
  /-- The byte in progress ends (R648). -/
  | i2cByteDone (i : Fin 2) (nack arbLost : Bool) (data : Byte)
  /-- An edge of the probe spine while armed (R580). -/
  | probeSample (d : Fin 4)
  /-- REFA's first cycle over the threshold (R584, R587). -/
  | refaOscillationStart
  /-- The running life-cycle command finishes (R620). -/
  | lcCommandDone
  /-- The region's frames are zeroed (R568). -/
  | clearComplete
  deriving DecidableEq, Repr

end Sys2Proof
end

