-- ==== Sys2Proof/WellFormed.lean ====
section
/-! DEFINITION. Which commands can come: the limits that the manual puts on what they carry and that their types do not hold. -/

namespace Sys2Proof

open Sys2Proof.Machine

/-- What a command carries lies within the manual's limits: an address of 32 bits (R50), eight channels (R443), 72 sensors (R604), the
rates and widths of PCI_STAT (R483), a lane number of a bundle half (R403), the lengths of TLPs (R484), words and code bits of a frame (R574), and a completion
that is one. -/
def Instr.wellFormed (i : Instr) : Bool :=
  match i with
  | .startupReferencePresent dimms _ => dimms.length = 8
  | .flintBusError addr _ _ => addr < 2 ^ 32
  | .registerWrite _ addr _ _ _ => addr < 2 ^ 32
  | .thermalSample l => l.length = 72
  | .trainingAttempt _ failRx failTx _ _ => failRx < 2 ^ 70 && failTx < 2 ^ 70
  | .windowRead _ _ _ len => 1 ≤ len && len ≤ 4096
  | .windowWrite _ _ bytes _ => 1 ≤ bytes.length && bytes.length ≤ 512
  | .pcieLinkUp _ rate link => 1 ≤ rate && rate ≤ 6 && [1, 4, 8, 16].contains link.width
  | .hostReadCompletion _ r => r ≠ .timeout
  | .scrubFrame _ flips => flips.all fun f => f.1 < 16 * 192 * 384 && f.2.1 < 64 && f.2.2 < 72
  | _ => true

end Sys2Proof
end

