-- ==== Sys2Proof/Decode.lean ====
section
/-! DEFINITION. No row of the opcode table gives its command any bits: commands come from outside and are not encoded in words
(assumption 4). -/

namespace Sys2Proof

/-- The command that a word of the table's bits spells: none, since no row has bits. -/
def decodeTableWord (_nbits _w : Nat) : Option Instr := none

end Sys2Proof
end

