-- ==== Sys2Proof/Config.lean ====
section
/-! DEFINITION. Free values: constants with no body, applied to the counter `free` of the state (and to operands where they
depend on them). Nothing can be proved of what they answer; a claim holds whatever they are (assumption 3). -/

namespace Sys2Proof

/-- A free 32-bit value. -/
opaque Config.freeWord : Nat → Word

/-- A free 64-bit value. -/
opaque Config.freeW64 : Nat → W64

/-- A free 256-bit value: keys and nonces that the DRBG gives (R460, R466), unwritten unprotected DDR5 (R453). -/
opaque Config.freeW256 : Nat → W256

/-- A free truth value. -/
opaque Config.freeBool : Nat → Bool

/-- A free byte, by counter and place: an LMS signature made with the identity key (R624, R630), whose secret the spec does not
give. -/
opaque Config.freeByte : Nat → Nat → Byte

/-- The value a selection point carries when its field names two sources (R129), by counter and driver. -/
opaque Config.freeTwoHot : Nat → Nat → Bool

/-- The level of a clock in one idle step, by counter and clock (assumption 6). -/
opaque Config.freeClock : Nat → Nat → Bool

/-- Bits of the 64 data lanes, VALID and FRAME that arrive wrong on a wire-mode half in one wire-clock cycle, by counter and half (R428). -/
opaque Config.freeWire : Nat → Nat → BitVec 1056

/-- Eighths of a nanosecond that a training attempt of a bridge port takes (R406, R432, R439), by counter. -/
opaque Config.freeGap : Nat → Nat

/-- Flits that a user fabric port can take beyond the 17 of the longest packet (R351), for each class. -/
opaque Config.portRoom : Nat

/-- The value of a fabric signal that comes from outside the routing: an interface output, a strip output or a pad, by counter
and place (assumption 3). -/
opaque Config.freeNet : Nat → Nat → Bool

/-- The Oxtelvo keys in ROM, as 56-byte LMS public keys (R613, R622, R632), whose values the spec does not give. -/
opaque Config.oxtelvoTokenKey : List Byte
opaque Config.oxtelvoBitstreamKey : List Byte
opaque Config.oxtelvoPatchKey : List Byte

/-- The minimum Slate stepping that a Flint patch brings, by its measurement (R41, R42); the patch's code is not in the spec. -/
opaque Config.patchMinStep : List Byte → Nat

/-- The set of the counter cache in which a line of the reserve is held (R467), by the line's key, and the way that is emptied when
all 16 are in use, by counter. -/
opaque Config.obsSet : Nat → Nat
opaque Config.obsVictim : Nat → Nat

/-- The parity of an RS(544,514) code word of the user transceivers (R537), from its words 0 to 31 and its word 32, of which bits 19 to 0 count. -/
opaque Config.rsParity : List (BitVec 160) → BitVec 300

/-- The cells of the boundary register of a part number, the one next to TDO first (R539): the spec gives neither their number nor their order. -/
opaque Config.boundary : Nat → List Machine.BCell

/-- The code that the JTAG instruction IDCODE reads (R540), which the spec does not give. -/
opaque Config.idcode : Word

end Sys2Proof
end

