-- ==== Sys2Proof/Machine/Map.lean ====
section
/-! DEFINITION. Sparse tables in one canonical form: a list of key and value pairs, keys strictly rising, with no entry equal
to what an unlisted key reads as. Registers, memories, tag tables and directories are all held this way, so that equal
contents are equal data. -/

namespace Sys2Proof.Machine

/-- A sparse table from numbers to values. -/
abbrev SMap (α : Type) := List (Nat × α)

/-- The listed value of key `k`, if there is one. -/
def SMap.find {α : Type} (m : SMap α) (k : Nat) : Option α :=
  match m with
  | [] => none
  | (j, v) :: rest => if j = k then some v else SMap.find rest k

/-- The value at key `k`, where an unlisted key reads as `d`. -/
def SMap.get {α : Type} (d : α) (m : SMap α) (k : Nat) : α :=
  match SMap.find m k with
  | some v => v
  | none => d

/-- The table without key `k`. -/
def SMap.drop {α : Type} (m : SMap α) (k : Nat) : SMap α :=
  match m with
  | [] => []
  | (j, v) :: rest => if j = k then SMap.drop rest k else (j, v) :: SMap.drop rest k

/-- Insertion in rising key order into a table that does not list `k`. -/
def SMap.insert {α : Type} (m : SMap α) (k : Nat) (v : α) : SMap α :=
  match m with
  | [] => [(k, v)]
  | (j, w) :: rest => if k < j then (k, v) :: (j, w) :: rest else (j, w) :: SMap.insert rest k v

/-- The table with `v` at key `k`. -/
def SMap.set {α : Type} (m : SMap α) (k : Nat) (v : α) : SMap α :=
  SMap.insert (SMap.drop m k) k v

/-- The table with `v` at key `k`, where an unlisted key reads as `d`: writing `d` removes the entry. -/
def SMap.put {α : Type} [DecidableEq α] (d : α) (m : SMap α) (k : Nat) (v : α) : SMap α :=
  if v = d then SMap.drop m k else SMap.set m k v

/-- Keys strictly rising, all above `lo`. -/
def SMap.risingFrom {α : Type} (m : SMap α) (lo : Nat) : Bool :=
  match m with
  | [] => true
  | (j, _) :: rest => decide (lo ≤ j) && SMap.risingFrom rest (j + 1)

/-- The canonical form: keys strictly rising and no entry equal to what an unlisted key reads as. -/
def SMap.wf {α : Type} [DecidableEq α] (d : Nat → α) (m : SMap α) : Bool :=
  SMap.risingFrom m 0 && m.all (fun e => decide (e.2 ≠ d e.1))

/-- The table without the keys that `p` names. -/
def SMap.dropIf {α : Type} (m : SMap α) (p : Nat → Bool) : SMap α :=
  m.filter (fun e => !p e.1)

end Sys2Proof.Machine
end

