-- ==== Sys2Proof/Machine/RegTable.lean ====
section
/-! DEFINITION. The register map of the device: every register table of the manual as data, one entry per register, with its
block, its place in the block and its fields (bits, access code, reset value, guard, boundary), in the order of the chapters
(R17 to R23, R50 to R53 and the register tables of every chapter); and one name per register address and per field.
A field whose Reset column says fused, strap, retained or a dash has 0 here; State.reset and the start-up set it. -/

namespace Sys2Proof.Machine

/-- The register blocks of R51 and R52. -/
inductive Block where
  | hub | fln | cfg | clk | pwr | thm | lcs | pin | que | pci | hrg | str | ddr | obs | lod | slt | spl | xcv | uio | sep | sec | rtr | seg | mca | ven
  deriving DecidableEq, Repr

/-- The access codes of R19. -/
inductive Acc where
  | rw | ro | wo | w1c | w1s
  deriving DecidableEq, Repr

/-- The guard column of R22. -/
inductive Guard where
  | none | lock | key
  deriving DecidableEq, Repr

/-- The boundaries of R23; `dash` marks a field that cannot be written. -/
inductive Bound where
  | dash | immediate | packet | linkEpoch | commit | pinFrame | clockReset | nextStart
  deriving DecidableEq, Repr

/-- One field of a register table. -/
structure FieldDesc where
  hi : Nat
  lo : Nat
  acc : Acc
  rst : Nat
  guard : Guard
  eff : Bound
  deriving DecidableEq, Repr

/-- One register of the manual: `n1` entries `s1` apart inside a block instance, each with `n2` entries `s2` apart. -/
structure RegDesc where
  blk : Block
  off : Nat
  n1 : Nat
  s1 : Nat
  n2 : Nat
  s2 : Nat
  fields : List FieldDesc
  deriving DecidableEq, Repr

/-- A named field at a register address. -/
structure RField where
  addr : Nat
  hi : Nat
  lo : Nat
  deriving DecidableEq, Repr

/-- Base, size, instance stride, instance count and whether the block lies in every Slate window (R51, R52). -/
structure BlockDesc where
  blk : Block
  base : Nat
  size : Nat
  stride : Nat
  count : Nat
  slate : Bool
  deriving DecidableEq, Repr

/-- The windows of R51 and R52. -/
def blockTable : List BlockDesc :=
  [⟨.hub, 0x0, 0x10000, 0x0, 1, false⟩,
   ⟨.fln, 0x10000, 0x10000, 0x0, 1, false⟩,
   ⟨.cfg, 0x20000, 0x10000, 0x0, 1, false⟩,
   ⟨.clk, 0x30000, 0x10000, 0x0, 1, false⟩,
   ⟨.pwr, 0x40000, 0x10000, 0x0, 1, false⟩,
   ⟨.thm, 0x50000, 0x10000, 0x0, 1, false⟩,
   ⟨.lcs, 0x60000, 0x10000, 0x0, 1, false⟩,
   ⟨.pin, 0x70000, 0x10000, 0x0, 1, false⟩,
   ⟨.que, 0x80000, 0x10000, 0x0, 1, false⟩,
   ⟨.pci, 0x90000, 0x10000, 0x10000, 2, false⟩,
   ⟨.hrg, 0x100000, 0x100000, 0x0, 1, false⟩,
   ⟨.str, 0x200000, 0x100000, 0x0, 1, false⟩,
   ⟨.ddr, 0x300000, 0x10000, 0x10000, 8, false⟩,
   ⟨.obs, 0x400000, 0x100000, 0x0, 1, false⟩,
   ⟨.lod, 0x500000, 0x10000, 0x10000, 4, false⟩,
   ⟨.slt, 0x0, 0x10000, 0x0, 1, true⟩,
   ⟨.spl, 0x10000, 0x10000, 0x0, 1, true⟩,
   ⟨.xcv, 0x20000, 0x1000, 0x1000, 12, true⟩,
   ⟨.uio, 0x30000, 0x10000, 0x0, 1, true⟩,
   ⟨.sep, 0x40000, 0x10000, 0x0, 1, true⟩,
   ⟨.sec, 0x100000, 0x10000, 0x10000, 16, true⟩,
   ⟨.rtr, 0x200000, 0x10000, 0x10000, 64, true⟩,
   ⟨.seg, 0x600000, 0x1000, 0x1000, 192, true⟩,
   ⟨.mca, 0x800000, 0x100000, 0x0, 1, true⟩,
   ⟨.ven, 0x900000, 0x100000, 0x0, 1, true⟩]

/-- The registers of block HUB. -/
def regsHUB : List RegDesc :=
  [⟨.hub, 0x0, 1, 0x0, 1, 0x0,
    [⟨31, 16, .ro, 0, .none, .dash⟩, ⟨15, 12, .ro, 0, .none, .dash⟩, ⟨11, 8, .ro, 0, .none, .dash⟩, ⟨7, 4, .ro, 0, .none, .dash⟩]⟩, -- HUB_IDENT (R10)
   ⟨.hub, 0x4, 1, 0x0, 1, 0x0,
    [⟨15, 0, .ro, 0, .none, .dash⟩]⟩, -- HUB_STEP (R44)
   ⟨.hub, 0x8, 1, 0x0, 1, 0x0,
    [⟨31, 0, .ro, 0, .none, .dash⟩]⟩, -- HUB_FEATWORD (R44)
   ⟨.hub, 0xc, 1, 0x0, 1, 0x0,
    [⟨31, 0, .ro, 0, .none, .dash⟩]⟩, -- HUB_FEATURES (R44)
   ⟨.hub, 0x10, 1, 0x0, 1, 0x0,
    [⟨16, 16, .ro, 0, .none, .dash⟩, ⟨15, 0, .ro, 0x4100, .none, .dash⟩]⟩, -- HUB_ASSEMBLY (R44)
   ⟨.hub, 0x20, 4, 0x4, 1, 0x0,
    [⟨31, 28, .ro, 0, .none, .dash⟩, ⟨22, 20, .ro, 0, .none, .dash⟩, ⟨19, 19, .ro, 0, .none, .dash⟩, ⟨15, 0, .ro, 0, .none, .dash⟩]⟩] -- HUB_DIE_STATUS (R44)

/-- The registers of block SLT. -/
def regsSLT : List RegDesc :=
  [⟨.slt, 0x0, 1, 0x0, 1, 0x0,
    [⟨31, 16, .ro, 0, .none, .dash⟩]⟩, -- SLT_IDENT (R44)
   ⟨.slt, 0x4, 1, 0x0, 1, 0x0,
    [⟨31, 0, .ro, 0, .none, .dash⟩]⟩, -- SLT_FEATWORD (R44)
   ⟨.slt, 0x8, 1, 0x0, 1, 0x0,
    [⟨10, 8, .ro, 0, .none, .dash⟩, ⟨5, 5, .ro, 0, .none, .dash⟩, ⟨4, 4, .ro, 0, .none, .dash⟩, ⟨1, 0, .ro, 0, .none, .dash⟩]⟩] -- SLT_ORIENT (R44)

/-- The registers of block FLN. -/
def regsFLN : List RegDesc :=
  [⟨.fln, 0x0, 1, 0x0, 1, 0x0,
    [⟨15, 8, .ro, 0, .none, .dash⟩, ⟨3, 3, .ro, 0, .none, .dash⟩, ⟨2, 2, .ro, 0, .none, .dash⟩, ⟨1, 1, .ro, 0, .none, .dash⟩, ⟨0, 0, .ro, 0x1, .none, .dash⟩]⟩, -- FLN_STATUS (R82)
   ⟨.fln, 0x4, 1, 0x0, 1, 0x0,
    [⟨31, 31, .w1c, 0, .none, .immediate⟩, ⟨30, 30, .ro, 0, .none, .dash⟩, ⟨29, 28, .ro, 0, .none, .dash⟩, ⟨27, 25, .ro, 0, .none, .dash⟩, ⟨24, 0, .ro, 0, .none, .dash⟩]⟩, -- FLN_BUSERR_LOG (R82)
   ⟨.fln, 0x8, 1, 0x0, 1, 0x0,
    [⟨15, 0, .w1c, 0, .none, .immediate⟩]⟩, -- FLN_BUSERR_COUNT (R82)
   ⟨.fln, 0xc, 1, 0x0, 1, 0x0,
    [⟨3, 3, .w1c, 0, .none, .immediate⟩, ⟨2, 2, .w1c, 0, .none, .immediate⟩, ⟨1, 1, .w1c, 0, .none, .immediate⟩, ⟨0, 0, .w1c, 0, .none, .immediate⟩]⟩, -- FLN_IRQ_STATUS (R82)
   ⟨.fln, 0x10, 1, 0x0, 1, 0x0,
    [⟨3, 3, .rw, 0, .none, .immediate⟩, ⟨2, 2, .rw, 0, .none, .immediate⟩, ⟨1, 1, .rw, 0, .none, .immediate⟩, ⟨0, 0, .rw, 0, .none, .immediate⟩]⟩, -- FLN_IRQ_ENABLE (R82)
   ⟨.fln, 0x14, 1, 0x0, 1, 0x0,
    [⟨31, 0, .wo, 0, .lock, .immediate⟩]⟩, -- FLN_REVOKE (R82)
   ⟨.fln, 0x18, 1, 0x0, 1, 0x0,
    [⟨31, 0, .ro, 0, .none, .dash⟩]⟩, -- FLN_LEASE_LOG (R82)
   ⟨.fln, 0x1c, 1, 0x0, 1, 0x0,
    [⟨31, 31, .ro, 0, .none, .dash⟩, ⟨15, 0, .w1c, 0, .none, .immediate⟩]⟩, -- FLN_LEASE_STAT (R82)
   ⟨.fln, 0x100, 64, 0x4, 1, 0x0,
    [⟨31, 0, .ro, 0, .none, .dash⟩]⟩, -- FLN_SEM (R82)
   ⟨.fln, 0x200, 64, 0x4, 1, 0x0,
    [⟨0, 0, .wo, 0, .none, .immediate⟩]⟩, -- FLN_SEM_OP (R82)
   ⟨.fln, 0x300, 1, 0x0, 1, 0x0,
    [⟨31, 16, .ro, 0, .none, .dash⟩, ⟨7, 0, .ro, 0, .none, .dash⟩]⟩, -- FLN_ERRSUM (R676)
   ⟨.fln, 0x304, 1, 0x0, 1, 0x0,
    [⟨31, 16, .rw, 0, .none, .immediate⟩, ⟨7, 0, .rw, 0, .none, .immediate⟩]⟩, -- FLN_ERRMASK (R676)
   ⟨.fln, 0x308, 1, 0x0, 1, 0x0,
    [⟨31, 31, .w1c, 0, .none, .immediate⟩, ⟨30, 28, .ro, 0, .none, .dash⟩, ⟨12, 10, .ro, 0, .none, .dash⟩, ⟨9, 0, .ro, 0, .none, .dash⟩]⟩, -- FLN_FWLOG_A (R676)
   ⟨.fln, 0x30c, 1, 0x0, 1, 0x0,
    [⟨31, 0, .ro, 0, .none, .dash⟩]⟩] -- FLN_FWLOG_B (R676)

/-- The registers of block SEC. -/
def regsSEC : List RegDesc :=
  [⟨.sec, 0x800, 1, 0x0, 1, 0x0,
    [⟨31, 31, .ro, 0, .none, .dash⟩, ⟨30, 23, .ro, 0, .none, .dash⟩, ⟨22, 22, .ro, 0x1, .none, .dash⟩, ⟨21, 21, .ro, 0x1, .none, .dash⟩, ⟨14, 0, .ro, 0, .none, .dash⟩]⟩, -- SEC_FABRIC (R117)
   ⟨.sec, 0x0, 24, 0x4, 1, 0x0,
    [⟨31, 31, .ro, 0, .none, .dash⟩, ⟨30, 29, .ro, 0, .none, .dash⟩, ⟨26, 24, .rw, 0, .none, .clockReset⟩, ⟨21, 20, .rw, 0, .none, .immediate⟩, ⟨19, 15, .rw, 0x10, .none, .clockReset⟩, ⟨14, 10, .rw, 0x10, .none, .clockReset⟩, ⟨9, 5, .rw, 0x10, .none, .clockReset⟩, ⟨4, 0, .rw, 0x10, .none, .clockReset⟩]⟩, -- SEC_RCLK (R182)
   ⟨.sec, 0x60, 1, 0x0, 1, 0x0,
    [⟨23, 0, .wo, 0, .none, .immediate⟩]⟩] -- SEC_RCLK_RST (R182)

/-- The registers of block SPL. -/
def regsSPL : List RegDesc :=
  [⟨.spl, 0x0, 8, 0x20, 1, 0x0,
    [⟨31, 31, .rw, 0, .lock, .immediate⟩, ⟨30, 30, .rw, 0, .lock, .immediate⟩, ⟨21, 16, .rw, 0, .lock, .immediate⟩]⟩, -- SPL_PLL_CTRL (R181)
   ⟨.spl, 0x4, 8, 0x20, 1, 0x0,
    [⟨23, 0, .rw, 0, .lock, .immediate⟩]⟩, -- SPL_PLL_FRAC (R181)
   ⟨.spl, 0x8, 8, 0x20, 1, 0x0,
    [⟨31, 31, .rw, 0, .lock, .immediate⟩, ⟨30, 24, .rw, 0, .lock, .immediate⟩, ⟨23, 23, .rw, 0, .lock, .immediate⟩, ⟨22, 16, .rw, 0, .lock, .immediate⟩, ⟨15, 15, .rw, 0, .lock, .immediate⟩, ⟨14, 8, .rw, 0, .lock, .immediate⟩, ⟨7, 7, .rw, 0, .lock, .immediate⟩, ⟨6, 0, .rw, 0, .lock, .immediate⟩]⟩, -- SPL_PLL_OUT (R181)
   ⟨.spl, 0xc, 8, 0x20, 1, 0x0,
    [⟨2, 2, .ro, 0, .none, .dash⟩, ⟨1, 1, .w1c, 0, .none, .immediate⟩, ⟨0, 0, .ro, 0, .none, .dash⟩]⟩, -- SPL_PLL_STATUS (R181)
   ⟨.spl, 0x100, 16, 0x4, 1, 0x0,
    [⟨31, 31, .rw, 0, .lock, .immediate⟩, ⟨5, 0, .rw, 0x21, .lock, .immediate⟩]⟩, -- SPL_SPINE (R181)
   ⟨.spl, 0x180, 16, 0x4, 1, 0x0,
    [⟨3, 0, .rw, 0, .lock, .linkEpoch⟩]⟩, -- SPL_WCLK (R181)
   ⟨.spl, 0x200, 1, 0x0, 1, 0x0,
    [⟨31, 16, .ro, 0, .none, .dash⟩, ⟨0, 0, .w1c, 0, .none, .immediate⟩]⟩] -- SPL_STATUS (R181)

/-- The registers of block MCA. -/
def regsMCA : List RegDesc :=
  [⟨.mca, 0x0, 1, 0x0, 1, 0x0,
    [⟨4, 4, .w1c, 0, .none, .immediate⟩, ⟨3, 3, .ro, 0, .none, .dash⟩, ⟨2, 2, .ro, 0, .none, .dash⟩, ⟨1, 0, .ro, 0, .none, .dash⟩]⟩, -- MCA_STATUS (R220)
   ⟨.mca, 0x4, 1, 0x0, 1, 0x0,
    [⟨31, 0, .w1c, 0, .none, .immediate⟩]⟩, -- MCA_CECOUNT (R220)
   ⟨.mca, 0x8, 1, 0x0, 1, 0x0,
    [⟨15, 0, .w1c, 0, .none, .immediate⟩]⟩, -- MCA_UECOUNT (R220)
   ⟨.mca, 0xc, 1, 0x0, 1, 0x0,
    [⟨15, 0, .w1c, 0, .none, .immediate⟩]⟩, -- MCA_LOGOVF (R220)
   ⟨.mca, 0x10, 1, 0x0, 1, 0x0,
    [⟨7, 0, .rw, 0x10, .lock, .immediate⟩]⟩, -- MCA_CETHRESH (R220)
   ⟨.mca, 0x14, 1, 0x0, 1, 0x0,
    [⟨31, 31, .w1c, 0, .none, .immediate⟩, ⟨30, 30, .ro, 0, .none, .dash⟩, ⟨23, 0, .ro, 0, .none, .dash⟩]⟩, -- MCA_UELOG (R220)
   ⟨.mca, 0x18, 1, 0x0, 1, 0x0,
    [⟨3, 3, .w1c, 0, .none, .immediate⟩, ⟨2, 2, .w1c, 0, .none, .immediate⟩, ⟨1, 1, .w1c, 0, .none, .immediate⟩, ⟨0, 0, .w1c, 0, .none, .immediate⟩]⟩, -- MCA_IRQ_STATUS (R220)
   ⟨.mca, 0x1c, 1, 0x0, 1, 0x0,
    [⟨3, 3, .rw, 0, .none, .immediate⟩, ⟨2, 2, .rw, 0, .none, .immediate⟩, ⟨1, 1, .rw, 0, .none, .immediate⟩, ⟨0, 0, .rw, 0, .none, .immediate⟩]⟩, -- MCA_IRQ_ENABLE (R220)
   ⟨.mca, 0x20, 1, 0x0, 1, 0x0,
    [⟨31, 31, .wo, 0, .lock, .immediate⟩, ⟨7, 0, .wo, 0, .lock, .immediate⟩]⟩, -- MCA_ERASE (R220)
   ⟨.mca, 0x40, 6, 0x4, 1, 0x0,
    [⟨31, 0, .rw, 0, .lock, .commit⟩]⟩, -- MCA_EXPORT (R220)
   ⟨.mca, 0x100, 16, 0x8, 1, 0x0,
    [⟨31, 31, .w1c, 0, .none, .immediate⟩, ⟨30, 30, .ro, 0, .none, .dash⟩, ⟨29, 29, .ro, 0, .none, .dash⟩, ⟨23, 0, .ro, 0, .none, .dash⟩]⟩, -- MCA_LOG_A (R220)
   ⟨.mca, 0x104, 16, 0x8, 1, 0x0,
    [⟨31, 24, .ro, 0, .none, .dash⟩, ⟨6, 0, .ro, 0, .none, .dash⟩]⟩] -- MCA_LOG_B (R220)

/-- The registers of block SEG. -/
def regsSEG : List RegDesc :=
  [⟨.seg, 0x0, 1, 0x0, 1, 0x0,
    [⟨27, 16, .ro, 0, .none, .dash⟩, ⟨11, 0, .ro, 0, .none, .dash⟩]⟩, -- SEG_GSTATUS (R272)
   ⟨.seg, 0x4, 1, 0x0, 1, 0x0,
    [⟨11, 0, .rw, 0, .none, .immediate⟩]⟩, -- SEG_BCAST (R272)
   ⟨.seg, 0x8, 1, 0x0, 1, 0x0,
    [⟨15, 0, .w1c, 0, .none, .immediate⟩]⟩, -- SEG_CECOUNT (R272)
   ⟨.seg, 0xc, 1, 0x0, 1, 0x0,
    [⟨15, 0, .w1c, 0, .none, .immediate⟩]⟩, -- SEG_UECOUNT (R272)
   ⟨.seg, 0x10, 1, 0x0, 1, 0x0,
    [⟨31, 31, .w1c, 0, .none, .immediate⟩, ⟨30, 30, .ro, 0, .none, .dash⟩, ⟨19, 16, .ro, 0, .none, .dash⟩, ⟨13, 12, .ro, 0, .none, .dash⟩, ⟨9, 0, .ro, 0, .none, .dash⟩]⟩, -- SEG_ECCLOG (R272)
   ⟨.seg, 0x14, 1, 0x0, 1, 0x0,
    [⟨2, 2, .w1c, 0, .none, .immediate⟩, ⟨1, 1, .w1c, 0, .none, .immediate⟩, ⟨0, 0, .w1c, 0, .none, .immediate⟩]⟩, -- SEG_IRQ_STATUS (R272)
   ⟨.seg, 0x18, 1, 0x0, 1, 0x0,
    [⟨2, 2, .rw, 0, .none, .immediate⟩, ⟨1, 1, .rw, 0, .none, .immediate⟩, ⟨0, 0, .rw, 0, .none, .immediate⟩]⟩, -- SEG_IRQ_ENABLE (R272)
   ⟨.seg, 0x100, 12, 0x80, 1, 0x0,
    [⟨31, 31, .wo, 0, .none, .immediate⟩, ⟨30, 30, .wo, 0, .none, .immediate⟩, ⟨29, 29, .wo, 0, .none, .immediate⟩, ⟨28, 28, .wo, 0, .none, .immediate⟩, ⟨9, 0, .wo, 0, .none, .immediate⟩]⟩, -- SEG_ECTL (R272)
   ⟨.seg, 0x104, 12, 0x80, 1, 0x0,
    [⟨31, 30, .ro, 0, .none, .dash⟩, ⟨29, 26, .ro, 0, .none, .dash⟩, ⟨25, 16, .ro, 0, .none, .dash⟩, ⟨12, 0, .ro, 0, .none, .dash⟩]⟩, -- SEG_ESTAT (R272)
   ⟨.seg, 0x108, 12, 0x80, 1, 0x0,
    [⟨31, 24, .ro, 0, .none, .dash⟩, ⟨15, 0, .ro, 0, .none, .dash⟩]⟩, -- SEG_EFAULT (R272)
   ⟨.seg, 0x10c, 12, 0x80, 1, 0x0,
    [⟨31, 0, .w1s, 0, .none, .immediate⟩]⟩] -- SEG_DBELL (R272)

/-- The registers of block RTR. -/
def regsRTR : List RegDesc :=
  [⟨.rtr, 0x0, 1, 0x0, 1, 0x0,
    [⟨19, 0, .rw, 0x7d0, .lock, .immediate⟩]⟩, -- RTR_CTRL (R356)
   ⟨.rtr, 0x4, 1, 0x0, 1, 0x0,
    [⟨31, 31, .w1c, 0, .none, .immediate⟩, ⟨25, 16, .ro, 0x200, .none, .dash⟩, ⟨9, 0, .ro, 0, .none, .dash⟩]⟩, -- RTR_POOL (R356)
   ⟨.rtr, 0x8, 1, 0x0, 1, 0x0,
    [⟨31, 16, .w1c, 0, .none, .immediate⟩, ⟨15, 0, .w1c, 0, .none, .immediate⟩]⟩, -- RTR_ERRCNT0 (R356)
   ⟨.rtr, 0xc, 1, 0x0, 1, 0x0,
    [⟨31, 16, .w1c, 0, .none, .immediate⟩, ⟨15, 0, .w1c, 0, .none, .immediate⟩]⟩, -- RTR_ERRCNT1 (R356)
   ⟨.rtr, 0x10, 1, 0x0, 1, 0x0,
    [⟨31, 31, .w1c, 0, .none, .immediate⟩, ⟨30, 28, .ro, 0, .none, .dash⟩, ⟨27, 24, .ro, 0, .none, .dash⟩, ⟨23, 12, .ro, 0, .none, .dash⟩, ⟨11, 8, .ro, 0, .none, .dash⟩, ⟨7, 0, .ro, 0, .none, .dash⟩]⟩, -- RTR_ERRLOG (R356)
   ⟨.rtr, 0x14, 1, 0x0, 1, 0x0,
    [⟨4, 4, .w1c, 0, .none, .immediate⟩, ⟨3, 3, .w1c, 0, .none, .immediate⟩, ⟨2, 2, .w1c, 0, .none, .immediate⟩, ⟨1, 1, .w1c, 0, .none, .immediate⟩, ⟨0, 0, .w1c, 0, .none, .immediate⟩]⟩, -- RTR_IRQ_STATUS (R356)
   ⟨.rtr, 0x18, 1, 0x0, 1, 0x0,
    [⟨4, 4, .rw, 0, .none, .immediate⟩, ⟨3, 3, .rw, 0, .none, .immediate⟩, ⟨2, 2, .rw, 0, .none, .immediate⟩, ⟨1, 1, .rw, 0, .none, .immediate⟩, ⟨0, 0, .rw, 0, .none, .immediate⟩]⟩, -- RTR_IRQ_ENABLE (R356)
   ⟨.rtr, 0x100, 16, 0x4, 1, 0x0,
    [⟨31, 31, .ro, 0, .none, .dash⟩, ⟨30, 30, .ro, 0, .none, .dash⟩, ⟨29, 29, .ro, 0, .none, .dash⟩, ⟨28, 28, .rw, 0, .lock, .packet⟩, ⟨24, 16, .rw, 0, .lock, .packet⟩, ⟨6, 0, .ro, 0, .none, .dash⟩]⟩] -- RTR_PORT (R356)

/-- The registers of block HRG. -/
def regsHRG : List RegDesc :=
  [⟨.hrg, 0x0, 1, 0x0, 1, 0x0,
    [⟨31, 24, .ro, 0, .none, .dash⟩, ⟨23, 16, .ro, 0, .none, .dash⟩, ⟨15, 8, .ro, 0, .none, .dash⟩, ⟨7, 0, .ro, 0, .none, .dash⟩]⟩, -- HRG_COLMAP (R357)
   ⟨.hrg, 0x4, 1, 0x0, 1, 0x0,
    [⟨3, 0, .rw, 0, .lock, .packet⟩]⟩, -- HRG_DIEPOL (R357)
   ⟨.hrg, 0x8, 1, 0x0, 1, 0x0,
    [⟨15, 0, .w1c, 0, .none, .immediate⟩]⟩, -- HRG_UNREACH (R357)
   ⟨.hrg, 0xc, 1, 0x0, 1, 0x0,
    [⟨15, 0, .w1c, 0, .none, .immediate⟩]⟩, -- HRG_FENCEDROP (R357)
   ⟨.hrg, 0x100, 8, 0x8, 1, 0x0,
    [⟨31, 16, .rw, 0, .lock, .packet⟩, ⟨15, 0, .rw, 0, .lock, .packet⟩]⟩, -- HRG_POL_LO (R357)
   ⟨.hrg, 0x104, 8, 0x8, 1, 0x0,
    [⟨31, 16, .rw, 0, .lock, .packet⟩, ⟨15, 0, .rw, 0, .lock, .packet⟩]⟩, -- HRG_POL_HI (R357)
   ⟨.hrg, 0x10, 1, 0x0, 1, 0x0,
    [⟨15, 0, .rw, 0x64, .lock, .immediate⟩]⟩, -- HRG_CTRL (R398)
   ⟨.hrg, 0x14, 1, 0x0, 1, 0x0,
    [⟨11, 0, .ro, 0, .none, .dash⟩]⟩, -- HRG_DDRTOP (R398)
   ⟨.hrg, 0x20, 1, 0x0, 1, 0x0,
    [⟨31, 0, .rw, 0, .none, .immediate⟩]⟩, -- HRG_FLUSH_BASE_LO (R398)
   ⟨.hrg, 0x24, 1, 0x0, 1, 0x0,
    [⟨31, 0, .rw, 0, .none, .immediate⟩]⟩, -- HRG_FLUSH_BASE_HI (R398)
   ⟨.hrg, 0x28, 1, 0x0, 1, 0x0,
    [⟨31, 0, .rw, 0, .none, .immediate⟩]⟩, -- HRG_FLUSH_LINES (R398)
   ⟨.hrg, 0x2c, 1, 0x0, 1, 0x0,
    [⟨31, 31, .wo, 0, .none, .immediate⟩, ⟨30, 30, .ro, 0, .none, .dash⟩, ⟨29, 29, .w1c, 0, .none, .immediate⟩, ⟨28, 28, .w1c, 0, .none, .immediate⟩, ⟨0, 0, .rw, 0, .none, .immediate⟩]⟩, -- HRG_FLUSH_CTRL (R398)
   ⟨.hrg, 0x200, 16, 0x10, 1, 0x0,
    [⟨31, 22, .ro, 0, .none, .dash⟩, ⟨16, 0, .ro, 0, .none, .dash⟩]⟩, -- HRG_HA_STAT (R398)
   ⟨.hrg, 0x204, 16, 0x10, 1, 0x0,
    [⟨31, 16, .w1c, 0, .none, .immediate⟩, ⟨15, 0, .w1c, 0, .none, .immediate⟩]⟩, -- HRG_HA_CNT (R398)
   ⟨.hrg, 0x208, 16, 0x10, 1, 0x0,
    [⟨31, 31, .w1c, 0, .none, .immediate⟩, ⟨30, 27, .ro, 0, .none, .dash⟩, ⟨26, 24, .ro, 0, .none, .dash⟩, ⟨9, 0, .ro, 0, .none, .dash⟩]⟩, -- HRG_HA_ERRLOG_A (R398)
   ⟨.hrg, 0x20c, 16, 0x10, 1, 0x0,
    [⟨31, 0, .ro, 0, .none, .dash⟩]⟩] -- HRG_HA_ERRLOG_B (R398)

/-- The registers of block VEN. -/
def regsVEN : List RegDesc :=
  [⟨.ven, 0x0, 1, 0x0, 1, 0x0,
    [⟨19, 0, .rw, 0x3e8, .lock, .immediate⟩]⟩, -- VEN_CTRL (R399)
   ⟨.ven, 0x4, 1, 0x0, 1, 0x0,
    [⟨31, 0, .ro, 0, .none, .dash⟩]⟩, -- VEN_OFF_LO (R399)
   ⟨.ven, 0x8, 1, 0x0, 1, 0x0,
    [⟨31, 0, .ro, 0, .none, .dash⟩]⟩, -- VEN_OFF_HI (R399)
   ⟨.ven, 0x10, 1, 0x0, 1, 0x0,
    [⟨31, 31, .wo, 0, .none, .immediate⟩, ⟨20, 0, .wo, 0, .none, .immediate⟩]⟩, -- VEN_REWRITE (R399)
   ⟨.ven, 0x14, 1, 0x0, 1, 0x0,
    [⟨31, 16, .w1c, 0, .none, .immediate⟩, ⟨15, 0, .w1c, 0, .none, .immediate⟩]⟩, -- VEN_CNT (R399)
   ⟨.ven, 0x18, 1, 0x0, 1, 0x0,
    [⟨2, 2, .w1c, 0, .none, .immediate⟩, ⟨1, 1, .w1c, 0, .none, .immediate⟩, ⟨0, 0, .w1c, 0, .none, .immediate⟩]⟩, -- VEN_IRQ_STATUS (R399)
   ⟨.ven, 0x1c, 1, 0x0, 1, 0x0,
    [⟨2, 2, .rw, 0, .none, .immediate⟩, ⟨1, 1, .rw, 0, .none, .immediate⟩, ⟨0, 0, .rw, 0, .none, .immediate⟩]⟩] -- VEN_IRQ_ENABLE (R399)

/-- The registers of block STR. -/
def regsSTR : List RegDesc :=
  [⟨.str, 0x0, 1, 0x0, 1, 0x0,
    [⟨31, 24, .ro, 0, .none, .dash⟩, ⟨3, 0, .rw, 0x8, .lock, .immediate⟩]⟩, -- STR_CTRL (R442)
   ⟨.str, 0x4, 1, 0x0, 1, 0x0,
    [⟨4, 4, .w1c, 0, .none, .immediate⟩, ⟨3, 3, .w1c, 0, .none, .immediate⟩, ⟨2, 2, .w1c, 0, .none, .immediate⟩, ⟨1, 1, .w1c, 0, .none, .immediate⟩, ⟨0, 0, .w1c, 0, .none, .immediate⟩]⟩, -- STR_IRQ_STATUS (R442)
   ⟨.str, 0x8, 1, 0x0, 1, 0x0,
    [⟨4, 4, .rw, 0, .none, .immediate⟩, ⟨3, 3, .rw, 0, .none, .immediate⟩, ⟨2, 2, .rw, 0, .none, .immediate⟩, ⟨1, 1, .rw, 0, .none, .immediate⟩, ⟨0, 0, .rw, 0, .none, .immediate⟩]⟩, -- STR_IRQ_ENABLE (R442)
   ⟨.str, 0x1000, 64, 0x20, 1, 0x0,
    [⟨31, 29, .ro, 0, .none, .dash⟩, ⟨28, 28, .ro, 0, .none, .dash⟩, ⟨27, 27, .ro, 0, .none, .dash⟩, ⟨26, 26, .ro, 0, .none, .dash⟩, ⟨23, 16, .w1c, 0, .none, .immediate⟩, ⟨15, 8, .ro, 0, .none, .dash⟩, ⟨7, 0, .ro, 0, .none, .dash⟩]⟩, -- STR_BSTAT (R442)
   ⟨.str, 0x1004, 64, 0x20, 1, 0x0,
    [⟨31, 16, .w1c, 0, .none, .immediate⟩, ⟨15, 0, .w1c, 0, .none, .immediate⟩]⟩, -- STR_BCNT (R442)
   ⟨.str, 0x1008, 64, 0x20, 3, 0x4,
    [⟨31, 0, .ro, 0, .none, .dash⟩]⟩, -- STR_BUMAP (R442)
   ⟨.str, 0x1014, 64, 0x20, 3, 0x4,
    [⟨31, 0, .ro, 0, .none, .dash⟩]⟩, -- STR_BDMAP (R442)
   ⟨.str, 0x2000, 16, 0x8, 1, 0x0,
    [⟨31, 31, .rw, 0, .lock, .linkEpoch⟩, ⟨11, 10, .rw, 0, .lock, .linkEpoch⟩, ⟨9, 6, .rw, 0, .lock, .linkEpoch⟩, ⟨5, 4, .rw, 0, .lock, .linkEpoch⟩, ⟨3, 0, .rw, 0, .lock, .linkEpoch⟩]⟩, -- STR_WPAIR (R442)
   ⟨.str, 0x2004, 16, 0x8, 1, 0x0,
    [⟨31, 29, .ro, 0, .none, .dash⟩, ⟨28, 25, .ro, 0, .none, .dash⟩, ⟨24, 21, .ro, 0, .none, .dash⟩, ⟨15, 0, .w1c, 0, .none, .immediate⟩]⟩, -- STR_WPSTAT (R442)
   ⟨.str, 0x3000, 8, 0x40, 1, 0x0,
    [⟨31, 31, .rw, 0, .lock, .immediate⟩, ⟨30, 30, .rw, 0, .lock, .immediate⟩, ⟨29, 29, .rw, 0, .lock, .packet⟩, ⟨26, 0, .rw, 0, .lock, .packet⟩]⟩, -- STR_BP_CTRL (R442)
   ⟨.str, 0x3004, 8, 0x40, 1, 0x0,
    [⟨31, 29, .ro, 0, .none, .dash⟩, ⟨28, 28, .ro, 0, .none, .dash⟩, ⟨27, 27, .ro, 0, .none, .dash⟩, ⟨26, 26, .ro, 0, .none, .dash⟩, ⟨19, 16, .ro, 0, .none, .dash⟩, ⟨15, 8, .w1c, 0, .none, .immediate⟩, ⟨7, 0, .w1c, 0, .none, .immediate⟩]⟩, -- STR_BP_STAT (R442)
   ⟨.str, 0x3008, 8, 0x40, 1, 0x0,
    [⟨31, 16, .w1c, 0, .none, .immediate⟩, ⟨15, 0, .w1c, 0, .none, .immediate⟩]⟩, -- STR_BP_CNT (R442)
   ⟨.str, 0x300c, 8, 0x40, 1, 0x0,
    [⟨19, 0, .ro, 0, .none, .dash⟩]⟩, -- STR_BP_TXMAP (R442)
   ⟨.str, 0x3010, 8, 0x40, 1, 0x0,
    [⟨19, 0, .ro, 0, .none, .dash⟩]⟩, -- STR_BP_RXMAP (R442)
   ⟨.str, 0x3014, 8, 0x40, 1, 0x0,
    [⟨31, 16, .w1c, 0, .none, .immediate⟩, ⟨15, 0, .w1c, 0, .none, .immediate⟩]⟩, -- STR_BP_DROP (R442)
   ⟨.str, 0x3020, 8, 0x40, 1, 0x0,
    [⟨31, 31, .rw, 0, .lock, .immediate⟩, ⟨30, 29, .rw, 0, .lock, .immediate⟩, ⟨28, 28, .wo, 0, .lock, .immediate⟩, ⟨27, 26, .rw, 0x3, .lock, .immediate⟩, ⟨23, 16, .rw, 0, .lock, .immediate⟩, ⟨9, 0, .rw, 0, .lock, .immediate⟩]⟩, -- STR_BP_CAPCTRL (R442)
   ⟨.str, 0x3024, 8, 0x40, 1, 0x0,
    [⟨31, 31, .ro, 0, .none, .dash⟩, ⟨30, 30, .ro, 0, .none, .dash⟩, ⟨25, 16, .ro, 0, .none, .dash⟩, ⟨9, 0, .ro, 0, .none, .dash⟩]⟩] -- STR_BP_CAPSTAT (R442)

/-- The registers of block SEP. -/
def regsSEP : List RegDesc :=
  [⟨.sep, 0x100, 16, 0x4, 1, 0x0,
    [⟨31, 28, .ro, 0, .none, .dash⟩, ⟨15, 0, .w1c, 0, .none, .immediate⟩]⟩] -- SEP_WSTAT (R443)

/-- The registers of block DDR. -/
def regsDDR : List RegDesc :=
  [⟨.ddr, 0x0, 1, 0x0, 1, 0x0,
    [⟨31, 29, .ro, 0, .none, .dash⟩, ⟨19, 16, .ro, 0, .none, .dash⟩, ⟨8, 0, .ro, 0, .none, .dash⟩]⟩, -- DDR_STATUS (R481)
   ⟨.ddr, 0x4, 1, 0x0, 1, 0x0,
    [⟨7, 0, .rw, 0x18, .lock, .immediate⟩]⟩, -- DDR_SCRUB (R481)
   ⟨.ddr, 0x8, 1, 0x0, 1, 0x0,
    [⟨15, 0, .w1c, 0, .none, .immediate⟩]⟩, -- DDR_CECOUNT (R481)
   ⟨.ddr, 0xc, 1, 0x0, 1, 0x0,
    [⟨15, 0, .w1c, 0, .none, .immediate⟩]⟩, -- DDR_UECOUNT (R481)
   ⟨.ddr, 0x10, 1, 0x0, 1, 0x0,
    [⟨31, 31, .w1c, 0, .none, .immediate⟩, ⟨30, 30, .ro, 0, .none, .dash⟩, ⟨29, 29, .ro, 0, .none, .dash⟩]⟩, -- DDR_ERRLOG_A (R481)
   ⟨.ddr, 0x14, 1, 0x0, 1, 0x0,
    [⟨31, 0, .ro, 0, .none, .dash⟩]⟩, -- DDR_ERRLOG_B (R481)
   ⟨.ddr, 0x18, 1, 0x0, 1, 0x0,
    [⟨1, 1, .w1c, 0, .none, .immediate⟩, ⟨0, 0, .w1c, 0, .none, .immediate⟩]⟩, -- DDR_IRQ_STATUS (R481)
   ⟨.ddr, 0x1c, 1, 0x0, 1, 0x0,
    [⟨1, 1, .rw, 0, .none, .immediate⟩, ⟨0, 0, .rw, 0, .none, .immediate⟩]⟩] -- DDR_IRQ_ENABLE (R481)

/-- The registers of block OBS. -/
def regsOBS : List RegDesc :=
  [⟨.obs, 0x0, 1, 0x0, 1, 0x0,
    [⟨20, 16, .ro, 0, .none, .dash⟩, ⟨0, 0, .w1c, 0, .none, .immediate⟩]⟩, -- OBS_STATUS (R482)
   ⟨.obs, 0x4, 1, 0x0, 1, 0x0,
    [⟨31, 16, .w1c, 0, .none, .immediate⟩, ⟨15, 0, .w1c, 0, .none, .immediate⟩]⟩, -- OBS_CNT (R482)
   ⟨.obs, 0x8, 1, 0x0, 1, 0x0,
    [⟨31, 31, .w1c, 0, .none, .immediate⟩, ⟨30, 28, .ro, 0, .none, .dash⟩, ⟨27, 25, .ro, 0, .none, .dash⟩, ⟨24, 21, .ro, 0, .none, .dash⟩, ⟨20, 15, .ro, 0, .none, .dash⟩]⟩, -- OBS_ERRLOG_A (R482)
   ⟨.obs, 0xc, 1, 0x0, 1, 0x0,
    [⟨31, 0, .ro, 0, .none, .dash⟩]⟩, -- OBS_ERRLOG_B (R482)
   ⟨.obs, 0x10, 1, 0x0, 1, 0x0,
    [⟨3, 3, .w1c, 0, .none, .immediate⟩, ⟨2, 2, .w1c, 0, .none, .immediate⟩, ⟨1, 1, .w1c, 0, .none, .immediate⟩, ⟨0, 0, .w1c, 0, .none, .immediate⟩]⟩, -- OBS_IRQ_STATUS (R482)
   ⟨.obs, 0x14, 1, 0x0, 1, 0x0,
    [⟨3, 3, .rw, 0, .none, .immediate⟩, ⟨2, 2, .rw, 0, .none, .immediate⟩, ⟨1, 1, .rw, 0, .none, .immediate⟩, ⟨0, 0, .rw, 0, .none, .immediate⟩]⟩, -- OBS_IRQ_ENABLE (R482)
   ⟨.obs, 0x18, 1, 0x0, 1, 0x0,
    [⟨9, 0, .rw, 0x20, .lock, .immediate⟩]⟩, -- OBS_RATE (R482)
   ⟨.obs, 0x100, 8, 0x4, 1, 0x0,
    [⟨31, 0, .wo, 0, .key, .immediate⟩]⟩, -- OBS_KEYDATA (R482)
   ⟨.obs, 0x1000, 64, 0x8, 1, 0x0,
    [⟨31, 30, .wo, 0, .lock, .immediate⟩, ⟨29, 29, .rw, 0, .lock, .immediate⟩, ⟨25, 24, .ro, 0, .none, .dash⟩, ⟨7, 0, .ro, 0, .none, .dash⟩]⟩, -- OBS_KEY_CTRL (R482)
   ⟨.obs, 0x1004, 64, 0x8, 1, 0x0,
    [⟨31, 0, .ro, 0, .none, .dash⟩]⟩, -- OBS_KEY_OWNER (R482)
   ⟨.obs, 0x2000, 64, 0x20, 1, 0x0,
    [⟨27, 0, .rw, 0, .lock, .immediate⟩]⟩, -- OBS_RNG_BASE (R482)
   ⟨.obs, 0x2004, 64, 0x20, 1, 0x0,
    [⟨21, 0, .rw, 0, .lock, .immediate⟩]⟩, -- OBS_RNG_SIZE (R482)
   ⟨.obs, 0x2008, 64, 0x20, 1, 0x0,
    [⟨31, 31, .rw, 0, .lock, .immediate⟩, ⟨13, 8, .rw, 0, .lock, .immediate⟩, ⟨5, 0, .rw, 0, .lock, .immediate⟩]⟩, -- OBS_RNG_KEYS (R482)
   ⟨.obs, 0x200c, 64, 0x20, 1, 0x0,
    [⟨31, 16, .rw, 0, .lock, .immediate⟩, ⟨11, 10, .rw, 0, .lock, .immediate⟩, ⟨9, 8, .rw, 0, .lock, .immediate⟩, ⟨7, 6, .rw, 0, .lock, .immediate⟩, ⟨5, 4, .rw, 0, .lock, .immediate⟩, ⟨3, 2, .rw, 0, .lock, .immediate⟩, ⟨1, 0, .rw, 0, .lock, .immediate⟩]⟩, -- OBS_RNG_RIGHTS (R482)
   ⟨.obs, 0x2010, 64, 0x20, 1, 0x0,
    [⟨2, 0, .wo, 0, .lock, .immediate⟩]⟩, -- OBS_RNG_CMD (R482)
   ⟨.obs, 0x2014, 64, 0x20, 1, 0x0,
    [⟨31, 29, .ro, 0, .none, .dash⟩, ⟨28, 28, .w1c, 0, .none, .immediate⟩, ⟨27, 27, .w1c, 0, .none, .immediate⟩, ⟨26, 0, .ro, 0, .none, .dash⟩]⟩, -- OBS_RNG_STAT (R482)
   ⟨.obs, 0x2018, 64, 0x20, 1, 0x0,
    [⟨31, 0, .ro, 0, .none, .dash⟩]⟩] -- OBS_RNG_TREE (R482)

/-- The registers of block QUE. -/
def regsQUE : List RegDesc :=
  [⟨.que, 0x0, 256, 0x20, 1, 0x0,
    [⟨31, 0, .rw, 0, .none, .immediate⟩]⟩, -- QUE_Q_SQBASE_LO (R512)
   ⟨.que, 0x4, 256, 0x20, 1, 0x0,
    [⟨31, 0, .rw, 0, .none, .immediate⟩]⟩, -- QUE_Q_SQBASE_HI (R512)
   ⟨.que, 0x8, 256, 0x20, 1, 0x0,
    [⟨31, 0, .rw, 0, .none, .immediate⟩]⟩, -- QUE_Q_CQBASE_LO (R512)
   ⟨.que, 0xc, 256, 0x20, 1, 0x0,
    [⟨31, 0, .rw, 0, .none, .immediate⟩]⟩, -- QUE_Q_CQBASE_HI (R512)
   ⟨.que, 0x10, 256, 0x20, 1, 0x0,
    [⟨31, 0, .rw, 0, .none, .immediate⟩]⟩, -- QUE_Q_HDB_LO (R512)
   ⟨.que, 0x14, 256, 0x20, 1, 0x0,
    [⟨31, 0, .rw, 0, .none, .immediate⟩]⟩, -- QUE_Q_HDB_HI (R512)
   ⟨.que, 0x18, 256, 0x20, 1, 0x0,
    [⟨31, 31, .rw, 0, .none, .immediate⟩, ⟨30, 30, .rw, 0, .none, .immediate⟩, ⟨29, 26, .rw, 0, .none, .immediate⟩, ⟨23, 20, .rw, 0, .none, .immediate⟩, ⟨19, 16, .rw, 0, .none, .immediate⟩, ⟨8, 8, .rw, 0, .none, .immediate⟩, ⟨7, 0, .rw, 0, .none, .immediate⟩]⟩, -- QUE_Q_CTRL (R512)
   ⟨.que, 0x1c, 256, 0x20, 1, 0x0,
    [⟨31, 29, .ro, 0, .none, .dash⟩, ⟨28, 25, .ro, 0, .none, .dash⟩, ⟨19, 16, .ro, 0, .none, .dash⟩, ⟨15, 0, .ro, 0, .none, .dash⟩]⟩, -- QUE_Q_STAT (R512)
   ⟨.que, 0x2000, 1, 0x0, 1, 0x0,
    [⟨31, 16, .w1c, 0, .none, .immediate⟩, ⟨15, 0, .w1c, 0, .none, .immediate⟩]⟩] -- QUE_DBERR (R512)

/-- The registers of block PCI. -/
def regsPCI : List RegDesc :=
  [⟨.pci, 0x0, 1, 0x0, 1, 0x0,
    [⟨31, 31, .ro, 0, .none, .dash⟩, ⟨30, 28, .ro, 0, .none, .dash⟩, ⟨27, 23, .ro, 0, .none, .dash⟩, ⟨15, 0, .w1c, 0, .none, .immediate⟩]⟩, -- PCI_STAT (R513)
   ⟨.pci, 0x4, 1, 0x0, 1, 0x0,
    [⟨31, 31, .rw, 0, .lock, .immediate⟩, ⟨17, 0, .rw, 0, .lock, .immediate⟩]⟩, -- PCI_WIN (R513)
   ⟨.pci, 0x8, 1, 0x0, 1, 0x0,
    [⟨19, 0, .rw, 0x7d0, .lock, .immediate⟩]⟩, -- PCI_TIMEOUT (R513)
   ⟨.pci, 0xc, 1, 0x0, 1, 0x0,
    [⟨31, 31, .w1c, 0, .none, .immediate⟩, ⟨30, 30, .ro, 0, .none, .dash⟩, ⟨29, 26, .ro, 0, .none, .dash⟩, ⟨9, 0, .ro, 0, .none, .dash⟩]⟩, -- PCI_WINERR_A (R513)
   ⟨.pci, 0x10, 1, 0x0, 1, 0x0,
    [⟨31, 0, .ro, 0, .none, .dash⟩]⟩, -- PCI_WINERR_B (R513)
   ⟨.pci, 0x14, 1, 0x0, 1, 0x0,
    [⟨15, 0, .w1c, 0, .none, .immediate⟩]⟩] -- PCI_WINERRCNT (R513)

/-- The registers of block LOD. -/
def regsLOD : List RegDesc :=
  [⟨.lod, 0xf00, 1, 0x0, 1, 0x0,
    [⟨31, 25, .rw, 0, .lock, .immediate⟩, ⟨24, 18, .rw, 0, .lock, .immediate⟩, ⟨17, 17, .w1c, 0, .none, .immediate⟩, ⟨13, 7, .rw, 0, .lock, .immediate⟩, ⟨6, 0, .rw, 0, .lock, .immediate⟩]⟩, -- LOD_SYS (R541)
   ⟨.lod, 0x0, 1, 0x0, 1, 0x0,
    [⟨31, 31, .rw, 0, .lock, .immediate⟩, ⟨30, 30, .rw, 0x1, .lock, .immediate⟩, ⟨29, 29, .rw, 0, .lock, .immediate⟩, ⟨28, 28, .wo, 0, .lock, .immediate⟩, ⟨21, 16, .rw, 0, .lock, .immediate⟩, ⟨13, 8, .rw, 0, .lock, .immediate⟩, ⟨3, 0, .rw, 0x8, .lock, .immediate⟩]⟩, -- LOD_CTRL (R541)
   ⟨.lod, 0x4, 1, 0x0, 1, 0x0,
    [⟨31, 29, .ro, 0, .none, .dash⟩, ⟨28, 27, .ro, 0, .none, .dash⟩, ⟨26, 26, .w1c, 0, .none, .immediate⟩, ⟨25, 19, .ro, 0, .none, .dash⟩, ⟨18, 12, .ro, 0, .none, .dash⟩, ⟨8, 8, .w1c, 0, .none, .immediate⟩, ⟨7, 0, .w1c, 0, .none, .immediate⟩]⟩, -- LOD_STAT (R541)
   ⟨.lod, 0x8, 1, 0x0, 1, 0x0,
    [⟨31, 16, .ro, 0, .none, .dash⟩, ⟨15, 0, .ro, 0, .none, .dash⟩]⟩, -- LOD_LANES (R541)
   ⟨.lod, 0xc, 1, 0x0, 1, 0x0,
    [⟨31, 16, .w1c, 0, .none, .immediate⟩, ⟨15, 0, .w1c, 0, .none, .immediate⟩]⟩, -- LOD_CNT0 (R541)
   ⟨.lod, 0x10, 1, 0x0, 1, 0x0,
    [⟨31, 16, .w1c, 0, .none, .immediate⟩, ⟨15, 0, .w1c, 0, .none, .immediate⟩]⟩, -- LOD_CNT1 (R541)
   ⟨.lod, 0x14, 1, 0x0, 1, 0x0,
    [⟨4, 4, .w1c, 0, .none, .immediate⟩, ⟨3, 3, .w1c, 0, .none, .immediate⟩, ⟨2, 2, .w1c, 0, .none, .immediate⟩, ⟨1, 1, .w1c, 0, .none, .immediate⟩, ⟨0, 0, .w1c, 0, .none, .immediate⟩]⟩, -- LOD_IRQ_STATUS (R541)
   ⟨.lod, 0x18, 1, 0x0, 1, 0x0,
    [⟨4, 4, .rw, 0, .none, .immediate⟩, ⟨3, 3, .rw, 0, .none, .immediate⟩, ⟨2, 2, .rw, 0, .none, .immediate⟩, ⟨1, 1, .rw, 0, .none, .immediate⟩, ⟨0, 0, .rw, 0, .none, .immediate⟩]⟩] -- LOD_IRQ_ENABLE (R541)

/-- The registers of block XCV. -/
def regsXCV : List RegDesc :=
  [⟨.xcv, 0x0, 1, 0x0, 1, 0x0,
    [⟨31, 31, .rw, 0, .lock, .immediate⟩, ⟨30, 30, .rw, 0, .lock, .immediate⟩, ⟨29, 29, .rw, 0, .lock, .immediate⟩, ⟨28, 28, .rw, 0, .lock, .immediate⟩, ⟨27, 26, .rw, 0, .lock, .immediate⟩, ⟨25, 25, .rw, 0x1, .lock, .immediate⟩, ⟨16, 0, .rw, 0, .lock, .immediate⟩]⟩, -- XCV_CTRL (R542)
   ⟨.xcv, 0x4, 1, 0x0, 1, 0x0,
    [⟨29, 24, .rw, 0, .none, .immediate⟩, ⟨23, 18, .rw, 0, .none, .immediate⟩, ⟨17, 12, .rw, 0, .none, .immediate⟩, ⟨11, 6, .rw, 0x3f, .none, .immediate⟩, ⟨5, 0, .rw, 0, .none, .immediate⟩]⟩, -- XCV_TXEQ (R542)
   ⟨.xcv, 0x8, 1, 0x0, 1, 0x0,
    [⟨31, 31, .ro, 0, .none, .dash⟩, ⟨30, 30, .ro, 0, .none, .dash⟩, ⟨15, 0, .w1c, 0, .none, .immediate⟩]⟩, -- XCV_STAT (R542)
   ⟨.xcv, 0xc, 1, 0x0, 1, 0x0,
    [⟨31, 16, .w1c, 0, .none, .immediate⟩, ⟨15, 0, .w1c, 0, .none, .immediate⟩]⟩, -- XCV_FECCNT (R542)
   ⟨.xcv, 0x10, 1, 0x0, 1, 0x0,
    [⟨31, 31, .rw, 0, .none, .immediate⟩, ⟨30, 30, .rw, 0, .none, .immediate⟩, ⟨29, 28, .rw, 0, .none, .immediate⟩, ⟨15, 0, .w1c, 0, .none, .immediate⟩]⟩] -- XCV_PRBS (R542)

/-- The registers of block CFG. -/
def regsCFG : List RegDesc :=
  [⟨.cfg, 0x0, 1, 0x0, 1, 0x0,
    [⟨31, 31, .ro, 0, .none, .dash⟩, ⟨30, 30, .ro, 0, .none, .dash⟩, ⟨8, 0, .ro, 0x100, .none, .dash⟩]⟩, -- CFG_STATUS (R582)
   ⟨.cfg, 0x4, 1, 0x0, 1, 0x0,
    [⟨31, 0, .ro, 0x70000000, .none, .dash⟩]⟩, -- CFG_LOCK (R582)
   ⟨.cfg, 0x8, 1, 0x0, 1, 0x0,
    [⟨0, 0, .wo, 0, .none, .immediate⟩]⟩, -- CFG_LOCK_OP (R582)
   ⟨.cfg, 0xc, 1, 0x0, 1, 0x0,
    [⟨31, 28, .wo, 0, .none, .immediate⟩, ⟨27, 27, .wo, 0, .none, .immediate⟩, ⟨23, 16, .wo, 0, .none, .immediate⟩]⟩, -- CFG_CMD (R582)
   ⟨.cfg, 0x10, 1, 0x0, 1, 0x0,
    [⟨31, 0, .rw, 0, .none, .immediate⟩]⟩, -- CFG_ARG0 (R582)
   ⟨.cfg, 0x14, 1, 0x0, 1, 0x0,
    [⟨31, 0, .rw, 0, .none, .immediate⟩]⟩, -- CFG_ARG1 (R582)
   ⟨.cfg, 0x18, 1, 0x0, 1, 0x0,
    [⟨31, 0, .rw, 0, .none, .immediate⟩]⟩, -- CFG_DATA (R582)
   ⟨.cfg, 0x1c, 1, 0x0, 1, 0x0,
    [⟨31, 31, .w1c, 0, .none, .immediate⟩, ⟨23, 16, .ro, 0, .none, .dash⟩, ⟨15, 8, .ro, 0, .none, .dash⟩, ⟨7, 0, .ro, 0, .none, .dash⟩]⟩, -- CFG_RESULT (R582)
   ⟨.cfg, 0x20, 1, 0x0, 1, 0x0,
    [⟨31, 0, .ro, 0, .none, .dash⟩]⟩, -- CFG_FAULTFAR (R582)
   ⟨.cfg, 0x24, 1, 0x0, 1, 0x0,
    [⟨11, 0, .ro, 0, .none, .dash⟩]⟩, -- CFG_FAULTBIT (R582)
   ⟨.cfg, 0x28, 1, 0x0, 1, 0x0,
    [⟨15, 0, .ro, 0, .none, .dash⟩]⟩, -- CFG_EPOCH (R582)
   ⟨.cfg, 0x2c, 1, 0x0, 1, 0x0,
    [⟨3, 3, .w1c, 0, .none, .immediate⟩, ⟨2, 2, .w1c, 0, .none, .immediate⟩, ⟨1, 1, .w1c, 0, .none, .immediate⟩, ⟨0, 0, .w1c, 0, .none, .immediate⟩]⟩, -- CFG_IRQ_STATUS (R582)
   ⟨.cfg, 0x30, 1, 0x0, 1, 0x0,
    [⟨3, 3, .rw, 0, .none, .immediate⟩, ⟨2, 2, .rw, 0, .none, .immediate⟩, ⟨1, 1, .rw, 0, .none, .immediate⟩, ⟨0, 0, .rw, 0, .none, .immediate⟩]⟩, -- CFG_IRQ_ENABLE (R582)
   ⟨.cfg, 0x40, 1, 0x0, 1, 0x0,
    [⟨31, 0, .rw, 0, .none, .immediate⟩]⟩, -- CFG_LQ_BASE_LO (R582)
   ⟨.cfg, 0x44, 1, 0x0, 1, 0x0,
    [⟨31, 0, .rw, 0, .none, .immediate⟩]⟩, -- CFG_LQ_BASE_HI (R582)
   ⟨.cfg, 0x48, 1, 0x0, 1, 0x0,
    [⟨31, 31, .rw, 0, .none, .immediate⟩, ⟨30, 30, .rw, 0, .none, .immediate⟩, ⟨3, 0, .rw, 0, .none, .immediate⟩]⟩, -- CFG_LQ_CTRL (R582)
   ⟨.cfg, 0x4c, 1, 0x0, 1, 0x0,
    [⟨9, 0, .rw, 0, .none, .immediate⟩]⟩, -- CFG_LQ_TAIL (R582)
   ⟨.cfg, 0x50, 1, 0x0, 1, 0x0,
    [⟨9, 0, .ro, 0, .none, .dash⟩]⟩, -- CFG_LQ_HEAD (R582)
   ⟨.cfg, 0x60, 1, 0x0, 1, 0x0,
    [⟨31, 31, .rw, 0x1, .lock, .immediate⟩, ⟨15, 0, .ro, 0, .none, .dash⟩]⟩, -- CFG_SCRUB (R582)
   ⟨.cfg, 0x64, 1, 0x0, 1, 0x0,
    [⟨31, 16, .w1c, 0, .none, .immediate⟩, ⟨15, 0, .w1c, 0, .none, .immediate⟩]⟩, -- CFG_SCRUBCNT (R582)
   ⟨.cfg, 0x1000, 256, 0x10, 1, 0x0,
    [⟨31, 29, .ro, 0, .none, .dash⟩, ⟨28, 28, .ro, 0, .none, .dash⟩, ⟨27, 27, .ro, 0, .none, .dash⟩, ⟨26, 26, .ro, 0, .none, .dash⟩, ⟨25, 23, .ro, 0, .none, .dash⟩]⟩, -- CFG_REG_STAT (R582)
   ⟨.cfg, 0x1004, 256, 0x10, 1, 0x0,
    [⟨31, 0, .ro, 0, .none, .dash⟩]⟩, -- CFG_REG_SECLO (R582)
   ⟨.cfg, 0x1008, 256, 0x10, 1, 0x0,
    [⟨31, 0, .ro, 0, .none, .dash⟩]⟩, -- CFG_REG_SECHI (R582)
   ⟨.cfg, 0x100c, 256, 0x10, 1, 0x0,
    [⟨15, 0, .ro, 0, .none, .dash⟩]⟩, -- CFG_REG_EPOCH (R582)
   ⟨.cfg, 0x2000, 256, 0x8, 1, 0x0,
    [⟨31, 0, .rw, 0, .none, .immediate⟩]⟩, -- CFG_CG_ADDR (R582)
   ⟨.cfg, 0x2004, 256, 0x8, 1, 0x0,
    [⟨31, 0, .rw, 0, .none, .immediate⟩]⟩, -- CFG_CG_DATA (R582)
   ⟨.cfg, 0x4000, 4, 0x1000, 1, 0x0,
    [⟨31, 31, .rw, 0, .none, .immediate⟩, ⟨27, 24, .rw, 0, .none, .immediate⟩, ⟨13, 0, .rw, 0, .none, .immediate⟩]⟩, -- PRB_CTRL (R582)
   ⟨.cfg, 0x4004, 4, 0x1000, 1, 0x0,
    [⟨31, 31, .ro, 0, .none, .dash⟩, ⟨30, 30, .ro, 0, .none, .dash⟩, ⟨29, 29, .w1c, 0, .none, .immediate⟩, ⟨27, 14, .ro, 0, .none, .dash⟩, ⟨13, 0, .ro, 0, .none, .dash⟩]⟩, -- PRB_STAT (R582)
   ⟨.cfg, 0x4008, 4, 0x1000, 1, 0x0,
    [⟨31, 0, .ro, 0, .none, .dash⟩]⟩, -- PRB_OWNER (R582)
   ⟨.cfg, 0x400c, 4, 0x1000, 1, 0x0,
    [⟨0, 0, .wo, 0, .none, .immediate⟩]⟩, -- PRB_OWNER_OP (R582)
   ⟨.cfg, 0x4010, 4, 0x1000, 1, 0x0,
    [⟨31, 0, .rw, 0, .none, .immediate⟩]⟩, -- PRB_TRIGMASK (R582)
   ⟨.cfg, 0x4014, 4, 0x1000, 1, 0x0,
    [⟨31, 0, .rw, 0, .none, .immediate⟩]⟩, -- PRB_TRIGVAL (R582)
   ⟨.cfg, 0x4018, 4, 0x1000, 1, 0x0,
    [⟨16, 0, .rw, 0, .none, .immediate⟩]⟩, -- PRB_RDADDR (R582)
   ⟨.cfg, 0x401c, 4, 0x1000, 1, 0x0,
    [⟨31, 0, .ro, 0, .none, .dash⟩]⟩, -- PRB_RDDATA (R582)
   ⟨.cfg, 0x4400, 4, 0x1000, 256, 0x4,
    [⟨31, 31, .rw, 0, .none, .immediate⟩, ⟨30, 21, .rw, 0, .none, .immediate⟩, ⟨20, 11, .rw, 0, .none, .immediate⟩, ⟨4, 0, .rw, 0, .none, .immediate⟩]⟩, -- PRB_SEL (R582)
   ⟨.cfg, 0x8000, 16, 0x4, 1, 0x0,
    [⟨31, 31, .rw, 0, .none, .immediate⟩, ⟨26, 24, .rw, 0, .none, .immediate⟩, ⟨7, 0, .rw, 0, .none, .immediate⟩]⟩] -- CFG_PPIN (R582)

/-- The registers of block CLK. -/
def regsCLK : List RegDesc :=
  [⟨.clk, 0x0, 1, 0x0, 1, 0x0,
    [⟨18, 16, .ro, 0, .none, .dash⟩, ⟨15, 15, .ro, 0, .none, .dash⟩, ⟨14, 14, .ro, 0, .none, .dash⟩, ⟨13, 12, .ro, 0, .none, .dash⟩, ⟨8, 8, .w1c, 0, .none, .immediate⟩, ⟨7, 6, .ro, 0, .none, .dash⟩, ⟨5, 4, .ro, 0, .none, .dash⟩, ⟨1, 0, .ro, 0, .none, .dash⟩]⟩, -- CLK_STATUS (R608)
   ⟨.clk, 0x4, 1, 0x0, 1, 0x0,
    [⟨31, 31, .rw, 0, .lock, .immediate⟩, ⟨30, 30, .rw, 0, .lock, .immediate⟩, ⟨1, 0, .wo, 0, .lock, .immediate⟩]⟩, -- CLK_CTRL (R608)
   ⟨.clk, 0x8, 1, 0x0, 1, 0x0,
    [⟨1, 1, .rw, 0, .lock, .nextStart⟩, ⟨0, 0, .rw, 0, .lock, .nextStart⟩]⟩, -- CLK_BOOT (R608)
   ⟨.clk, 0xc, 1, 0x0, 1, 0x0,
    [⟨31, 31, .rw, 0, .lock, .immediate⟩, ⟨23, 0, .rw, 0, .lock, .immediate⟩]⟩, -- AON_XA_DELAY (R608)
   ⟨.clk, 0x10, 1, 0x0, 1, 0x0,
    [⟨31, 24, .w1c, 0, .none, .immediate⟩, ⟨23, 20, .ro, 0, .none, .dash⟩, ⟨19, 18, .ro, 0, .none, .dash⟩, ⟨17, 16, .ro, 0, .none, .dash⟩]⟩, -- CLK_LOSS (R608)
   ⟨.clk, 0x14, 1, 0x0, 1, 0x0,
    [⟨3, 3, .w1c, 0, .none, .immediate⟩, ⟨2, 2, .w1c, 0, .none, .immediate⟩, ⟨1, 1, .w1c, 0, .none, .immediate⟩, ⟨0, 0, .w1c, 0, .none, .immediate⟩]⟩, -- CLK_IRQ_STATUS (R608)
   ⟨.clk, 0x18, 1, 0x0, 1, 0x0,
    [⟨3, 3, .rw, 0, .none, .immediate⟩, ⟨2, 2, .rw, 0, .none, .immediate⟩, ⟨1, 1, .rw, 0, .none, .immediate⟩, ⟨0, 0, .rw, 0, .none, .immediate⟩]⟩] -- CLK_IRQ_ENABLE (R608)

/-- The registers of block PWR. -/
def regsPWR : List RegDesc :=
  [⟨.pwr, 0x0, 56, 0x4, 1, 0x0,
    [⟨31, 30, .ro, 0, .none, .dash⟩, ⟨29, 29, .rw, 0, .lock, .immediate⟩, ⟨28, 28, .w1c, 0, .none, .immediate⟩, ⟨27, 24, .ro, 0, .none, .dash⟩]⟩, -- PWR_DOM (R609)
   ⟨.pwr, 0x100, 1, 0x0, 1, 0x0,
    [⟨31, 31, .ro, 0x1, .none, .dash⟩, ⟨30, 30, .ro, 0, .none, .dash⟩, ⟨29, 29, .ro, 0, .none, .dash⟩, ⟨15, 0, .w1c, 0, .none, .immediate⟩]⟩, -- PWR_SUPPLY (R609)
   ⟨.pwr, 0x104, 1, 0x0, 1, 0x0,
    [⟨31, 31, .w1c, 0, .none, .immediate⟩, ⟨23, 16, .w1c, 0, .none, .immediate⟩, ⟨5, 5, .ro, 0, .none, .dash⟩, ⟨4, 0, .ro, 0, .none, .dash⟩]⟩, -- PWR_RAILLOG (R659)
   ⟨.pwr, 0x108, 1, 0x0, 1, 0x0,
    [⟨31, 24, .ro, 0, .none, .dash⟩, ⟨23, 16, .ro, 0, .none, .dash⟩, ⟨15, 8, .ro, 0, .none, .dash⟩, ⟨7, 0, .ro, 0, .none, .dash⟩]⟩, -- PWR_BANKNOM (R683)
   ⟨.pwr, 0x110, 1, 0x0, 1, 0x0,
    [⟨31, 31, .w1c, 0, .none, .immediate⟩, ⟨30, 28, .ro, 0, .none, .dash⟩, ⟨27, 26, .ro, 0, .none, .dash⟩, ⟨25, 23, .ro, 0, .none, .dash⟩, ⟨22, 16, .ro, 0, .none, .dash⟩, ⟨15, 8, .w1c, 0, .none, .immediate⟩]⟩, -- PWR_HALT_A (R680)
   ⟨.pwr, 0x114, 1, 0x0, 1, 0x0,
    [⟨31, 0, .ro, 0, .none, .dash⟩]⟩] -- PWR_HALT_B (R680)

/-- The registers of block THM. -/
def regsTHM : List RegDesc :=
  [⟨.thm, 0x0, 72, 0x4, 1, 0x0,
    [⟨31, 31, .ro, 0, .none, .dash⟩, ⟨27, 26, .ro, 0, .none, .dash⟩, ⟨11, 0, .ro, 0, .none, .dash⟩]⟩, -- THM_SENS (R610)
   ⟨.thm, 0x200, 1, 0x0, 1, 0x0,
    [⟨7, 0, .rw, 0x64, .lock, .immediate⟩]⟩, -- THM_CTRL (R610)
   ⟨.thm, 0x204, 1, 0x0, 1, 0x0,
    [⟨31, 31, .ro, 0, .none, .dash⟩, ⟨22, 16, .ro, 0, .none, .dash⟩, ⟨11, 0, .ro, 0, .none, .dash⟩]⟩, -- THM_STAT (R610)
   ⟨.thm, 0x208, 1, 0x0, 1, 0x0,
    [⟨2, 2, .w1c, 0, .none, .immediate⟩, ⟨1, 1, .w1c, 0, .none, .immediate⟩, ⟨0, 0, .w1c, 0, .none, .immediate⟩]⟩, -- THM_IRQ_STATUS (R610)
   ⟨.thm, 0x20c, 1, 0x0, 1, 0x0,
    [⟨2, 2, .rw, 0, .none, .immediate⟩, ⟨1, 1, .rw, 0, .none, .immediate⟩, ⟨0, 0, .rw, 0, .none, .immediate⟩]⟩] -- THM_IRQ_ENABLE (R610)

/-- The registers of block LCS. -/
def regsLCS : List RegDesc :=
  [⟨.lcs, 0x0, 1, 0x0, 1, 0x0,
    [⟨31, 29, .ro, 0, .none, .dash⟩, ⟨28, 26, .ro, 0, .none, .dash⟩, ⟨25, 25, .ro, 0, .none, .dash⟩, ⟨24, 24, .ro, 0, .none, .dash⟩, ⟨23, 23, .ro, 0, .none, .dash⟩, ⟨22, 22, .ro, 0, .none, .dash⟩, ⟨21, 21, .w1c, 0, .none, .immediate⟩]⟩, -- LCS_STATUS (R635)
   ⟨.lcs, 0x4, 1, 0x0, 1, 0x0,
    [⟨31, 0, .ro, 0, .none, .dash⟩]⟩, -- LCS_SERIAL_LO (R635)
   ⟨.lcs, 0x8, 1, 0x0, 1, 0x0,
    [⟨31, 0, .ro, 0, .none, .dash⟩]⟩, -- LCS_SERIAL_HI (R635)
   ⟨.lcs, 0x10, 4, 0x4, 1, 0x0,
    [⟨31, 0, .ro, 0, .none, .dash⟩]⟩, -- LCS_NONCE (R635)
   ⟨.lcs, 0x20, 1, 0x0, 1, 0x0,
    [⟨3, 0, .wo, 0, .none, .immediate⟩]⟩, -- LCS_LC_CMD (R635)
   ⟨.lcs, 0x24, 1, 0x0, 1, 0x0,
    [⟨31, 31, .ro, 0, .none, .dash⟩, ⟨30, 30, .w1c, 0, .none, .immediate⟩, ⟨7, 0, .ro, 0, .none, .dash⟩]⟩, -- LCS_LC_RESULT (R635)
   ⟨.lcs, 0x30, 1, 0x0, 1, 0x0,
    [⟨31, 23, .ro, 0, .none, .dash⟩, ⟨20, 0, .ro, 0, .none, .dash⟩]⟩, -- LCS_SIGN (R635)
   ⟨.lcs, 0x40, 1, 0x0, 1, 0x0,
    [⟨31, 31, .wo, 0, .none, .immediate⟩]⟩, -- LCS_ATT_CMD (R635)
   ⟨.lcs, 0x44, 1, 0x0, 1, 0x0,
    [⟨31, 31, .ro, 0, .none, .dash⟩, ⟨30, 30, .w1c, 0, .none, .immediate⟩, ⟨29, 26, .ro, 0, .none, .dash⟩, ⟨13, 0, .ro, 0, .none, .dash⟩]⟩, -- LCS_ATT_STAT (R635)
   ⟨.lcs, 0x60, 8, 0x4, 1, 0x0,
    [⟨31, 0, .rw, 0, .none, .immediate⟩]⟩, -- LCS_ATT_NONCE (R635)
   ⟨.lcs, 0x80, 14, 0x4, 1, 0x0,
    [⟨31, 0, .ro, 0, .none, .dash⟩]⟩, -- LCS_IDPK (R635)
   ⟨.lcs, 0x100, 14, 0x4, 1, 0x0,
    [⟨31, 0, .wo, 0, .none, .immediate⟩]⟩, -- LCS_FUSEDATA (R635)
   ⟨.lcs, 0x140, 1, 0x0, 1, 0x0,
    [⟨1, 0, .wo, 0, .key, .immediate⟩]⟩, -- LCS_FUSE_CMD (R635)
   ⟨.lcs, 0x150, 1, 0x0, 1, 0x0,
    [⟨31, 16, .ro, 0, .none, .dash⟩, ⟨15, 15, .ro, 0, .none, .dash⟩, ⟨14, 14, .w1c, 0, .none, .immediate⟩, ⟨6, 0, .ro, 0, .none, .dash⟩]⟩, -- LCS_PATCH_STAT (R635)
   ⟨.lcs, 0x154, 1, 0x0, 1, 0x0,
    [⟨31, 0, .wo, 0, .none, .immediate⟩]⟩, -- LCS_PATCH_DATA (R635)
   ⟨.lcs, 0x158, 1, 0x0, 1, 0x0,
    [⟨31, 31, .wo, 0, .none, .immediate⟩]⟩] -- LCS_PATCH_CMD (R635)

/-- The registers of block PIN. -/
def regsPIN : List RegDesc :=
  [⟨.pin, 0x0, 64, 0x4, 1, 0x0,
    [⟨31, 29, .rw, 0, .none, .pinFrame⟩, ⟨28, 27, .rw, 0, .none, .pinFrame⟩, ⟨5, 5, .rw, 0, .none, .pinFrame⟩, ⟨4, 3, .rw, 0, .none, .pinFrame⟩, ⟨1, 0, .rw, 0, .none, .pinFrame⟩]⟩, -- PIN_CFG (R651)
   ⟨.pin, 0x100, 1, 0x0, 1, 0x0,
    [⟨31, 0, .ro, 0, .none, .dash⟩]⟩, -- GPIO_IN_LO (R651)
   ⟨.pin, 0x104, 1, 0x0, 1, 0x0,
    [⟨31, 0, .ro, 0, .none, .dash⟩]⟩, -- GPIO_IN_HI (R651)
   ⟨.pin, 0x108, 1, 0x0, 1, 0x0,
    [⟨31, 0, .ro, 0, .none, .dash⟩]⟩, -- GPIO_IN_SYNC_LO (R651)
   ⟨.pin, 0x10c, 1, 0x0, 1, 0x0,
    [⟨31, 0, .ro, 0, .none, .dash⟩]⟩, -- GPIO_IN_SYNC_HI (R651)
   ⟨.pin, 0x110, 4, 0x4, 1, 0x0,
    [⟨31, 16, .wo, 0, .none, .immediate⟩, ⟨15, 0, .rw, 0, .none, .immediate⟩]⟩, -- GPIO_OUT_M (R651)
   ⟨.pin, 0x120, 4, 0x4, 1, 0x0,
    [⟨31, 16, .wo, 0, .none, .immediate⟩, ⟨15, 0, .rw, 0, .none, .immediate⟩]⟩, -- GPIO_OE_M (R651)
   ⟨.pin, 0x130, 1, 0x0, 1, 0x0,
    [⟨31, 31, .w1c, 0, .none, .immediate⟩, ⟨27, 24, .ro, 0, .none, .dash⟩, ⟨21, 16, .ro, 0, .none, .dash⟩, ⟨15, 0, .w1c, 0, .none, .immediate⟩]⟩, -- PIN_CLAIMERR (R651)
   ⟨.pin, 0x140, 1, 0x0, 1, 0x0,
    [⟨31, 0, .w1c, 0, .none, .immediate⟩]⟩, -- PIN_IRQ_STATUS_LO (R651)
   ⟨.pin, 0x144, 1, 0x0, 1, 0x0,
    [⟨31, 0, .w1c, 0, .none, .immediate⟩]⟩, -- PIN_IRQ_STATUS_HI (R651)
   ⟨.pin, 0x200, 4, 0x10, 1, 0x0,
    [⟨31, 28, .rw, 0, .none, .immediate⟩, ⟨19, 0, .rw, 0, .none, .immediate⟩]⟩, -- PIN_FT (R651)
   ⟨.pin, 0x204, 4, 0x10, 1, 0x0,
    [⟨31, 0, .ro, 0, .none, .dash⟩]⟩, -- PIN_FT_OWNER (R651)
   ⟨.pin, 0x208, 4, 0x10, 1, 0x0,
    [⟨0, 0, .wo, 0, .none, .immediate⟩]⟩, -- PIN_FT_OP (R651)
   ⟨.pin, 0x400, 2, 0x20, 1, 0x0,
    [⟨31, 31, .rw, 0, .none, .immediate⟩, ⟨15, 0, .rw, 0, .none, .immediate⟩]⟩, -- UART_CTRL (R651)
   ⟨.pin, 0x404, 2, 0x20, 1, 0x0,
    [⟨8, 8, .ro, 0, .none, .dash⟩, ⟨7, 0, .rw, 0, .none, .immediate⟩]⟩, -- UART_DATA (R651)
   ⟨.pin, 0x408, 2, 0x20, 1, 0x0,
    [⟨31, 31, .w1c, 0, .none, .immediate⟩, ⟨30, 30, .w1c, 0, .none, .immediate⟩, ⟨12, 8, .ro, 0, .none, .dash⟩, ⟨4, 0, .ro, 0, .none, .dash⟩]⟩, -- UART_STAT (R651)
   ⟨.pin, 0x500, 2, 0x20, 1, 0x0,
    [⟨31, 31, .rw, 0, .none, .immediate⟩, ⟨1, 0, .rw, 0, .none, .immediate⟩]⟩, -- I2C_CTRL (R651)
   ⟨.pin, 0x504, 2, 0x20, 1, 0x0,
    [⟨11, 11, .wo, 0, .none, .immediate⟩, ⟨10, 10, .wo, 0, .none, .immediate⟩, ⟨9, 8, .wo, 0, .none, .immediate⟩, ⟨7, 0, .wo, 0, .none, .immediate⟩]⟩, -- I2C_CMD (R651)
   ⟨.pin, 0x508, 2, 0x20, 1, 0x0,
    [⟨31, 31, .ro, 0, .none, .dash⟩, ⟨30, 30, .w1c, 0, .none, .immediate⟩, ⟨29, 29, .w1c, 0, .none, .immediate⟩, ⟨28, 28, .ro, 0, .none, .dash⟩, ⟨7, 0, .ro, 0, .none, .dash⟩]⟩, -- I2C_STAT (R651)
   ⟨.pin, 0x600, 4, 0x10, 1, 0x0,
    [⟨31, 31, .rw, 0, .none, .immediate⟩, ⟨23, 16, .rw, 0x5a, .none, .immediate⟩, ⟨15, 8, .rw, 0x32, .none, .immediate⟩, ⟨7, 0, .rw, 0xff, .none, .immediate⟩]⟩, -- FAN_CTRL (R651)
   ⟨.pin, 0x604, 4, 0x10, 1, 0x0,
    [⟨15, 0, .ro, 0, .none, .dash⟩]⟩, -- FAN_STAT (R651)
   ⟨.pin, 0x700, 8, 0x10, 1, 0x0,
    [⟨31, 31, .w1c, 0, .none, .immediate⟩, ⟨2, 0, .rw, 0, .none, .immediate⟩]⟩, -- PIN_TMR_CTRL (R651)
   ⟨.pin, 0x704, 8, 0x10, 1, 0x0,
    [⟨31, 0, .rw, 0, .none, .immediate⟩]⟩, -- PIN_TMR_VAL (R651)
   ⟨.pin, 0x7f0, 1, 0x0, 1, 0x0,
    [⟨31, 0, .ro, 0, .none, .dash⟩]⟩] -- PIN_TICKS (R651)

/-- The registers of block UIO. -/
def regsUIO : List RegDesc :=
  [⟨.uio, 0x0, 576, 0x4, 1, 0x0,
    [⟨31, 29, .rw, 0, .lock, .commit⟩, ⟨28, 27, .rw, 0, .lock, .commit⟩, ⟨26, 25, .rw, 0, .lock, .commit⟩, ⟨24, 24, .rw, 0, .lock, .commit⟩, ⟨23, 23, .rw, 0, .lock, .commit⟩, ⟨22, 18, .rw, 0, .lock, .commit⟩, ⟨17, 17, .rw, 0, .lock, .commit⟩, ⟨16, 11, .rw, 0, .lock, .commit⟩]⟩] -- UIO_PAD (R667)

/-- Every register of the manual. -/
def regTable : List RegDesc :=
  regsHUB ++ regsSLT ++ regsFLN ++ regsSEC ++ regsSPL ++ regsMCA ++ regsSEG ++ regsRTR ++ regsHRG ++ regsVEN ++ regsSTR ++ regsSEP ++ regsDDR ++ regsOBS ++ regsQUE ++ regsPCI ++ regsLOD ++ regsXCV ++ regsCFG ++ regsCLK ++ regsPWR ++ regsTHM ++ regsLCS ++ regsPIN ++ regsUIO

/-- HUB_IDENT, R10. -/
def Reg.HUB_IDENT : Nat := 0x0
def Fld.HUB_IDENT_PART : RField := ⟨Reg.HUB_IDENT, 31, 16⟩
def Fld.HUB_IDENT_SPEED : RField := ⟨Reg.HUB_IDENT, 15, 12⟩
def Fld.HUB_IDENT_TEMP : RField := ⟨Reg.HUB_IDENT, 11, 8⟩
def Fld.HUB_IDENT_DIE_PRESENT : RField := ⟨Reg.HUB_IDENT, 7, 4⟩
/-- HUB_STEP, R44. -/
def Reg.HUB_STEP : Nat := 0x4
def Fld.HUB_STEP_STEP : RField := ⟨Reg.HUB_STEP, 15, 0⟩
/-- HUB_FEATWORD, R44. -/
def Reg.HUB_FEATWORD : Nat := 0x8
def Fld.HUB_FEATWORD_WORD : RField := ⟨Reg.HUB_FEATWORD, 31, 0⟩
/-- HUB_FEATURES, R44. -/
def Reg.HUB_FEATURES : Nat := 0xc
def Fld.HUB_FEATURES_COMMON : RField := ⟨Reg.HUB_FEATURES, 31, 0⟩
/-- HUB_ASSEMBLY, R44. -/
def Reg.HUB_ASSEMBLY : Nat := 0x10
def Fld.HUB_ASSEMBLY_DEGRADED : RField := ⟨Reg.HUB_ASSEMBLY, 16, 16⟩
def Fld.HUB_ASSEMBLY_MIN_STEP : RField := ⟨Reg.HUB_ASSEMBLY, 15, 0⟩
/-- HUB_DIE_STATUS, R44. -/
def Reg.HUB_DIE_STATUS (n : Nat) : Nat := 0x20 + 0x4 * n
def Fld.HUB_DIE_STATUS_STATE (n : Nat) : RField := ⟨Reg.HUB_DIE_STATUS n, 31, 28⟩
def Fld.HUB_DIE_STATUS_POS (n : Nat) : RField := ⟨Reg.HUB_DIE_STATUS n, 22, 20⟩
def Fld.HUB_DIE_STATUS_MIRROR (n : Nat) : RField := ⟨Reg.HUB_DIE_STATUS n, 19, 19⟩
def Fld.HUB_DIE_STATUS_STEP (n : Nat) : RField := ⟨Reg.HUB_DIE_STATUS n, 15, 0⟩
/-- SLT_IDENT, R44. -/
def Reg.SLT_IDENT (d : Nat) : Nat := 0x1000000 + 0x1000000 * d
def Fld.SLT_IDENT_STEP (d : Nat) : RField := ⟨Reg.SLT_IDENT d, 31, 16⟩
/-- SLT_FEATWORD, R44. -/
def Reg.SLT_FEATWORD (d : Nat) : Nat := 0x1000004 + 0x1000000 * d
def Fld.SLT_FEATWORD_WORD (d : Nat) : RField := ⟨Reg.SLT_FEATWORD d, 31, 0⟩
/-- SLT_ORIENT, R44. -/
def Reg.SLT_ORIENT (d : Nat) : Nat := 0x1000008 + 0x1000000 * d
def Fld.SLT_ORIENT_POS (d : Nat) : RField := ⟨Reg.SLT_ORIENT d, 10, 8⟩
def Fld.SLT_ORIENT_MICA_MIRROR (d : Nat) : RField := ⟨Reg.SLT_ORIENT d, 5, 5⟩
def Fld.SLT_ORIENT_XFLIP (d : Nat) : RField := ⟨Reg.SLT_ORIENT d, 4, 4⟩
def Fld.SLT_ORIENT_ROT (d : Nat) : RField := ⟨Reg.SLT_ORIENT d, 1, 0⟩
/-- FLN_STATUS, R82. -/
def Reg.FLN_STATUS : Nat := 0x10000
def Fld.FLN_STATUS_WDOG_COUNT : RField := ⟨Reg.FLN_STATUS, 15, 8⟩
def Fld.FLN_STATUS_FLINT_DOWN : RField := ⟨Reg.FLN_STATUS, 3, 3⟩
def Fld.FLN_STATUS_RECOVERY : RField := ⟨Reg.FLN_STATUS, 2, 2⟩
def Fld.FLN_STATUS_HANDED : RField := ⟨Reg.FLN_STATUS, 1, 1⟩
def Fld.FLN_STATUS_STARTWIN : RField := ⟨Reg.FLN_STATUS, 0, 0⟩
/-- FLN_BUSERR_LOG, R82. -/
def Reg.FLN_BUSERR_LOG : Nat := 0x10004
def Fld.FLN_BUSERR_LOG_VALID : RField := ⟨Reg.FLN_BUSERR_LOG, 31, 31⟩
def Fld.FLN_BUSERR_LOG_WRITE : RField := ⟨Reg.FLN_BUSERR_LOG, 30, 30⟩
def Fld.FLN_BUSERR_LOG_PATH : RField := ⟨Reg.FLN_BUSERR_LOG, 29, 28⟩
def Fld.FLN_BUSERR_LOG_KIND : RField := ⟨Reg.FLN_BUSERR_LOG, 27, 25⟩
def Fld.FLN_BUSERR_LOG_ADDR : RField := ⟨Reg.FLN_BUSERR_LOG, 24, 0⟩
/-- FLN_BUSERR_COUNT, R82. -/
def Reg.FLN_BUSERR_COUNT : Nat := 0x10008
def Fld.FLN_BUSERR_COUNT_COUNT : RField := ⟨Reg.FLN_BUSERR_COUNT, 15, 0⟩
/-- FLN_IRQ_STATUS, R82. -/
def Reg.FLN_IRQ_STATUS : Nat := 0x1000c
def Fld.FLN_IRQ_STATUS_WDOG : RField := ⟨Reg.FLN_IRQ_STATUS, 3, 3⟩
def Fld.FLN_IRQ_STATUS_LEASE : RField := ⟨Reg.FLN_IRQ_STATUS, 2, 2⟩
def Fld.FLN_IRQ_STATUS_FWFAULT : RField := ⟨Reg.FLN_IRQ_STATUS, 1, 1⟩
def Fld.FLN_IRQ_STATUS_BUSERR : RField := ⟨Reg.FLN_IRQ_STATUS, 0, 0⟩
/-- FLN_IRQ_ENABLE, R82. -/
def Reg.FLN_IRQ_ENABLE : Nat := 0x10010
def Fld.FLN_IRQ_ENABLE_WDOG : RField := ⟨Reg.FLN_IRQ_ENABLE, 3, 3⟩
def Fld.FLN_IRQ_ENABLE_LEASE : RField := ⟨Reg.FLN_IRQ_ENABLE, 2, 2⟩
def Fld.FLN_IRQ_ENABLE_FWFAULT : RField := ⟨Reg.FLN_IRQ_ENABLE, 1, 1⟩
def Fld.FLN_IRQ_ENABLE_BUSERR : RField := ⟨Reg.FLN_IRQ_ENABLE, 0, 0⟩
/-- FLN_REVOKE, R82. -/
def Reg.FLN_REVOKE : Nat := 0x10014
def Fld.FLN_REVOKE_OWNER : RField := ⟨Reg.FLN_REVOKE, 31, 0⟩
/-- FLN_LEASE_LOG, R82. -/
def Reg.FLN_LEASE_LOG : Nat := 0x10018
def Fld.FLN_LEASE_LOG_OWNER : RField := ⟨Reg.FLN_LEASE_LOG, 31, 0⟩
/-- FLN_LEASE_STAT, R82. -/
def Reg.FLN_LEASE_STAT : Nat := 0x1001c
def Fld.FLN_LEASE_STAT_BUSY : RField := ⟨Reg.FLN_LEASE_STAT, 31, 31⟩
def Fld.FLN_LEASE_STAT_COUNT : RField := ⟨Reg.FLN_LEASE_STAT, 15, 0⟩
/-- FLN_SEM, R82. -/
def Reg.FLN_SEM (k : Nat) : Nat := 0x10100 + 0x4 * k
def Fld.FLN_SEM_OWNER (k : Nat) : RField := ⟨Reg.FLN_SEM k, 31, 0⟩
/-- FLN_SEM_OP, R82. -/
def Reg.FLN_SEM_OP (k : Nat) : Nat := 0x10200 + 0x4 * k
def Fld.FLN_SEM_OP_OP (k : Nat) : RField := ⟨Reg.FLN_SEM_OP k, 0, 0⟩
/-- SEC_FABRIC, R117. -/
def Reg.SEC_FABRIC (d m : Nat) : Nat := 0x1100800 + 0x1000000 * d + 0x10000 * m
def Fld.SEC_FABRIC_OWNED (d m : Nat) : RField := ⟨Reg.SEC_FABRIC d m, 31, 31⟩
def Fld.SEC_FABRIC_REGION (d m : Nat) : RField := ⟨Reg.SEC_FABRIC d m, 30, 23⟩
def Fld.SEC_FABRIC_HOLD (d m : Nat) : RField := ⟨Reg.SEC_FABRIC d m, 22, 22⟩
def Fld.SEC_FABRIC_CLKGATED (d m : Nat) : RField := ⟨Reg.SEC_FABRIC d m, 21, 21⟩
def Fld.SEC_FABRIC_DYNCLUSTERS (d m : Nat) : RField := ⟨Reg.SEC_FABRIC d m, 14, 0⟩
/-- SPL_PLL_CTRL, R181. -/
def Reg.SPL_PLL_CTRL (d p : Nat) : Nat := 0x1010000 + 0x1000000 * d + 0x20 * p
def Fld.SPL_PLL_CTRL_EN (d p : Nat) : RField := ⟨Reg.SPL_PLL_CTRL d p, 31, 31⟩
def Fld.SPL_PLL_CTRL_ALIGN (d p : Nat) : RField := ⟨Reg.SPL_PLL_CTRL d p, 30, 30⟩
def Fld.SPL_PLL_CTRL_N (d p : Nat) : RField := ⟨Reg.SPL_PLL_CTRL d p, 21, 16⟩
/-- SPL_PLL_FRAC, R181. -/
def Reg.SPL_PLL_FRAC (d p : Nat) : Nat := 0x1010004 + 0x1000000 * d + 0x20 * p
def Fld.SPL_PLL_FRAC_FRAC (d p : Nat) : RField := ⟨Reg.SPL_PLL_FRAC d p, 23, 0⟩
/-- SPL_PLL_OUT, R181. -/
def Reg.SPL_PLL_OUT (d p : Nat) : Nat := 0x1010008 + 0x1000000 * d + 0x20 * p
def Fld.SPL_PLL_OUT_OEN3 (d p : Nat) : RField := ⟨Reg.SPL_PLL_OUT d p, 31, 31⟩
def Fld.SPL_PLL_OUT_DIV3 (d p : Nat) : RField := ⟨Reg.SPL_PLL_OUT d p, 30, 24⟩
def Fld.SPL_PLL_OUT_OEN2 (d p : Nat) : RField := ⟨Reg.SPL_PLL_OUT d p, 23, 23⟩
def Fld.SPL_PLL_OUT_DIV2 (d p : Nat) : RField := ⟨Reg.SPL_PLL_OUT d p, 22, 16⟩
def Fld.SPL_PLL_OUT_OEN1 (d p : Nat) : RField := ⟨Reg.SPL_PLL_OUT d p, 15, 15⟩
def Fld.SPL_PLL_OUT_DIV1 (d p : Nat) : RField := ⟨Reg.SPL_PLL_OUT d p, 14, 8⟩
def Fld.SPL_PLL_OUT_OEN0 (d p : Nat) : RField := ⟨Reg.SPL_PLL_OUT d p, 7, 7⟩
def Fld.SPL_PLL_OUT_DIV0 (d p : Nat) : RField := ⟨Reg.SPL_PLL_OUT d p, 6, 0⟩
/-- SPL_PLL_STATUS, R181. -/
def Reg.SPL_PLL_STATUS (d p : Nat) : Nat := 0x101000c + 0x1000000 * d + 0x20 * p
def Fld.SPL_PLL_STATUS_BADCFG (d p : Nat) : RField := ⟨Reg.SPL_PLL_STATUS d p, 2, 2⟩
def Fld.SPL_PLL_STATUS_LOSTLOCK (d p : Nat) : RField := ⟨Reg.SPL_PLL_STATUS d p, 1, 1⟩
def Fld.SPL_PLL_STATUS_LOCKED (d p : Nat) : RField := ⟨Reg.SPL_PLL_STATUS d p, 0, 0⟩
/-- SPL_SPINE, R181. -/
def Reg.SPL_SPINE (d k : Nat) : Nat := 0x1010100 + 0x1000000 * d + 0x4 * k
def Fld.SPL_SPINE_EN (d k : Nat) : RField := ⟨Reg.SPL_SPINE d k, 31, 31⟩
def Fld.SPL_SPINE_SRC (d k : Nat) : RField := ⟨Reg.SPL_SPINE d k, 5, 0⟩
/-- SPL_WCLK, R181. -/
def Reg.SPL_WCLK (d b : Nat) : Nat := 0x1010180 + 0x1000000 * d + 0x4 * b
def Fld.SPL_WCLK_SPINE (d b : Nat) : RField := ⟨Reg.SPL_WCLK d b, 3, 0⟩
/-- SPL_STATUS, R181. -/
def Reg.SPL_STATUS (d : Nat) : Nat := 0x1010200 + 0x1000000 * d
def Fld.SPL_STATUS_SPINE_RUN (d : Nat) : RField := ⟨Reg.SPL_STATUS d, 31, 16⟩
def Fld.SPL_STATUS_SRC_REFUSED (d : Nat) : RField := ⟨Reg.SPL_STATUS d, 0, 0⟩
/-- SEC_RCLK, R182. -/
def Reg.SEC_RCLK (d m t : Nat) : Nat := 0x1100000 + 0x1000000 * d + 0x10000 * m + 0x4 * t
def Fld.SEC_RCLK_SWITCH_PENDING (d m t : Nat) : RField := ⟨Reg.SEC_RCLK d m t, 31, 31⟩
def Fld.SEC_RCLK_ACTIVE (d m t : Nat) : RField := ⟨Reg.SEC_RCLK d m t, 30, 29⟩
def Fld.SEC_RCLK_DIV (d m t : Nat) : RField := ⟨Reg.SEC_RCLK d m t, 26, 24⟩
def Fld.SEC_RCLK_SEL (d m t : Nat) : RField := ⟨Reg.SEC_RCLK d m t, 21, 20⟩
def Fld.SEC_RCLK_IN3_SRC (d m t : Nat) : RField := ⟨Reg.SEC_RCLK d m t, 19, 15⟩
def Fld.SEC_RCLK_IN2_SRC (d m t : Nat) : RField := ⟨Reg.SEC_RCLK d m t, 14, 10⟩
def Fld.SEC_RCLK_IN1_SRC (d m t : Nat) : RField := ⟨Reg.SEC_RCLK d m t, 9, 5⟩
def Fld.SEC_RCLK_IN0_SRC (d m t : Nat) : RField := ⟨Reg.SEC_RCLK d m t, 4, 0⟩
/-- SEC_RCLK_RST, R182. -/
def Reg.SEC_RCLK_RST (d m : Nat) : Nat := 0x1100060 + 0x1000000 * d + 0x10000 * m
def Fld.SEC_RCLK_RST_RST (d m : Nat) : RField := ⟨Reg.SEC_RCLK_RST d m, 23, 0⟩
/-- MCA_STATUS, R220. -/
def Reg.MCA_STATUS (d : Nat) : Nat := 0x1800000 + 0x1000000 * d
def Fld.MCA_STATUS_ERASE_REFUSED (d : Nat) : RField := ⟨Reg.MCA_STATUS d, 4, 4⟩
def Fld.MCA_STATUS_ERASE_BUSY (d : Nat) : RField := ⟨Reg.MCA_STATUS d, 3, 3⟩
def Fld.MCA_STATUS_INIT_DONE (d : Nat) : RField := ⟨Reg.MCA_STATUS d, 2, 2⟩
def Fld.MCA_STATUS_THROTTLE (d : Nat) : RField := ⟨Reg.MCA_STATUS d, 1, 0⟩
/-- MCA_CECOUNT, R220. -/
def Reg.MCA_CECOUNT (d : Nat) : Nat := 0x1800004 + 0x1000000 * d
def Fld.MCA_CECOUNT_COUNT (d : Nat) : RField := ⟨Reg.MCA_CECOUNT d, 31, 0⟩
/-- MCA_UECOUNT, R220. -/
def Reg.MCA_UECOUNT (d : Nat) : Nat := 0x1800008 + 0x1000000 * d
def Fld.MCA_UECOUNT_COUNT (d : Nat) : RField := ⟨Reg.MCA_UECOUNT d, 15, 0⟩
/-- MCA_LOGOVF, R220. -/
def Reg.MCA_LOGOVF (d : Nat) : Nat := 0x180000c + 0x1000000 * d
def Fld.MCA_LOGOVF_COUNT (d : Nat) : RField := ⟨Reg.MCA_LOGOVF d, 15, 0⟩
/-- MCA_CETHRESH, R220. -/
def Reg.MCA_CETHRESH (d : Nat) : Nat := 0x1800010 + 0x1000000 * d
def Fld.MCA_CETHRESH_THRESH (d : Nat) : RField := ⟨Reg.MCA_CETHRESH d, 7, 0⟩
/-- MCA_UELOG, R220. -/
def Reg.MCA_UELOG (d : Nat) : Nat := 0x1800014 + 0x1000000 * d
def Fld.MCA_UELOG_VALID (d : Nat) : RField := ⟨Reg.MCA_UELOG d, 31, 31⟩
def Fld.MCA_UELOG_VEIN (d : Nat) : RField := ⟨Reg.MCA_UELOG d, 30, 30⟩
def Fld.MCA_UELOG_ADDR (d : Nat) : RField := ⟨Reg.MCA_UELOG d, 23, 0⟩
/-- MCA_IRQ_STATUS, R220. -/
def Reg.MCA_IRQ_STATUS (d : Nat) : Nat := 0x1800018 + 0x1000000 * d
def Fld.MCA_IRQ_STATUS_THROTTLE (d : Nat) : RField := ⟨Reg.MCA_IRQ_STATUS d, 3, 3⟩
def Fld.MCA_IRQ_STATUS_LOGOVF (d : Nat) : RField := ⟨Reg.MCA_IRQ_STATUS d, 2, 2⟩
def Fld.MCA_IRQ_STATUS_UE (d : Nat) : RField := ⟨Reg.MCA_IRQ_STATUS d, 1, 1⟩
def Fld.MCA_IRQ_STATUS_STICKY (d : Nat) : RField := ⟨Reg.MCA_IRQ_STATUS d, 0, 0⟩
/-- MCA_IRQ_ENABLE, R220. -/
def Reg.MCA_IRQ_ENABLE (d : Nat) : Nat := 0x180001c + 0x1000000 * d
def Fld.MCA_IRQ_ENABLE_THROTTLE (d : Nat) : RField := ⟨Reg.MCA_IRQ_ENABLE d, 3, 3⟩
def Fld.MCA_IRQ_ENABLE_LOGOVF (d : Nat) : RField := ⟨Reg.MCA_IRQ_ENABLE d, 2, 2⟩
def Fld.MCA_IRQ_ENABLE_UE (d : Nat) : RField := ⟨Reg.MCA_IRQ_ENABLE d, 1, 1⟩
def Fld.MCA_IRQ_ENABLE_STICKY (d : Nat) : RField := ⟨Reg.MCA_IRQ_ENABLE d, 0, 0⟩
/-- MCA_ERASE, R220. -/
def Reg.MCA_ERASE (d : Nat) : Nat := 0x1800020 + 0x1000000 * d
def Fld.MCA_ERASE_GO (d : Nat) : RField := ⟨Reg.MCA_ERASE d, 31, 31⟩
def Fld.MCA_ERASE_INDEX (d : Nat) : RField := ⟨Reg.MCA_ERASE d, 7, 0⟩
/-- MCA_EXPORT, R220. -/
def Reg.MCA_EXPORT (d w : Nat) : Nat := 0x1800040 + 0x1000000 * d + 0x4 * w
def Fld.MCA_EXPORT_EXPORT (d w : Nat) : RField := ⟨Reg.MCA_EXPORT d w, 31, 0⟩
/-- MCA_LOG_A, R220. -/
def Reg.MCA_LOG_A (d e : Nat) : Nat := 0x1800100 + 0x1000000 * d + 0x8 * e
def Fld.MCA_LOG_A_VALID (d e : Nat) : RField := ⟨Reg.MCA_LOG_A d e, 31, 31⟩
def Fld.MCA_LOG_A_VEIN (d e : Nat) : RField := ⟨Reg.MCA_LOG_A d e, 30, 30⟩
def Fld.MCA_LOG_A_STICKY (d e : Nat) : RField := ⟨Reg.MCA_LOG_A d e, 29, 29⟩
def Fld.MCA_LOG_A_ADDR (d e : Nat) : RField := ⟨Reg.MCA_LOG_A d e, 23, 0⟩
/-- MCA_LOG_B, R220. -/
def Reg.MCA_LOG_B (d e : Nat) : Nat := 0x1800104 + 0x1000000 * d + 0x8 * e
def Fld.MCA_LOG_B_COUNT (d e : Nat) : RField := ⟨Reg.MCA_LOG_B d e, 31, 24⟩
def Fld.MCA_LOG_B_BIT (d e : Nat) : RField := ⟨Reg.MCA_LOG_B d e, 6, 0⟩
/-- SEG_GSTATUS, R272. -/
def Reg.SEG_GSTATUS (d m : Nat) : Nat := 0x1600000 + 0x1000000 * d + 0x1000 * m
def Fld.SEG_GSTATUS_RUNNING (d m : Nat) : RField := ⟨Reg.SEG_GSTATUS d m, 27, 16⟩
def Fld.SEG_GSTATUS_FAULTED (d m : Nat) : RField := ⟨Reg.SEG_GSTATUS d m, 11, 0⟩
/-- SEG_BCAST, R272. -/
def Reg.SEG_BCAST (d m : Nat) : Nat := 0x1600004 + 0x1000000 * d + 0x1000 * m
def Fld.SEG_BCAST_MASK (d m : Nat) : RField := ⟨Reg.SEG_BCAST d m, 11, 0⟩
/-- SEG_CECOUNT, R272. -/
def Reg.SEG_CECOUNT (d m : Nat) : Nat := 0x1600008 + 0x1000000 * d + 0x1000 * m
def Fld.SEG_CECOUNT_COUNT (d m : Nat) : RField := ⟨Reg.SEG_CECOUNT d m, 15, 0⟩
/-- SEG_UECOUNT, R272. -/
def Reg.SEG_UECOUNT (d m : Nat) : Nat := 0x160000c + 0x1000000 * d + 0x1000 * m
def Fld.SEG_UECOUNT_COUNT (d m : Nat) : RField := ⟨Reg.SEG_UECOUNT d m, 15, 0⟩
/-- SEG_ECCLOG, R272. -/
def Reg.SEG_ECCLOG (d m : Nat) : Nat := 0x1600010 + 0x1000000 * d + 0x1000 * m
def Fld.SEG_ECCLOG_VALID (d m : Nat) : RField := ⟨Reg.SEG_ECCLOG d m, 31, 31⟩
def Fld.SEG_ECCLOG_UNCORR (d m : Nat) : RField := ⟨Reg.SEG_ECCLOG d m, 30, 30⟩
def Fld.SEG_ECCLOG_ENGINE (d m : Nat) : RField := ⟨Reg.SEG_ECCLOG d m, 19, 16⟩
def Fld.SEG_ECCLOG_MEM (d m : Nat) : RField := ⟨Reg.SEG_ECCLOG d m, 13, 12⟩
def Fld.SEG_ECCLOG_WORD (d m : Nat) : RField := ⟨Reg.SEG_ECCLOG d m, 9, 0⟩
/-- SEG_IRQ_STATUS, R272. -/
def Reg.SEG_IRQ_STATUS (d m : Nat) : Nat := 0x1600014 + 0x1000000 * d + 0x1000 * m
def Fld.SEG_IRQ_STATUS_UE (d m : Nat) : RField := ⟨Reg.SEG_IRQ_STATUS d m, 2, 2⟩
def Fld.SEG_IRQ_STATUS_CE (d m : Nat) : RField := ⟨Reg.SEG_IRQ_STATUS d m, 1, 1⟩
def Fld.SEG_IRQ_STATUS_FAULT (d m : Nat) : RField := ⟨Reg.SEG_IRQ_STATUS d m, 0, 0⟩
/-- SEG_IRQ_ENABLE, R272. -/
def Reg.SEG_IRQ_ENABLE (d m : Nat) : Nat := 0x1600018 + 0x1000000 * d + 0x1000 * m
def Fld.SEG_IRQ_ENABLE_UE (d m : Nat) : RField := ⟨Reg.SEG_IRQ_ENABLE d m, 2, 2⟩
def Fld.SEG_IRQ_ENABLE_CE (d m : Nat) : RField := ⟨Reg.SEG_IRQ_ENABLE d m, 1, 1⟩
def Fld.SEG_IRQ_ENABLE_FAULT (d m : Nat) : RField := ⟨Reg.SEG_IRQ_ENABLE d m, 0, 0⟩
/-- SEG_ECTL, R272. -/
def Reg.SEG_ECTL (d m e : Nat) : Nat := 0x1600100 + 0x1000000 * d + 0x1000 * m + 0x80 * e
def Fld.SEG_ECTL_RUN (d m e : Nat) : RField := ⟨Reg.SEG_ECTL d m e, 31, 31⟩
def Fld.SEG_ECTL_HALT (d m e : Nat) : RField := ⟨Reg.SEG_ECTL d m e, 30, 30⟩
def Fld.SEG_ECTL_RESET (d m e : Nat) : RField := ⟨Reg.SEG_ECTL d m e, 29, 29⟩
def Fld.SEG_ECTL_USE_START (d m e : Nat) : RField := ⟨Reg.SEG_ECTL d m e, 28, 28⟩
def Fld.SEG_ECTL_START (d m e : Nat) : RField := ⟨Reg.SEG_ECTL d m e, 9, 0⟩
/-- SEG_ESTAT, R272. -/
def Reg.SEG_ESTAT (d m e : Nat) : Nat := 0x1600104 + 0x1000000 * d + 0x1000 * m + 0x80 * e
def Fld.SEG_ESTAT_STATE (d m e : Nat) : RField := ⟨Reg.SEG_ESTAT d m e, 31, 30⟩
def Fld.SEG_ESTAT_STALL (d m e : Nat) : RField := ⟨Reg.SEG_ESTAT d m e, 29, 26⟩
def Fld.SEG_ESTAT_PC (d m e : Nat) : RField := ⟨Reg.SEG_ESTAT d m e, 25, 16⟩
def Fld.SEG_ESTAT_RPTLEFT (d m e : Nat) : RField := ⟨Reg.SEG_ESTAT d m e, 12, 0⟩
/-- SEG_EFAULT, R272. -/
def Reg.SEG_EFAULT (d m e : Nat) : Nat := 0x1600108 + 0x1000000 * d + 0x1000 * m + 0x80 * e
def Fld.SEG_EFAULT_CAUSE (d m e : Nat) : RField := ⟨Reg.SEG_EFAULT d m e, 31, 24⟩
def Fld.SEG_EFAULT_ADDRLO (d m e : Nat) : RField := ⟨Reg.SEG_EFAULT d m e, 15, 0⟩
/-- SEG_DBELL, R272. -/
def Reg.SEG_DBELL (d m e : Nat) : Nat := 0x160010c + 0x1000000 * d + 0x1000 * m + 0x80 * e
def Fld.SEG_DBELL_BELL (d m e : Nat) : RField := ⟨Reg.SEG_DBELL d m e, 31, 0⟩
/-- RTR_CTRL, R356. -/
def Reg.RTR_CTRL (d m : Nat) : Nat := 0x1200000 + 0x1000000 * d + 0x10000 * m
def Fld.RTR_CTRL_TIMEOUT (d m : Nat) : RField := ⟨Reg.RTR_CTRL d m, 19, 0⟩
/-- RTR_POOL, R356. -/
def Reg.RTR_POOL (d m : Nat) : Nat := 0x1200004 + 0x1000000 * d + 0x10000 * m
def Fld.RTR_POOL_RESV_REFUSED (d m : Nat) : RField := ⟨Reg.RTR_POOL d m, 31, 31⟩
def Fld.RTR_POOL_FREE (d m : Nat) : RField := ⟨Reg.RTR_POOL d m, 25, 16⟩
def Fld.RTR_POOL_RESVSUM (d m : Nat) : RField := ⟨Reg.RTR_POOL d m, 9, 0⟩
/-- RTR_ERRCNT0, R356. -/
def Reg.RTR_ERRCNT0 (d m : Nat) : Nat := 0x1200008 + 0x1000000 * d + 0x10000 * m
def Fld.RTR_ERRCNT0_MALFORMED (d m : Nat) : RField := ⟨Reg.RTR_ERRCNT0 d m, 31, 16⟩
def Fld.RTR_ERRCNT0_LATE (d m : Nat) : RField := ⟨Reg.RTR_ERRCNT0 d m, 15, 0⟩
/-- RTR_ERRCNT1, R356. -/
def Reg.RTR_ERRCNT1 (d m : Nat) : Nat := 0x120000c + 0x1000000 * d + 0x10000 * m
def Fld.RTR_ERRCNT1_CRCERR (d m : Nat) : RField := ⟨Reg.RTR_ERRCNT1 d m, 31, 16⟩
def Fld.RTR_ERRCNT1_TIMEOUTS (d m : Nat) : RField := ⟨Reg.RTR_ERRCNT1 d m, 15, 0⟩
/-- RTR_ERRLOG, R356. -/
def Reg.RTR_ERRLOG (d m : Nat) : Nat := 0x1200010 + 0x1000000 * d + 0x10000 * m
def Fld.RTR_ERRLOG_VALID (d m : Nat) : RField := ⟨Reg.RTR_ERRLOG d m, 31, 31⟩
def Fld.RTR_ERRLOG_KIND (d m : Nat) : RField := ⟨Reg.RTR_ERRLOG d m, 30, 28⟩
def Fld.RTR_ERRLOG_PORT (d m : Nat) : RField := ⟨Reg.RTR_ERRLOG d m, 27, 24⟩
def Fld.RTR_ERRLOG_TAG (d m : Nat) : RField := ⟨Reg.RTR_ERRLOG d m, 23, 12⟩
def Fld.RTR_ERRLOG_STATUS (d m : Nat) : RField := ⟨Reg.RTR_ERRLOG d m, 11, 8⟩
def Fld.RTR_ERRLOG_CMD (d m : Nat) : RField := ⟨Reg.RTR_ERRLOG d m, 7, 0⟩
/-- RTR_IRQ_STATUS, R356. -/
def Reg.RTR_IRQ_STATUS (d m : Nat) : Nat := 0x1200014 + 0x1000000 * d + 0x10000 * m
def Fld.RTR_IRQ_STATUS_NOEP (d m : Nat) : RField := ⟨Reg.RTR_IRQ_STATUS d m, 4, 4⟩
def Fld.RTR_IRQ_STATUS_TIMEOUT (d m : Nat) : RField := ⟨Reg.RTR_IRQ_STATUS d m, 3, 3⟩
def Fld.RTR_IRQ_STATUS_CRC (d m : Nat) : RField := ⟨Reg.RTR_IRQ_STATUS d m, 2, 2⟩
def Fld.RTR_IRQ_STATUS_LATE (d m : Nat) : RField := ⟨Reg.RTR_IRQ_STATUS d m, 1, 1⟩
def Fld.RTR_IRQ_STATUS_MALFORMED (d m : Nat) : RField := ⟨Reg.RTR_IRQ_STATUS d m, 0, 0⟩
/-- RTR_IRQ_ENABLE, R356. -/
def Reg.RTR_IRQ_ENABLE (d m : Nat) : Nat := 0x1200018 + 0x1000000 * d + 0x10000 * m
def Fld.RTR_IRQ_ENABLE_NOEP (d m : Nat) : RField := ⟨Reg.RTR_IRQ_ENABLE d m, 4, 4⟩
def Fld.RTR_IRQ_ENABLE_TIMEOUT (d m : Nat) : RField := ⟨Reg.RTR_IRQ_ENABLE d m, 3, 3⟩
def Fld.RTR_IRQ_ENABLE_CRC (d m : Nat) : RField := ⟨Reg.RTR_IRQ_ENABLE d m, 2, 2⟩
def Fld.RTR_IRQ_ENABLE_LATE (d m : Nat) : RField := ⟨Reg.RTR_IRQ_ENABLE d m, 1, 1⟩
def Fld.RTR_IRQ_ENABLE_MALFORMED (d m : Nat) : RField := ⟨Reg.RTR_IRQ_ENABLE d m, 0, 0⟩
/-- RTR_PORT, R356. -/
def Reg.RTR_PORT (d m p : Nat) : Nat := 0x1200100 + 0x1000000 * d + 0x10000 * m + 0x4 * p
def Fld.RTR_PORT_PRESENT (d m p : Nat) : RField := ⟨Reg.RTR_PORT d m p, 31, 31⟩
def Fld.RTR_PORT_FENCED (d m p : Nat) : RField := ⟨Reg.RTR_PORT d m p, 30, 30⟩
def Fld.RTR_PORT_WAKING (d m p : Nat) : RField := ⟨Reg.RTR_PORT d m p, 29, 29⟩
def Fld.RTR_PORT_POLICY (d m p : Nat) : RField := ⟨Reg.RTR_PORT d m p, 28, 28⟩
def Fld.RTR_PORT_RESV (d m p : Nat) : RField := ⟨Reg.RTR_PORT d m p, 24, 16⟩
def Fld.RTR_PORT_OUTST (d m p : Nat) : RField := ⟨Reg.RTR_PORT d m p, 6, 0⟩
/-- HRG_COLMAP, R357. -/
def Reg.HRG_COLMAP : Nat := 0x100000
def Fld.HRG_COLMAP_LIVE3 : RField := ⟨Reg.HRG_COLMAP, 31, 24⟩
def Fld.HRG_COLMAP_LIVE2 : RField := ⟨Reg.HRG_COLMAP, 23, 16⟩
def Fld.HRG_COLMAP_LIVE1 : RField := ⟨Reg.HRG_COLMAP, 15, 8⟩
def Fld.HRG_COLMAP_LIVE0 : RField := ⟨Reg.HRG_COLMAP, 7, 0⟩
/-- HRG_DIEPOL, R357. -/
def Reg.HRG_DIEPOL : Nat := 0x100004
def Fld.HRG_DIEPOL_FENCE : RField := ⟨Reg.HRG_DIEPOL, 3, 0⟩
/-- HRG_UNREACH, R357. -/
def Reg.HRG_UNREACH : Nat := 0x100008
def Fld.HRG_UNREACH_COUNT : RField := ⟨Reg.HRG_UNREACH, 15, 0⟩
/-- HRG_FENCEDROP, R357. -/
def Reg.HRG_FENCEDROP : Nat := 0x10000c
def Fld.HRG_FENCEDROP_COUNT : RField := ⟨Reg.HRG_FENCEDROP, 15, 0⟩
/-- HRG_POL_LO, R357. -/
def Reg.HRG_POL_LO (x : Nat) : Nat := 0x100100 + 0x8 * x
def Fld.HRG_POL_LO_POLICY_B (x : Nat) : RField := ⟨Reg.HRG_POL_LO x, 31, 16⟩
def Fld.HRG_POL_LO_POLICY_A (x : Nat) : RField := ⟨Reg.HRG_POL_LO x, 15, 0⟩
/-- HRG_POL_HI, R357. -/
def Reg.HRG_POL_HI (x : Nat) : Nat := 0x100104 + 0x8 * x
def Fld.HRG_POL_HI_POLICY_B (x : Nat) : RField := ⟨Reg.HRG_POL_HI x, 31, 16⟩
def Fld.HRG_POL_HI_POLICY_A (x : Nat) : RField := ⟨Reg.HRG_POL_HI x, 15, 0⟩
/-- HRG_CTRL, R398. -/
def Reg.HRG_CTRL : Nat := 0x100010
def Fld.HRG_CTRL_SNPTIMEOUT : RField := ⟨Reg.HRG_CTRL, 15, 0⟩
/-- HRG_DDRTOP, R398. -/
def Reg.HRG_DDRTOP : Nat := 0x100014
def Fld.HRG_DDRTOP_GIB : RField := ⟨Reg.HRG_DDRTOP, 11, 0⟩
/-- HRG_FLUSH_BASE_LO, R398. -/
def Reg.HRG_FLUSH_BASE_LO : Nat := 0x100020
def Fld.HRG_FLUSH_BASE_LO_VALUE : RField := ⟨Reg.HRG_FLUSH_BASE_LO, 31, 0⟩
/-- HRG_FLUSH_BASE_HI, R398. -/
def Reg.HRG_FLUSH_BASE_HI : Nat := 0x100024
def Fld.HRG_FLUSH_BASE_HI_VALUE : RField := ⟨Reg.HRG_FLUSH_BASE_HI, 31, 0⟩
/-- HRG_FLUSH_LINES, R398. -/
def Reg.HRG_FLUSH_LINES : Nat := 0x100028
def Fld.HRG_FLUSH_LINES_VALUE : RField := ⟨Reg.HRG_FLUSH_LINES, 31, 0⟩
/-- HRG_FLUSH_CTRL, R398. -/
def Reg.HRG_FLUSH_CTRL : Nat := 0x10002c
def Fld.HRG_FLUSH_CTRL_GO : RField := ⟨Reg.HRG_FLUSH_CTRL, 31, 31⟩
def Fld.HRG_FLUSH_CTRL_BUSY : RField := ⟨Reg.HRG_FLUSH_CTRL, 30, 30⟩
def Fld.HRG_FLUSH_CTRL_REFUSED : RField := ⟨Reg.HRG_FLUSH_CTRL, 29, 29⟩
def Fld.HRG_FLUSH_CTRL_DONE : RField := ⟨Reg.HRG_FLUSH_CTRL, 28, 28⟩
def Fld.HRG_FLUSH_CTRL_MODE : RField := ⟨Reg.HRG_FLUSH_CTRL, 0, 0⟩
/-- HRG_HA_STAT, R398. -/
def Reg.HRG_HA_STAT (h : Nat) : Nat := 0x100200 + 0x10 * h
def Fld.HRG_HA_STAT_TXN (h : Nat) : RField := ⟨Reg.HRG_HA_STAT h, 31, 22⟩
def Fld.HRG_HA_STAT_DIRUSED (h : Nat) : RField := ⟨Reg.HRG_HA_STAT h, 16, 0⟩
/-- HRG_HA_CNT, R398. -/
def Reg.HRG_HA_CNT (h : Nat) : Nat := 0x100204 + 0x10 * h
def Fld.HRG_HA_CNT_BINV (h : Nat) : RField := ⟨Reg.HRG_HA_CNT h, 31, 16⟩
def Fld.HRG_HA_CNT_LOST (h : Nat) : RField := ⟨Reg.HRG_HA_CNT h, 15, 0⟩
/-- HRG_HA_ERRLOG_A, R398. -/
def Reg.HRG_HA_ERRLOG_A (h : Nat) : Nat := 0x100208 + 0x10 * h
def Fld.HRG_HA_ERRLOG_A_VALID (h : Nat) : RField := ⟨Reg.HRG_HA_ERRLOG_A h, 31, 31⟩
def Fld.HRG_HA_ERRLOG_A_KIND (h : Nat) : RField := ⟨Reg.HRG_HA_ERRLOG_A h, 30, 27⟩
def Fld.HRG_HA_ERRLOG_A_DIE (h : Nat) : RField := ⟨Reg.HRG_HA_ERRLOG_A h, 26, 24⟩
def Fld.HRG_HA_ERRLOG_A_ADDRHI (h : Nat) : RField := ⟨Reg.HRG_HA_ERRLOG_A h, 9, 0⟩
/-- HRG_HA_ERRLOG_B, R398. -/
def Reg.HRG_HA_ERRLOG_B (h : Nat) : Nat := 0x10020c + 0x10 * h
def Fld.HRG_HA_ERRLOG_B_ADDRLO (h : Nat) : RField := ⟨Reg.HRG_HA_ERRLOG_B h, 31, 0⟩
/-- VEN_CTRL, R399. -/
def Reg.VEN_CTRL (d : Nat) : Nat := 0x1900000 + 0x1000000 * d
def Fld.VEN_CTRL_TIMEOUT (d : Nat) : RField := ⟨Reg.VEN_CTRL d, 19, 0⟩
/-- VEN_OFF_LO, R399. -/
def Reg.VEN_OFF_LO (d : Nat) : Nat := 0x1900004 + 0x1000000 * d
def Fld.VEN_OFF_LO_OFF (d : Nat) : RField := ⟨Reg.VEN_OFF_LO d, 31, 0⟩
/-- VEN_OFF_HI, R399. -/
def Reg.VEN_OFF_HI (d : Nat) : Nat := 0x1900008 + 0x1000000 * d
def Fld.VEN_OFF_HI_OFF (d : Nat) : RField := ⟨Reg.VEN_OFF_HI d, 31, 0⟩
/-- VEN_REWRITE, R399. -/
def Reg.VEN_REWRITE (d : Nat) : Nat := 0x1900010 + 0x1000000 * d
def Fld.VEN_REWRITE_GO (d : Nat) : RField := ⟨Reg.VEN_REWRITE d, 31, 31⟩
def Fld.VEN_REWRITE_INDEX (d : Nat) : RField := ⟨Reg.VEN_REWRITE d, 20, 0⟩
/-- VEN_CNT, R399. -/
def Reg.VEN_CNT (d : Nat) : Nat := 0x1900014 + 0x1000000 * d
def Fld.VEN_CNT_LOSTWB (d : Nat) : RField := ⟨Reg.VEN_CNT d, 31, 16⟩
def Fld.VEN_CNT_TIMEOUTS (d : Nat) : RField := ⟨Reg.VEN_CNT d, 15, 0⟩
/-- VEN_IRQ_STATUS, R399. -/
def Reg.VEN_IRQ_STATUS (d : Nat) : Nat := 0x1900018 + 0x1000000 * d
def Fld.VEN_IRQ_STATUS_VLOST (d : Nat) : RField := ⟨Reg.VEN_IRQ_STATUS d, 2, 2⟩
def Fld.VEN_IRQ_STATUS_LOSTWB (d : Nat) : RField := ⟨Reg.VEN_IRQ_STATUS d, 1, 1⟩
def Fld.VEN_IRQ_STATUS_TIMEOUT (d : Nat) : RField := ⟨Reg.VEN_IRQ_STATUS d, 0, 0⟩
/-- VEN_IRQ_ENABLE, R399. -/
def Reg.VEN_IRQ_ENABLE (d : Nat) : Nat := 0x190001c + 0x1000000 * d
def Fld.VEN_IRQ_ENABLE_VLOST (d : Nat) : RField := ⟨Reg.VEN_IRQ_ENABLE d, 2, 2⟩
def Fld.VEN_IRQ_ENABLE_LOSTWB (d : Nat) : RField := ⟨Reg.VEN_IRQ_ENABLE d, 1, 1⟩
def Fld.VEN_IRQ_ENABLE_TIMEOUT (d : Nat) : RField := ⟨Reg.VEN_IRQ_ENABLE d, 0, 0⟩
/-- STR_CTRL, R442. -/
def Reg.STR_CTRL : Nat := 0x200000
def Fld.STR_CTRL_EPOCH : RField := ⟨Reg.STR_CTRL, 31, 24⟩
def Fld.STR_CTRL_REPLAY_LIMIT : RField := ⟨Reg.STR_CTRL, 3, 0⟩
/-- STR_IRQ_STATUS, R442. -/
def Reg.STR_IRQ_STATUS : Nat := 0x200004
def Fld.STR_IRQ_STATUS_CAPTRIG : RField := ⟨Reg.STR_IRQ_STATUS, 4, 4⟩
def Fld.STR_IRQ_STATUS_WIRE : RField := ⟨Reg.STR_IRQ_STATUS, 3, 3⟩
def Fld.STR_IRQ_STATUS_DISABLED : RField := ⟨Reg.STR_IRQ_STATUS, 2, 2⟩
def Fld.STR_IRQ_STATUS_HALF : RField := ⟨Reg.STR_IRQ_STATUS, 1, 1⟩
def Fld.STR_IRQ_STATUS_RETRAIN : RField := ⟨Reg.STR_IRQ_STATUS, 0, 0⟩
/-- STR_IRQ_ENABLE, R442. -/
def Reg.STR_IRQ_ENABLE : Nat := 0x200008
def Fld.STR_IRQ_ENABLE_CAPTRIG : RField := ⟨Reg.STR_IRQ_ENABLE, 4, 4⟩
def Fld.STR_IRQ_ENABLE_WIRE : RField := ⟨Reg.STR_IRQ_ENABLE, 3, 3⟩
def Fld.STR_IRQ_ENABLE_DISABLED : RField := ⟨Reg.STR_IRQ_ENABLE, 2, 2⟩
def Fld.STR_IRQ_ENABLE_HALF : RField := ⟨Reg.STR_IRQ_ENABLE, 1, 1⟩
def Fld.STR_IRQ_ENABLE_RETRAIN : RField := ⟨Reg.STR_IRQ_ENABLE, 0, 0⟩
/-- STR_BSTAT, R442. -/
def Reg.STR_BSTAT (i : Nat) : Nat := 0x201000 + 0x20 * i
def Fld.STR_BSTAT_STATE (i : Nat) : RField := ⟨Reg.STR_BSTAT i, 31, 29⟩
def Fld.STR_BSTAT_UPHALF (i : Nat) : RField := ⟨Reg.STR_BSTAT i, 28, 28⟩
def Fld.STR_BSTAT_DNHALF (i : Nat) : RField := ⟨Reg.STR_BSTAT i, 27, 27⟩
def Fld.STR_BSTAT_FORCED (i : Nat) : RField := ⟨Reg.STR_BSTAT i, 26, 26⟩
def Fld.STR_BSTAT_RETRAINS (i : Nat) : RField := ⟨Reg.STR_BSTAT i, 23, 16⟩
def Fld.STR_BSTAT_UPFAIL (i : Nat) : RField := ⟨Reg.STR_BSTAT i, 15, 8⟩
def Fld.STR_BSTAT_DNFAIL (i : Nat) : RField := ⟨Reg.STR_BSTAT i, 7, 0⟩
/-- STR_BCNT, R442. -/
def Reg.STR_BCNT (i : Nat) : Nat := 0x201004 + 0x20 * i
def Fld.STR_BCNT_CRCERR (i : Nat) : RField := ⟨Reg.STR_BCNT i, 31, 16⟩
def Fld.STR_BCNT_POISONED (i : Nat) : RField := ⟨Reg.STR_BCNT i, 15, 0⟩
/-- STR_BUMAP, R442. -/
def Reg.STR_BUMAP (i w : Nat) : Nat := 0x201008 + 0x20 * i + 0x4 * w
def Fld.STR_BUMAP_MASK (i w : Nat) : RField := ⟨Reg.STR_BUMAP i w, 31, 0⟩
/-- STR_BDMAP, R442. -/
def Reg.STR_BDMAP (i w : Nat) : Nat := 0x201014 + 0x20 * i + 0x4 * w
def Fld.STR_BDMAP_MASK (i w : Nat) : RField := ⟨Reg.STR_BDMAP i w, 31, 0⟩
/-- STR_WPAIR, R442. -/
def Reg.STR_WPAIR (k : Nat) : Nat := 0x202000 + 0x8 * k
def Fld.STR_WPAIR_EN (k : Nat) : RField := ⟨Reg.STR_WPAIR k, 31, 31⟩
def Fld.STR_WPAIR_DIE_A (k : Nat) : RField := ⟨Reg.STR_WPAIR k, 11, 10⟩
def Fld.STR_WPAIR_BUNDLE_A (k : Nat) : RField := ⟨Reg.STR_WPAIR k, 9, 6⟩
def Fld.STR_WPAIR_DIE_B (k : Nat) : RField := ⟨Reg.STR_WPAIR k, 5, 4⟩
def Fld.STR_WPAIR_BUNDLE_B (k : Nat) : RField := ⟨Reg.STR_WPAIR k, 3, 0⟩
/-- STR_WPSTAT, R442. -/
def Reg.STR_WPSTAT (k : Nat) : Nat := 0x202004 + 0x8 * k
def Fld.STR_WPSTAT_STATE (k : Nat) : RField := ⟨Reg.STR_WPSTAT k, 31, 29⟩
def Fld.STR_WPSTAT_REASON (k : Nat) : RField := ⟨Reg.STR_WPSTAT k, 28, 25⟩
def Fld.STR_WPSTAT_FREQ (k : Nat) : RField := ⟨Reg.STR_WPSTAT k, 24, 21⟩
def Fld.STR_WPSTAT_PARERR (k : Nat) : RField := ⟨Reg.STR_WPSTAT k, 15, 0⟩
/-- STR_BP_CTRL, R442. -/
def Reg.STR_BP_CTRL (k : Nat) : Nat := 0x203000 + 0x40 * k
def Fld.STR_BP_CTRL_EN (k : Nat) : RField := ⟨Reg.STR_BP_CTRL k, 31, 31⟩
def Fld.STR_BP_CTRL_ROLE (k : Nat) : RField := ⟨Reg.STR_BP_CTRL k, 30, 30⟩
def Fld.STR_BP_CTRL_FWD_EN (k : Nat) : RField := ⟨Reg.STR_BP_CTRL k, 29, 29⟩
def Fld.STR_BP_CTRL_FWD_DST (k : Nat) : RField := ⟨Reg.STR_BP_CTRL k, 26, 0⟩
/-- STR_BP_STAT, R442. -/
def Reg.STR_BP_STAT (k : Nat) : Nat := 0x203004 + 0x40 * k
def Fld.STR_BP_STAT_STATE (k : Nat) : RField := ⟨Reg.STR_BP_STAT k, 31, 29⟩
def Fld.STR_BP_STAT_TXHALF (k : Nat) : RField := ⟨Reg.STR_BP_STAT k, 28, 28⟩
def Fld.STR_BP_STAT_RXHALF (k : Nat) : RField := ⟨Reg.STR_BP_STAT k, 27, 27⟩
def Fld.STR_BP_STAT_FORCED (k : Nat) : RField := ⟨Reg.STR_BP_STAT k, 26, 26⟩
def Fld.STR_BP_STAT_LEVEL (k : Nat) : RField := ⟨Reg.STR_BP_STAT k, 19, 16⟩
def Fld.STR_BP_STAT_RETRAINS (k : Nat) : RField := ⟨Reg.STR_BP_STAT k, 15, 8⟩
def Fld.STR_BP_STAT_MALFORMED (k : Nat) : RField := ⟨Reg.STR_BP_STAT k, 7, 0⟩
/-- STR_BP_CNT, R442. -/
def Reg.STR_BP_CNT (k : Nat) : Nat := 0x203008 + 0x40 * k
def Fld.STR_BP_CNT_CRCERR (k : Nat) : RField := ⟨Reg.STR_BP_CNT k, 31, 16⟩
def Fld.STR_BP_CNT_POISONED (k : Nat) : RField := ⟨Reg.STR_BP_CNT k, 15, 0⟩
/-- STR_BP_TXMAP, R442. -/
def Reg.STR_BP_TXMAP (k : Nat) : Nat := 0x20300c + 0x40 * k
def Fld.STR_BP_TXMAP_MASK (k : Nat) : RField := ⟨Reg.STR_BP_TXMAP k, 19, 0⟩
/-- STR_BP_RXMAP, R442. -/
def Reg.STR_BP_RXMAP (k : Nat) : Nat := 0x203010 + 0x40 * k
def Fld.STR_BP_RXMAP_MASK (k : Nat) : RField := ⟨Reg.STR_BP_RXMAP k, 19, 0⟩
/-- STR_BP_DROP, R442. -/
def Reg.STR_BP_DROP (k : Nat) : Nat := 0x203014 + 0x40 * k
def Fld.STR_BP_DROP_LOOP (k : Nat) : RField := ⟨Reg.STR_BP_DROP k, 31, 16⟩
def Fld.STR_BP_DROP_UNREACH (k : Nat) : RField := ⟨Reg.STR_BP_DROP k, 15, 0⟩
/-- STR_BP_CAPCTRL, R442. -/
def Reg.STR_BP_CAPCTRL (k : Nat) : Nat := 0x203020 + 0x40 * k
def Fld.STR_BP_CAPCTRL_ARM (k : Nat) : RField := ⟨Reg.STR_BP_CAPCTRL k, 31, 31⟩
def Fld.STR_BP_CAPCTRL_TRIG (k : Nat) : RField := ⟨Reg.STR_BP_CAPCTRL k, 30, 29⟩
def Fld.STR_BP_CAPCTRL_SENDTRIG (k : Nat) : RField := ⟨Reg.STR_BP_CAPCTRL k, 28, 28⟩
def Fld.STR_BP_CAPCTRL_DIRS (k : Nat) : RField := ⟨Reg.STR_BP_CAPCTRL k, 27, 26⟩
def Fld.STR_BP_CAPCTRL_CMDMATCH (k : Nat) : RField := ⟨Reg.STR_BP_CAPCTRL k, 23, 16⟩
def Fld.STR_BP_CAPCTRL_POST (k : Nat) : RField := ⟨Reg.STR_BP_CAPCTRL k, 9, 0⟩
/-- STR_BP_CAPSTAT, R442. -/
def Reg.STR_BP_CAPSTAT (k : Nat) : Nat := 0x203024 + 0x40 * k
def Fld.STR_BP_CAPSTAT_TRIGGERED (k : Nat) : RField := ⟨Reg.STR_BP_CAPSTAT k, 31, 31⟩
def Fld.STR_BP_CAPSTAT_WRAPPED (k : Nat) : RField := ⟨Reg.STR_BP_CAPSTAT k, 30, 30⟩
def Fld.STR_BP_CAPSTAT_TRIGIDX (k : Nat) : RField := ⟨Reg.STR_BP_CAPSTAT k, 25, 16⟩
def Fld.STR_BP_CAPSTAT_NEXT (k : Nat) : RField := ⟨Reg.STR_BP_CAPSTAT k, 9, 0⟩
/-- SEP_WSTAT, R443. -/
def Reg.SEP_WSTAT (d b : Nat) : Nat := 0x1040100 + 0x1000000 * d + 0x4 * b
def Fld.SEP_WSTAT_FREQ (d b : Nat) : RField := ⟨Reg.SEP_WSTAT d b, 31, 28⟩
def Fld.SEP_WSTAT_PARERR (d b : Nat) : RField := ⟨Reg.SEP_WSTAT d b, 15, 0⟩
/-- DDR_STATUS, R481. -/
def Reg.DDR_STATUS (m : Nat) : Nat := 0x300000 + 0x10000 * m
def Fld.DDR_STATUS_STATE (m : Nat) : RField := ⟨Reg.DDR_STATUS m, 31, 29⟩
def Fld.DDR_STATUS_RATE (m : Nat) : RField := ⟨Reg.DDR_STATUS m, 19, 16⟩
def Fld.DDR_STATUS_GIB (m : Nat) : RField := ⟨Reg.DDR_STATUS m, 8, 0⟩
/-- DDR_SCRUB, R481. -/
def Reg.DDR_SCRUB (m : Nat) : Nat := 0x300004 + 0x10000 * m
def Fld.DDR_SCRUB_HOURS (m : Nat) : RField := ⟨Reg.DDR_SCRUB m, 7, 0⟩
/-- DDR_CECOUNT, R481. -/
def Reg.DDR_CECOUNT (m : Nat) : Nat := 0x300008 + 0x10000 * m
def Fld.DDR_CECOUNT_COUNT (m : Nat) : RField := ⟨Reg.DDR_CECOUNT m, 15, 0⟩
/-- DDR_UECOUNT, R481. -/
def Reg.DDR_UECOUNT (m : Nat) : Nat := 0x30000c + 0x10000 * m
def Fld.DDR_UECOUNT_COUNT (m : Nat) : RField := ⟨Reg.DDR_UECOUNT m, 15, 0⟩
/-- DDR_ERRLOG_A, R481. -/
def Reg.DDR_ERRLOG_A (m : Nat) : Nat := 0x300010 + 0x10000 * m
def Fld.DDR_ERRLOG_A_VALID (m : Nat) : RField := ⟨Reg.DDR_ERRLOG_A m, 31, 31⟩
def Fld.DDR_ERRLOG_A_UNCORR (m : Nat) : RField := ⟨Reg.DDR_ERRLOG_A m, 30, 30⟩
def Fld.DDR_ERRLOG_A_SUBCH (m : Nat) : RField := ⟨Reg.DDR_ERRLOG_A m, 29, 29⟩
/-- DDR_ERRLOG_B, R481. -/
def Reg.DDR_ERRLOG_B (m : Nat) : Nat := 0x300014 + 0x10000 * m
def Fld.DDR_ERRLOG_B_LINE (m : Nat) : RField := ⟨Reg.DDR_ERRLOG_B m, 31, 0⟩
/-- DDR_IRQ_STATUS, R481. -/
def Reg.DDR_IRQ_STATUS (m : Nat) : Nat := 0x300018 + 0x10000 * m
def Fld.DDR_IRQ_STATUS_UE (m : Nat) : RField := ⟨Reg.DDR_IRQ_STATUS m, 1, 1⟩
def Fld.DDR_IRQ_STATUS_CE (m : Nat) : RField := ⟨Reg.DDR_IRQ_STATUS m, 0, 0⟩
/-- DDR_IRQ_ENABLE, R481. -/
def Reg.DDR_IRQ_ENABLE (m : Nat) : Nat := 0x30001c + 0x10000 * m
def Fld.DDR_IRQ_ENABLE_UE (m : Nat) : RField := ⟨Reg.DDR_IRQ_ENABLE m, 1, 1⟩
def Fld.DDR_IRQ_ENABLE_CE (m : Nat) : RField := ⟨Reg.DDR_IRQ_ENABLE m, 0, 0⟩
/-- OBS_STATUS, R482. -/
def Reg.OBS_STATUS : Nat := 0x400000
def Fld.OBS_STATUS_BROKEN : RField := ⟨Reg.OBS_STATUS, 20, 16⟩
def Fld.OBS_STATUS_KREFUSED : RField := ⟨Reg.OBS_STATUS, 0, 0⟩
/-- OBS_CNT, R482. -/
def Reg.OBS_CNT : Nat := 0x400004
def Fld.OBS_CNT_OVERFLOWS : RField := ⟨Reg.OBS_CNT, 31, 16⟩
def Fld.OBS_CNT_CORRECTED : RField := ⟨Reg.OBS_CNT, 15, 0⟩
/-- OBS_ERRLOG_A, R482. -/
def Reg.OBS_ERRLOG_A : Nat := 0x400008
def Fld.OBS_ERRLOG_A_VALID : RField := ⟨Reg.OBS_ERRLOG_A, 31, 31⟩
def Fld.OBS_ERRLOG_A_KIND : RField := ⟨Reg.OBS_ERRLOG_A, 30, 28⟩
def Fld.OBS_ERRLOG_A_CHANNEL : RField := ⟨Reg.OBS_ERRLOG_A, 27, 25⟩
def Fld.OBS_ERRLOG_A_LEVEL : RField := ⟨Reg.OBS_ERRLOG_A, 24, 21⟩
def Fld.OBS_ERRLOG_A_RANGE : RField := ⟨Reg.OBS_ERRLOG_A, 20, 15⟩
/-- OBS_ERRLOG_B, R482. -/
def Reg.OBS_ERRLOG_B : Nat := 0x40000c
def Fld.OBS_ERRLOG_B_INDEX : RField := ⟨Reg.OBS_ERRLOG_B, 31, 0⟩
/-- OBS_IRQ_STATUS, R482. -/
def Reg.OBS_IRQ_STATUS : Nat := 0x400010
def Fld.OBS_IRQ_STATUS_OPDONE : RField := ⟨Reg.OBS_IRQ_STATUS, 3, 3⟩
def Fld.OBS_IRQ_STATUS_EXH : RField := ⟨Reg.OBS_IRQ_STATUS, 2, 2⟩
def Fld.OBS_IRQ_STATUS_BROKEN : RField := ⟨Reg.OBS_IRQ_STATUS, 1, 1⟩
def Fld.OBS_IRQ_STATUS_CORR : RField := ⟨Reg.OBS_IRQ_STATUS, 0, 0⟩
/-- OBS_IRQ_ENABLE, R482. -/
def Reg.OBS_IRQ_ENABLE : Nat := 0x400014
def Fld.OBS_IRQ_ENABLE_OPDONE : RField := ⟨Reg.OBS_IRQ_ENABLE, 3, 3⟩
def Fld.OBS_IRQ_ENABLE_EXH : RField := ⟨Reg.OBS_IRQ_ENABLE, 2, 2⟩
def Fld.OBS_IRQ_ENABLE_BROKEN : RField := ⟨Reg.OBS_IRQ_ENABLE, 1, 1⟩
def Fld.OBS_IRQ_ENABLE_CORR : RField := ⟨Reg.OBS_IRQ_ENABLE, 0, 0⟩
/-- OBS_RATE, R482. -/
def Reg.OBS_RATE : Nat := 0x400018
def Fld.OBS_RATE_GBPS : RField := ⟨Reg.OBS_RATE, 9, 0⟩
/-- OBS_KEYDATA, R482. -/
def Reg.OBS_KEYDATA (w : Nat) : Nat := 0x400100 + 0x4 * w
def Fld.OBS_KEYDATA_DATA (w : Nat) : RField := ⟨Reg.OBS_KEYDATA w, 31, 0⟩
/-- OBS_KEY_CTRL, R482. -/
def Reg.OBS_KEY_CTRL (k : Nat) : Nat := 0x401000 + 0x8 * k
def Fld.OBS_KEY_CTRL_OP (k : Nat) : RField := ⟨Reg.OBS_KEY_CTRL k, 31, 30⟩
def Fld.OBS_KEY_CTRL_CLASS (k : Nat) : RField := ⟨Reg.OBS_KEY_CTRL k, 29, 29⟩
def Fld.OBS_KEY_CTRL_STATE (k : Nat) : RField := ⟨Reg.OBS_KEY_CTRL k, 25, 24⟩
def Fld.OBS_KEY_CTRL_REFS (k : Nat) : RField := ⟨Reg.OBS_KEY_CTRL k, 7, 0⟩
/-- OBS_KEY_OWNER, R482. -/
def Reg.OBS_KEY_OWNER (k : Nat) : Nat := 0x401004 + 0x8 * k
def Fld.OBS_KEY_OWNER_OWNER (k : Nat) : RField := ⟨Reg.OBS_KEY_OWNER k, 31, 0⟩
/-- OBS_RNG_BASE, R482. -/
def Reg.OBS_RNG_BASE (r : Nat) : Nat := 0x402000 + 0x20 * r
def Fld.OBS_RNG_BASE_BASE (r : Nat) : RField := ⟨Reg.OBS_RNG_BASE r, 27, 0⟩
/-- OBS_RNG_SIZE, R482. -/
def Reg.OBS_RNG_SIZE (r : Nat) : Nat := 0x402004 + 0x20 * r
def Fld.OBS_RNG_SIZE_MIB (r : Nat) : RField := ⟨Reg.OBS_RNG_SIZE r, 21, 0⟩
/-- OBS_RNG_KEYS, R482. -/
def Reg.OBS_RNG_KEYS (r : Nat) : Nat := 0x402008 + 0x20 * r
def Fld.OBS_RNG_KEYS_CLASS (r : Nat) : RField := ⟨Reg.OBS_RNG_KEYS r, 31, 31⟩
def Fld.OBS_RNG_KEYS_NEXTKEY (r : Nat) : RField := ⟨Reg.OBS_RNG_KEYS r, 13, 8⟩
def Fld.OBS_RNG_KEYS_KEY (r : Nat) : RField := ⟨Reg.OBS_RNG_KEYS r, 5, 0⟩
/-- OBS_RNG_RIGHTS, R482. -/
def Reg.OBS_RNG_RIGHTS (r : Nat) : Nat := 0x40200c + 0x20 * r
def Fld.OBS_RNG_RIGHTS_DMADOM (r : Nat) : RField := ⟨Reg.OBS_RNG_RIGHTS r, 31, 16⟩
def Fld.OBS_RNG_RIGHTS_DMA_OTHER (r : Nat) : RField := ⟨Reg.OBS_RNG_RIGHTS r, 11, 10⟩
def Fld.OBS_RNG_RIGHTS_DMA_GRANT (r : Nat) : RField := ⟨Reg.OBS_RNG_RIGHTS r, 9, 8⟩
def Fld.OBS_RNG_RIGHTS_DEBUG (r : Nat) : RField := ⟨Reg.OBS_RNG_RIGHTS r, 7, 6⟩
def Fld.OBS_RNG_RIGHTS_REMOTE (r : Nat) : RField := ⟨Reg.OBS_RNG_RIGHTS r, 5, 4⟩
def Fld.OBS_RNG_RIGHTS_HOST (r : Nat) : RField := ⟨Reg.OBS_RNG_RIGHTS r, 3, 2⟩
def Fld.OBS_RNG_RIGHTS_FABRIC (r : Nat) : RField := ⟨Reg.OBS_RNG_RIGHTS r, 1, 0⟩
/-- OBS_RNG_CMD, R482. -/
def Reg.OBS_RNG_CMD (r : Nat) : Nat := 0x402010 + 0x20 * r
def Fld.OBS_RNG_CMD_OP (r : Nat) : RField := ⟨Reg.OBS_RNG_CMD r, 2, 0⟩
/-- OBS_RNG_STAT, R482. -/
def Reg.OBS_RNG_STAT (r : Nat) : Nat := 0x402014 + 0x20 * r
def Fld.OBS_RNG_STAT_STATE (r : Nat) : RField := ⟨Reg.OBS_RNG_STAT r, 31, 29⟩
def Fld.OBS_RNG_STAT_REFUSED (r : Nat) : RField := ⟨Reg.OBS_RNG_STAT r, 28, 28⟩
def Fld.OBS_RNG_STAT_EXH (r : Nat) : RField := ⟨Reg.OBS_RNG_STAT r, 27, 27⟩
def Fld.OBS_RNG_STAT_BOUNDARY (r : Nat) : RField := ⟨Reg.OBS_RNG_STAT r, 26, 0⟩
/-- OBS_RNG_TREE, R482. -/
def Reg.OBS_RNG_TREE (r : Nat) : Nat := 0x402018 + 0x20 * r
def Fld.OBS_RNG_TREE_TREEBASE (r : Nat) : RField := ⟨Reg.OBS_RNG_TREE r, 31, 0⟩
/-- QUE_Q_SQBASE_LO, R512. -/
def Reg.QUE_Q_SQBASE_LO (q : Nat) : Nat := 0x80000 + 0x20 * q
def Fld.QUE_Q_SQBASE_LO_ADDR (q : Nat) : RField := ⟨Reg.QUE_Q_SQBASE_LO q, 31, 0⟩
/-- QUE_Q_SQBASE_HI, R512. -/
def Reg.QUE_Q_SQBASE_HI (q : Nat) : Nat := 0x80004 + 0x20 * q
def Fld.QUE_Q_SQBASE_HI_ADDR (q : Nat) : RField := ⟨Reg.QUE_Q_SQBASE_HI q, 31, 0⟩
/-- QUE_Q_CQBASE_LO, R512. -/
def Reg.QUE_Q_CQBASE_LO (q : Nat) : Nat := 0x80008 + 0x20 * q
def Fld.QUE_Q_CQBASE_LO_ADDR (q : Nat) : RField := ⟨Reg.QUE_Q_CQBASE_LO q, 31, 0⟩
/-- QUE_Q_CQBASE_HI, R512. -/
def Reg.QUE_Q_CQBASE_HI (q : Nat) : Nat := 0x8000c + 0x20 * q
def Fld.QUE_Q_CQBASE_HI_ADDR (q : Nat) : RField := ⟨Reg.QUE_Q_CQBASE_HI q, 31, 0⟩
/-- QUE_Q_HDB_LO, R512. -/
def Reg.QUE_Q_HDB_LO (q : Nat) : Nat := 0x80010 + 0x20 * q
def Fld.QUE_Q_HDB_LO_ADDR (q : Nat) : RField := ⟨Reg.QUE_Q_HDB_LO q, 31, 0⟩
/-- QUE_Q_HDB_HI, R512. -/
def Reg.QUE_Q_HDB_HI (q : Nat) : Nat := 0x80014 + 0x20 * q
def Fld.QUE_Q_HDB_HI_ADDR (q : Nat) : RField := ⟨Reg.QUE_Q_HDB_HI q, 31, 0⟩
/-- QUE_Q_CTRL, R512. -/
def Reg.QUE_Q_CTRL (q : Nat) : Nat := 0x80018 + 0x20 * q
def Fld.QUE_Q_CTRL_EN (q : Nat) : RField := ⟨Reg.QUE_Q_CTRL q, 31, 31⟩
def Fld.QUE_Q_CTRL_PORT (q : Nat) : RField := ⟨Reg.QUE_Q_CTRL q, 30, 30⟩
def Fld.QUE_Q_CTRL_DOMAIN (q : Nat) : RField := ⟨Reg.QUE_Q_CTRL q, 29, 26⟩
def Fld.QUE_Q_CTRL_SQSIZE (q : Nat) : RField := ⟨Reg.QUE_Q_CTRL q, 23, 20⟩
def Fld.QUE_Q_CTRL_CQSIZE (q : Nat) : RField := ⟨Reg.QUE_Q_CTRL q, 19, 16⟩
def Fld.QUE_Q_CTRL_NOIRQ (q : Nat) : RField := ⟨Reg.QUE_Q_CTRL q, 8, 8⟩
def Fld.QUE_Q_CTRL_VECTOR (q : Nat) : RField := ⟨Reg.QUE_Q_CTRL q, 7, 0⟩
/-- QUE_Q_STAT, R512. -/
def Reg.QUE_Q_STAT (q : Nat) : Nat := 0x8001c + 0x20 * q
def Fld.QUE_Q_STAT_STATE (q : Nat) : RField := ⟨Reg.QUE_Q_STAT q, 31, 29⟩
def Fld.QUE_Q_STAT_ERRCAUSE (q : Nat) : RField := ⟨Reg.QUE_Q_STAT q, 28, 25⟩
def Fld.QUE_Q_STAT_INFLIGHT (q : Nat) : RField := ⟨Reg.QUE_Q_STAT q, 19, 16⟩
def Fld.QUE_Q_STAT_SQHEAD (q : Nat) : RField := ⟨Reg.QUE_Q_STAT q, 15, 0⟩
/-- QUE_DBERR, R512. -/
def Reg.QUE_DBERR : Nat := 0x82000
def Fld.QUE_DBERR_LOSTCPL : RField := ⟨Reg.QUE_DBERR, 31, 16⟩
def Fld.QUE_DBERR_COUNT : RField := ⟨Reg.QUE_DBERR, 15, 0⟩
/-- PCI_STAT, R513. -/
def Reg.PCI_STAT (m : Nat) : Nat := 0x90000 + 0x10000 * m
def Fld.PCI_STAT_LINKUP (m : Nat) : RField := ⟨Reg.PCI_STAT m, 31, 31⟩
def Fld.PCI_STAT_RATE (m : Nat) : RField := ⟨Reg.PCI_STAT m, 30, 28⟩
def Fld.PCI_STAT_WIDTH (m : Nat) : RField := ⟨Reg.PCI_STAT m, 27, 23⟩
def Fld.PCI_STAT_LINKDOWNS (m : Nat) : RField := ⟨Reg.PCI_STAT m, 15, 0⟩
/-- PCI_WIN, R513. -/
def Reg.PCI_WIN (m : Nat) : Nat := 0x90004 + 0x10000 * m
def Fld.PCI_WIN_EVTEN (m : Nat) : RField := ⟨Reg.PCI_WIN m, 31, 31⟩
def Fld.PCI_WIN_WINBASE (m : Nat) : RField := ⟨Reg.PCI_WIN m, 17, 0⟩
/-- PCI_TIMEOUT, R513. -/
def Reg.PCI_TIMEOUT (m : Nat) : Nat := 0x90008 + 0x10000 * m
def Fld.PCI_TIMEOUT_TIMEOUT (m : Nat) : RField := ⟨Reg.PCI_TIMEOUT m, 19, 0⟩
/-- PCI_WINERR_A, R513. -/
def Reg.PCI_WINERR_A (m : Nat) : Nat := 0x9000c + 0x10000 * m
def Fld.PCI_WINERR_A_VALID (m : Nat) : RField := ⟨Reg.PCI_WINERR_A m, 31, 31⟩
def Fld.PCI_WINERR_A_WRITE (m : Nat) : RField := ⟨Reg.PCI_WINERR_A m, 30, 30⟩
def Fld.PCI_WINERR_A_STATUS (m : Nat) : RField := ⟨Reg.PCI_WINERR_A m, 29, 26⟩
def Fld.PCI_WINERR_A_ADDRHI (m : Nat) : RField := ⟨Reg.PCI_WINERR_A m, 9, 0⟩
/-- PCI_WINERR_B, R513. -/
def Reg.PCI_WINERR_B (m : Nat) : Nat := 0x90010 + 0x10000 * m
def Fld.PCI_WINERR_B_ADDRLO (m : Nat) : RField := ⟨Reg.PCI_WINERR_B m, 31, 0⟩
/-- PCI_WINERRCNT, R513. -/
def Reg.PCI_WINERRCNT (m : Nat) : Nat := 0x90014 + 0x10000 * m
def Fld.PCI_WINERRCNT_COUNT (m : Nat) : RField := ⟨Reg.PCI_WINERRCNT m, 15, 0⟩
/-- LOD_SYS, R541. -/
def Reg.LOD_SYS (m : Nat) : Nat := 0x500f00 + 0x10000 * m
def Fld.LOD_SYS_NXM1 (m : Nat) : RField := ⟨Reg.LOD_SYS m, 31, 25⟩
def Fld.LOD_SYS_NYM1 (m : Nat) : RField := ⟨Reg.LOD_SYS m, 24, 18⟩
def Fld.LOD_SYS_REFUSED (m : Nat) : RField := ⟨Reg.LOD_SYS m, 17, 17⟩
def Fld.LOD_SYS_ODX (m : Nat) : RField := ⟨Reg.LOD_SYS m, 13, 7⟩
def Fld.LOD_SYS_ODY (m : Nat) : RField := ⟨Reg.LOD_SYS m, 6, 0⟩
/-- LOD_CTRL, R541. -/
def Reg.LOD_CTRL (m : Nat) : Nat := 0x500000 + 0x10000 * m
def Fld.LOD_CTRL_EN (m : Nat) : RField := ⟨Reg.LOD_CTRL m, 31, 31⟩
def Fld.LOD_CTRL_ENC (m : Nat) : RField := ⟨Reg.LOD_CTRL m, 30, 30⟩
def Fld.LOD_CTRL_RATE (m : Nat) : RField := ⟨Reg.LOD_CTRL m, 29, 29⟩
def Fld.LOD_CTRL_REKEY (m : Nat) : RField := ⟨Reg.LOD_CTRL m, 28, 28⟩
def Fld.LOD_CTRL_NEXTKEY (m : Nat) : RField := ⟨Reg.LOD_CTRL m, 21, 16⟩
def Fld.LOD_CTRL_KEY (m : Nat) : RField := ⟨Reg.LOD_CTRL m, 13, 8⟩
def Fld.LOD_CTRL_REPLAY_LIMIT (m : Nat) : RField := ⟨Reg.LOD_CTRL m, 3, 0⟩
/-- LOD_STAT, R541. -/
def Reg.LOD_STAT (m : Nat) : Nat := 0x500004 + 0x10000 * m
def Fld.LOD_STAT_STATE (m : Nat) : RField := ⟨Reg.LOD_STAT m, 31, 29⟩
def Fld.LOD_STAT_WIDTH (m : Nat) : RField := ⟨Reg.LOD_STAT m, 28, 27⟩
def Fld.LOD_STAT_KEYMISMATCH (m : Nat) : RField := ⟨Reg.LOD_STAT m, 26, 26⟩
def Fld.LOD_STAT_PEERDX (m : Nat) : RField := ⟨Reg.LOD_STAT m, 25, 19⟩
def Fld.LOD_STAT_PEERDY (m : Nat) : RField := ⟨Reg.LOD_STAT m, 18, 12⟩
def Fld.LOD_STAT_REFUSED (m : Nat) : RField := ⟨Reg.LOD_STAT m, 8, 8⟩
def Fld.LOD_STAT_RETRAINS (m : Nat) : RField := ⟨Reg.LOD_STAT m, 7, 0⟩
/-- LOD_LANES, R541. -/
def Reg.LOD_LANES (m : Nat) : Nat := 0x500008 + 0x10000 * m
def Fld.LOD_LANES_RXFAIL (m : Nat) : RField := ⟨Reg.LOD_LANES m, 31, 16⟩
def Fld.LOD_LANES_TXFAIL (m : Nat) : RField := ⟨Reg.LOD_LANES m, 15, 0⟩
/-- LOD_CNT0, R541. -/
def Reg.LOD_CNT0 (m : Nat) : Nat := 0x50000c + 0x10000 * m
def Fld.LOD_CNT0_CRCERR (m : Nat) : RField := ⟨Reg.LOD_CNT0 m, 31, 16⟩
def Fld.LOD_CNT0_POISONED (m : Nat) : RField := ⟨Reg.LOD_CNT0 m, 15, 0⟩
/-- LOD_CNT1, R541. -/
def Reg.LOD_CNT1 (m : Nat) : Nat := 0x500010 + 0x10000 * m
def Fld.LOD_CNT1_TAGERR (m : Nat) : RField := ⟨Reg.LOD_CNT1 m, 31, 16⟩
def Fld.LOD_CNT1_DROP (m : Nat) : RField := ⟨Reg.LOD_CNT1 m, 15, 0⟩
/-- LOD_IRQ_STATUS, R541. -/
def Reg.LOD_IRQ_STATUS (m : Nat) : Nat := 0x500014 + 0x10000 * m
def Fld.LOD_IRQ_STATUS_KEY (m : Nat) : RField := ⟨Reg.LOD_IRQ_STATUS m, 4, 4⟩
def Fld.LOD_IRQ_STATUS_TAG (m : Nat) : RField := ⟨Reg.LOD_IRQ_STATUS m, 3, 3⟩
def Fld.LOD_IRQ_STATUS_DOWN (m : Nat) : RField := ⟨Reg.LOD_IRQ_STATUS m, 2, 2⟩
def Fld.LOD_IRQ_STATUS_WIDTH (m : Nat) : RField := ⟨Reg.LOD_IRQ_STATUS m, 1, 1⟩
def Fld.LOD_IRQ_STATUS_RETRAIN (m : Nat) : RField := ⟨Reg.LOD_IRQ_STATUS m, 0, 0⟩
/-- LOD_IRQ_ENABLE, R541. -/
def Reg.LOD_IRQ_ENABLE (m : Nat) : Nat := 0x500018 + 0x10000 * m
def Fld.LOD_IRQ_ENABLE_KEY (m : Nat) : RField := ⟨Reg.LOD_IRQ_ENABLE m, 4, 4⟩
def Fld.LOD_IRQ_ENABLE_TAG (m : Nat) : RField := ⟨Reg.LOD_IRQ_ENABLE m, 3, 3⟩
def Fld.LOD_IRQ_ENABLE_DOWN (m : Nat) : RField := ⟨Reg.LOD_IRQ_ENABLE m, 2, 2⟩
def Fld.LOD_IRQ_ENABLE_WIDTH (m : Nat) : RField := ⟨Reg.LOD_IRQ_ENABLE m, 1, 1⟩
def Fld.LOD_IRQ_ENABLE_RETRAIN (m : Nat) : RField := ⟨Reg.LOD_IRQ_ENABLE m, 0, 0⟩
/-- XCV_CTRL, R542. -/
def Reg.XCV_CTRL (d m : Nat) : Nat := 0x1020000 + 0x1000000 * d + 0x1000 * m
def Fld.XCV_CTRL_EN (d m : Nat) : RField := ⟨Reg.XCV_CTRL d m, 31, 31⟩
def Fld.XCV_CTRL_MOD (d m : Nat) : RField := ⟨Reg.XCV_CTRL d m, 30, 30⟩
def Fld.XCV_CTRL_FEC_EN (d m : Nat) : RField := ⟨Reg.XCV_CTRL d m, 29, 29⟩
def Fld.XCV_CTRL_PRECODE (d m : Nat) : RField := ⟨Reg.XCV_CTRL d m, 28, 28⟩
def Fld.XCV_CTRL_LOOP (d m : Nat) : RField := ⟨Reg.XCV_CTRL d m, 27, 26⟩
def Fld.XCV_CTRL_TXIDLE (d m : Nat) : RField := ⟨Reg.XCV_CTRL d m, 25, 25⟩
def Fld.XCV_CTRL_BAUD (d m : Nat) : RField := ⟨Reg.XCV_CTRL d m, 16, 0⟩
/-- XCV_TXEQ, R542. -/
def Reg.XCV_TXEQ (d m : Nat) : Nat := 0x1020004 + 0x1000000 * d + 0x1000 * m
def Fld.XCV_TXEQ_C_M3 (d m : Nat) : RField := ⟨Reg.XCV_TXEQ d m, 29, 24⟩
def Fld.XCV_TXEQ_C_M2 (d m : Nat) : RField := ⟨Reg.XCV_TXEQ d m, 23, 18⟩
def Fld.XCV_TXEQ_C_M1 (d m : Nat) : RField := ⟨Reg.XCV_TXEQ d m, 17, 12⟩
def Fld.XCV_TXEQ_C0 (d m : Nat) : RField := ⟨Reg.XCV_TXEQ d m, 11, 6⟩
def Fld.XCV_TXEQ_C1 (d m : Nat) : RField := ⟨Reg.XCV_TXEQ d m, 5, 0⟩
/-- XCV_STAT, R542. -/
def Reg.XCV_STAT (d m : Nat) : Nat := 0x1020008 + 0x1000000 * d + 0x1000 * m
def Fld.XCV_STAT_CDR_LOCK (d m : Nat) : RField := ⟨Reg.XCV_STAT d m, 31, 31⟩
def Fld.XCV_STAT_FEC_LOCK (d m : Nat) : RField := ⟨Reg.XCV_STAT d m, 30, 30⟩
def Fld.XCV_STAT_UNDERRUN (d m : Nat) : RField := ⟨Reg.XCV_STAT d m, 15, 0⟩
/-- XCV_FECCNT, R542. -/
def Reg.XCV_FECCNT (d m : Nat) : Nat := 0x102000c + 0x1000000 * d + 0x1000 * m
def Fld.XCV_FECCNT_CORRECTED (d m : Nat) : RField := ⟨Reg.XCV_FECCNT d m, 31, 16⟩
def Fld.XCV_FECCNT_UNCORR (d m : Nat) : RField := ⟨Reg.XCV_FECCNT d m, 15, 0⟩
/-- XCV_PRBS, R542. -/
def Reg.XCV_PRBS (d m : Nat) : Nat := 0x1020010 + 0x1000000 * d + 0x1000 * m
def Fld.XCV_PRBS_GEN (d m : Nat) : RField := ⟨Reg.XCV_PRBS d m, 31, 31⟩
def Fld.XCV_PRBS_CHK (d m : Nat) : RField := ⟨Reg.XCV_PRBS d m, 30, 30⟩
def Fld.XCV_PRBS_PATTERN (d m : Nat) : RField := ⟨Reg.XCV_PRBS d m, 29, 28⟩
def Fld.XCV_PRBS_ERRORS (d m : Nat) : RField := ⟨Reg.XCV_PRBS d m, 15, 0⟩
/-- CFG_STATUS, R582. -/
def Reg.CFG_STATUS : Nat := 0x20000
def Fld.CFG_STATUS_BUSY : RField := ⟨Reg.CFG_STATUS, 31, 31⟩
def Fld.CFG_STATUS_STREAM : RField := ⟨Reg.CFG_STATUS, 30, 30⟩
def Fld.CFG_STATUS_CGFREE : RField := ⟨Reg.CFG_STATUS, 8, 0⟩
/-- CFG_LOCK, R582. -/
def Reg.CFG_LOCK : Nat := 0x20004
def Fld.CFG_LOCK_OWNER : RField := ⟨Reg.CFG_LOCK, 31, 0⟩
/-- CFG_LOCK_OP, R582. -/
def Reg.CFG_LOCK_OP : Nat := 0x20008
def Fld.CFG_LOCK_OP_OP : RField := ⟨Reg.CFG_LOCK_OP, 0, 0⟩
/-- CFG_CMD, R582. -/
def Reg.CFG_CMD : Nat := 0x2000c
def Fld.CFG_CMD_OP : RField := ⟨Reg.CFG_CMD, 31, 28⟩
def Fld.CFG_CMD_VIEW : RField := ⟨Reg.CFG_CMD, 27, 27⟩
def Fld.CFG_CMD_REGION : RField := ⟨Reg.CFG_CMD, 23, 16⟩
/-- CFG_ARG0, R582. -/
def Reg.CFG_ARG0 : Nat := 0x20010
def Fld.CFG_ARG0_ARG : RField := ⟨Reg.CFG_ARG0, 31, 0⟩
/-- CFG_ARG1, R582. -/
def Reg.CFG_ARG1 : Nat := 0x20014
def Fld.CFG_ARG1_ARG : RField := ⟨Reg.CFG_ARG1, 31, 0⟩
/-- CFG_DATA, R582. -/
def Reg.CFG_DATA : Nat := 0x20018
def Fld.CFG_DATA_DATA : RField := ⟨Reg.CFG_DATA, 31, 0⟩
/-- CFG_RESULT, R582. -/
def Reg.CFG_RESULT : Nat := 0x2001c
def Fld.CFG_RESULT_VALID : RField := ⟨Reg.CFG_RESULT, 31, 31⟩
def Fld.CFG_RESULT_REGION : RField := ⟨Reg.CFG_RESULT, 23, 16⟩
def Fld.CFG_RESULT_OP : RField := ⟨Reg.CFG_RESULT, 15, 8⟩
def Fld.CFG_RESULT_REASON : RField := ⟨Reg.CFG_RESULT, 7, 0⟩
/-- CFG_FAULTFAR, R582. -/
def Reg.CFG_FAULTFAR : Nat := 0x20020
def Fld.CFG_FAULTFAR_FAR : RField := ⟨Reg.CFG_FAULTFAR, 31, 0⟩
/-- CFG_FAULTBIT, R582. -/
def Reg.CFG_FAULTBIT : Nat := 0x20024
def Fld.CFG_FAULTBIT_BIT : RField := ⟨Reg.CFG_FAULTBIT, 11, 0⟩
/-- CFG_EPOCH, R582. -/
def Reg.CFG_EPOCH : Nat := 0x20028
def Fld.CFG_EPOCH_EPOCH : RField := ⟨Reg.CFG_EPOCH, 15, 0⟩
/-- CFG_IRQ_STATUS, R582. -/
def Reg.CFG_IRQ_STATUS : Nat := 0x2002c
def Fld.CFG_IRQ_STATUS_UNCORR : RField := ⟨Reg.CFG_IRQ_STATUS, 3, 3⟩
def Fld.CFG_IRQ_STATUS_CORR : RField := ⟨Reg.CFG_IRQ_STATUS, 2, 2⟩
def Fld.CFG_IRQ_STATUS_FAIL : RField := ⟨Reg.CFG_IRQ_STATUS, 1, 1⟩
def Fld.CFG_IRQ_STATUS_DONE : RField := ⟨Reg.CFG_IRQ_STATUS, 0, 0⟩
/-- CFG_IRQ_ENABLE, R582. -/
def Reg.CFG_IRQ_ENABLE : Nat := 0x20030
def Fld.CFG_IRQ_ENABLE_UNCORR : RField := ⟨Reg.CFG_IRQ_ENABLE, 3, 3⟩
def Fld.CFG_IRQ_ENABLE_CORR : RField := ⟨Reg.CFG_IRQ_ENABLE, 2, 2⟩
def Fld.CFG_IRQ_ENABLE_FAIL : RField := ⟨Reg.CFG_IRQ_ENABLE, 1, 1⟩
def Fld.CFG_IRQ_ENABLE_DONE : RField := ⟨Reg.CFG_IRQ_ENABLE, 0, 0⟩
/-- CFG_LQ_BASE_LO, R582. -/
def Reg.CFG_LQ_BASE_LO : Nat := 0x20040
def Fld.CFG_LQ_BASE_LO_ADDR : RField := ⟨Reg.CFG_LQ_BASE_LO, 31, 0⟩
/-- CFG_LQ_BASE_HI, R582. -/
def Reg.CFG_LQ_BASE_HI : Nat := 0x20044
def Fld.CFG_LQ_BASE_HI_ADDR : RField := ⟨Reg.CFG_LQ_BASE_HI, 31, 0⟩
/-- CFG_LQ_CTRL, R582. -/
def Reg.CFG_LQ_CTRL : Nat := 0x20048
def Fld.CFG_LQ_CTRL_EN : RField := ⟨Reg.CFG_LQ_CTRL, 31, 31⟩
def Fld.CFG_LQ_CTRL_PORT : RField := ⟨Reg.CFG_LQ_CTRL, 30, 30⟩
def Fld.CFG_LQ_CTRL_SIZE : RField := ⟨Reg.CFG_LQ_CTRL, 3, 0⟩
/-- CFG_LQ_TAIL, R582. -/
def Reg.CFG_LQ_TAIL : Nat := 0x2004c
def Fld.CFG_LQ_TAIL_INDEX : RField := ⟨Reg.CFG_LQ_TAIL, 9, 0⟩
/-- CFG_LQ_HEAD, R582. -/
def Reg.CFG_LQ_HEAD : Nat := 0x20050
def Fld.CFG_LQ_HEAD_INDEX : RField := ⟨Reg.CFG_LQ_HEAD, 9, 0⟩
/-- CFG_SCRUB, R582. -/
def Reg.CFG_SCRUB : Nat := 0x20060
def Fld.CFG_SCRUB_EN : RField := ⟨Reg.CFG_SCRUB, 31, 31⟩
def Fld.CFG_SCRUB_PASSES : RField := ⟨Reg.CFG_SCRUB, 15, 0⟩
/-- CFG_SCRUBCNT, R582. -/
def Reg.CFG_SCRUBCNT : Nat := 0x20064
def Fld.CFG_SCRUBCNT_CORRECTED : RField := ⟨Reg.CFG_SCRUBCNT, 31, 16⟩
def Fld.CFG_SCRUBCNT_UNCORR : RField := ⟨Reg.CFG_SCRUBCNT, 15, 0⟩
/-- CFG_REG_STAT, R582. -/
def Reg.CFG_REG_STAT (r : Nat) : Nat := 0x21000 + 0x10 * r
def Fld.CFG_REG_STAT_STATE (r : Nat) : RField := ⟨Reg.CFG_REG_STAT r, 31, 29⟩
def Fld.CFG_REG_STAT_FROZEN (r : Nat) : RField := ⟨Reg.CFG_REG_STAT r, 28, 28⟩
def Fld.CFG_REG_STAT_COMPLETE (r : Nat) : RField := ⟨Reg.CFG_REG_STAT r, 27, 27⟩
def Fld.CFG_REG_STAT_ENCRYPTED (r : Nat) : RField := ⟨Reg.CFG_REG_STAT r, 26, 26⟩
def Fld.CFG_REG_STAT_PERM (r : Nat) : RField := ⟨Reg.CFG_REG_STAT r, 25, 23⟩
/-- CFG_REG_SECLO, R582. -/
def Reg.CFG_REG_SECLO (r : Nat) : Nat := 0x21004 + 0x10 * r
def Fld.CFG_REG_SECLO_SECTORS (r : Nat) : RField := ⟨Reg.CFG_REG_SECLO r, 31, 0⟩
/-- CFG_REG_SECHI, R582. -/
def Reg.CFG_REG_SECHI (r : Nat) : Nat := 0x21008 + 0x10 * r
def Fld.CFG_REG_SECHI_SECTORS (r : Nat) : RField := ⟨Reg.CFG_REG_SECHI r, 31, 0⟩
/-- CFG_REG_EPOCH, R582. -/
def Reg.CFG_REG_EPOCH (r : Nat) : Nat := 0x2100c + 0x10 * r
def Fld.CFG_REG_EPOCH_EPOCH (r : Nat) : RField := ⟨Reg.CFG_REG_EPOCH r, 15, 0⟩
/-- CFG_CG_ADDR, R582. -/
def Reg.CFG_CG_ADDR (k : Nat) : Nat := 0x22000 + 0x8 * k
def Fld.CFG_CG_ADDR_VALUE (k : Nat) : RField := ⟨Reg.CFG_CG_ADDR k, 31, 0⟩
/-- CFG_CG_DATA, R582. -/
def Reg.CFG_CG_DATA (k : Nat) : Nat := 0x22004 + 0x8 * k
def Fld.CFG_CG_DATA_VALUE (k : Nat) : RField := ⟨Reg.CFG_CG_DATA k, 31, 0⟩
/-- PRB_CTRL, R582. -/
def Reg.PRB_CTRL (d : Nat) : Nat := 0x24000 + 0x1000 * d
def Fld.PRB_CTRL_ARM (d : Nat) : RField := ⟨Reg.PRB_CTRL d, 31, 31⟩
def Fld.PRB_CTRL_SPINE (d : Nat) : RField := ⟨Reg.PRB_CTRL d, 27, 24⟩
def Fld.PRB_CTRL_POST (d : Nat) : RField := ⟨Reg.PRB_CTRL d, 13, 0⟩
/-- PRB_STAT, R582. -/
def Reg.PRB_STAT (d : Nat) : Nat := 0x24004 + 0x1000 * d
def Fld.PRB_STAT_TRIGGERED (d : Nat) : RField := ⟨Reg.PRB_STAT d, 31, 31⟩
def Fld.PRB_STAT_WRAPPED (d : Nat) : RField := ⟨Reg.PRB_STAT d, 30, 30⟩
def Fld.PRB_STAT_REFUSED (d : Nat) : RField := ⟨Reg.PRB_STAT d, 29, 29⟩
def Fld.PRB_STAT_TRIGIDX (d : Nat) : RField := ⟨Reg.PRB_STAT d, 27, 14⟩
def Fld.PRB_STAT_NEXT (d : Nat) : RField := ⟨Reg.PRB_STAT d, 13, 0⟩
/-- PRB_OWNER, R582. -/
def Reg.PRB_OWNER (d : Nat) : Nat := 0x24008 + 0x1000 * d
def Fld.PRB_OWNER_OWNER (d : Nat) : RField := ⟨Reg.PRB_OWNER d, 31, 0⟩
/-- PRB_OWNER_OP, R582. -/
def Reg.PRB_OWNER_OP (d : Nat) : Nat := 0x2400c + 0x1000 * d
def Fld.PRB_OWNER_OP_OP (d : Nat) : RField := ⟨Reg.PRB_OWNER_OP d, 0, 0⟩
/-- PRB_TRIGMASK, R582. -/
def Reg.PRB_TRIGMASK (d : Nat) : Nat := 0x24010 + 0x1000 * d
def Fld.PRB_TRIGMASK_MASK_VAL (d : Nat) : RField := ⟨Reg.PRB_TRIGMASK d, 31, 0⟩
/-- PRB_TRIGVAL, R582. -/
def Reg.PRB_TRIGVAL (d : Nat) : Nat := 0x24014 + 0x1000 * d
def Fld.PRB_TRIGVAL_MASK_VAL (d : Nat) : RField := ⟨Reg.PRB_TRIGVAL d, 31, 0⟩
/-- PRB_RDADDR, R582. -/
def Reg.PRB_RDADDR (d : Nat) : Nat := 0x24018 + 0x1000 * d
def Fld.PRB_RDADDR_ADDR (d : Nat) : RField := ⟨Reg.PRB_RDADDR d, 16, 0⟩
/-- PRB_RDDATA, R582. -/
def Reg.PRB_RDDATA (d : Nat) : Nat := 0x2401c + 0x1000 * d
def Fld.PRB_RDDATA_DATA (d : Nat) : RField := ⟨Reg.PRB_RDDATA d, 31, 0⟩
/-- PRB_SEL, R582. -/
def Reg.PRB_SEL (d k : Nat) : Nat := 0x24400 + 0x1000 * d + 0x4 * k
def Fld.PRB_SEL_EN (d k : Nat) : RField := ⟨Reg.PRB_SEL d k, 31, 31⟩
def Fld.PRB_SEL_COLUMN (d k : Nat) : RField := ⟨Reg.PRB_SEL d k, 30, 21⟩
def Fld.PRB_SEL_ROW (d k : Nat) : RField := ⟨Reg.PRB_SEL d k, 20, 11⟩
def Fld.PRB_SEL_OUTPUT (d k : Nat) : RField := ⟨Reg.PRB_SEL d k, 4, 0⟩
/-- CFG_PPIN, R582. -/
def Reg.CFG_PPIN (j : Nat) : Nat := 0x28000 + 0x4 * j
def Fld.CFG_PPIN_EN (j : Nat) : RField := ⟨Reg.CFG_PPIN j, 31, 31⟩
def Fld.CFG_PPIN_DIE (j : Nat) : RField := ⟨Reg.CFG_PPIN j, 26, 24⟩
def Fld.CFG_PPIN_SLOT (j : Nat) : RField := ⟨Reg.CFG_PPIN j, 7, 0⟩
/-- CLK_STATUS, R608. -/
def Reg.CLK_STATUS : Nat := 0x30000
def Fld.CLK_STATUS_XADLY : RField := ⟨Reg.CLK_STATUS, 18, 16⟩
def Fld.CLK_STATUS_HOLDOVER : RField := ⟨Reg.CLK_STATUS, 15, 15⟩
def Fld.CLK_STATUS_DREFLOST : RField := ⟨Reg.CLK_STATUS, 14, 14⟩
def Fld.CLK_STATUS_DREFSRC : RField := ⟨Reg.CLK_STATUS, 13, 12⟩
def Fld.CLK_STATUS_SELREFUSED : RField := ⟨Reg.CLK_STATUS, 8, 8⟩
def Fld.CLK_STATUS_REFB_STATE : RField := ⟨Reg.CLK_STATUS, 7, 6⟩
def Fld.CLK_STATUS_REFA_STATE : RField := ⟨Reg.CLK_STATUS, 5, 4⟩
def Fld.CLK_STATUS_AONSRC : RField := ⟨Reg.CLK_STATUS, 1, 0⟩
/-- CLK_CTRL, R608. -/
def Reg.CLK_CTRL : Nat := 0x30004
def Fld.CLK_CTRL_REFA_EN : RField := ⟨Reg.CLK_CTRL, 31, 31⟩
def Fld.CLK_CTRL_REFB_EN : RField := ⟨Reg.CLK_CTRL, 30, 30⟩
def Fld.CLK_CTRL_AONSEL : RField := ⟨Reg.CLK_CTRL, 1, 0⟩
/-- CLK_BOOT, R608. -/
def Reg.CLK_BOOT : Nat := 0x30008
def Fld.CLK_BOOT_DREFPREF : RField := ⟨Reg.CLK_BOOT, 1, 1⟩
def Fld.CLK_BOOT_AONPREF : RField := ⟨Reg.CLK_BOOT, 0, 0⟩
/-- AON_XA_DELAY, R608. -/
def Reg.AON_XA_DELAY : Nat := 0x3000c
def Fld.AON_XA_DELAY_OVR : RField := ⟨Reg.AON_XA_DELAY, 31, 31⟩
def Fld.AON_XA_DELAY_CYCLES : RField := ⟨Reg.AON_XA_DELAY, 23, 0⟩
/-- CLK_LOSS, R608. -/
def Reg.CLK_LOSS : Nat := 0x30010
def Fld.CLK_LOSS_COUNT : RField := ⟨Reg.CLK_LOSS, 31, 24⟩
def Fld.CLK_LOSS_CAUSE : RField := ⟨Reg.CLK_LOSS, 23, 20⟩
def Fld.CLK_LOSS_FROM : RField := ⟨Reg.CLK_LOSS, 19, 18⟩
def Fld.CLK_LOSS_TO : RField := ⟨Reg.CLK_LOSS, 17, 16⟩
/-- CLK_IRQ_STATUS, R608. -/
def Reg.CLK_IRQ_STATUS : Nat := 0x30014
def Fld.CLK_IRQ_STATUS_DREFLOST : RField := ⟨Reg.CLK_IRQ_STATUS, 3, 3⟩
def Fld.CLK_IRQ_STATUS_HOLDOVER : RField := ⟨Reg.CLK_IRQ_STATUS, 2, 2⟩
def Fld.CLK_IRQ_STATUS_REFLOST : RField := ⟨Reg.CLK_IRQ_STATUS, 1, 1⟩
def Fld.CLK_IRQ_STATUS_LOSS : RField := ⟨Reg.CLK_IRQ_STATUS, 0, 0⟩
/-- CLK_IRQ_ENABLE, R608. -/
def Reg.CLK_IRQ_ENABLE : Nat := 0x30018
def Fld.CLK_IRQ_ENABLE_DREFLOST : RField := ⟨Reg.CLK_IRQ_ENABLE, 3, 3⟩
def Fld.CLK_IRQ_ENABLE_HOLDOVER : RField := ⟨Reg.CLK_IRQ_ENABLE, 2, 2⟩
def Fld.CLK_IRQ_ENABLE_REFLOST : RField := ⟨Reg.CLK_IRQ_ENABLE, 1, 1⟩
def Fld.CLK_IRQ_ENABLE_LOSS : RField := ⟨Reg.CLK_IRQ_ENABLE, 0, 0⟩
/-- PWR_DOM, R609. -/
def Reg.PWR_DOM (d : Nat) : Nat := 0x40000 + 0x4 * d
def Fld.PWR_DOM_STATE (d : Nat) : RField := ⟨Reg.PWR_DOM d, 31, 30⟩
def Fld.PWR_DOM_REQ (d : Nat) : RField := ⟨Reg.PWR_DOM d, 29, 29⟩
def Fld.PWR_DOM_REFUSED (d : Nat) : RField := ⟨Reg.PWR_DOM d, 28, 28⟩
def Fld.PWR_DOM_CAUSE (d : Nat) : RField := ⟨Reg.PWR_DOM d, 27, 24⟩
/-- PWR_SUPPLY, R609. -/
def Reg.PWR_SUPPLY : Nat := 0x40100
def Fld.PWR_SUPPLY_COLD : RField := ⟨Reg.PWR_SUPPLY, 31, 31⟩
def Fld.PWR_SUPPLY_VBAKLOW : RField := ⟨Reg.PWR_SUPPLY, 30, 30⟩
def Fld.PWR_SUPPLY_BAKABSENT : RField := ⟨Reg.PWR_SUPPLY, 29, 29⟩
def Fld.PWR_SUPPLY_BAKEVENTS : RField := ⟨Reg.PWR_SUPPLY, 15, 0⟩
/-- THM_SENS, R610. -/
def Reg.THM_SENS (i : Nat) : Nat := 0x50000 + 0x4 * i
def Fld.THM_SENS_FAILED (i : Nat) : RField := ⟨Reg.THM_SENS i, 31, 31⟩
def Fld.THM_SENS_SELEVEL (i : Nat) : RField := ⟨Reg.THM_SENS i, 27, 26⟩
def Fld.THM_SENS_TEMP (i : Nat) : RField := ⟨Reg.THM_SENS i, 11, 0⟩
/-- THM_CTRL, R610. -/
def Reg.THM_CTRL : Nat := 0x50200
def Fld.THM_CTRL_WARN : RField := ⟨Reg.THM_CTRL, 7, 0⟩
/-- THM_STAT, R610. -/
def Reg.THM_STAT : Nat := 0x50204
def Fld.THM_STAT_BLIND : RField := ⟨Reg.THM_STAT, 31, 31⟩
def Fld.THM_STAT_MAXIDX : RField := ⟨Reg.THM_STAT, 22, 16⟩
def Fld.THM_STAT_MAXTEMP : RField := ⟨Reg.THM_STAT, 11, 0⟩
/-- THM_IRQ_STATUS, R610. -/
def Reg.THM_IRQ_STATUS : Nat := 0x50208
def Fld.THM_IRQ_STATUS_FAILED : RField := ⟨Reg.THM_IRQ_STATUS, 2, 2⟩
def Fld.THM_IRQ_STATUS_ENGINE : RField := ⟨Reg.THM_IRQ_STATUS, 1, 1⟩
def Fld.THM_IRQ_STATUS_WARN : RField := ⟨Reg.THM_IRQ_STATUS, 0, 0⟩
/-- THM_IRQ_ENABLE, R610. -/
def Reg.THM_IRQ_ENABLE : Nat := 0x5020c
def Fld.THM_IRQ_ENABLE_FAILED : RField := ⟨Reg.THM_IRQ_ENABLE, 2, 2⟩
def Fld.THM_IRQ_ENABLE_ENGINE : RField := ⟨Reg.THM_IRQ_ENABLE, 1, 1⟩
def Fld.THM_IRQ_ENABLE_WARN : RField := ⟨Reg.THM_IRQ_ENABLE, 0, 0⟩
/-- LCS_STATUS, R635. -/
def Reg.LCS_STATUS : Nat := 0x60000
def Fld.LCS_STATUS_STATE : RField := ⟨Reg.LCS_STATUS, 31, 29⟩
def Fld.LCS_STATUS_FUSED : RField := ⟨Reg.LCS_STATUS, 28, 26⟩
def Fld.LCS_STATUS_OWNERPK : RField := ⟨Reg.LCS_STATUS, 25, 25⟩
def Fld.LCS_STATUS_OWNERAES : RField := ⟨Reg.LCS_STATUS, 24, 24⟩
def Fld.LCS_STATUS_VOID : RField := ⟨Reg.LCS_STATUS, 23, 23⟩
def Fld.LCS_STATUS_DIAG : RField := ⟨Reg.LCS_STATUS, 22, 22⟩
def Fld.LCS_STATUS_FUSEREFUSED : RField := ⟨Reg.LCS_STATUS, 21, 21⟩
/-- LCS_SERIAL_LO, R635. -/
def Reg.LCS_SERIAL_LO : Nat := 0x60004
def Fld.LCS_SERIAL_LO_SERIAL : RField := ⟨Reg.LCS_SERIAL_LO, 31, 0⟩
/-- LCS_SERIAL_HI, R635. -/
def Reg.LCS_SERIAL_HI : Nat := 0x60008
def Fld.LCS_SERIAL_HI_SERIAL : RField := ⟨Reg.LCS_SERIAL_HI, 31, 0⟩
/-- LCS_NONCE, R635. -/
def Reg.LCS_NONCE (w : Nat) : Nat := 0x60010 + 0x4 * w
def Fld.LCS_NONCE_NONCE (w : Nat) : RField := ⟨Reg.LCS_NONCE w, 31, 0⟩
/-- LCS_LC_CMD, R635. -/
def Reg.LCS_LC_CMD : Nat := 0x60020
def Fld.LCS_LC_CMD_OP : RField := ⟨Reg.LCS_LC_CMD, 3, 0⟩
/-- LCS_LC_RESULT, R635. -/
def Reg.LCS_LC_RESULT : Nat := 0x60024
def Fld.LCS_LC_RESULT_BUSY : RField := ⟨Reg.LCS_LC_RESULT, 31, 31⟩
def Fld.LCS_LC_RESULT_VALID : RField := ⟨Reg.LCS_LC_RESULT, 30, 30⟩
def Fld.LCS_LC_RESULT_RESULT : RField := ⟨Reg.LCS_LC_RESULT, 7, 0⟩
/-- LCS_SIGN, R635. -/
def Reg.LCS_SIGN : Nat := 0x60030
def Fld.LCS_SIGN_EPOCHS : RField := ⟨Reg.LCS_SIGN, 31, 23⟩
def Fld.LCS_SIGN_NEXTLEAF : RField := ⟨Reg.LCS_SIGN, 20, 0⟩
/-- LCS_ATT_CMD, R635. -/
def Reg.LCS_ATT_CMD : Nat := 0x60040
def Fld.LCS_ATT_CMD_GO : RField := ⟨Reg.LCS_ATT_CMD, 31, 31⟩
/-- LCS_ATT_STAT, R635. -/
def Reg.LCS_ATT_STAT : Nat := 0x60044
def Fld.LCS_ATT_STAT_BUSY : RField := ⟨Reg.LCS_ATT_STAT, 31, 31⟩
def Fld.LCS_ATT_STAT_VALID : RField := ⟨Reg.LCS_ATT_STAT, 30, 30⟩
def Fld.LCS_ATT_STAT_STATUS : RField := ⟨Reg.LCS_ATT_STAT, 29, 26⟩
def Fld.LCS_ATT_STAT_LENGTH : RField := ⟨Reg.LCS_ATT_STAT, 13, 0⟩
/-- LCS_ATT_NONCE, R635. -/
def Reg.LCS_ATT_NONCE (w : Nat) : Nat := 0x60060 + 0x4 * w
def Fld.LCS_ATT_NONCE_NONCE (w : Nat) : RField := ⟨Reg.LCS_ATT_NONCE w, 31, 0⟩
/-- LCS_IDPK, R635. -/
def Reg.LCS_IDPK (w : Nat) : Nat := 0x60080 + 0x4 * w
def Fld.LCS_IDPK_PK (w : Nat) : RField := ⟨Reg.LCS_IDPK w, 31, 0⟩
/-- LCS_FUSEDATA, R635. -/
def Reg.LCS_FUSEDATA (w : Nat) : Nat := 0x60100 + 0x4 * w
def Fld.LCS_FUSEDATA_DATA (w : Nat) : RField := ⟨Reg.LCS_FUSEDATA w, 31, 0⟩
/-- LCS_FUSE_CMD, R635. -/
def Reg.LCS_FUSE_CMD : Nat := 0x60140
def Fld.LCS_FUSE_CMD_FIELD : RField := ⟨Reg.LCS_FUSE_CMD, 1, 0⟩
/-- LCS_PATCH_STAT, R635. -/
def Reg.LCS_PATCH_STAT : Nat := 0x60150
def Fld.LCS_PATCH_STAT_VERSION : RField := ⟨Reg.LCS_PATCH_STAT, 31, 16⟩
def Fld.LCS_PATCH_STAT_ACTIVE : RField := ⟨Reg.LCS_PATCH_STAT, 15, 15⟩
def Fld.LCS_PATCH_STAT_REFUSED : RField := ⟨Reg.LCS_PATCH_STAT, 14, 14⟩
def Fld.LCS_PATCH_STAT_MINVER : RField := ⟨Reg.LCS_PATCH_STAT, 6, 0⟩
/-- LCS_PATCH_DATA, R635. -/
def Reg.LCS_PATCH_DATA : Nat := 0x60154
def Fld.LCS_PATCH_DATA_DATA : RField := ⟨Reg.LCS_PATCH_DATA, 31, 0⟩
/-- LCS_PATCH_CMD, R635. -/
def Reg.LCS_PATCH_CMD : Nat := 0x60158
def Fld.LCS_PATCH_CMD_GO : RField := ⟨Reg.LCS_PATCH_CMD, 31, 31⟩
/-- PIN_CFG, R651. -/
def Reg.PIN_CFG (p : Nat) : Nat := 0x70000 + 0x4 * p
def Fld.PIN_CFG_IRQMODE (p : Nat) : RField := ⟨Reg.PIN_CFG p, 31, 29⟩
def Fld.PIN_CFG_FT (p : Nat) : RField := ⟨Reg.PIN_CFG p, 28, 27⟩
def Fld.PIN_CFG_DRIVE (p : Nat) : RField := ⟨Reg.PIN_CFG p, 5, 5⟩
def Fld.PIN_CFG_PULL (p : Nat) : RField := ⟨Reg.PIN_CFG p, 4, 3⟩
def Fld.PIN_CFG_FUNC (p : Nat) : RField := ⟨Reg.PIN_CFG p, 1, 0⟩
/-- GPIO_IN_LO, R651. -/
def Reg.GPIO_IN_LO : Nat := 0x70100
def Fld.GPIO_IN_LO_LEVEL : RField := ⟨Reg.GPIO_IN_LO, 31, 0⟩
/-- GPIO_IN_HI, R651. -/
def Reg.GPIO_IN_HI : Nat := 0x70104
def Fld.GPIO_IN_HI_LEVEL : RField := ⟨Reg.GPIO_IN_HI, 31, 0⟩
/-- GPIO_IN_SYNC_LO, R651. -/
def Reg.GPIO_IN_SYNC_LO : Nat := 0x70108
def Fld.GPIO_IN_SYNC_LO_LEVEL : RField := ⟨Reg.GPIO_IN_SYNC_LO, 31, 0⟩
/-- GPIO_IN_SYNC_HI, R651. -/
def Reg.GPIO_IN_SYNC_HI : Nat := 0x7010c
def Fld.GPIO_IN_SYNC_HI_LEVEL : RField := ⟨Reg.GPIO_IN_SYNC_HI, 31, 0⟩
/-- GPIO_OUT_M, R651. -/
def Reg.GPIO_OUT_M (n : Nat) : Nat := 0x70110 + 0x4 * n
def Fld.GPIO_OUT_M_MASK (n : Nat) : RField := ⟨Reg.GPIO_OUT_M n, 31, 16⟩
def Fld.GPIO_OUT_M_DATA (n : Nat) : RField := ⟨Reg.GPIO_OUT_M n, 15, 0⟩
/-- GPIO_OE_M, R651. -/
def Reg.GPIO_OE_M (n : Nat) : Nat := 0x70120 + 0x4 * n
def Fld.GPIO_OE_M_MASK (n : Nat) : RField := ⟨Reg.GPIO_OE_M n, 31, 16⟩
def Fld.GPIO_OE_M_DATA (n : Nat) : RField := ⟨Reg.GPIO_OE_M n, 15, 0⟩
/-- PIN_CLAIMERR, R651. -/
def Reg.PIN_CLAIMERR : Nat := 0x70130
def Fld.PIN_CLAIMERR_VALID : RField := ⟨Reg.PIN_CLAIMERR, 31, 31⟩
def Fld.PIN_CLAIMERR_REASON : RField := ⟨Reg.PIN_CLAIMERR, 27, 24⟩
def Fld.PIN_CLAIMERR_PIN : RField := ⟨Reg.PIN_CLAIMERR, 21, 16⟩
def Fld.PIN_CLAIMERR_COUNT : RField := ⟨Reg.PIN_CLAIMERR, 15, 0⟩
/-- PIN_IRQ_STATUS_LO, R651. -/
def Reg.PIN_IRQ_STATUS_LO : Nat := 0x70140
def Fld.PIN_IRQ_STATUS_LO_PEND : RField := ⟨Reg.PIN_IRQ_STATUS_LO, 31, 0⟩
/-- PIN_IRQ_STATUS_HI, R651. -/
def Reg.PIN_IRQ_STATUS_HI : Nat := 0x70144
def Fld.PIN_IRQ_STATUS_HI_PEND : RField := ⟨Reg.PIN_IRQ_STATUS_HI, 31, 0⟩
/-- PIN_FT, R651. -/
def Reg.PIN_FT (k : Nat) : Nat := 0x70200 + 0x10 * k
def Fld.PIN_FT_COUNT (k : Nat) : RField := ⟨Reg.PIN_FT k, 31, 28⟩
def Fld.PIN_FT_PERIOD (k : Nat) : RField := ⟨Reg.PIN_FT k, 19, 0⟩
/-- PIN_FT_OWNER, R651. -/
def Reg.PIN_FT_OWNER (k : Nat) : Nat := 0x70204 + 0x10 * k
def Fld.PIN_FT_OWNER_OWNER (k : Nat) : RField := ⟨Reg.PIN_FT_OWNER k, 31, 0⟩
/-- PIN_FT_OP, R651. -/
def Reg.PIN_FT_OP (k : Nat) : Nat := 0x70208 + 0x10 * k
def Fld.PIN_FT_OP_OP (k : Nat) : RField := ⟨Reg.PIN_FT_OP k, 0, 0⟩
/-- UART_CTRL, R651. -/
def Reg.UART_CTRL (u : Nat) : Nat := 0x70400 + 0x20 * u
def Fld.UART_CTRL_EN (u : Nat) : RField := ⟨Reg.UART_CTRL u, 31, 31⟩
def Fld.UART_CTRL_DIV (u : Nat) : RField := ⟨Reg.UART_CTRL u, 15, 0⟩
/-- UART_DATA, R651. -/
def Reg.UART_DATA (u : Nat) : Nat := 0x70404 + 0x20 * u
def Fld.UART_DATA_VALID (u : Nat) : RField := ⟨Reg.UART_DATA u, 8, 8⟩
def Fld.UART_DATA_BYTE (u : Nat) : RField := ⟨Reg.UART_DATA u, 7, 0⟩
/-- UART_STAT, R651. -/
def Reg.UART_STAT (u : Nat) : Nat := 0x70408 + 0x20 * u
def Fld.UART_STAT_OVERRUN (u : Nat) : RField := ⟨Reg.UART_STAT u, 31, 31⟩
def Fld.UART_STAT_FRAMING (u : Nat) : RField := ⟨Reg.UART_STAT u, 30, 30⟩
def Fld.UART_STAT_TXLEVEL (u : Nat) : RField := ⟨Reg.UART_STAT u, 12, 8⟩
def Fld.UART_STAT_RXLEVEL (u : Nat) : RField := ⟨Reg.UART_STAT u, 4, 0⟩
/-- I2C_CTRL, R651. -/
def Reg.I2C_CTRL (i : Nat) : Nat := 0x70500 + 0x20 * i
def Fld.I2C_CTRL_EN (i : Nat) : RField := ⟨Reg.I2C_CTRL i, 31, 31⟩
def Fld.I2C_CTRL_SPEED (i : Nat) : RField := ⟨Reg.I2C_CTRL i, 1, 0⟩
/-- I2C_CMD, R651. -/
def Reg.I2C_CMD (i : Nat) : Nat := 0x70504 + 0x20 * i
def Fld.I2C_CMD_STOP (i : Nat) : RField := ⟨Reg.I2C_CMD i, 11, 11⟩
def Fld.I2C_CMD_START (i : Nat) : RField := ⟨Reg.I2C_CMD i, 10, 10⟩
def Fld.I2C_CMD_OP (i : Nat) : RField := ⟨Reg.I2C_CMD i, 9, 8⟩
def Fld.I2C_CMD_DATA (i : Nat) : RField := ⟨Reg.I2C_CMD i, 7, 0⟩
/-- I2C_STAT, R651. -/
def Reg.I2C_STAT (i : Nat) : Nat := 0x70508 + 0x20 * i
def Fld.I2C_STAT_BUSY (i : Nat) : RField := ⟨Reg.I2C_STAT i, 31, 31⟩
def Fld.I2C_STAT_NACK (i : Nat) : RField := ⟨Reg.I2C_STAT i, 30, 30⟩
def Fld.I2C_STAT_ARBLOST (i : Nat) : RField := ⟨Reg.I2C_STAT i, 29, 29⟩
def Fld.I2C_STAT_ALERT (i : Nat) : RField := ⟨Reg.I2C_STAT i, 28, 28⟩
def Fld.I2C_STAT_RXDATA (i : Nat) : RField := ⟨Reg.I2C_STAT i, 7, 0⟩
/-- FAN_CTRL, R651. -/
def Reg.FAN_CTRL (f : Nat) : Nat := 0x70600 + 0x10 * f
def Fld.FAN_CTRL_AUTO (f : Nat) : RField := ⟨Reg.FAN_CTRL f, 31, 31⟩
def Fld.FAN_CTRL_HIGH (f : Nat) : RField := ⟨Reg.FAN_CTRL f, 23, 16⟩
def Fld.FAN_CTRL_LOW (f : Nat) : RField := ⟨Reg.FAN_CTRL f, 15, 8⟩
def Fld.FAN_CTRL_DUTY (f : Nat) : RField := ⟨Reg.FAN_CTRL f, 7, 0⟩
/-- FAN_STAT, R651. -/
def Reg.FAN_STAT (f : Nat) : Nat := 0x70604 + 0x10 * f
def Fld.FAN_STAT_TACH (f : Nat) : RField := ⟨Reg.FAN_STAT f, 15, 0⟩
/-- PIN_TMR_CTRL, R651. -/
def Reg.PIN_TMR_CTRL (k : Nat) : Nat := 0x70700 + 0x10 * k
def Fld.PIN_TMR_CTRL_HIT (k : Nat) : RField := ⟨Reg.PIN_TMR_CTRL k, 31, 31⟩
def Fld.PIN_TMR_CTRL_MODE (k : Nat) : RField := ⟨Reg.PIN_TMR_CTRL k, 2, 0⟩
/-- PIN_TMR_VAL, R651. -/
def Reg.PIN_TMR_VAL (k : Nat) : Nat := 0x70704 + 0x10 * k
def Fld.PIN_TMR_VAL_VAL (k : Nat) : RField := ⟨Reg.PIN_TMR_VAL k, 31, 0⟩
/-- PIN_TICKS, R651. -/
def Reg.PIN_TICKS : Nat := 0x707f0
def Fld.PIN_TICKS_TICKS : RField := ⟨Reg.PIN_TICKS, 31, 0⟩
/-- PWR_RAILLOG, R659. -/
def Reg.PWR_RAILLOG : Nat := 0x40104
def Fld.PWR_RAILLOG_VALID : RField := ⟨Reg.PWR_RAILLOG, 31, 31⟩
def Fld.PWR_RAILLOG_COUNT : RField := ⟨Reg.PWR_RAILLOG, 23, 16⟩
def Fld.PWR_RAILLOG_OVER : RField := ⟨Reg.PWR_RAILLOG, 5, 5⟩
def Fld.PWR_RAILLOG_RAIL : RField := ⟨Reg.PWR_RAILLOG, 4, 0⟩
/-- PWR_BANKNOM, R683. -/
def Reg.PWR_BANKNOM : Nat := 0x40108
def Fld.PWR_BANKNOM_D3 : RField := ⟨Reg.PWR_BANKNOM, 31, 24⟩
def Fld.PWR_BANKNOM_D2 : RField := ⟨Reg.PWR_BANKNOM, 23, 16⟩
def Fld.PWR_BANKNOM_D1 : RField := ⟨Reg.PWR_BANKNOM, 15, 8⟩
def Fld.PWR_BANKNOM_D0 : RField := ⟨Reg.PWR_BANKNOM, 7, 0⟩
/-- UIO_PAD, R667. -/
def Reg.UIO_PAD (d k : Nat) : Nat := 0x1030000 + 0x1000000 * d + 0x4 * k
def Fld.UIO_PAD_STD (d k : Nat) : RField := ⟨Reg.UIO_PAD d k, 31, 29⟩
def Fld.UIO_PAD_PULL (d k : Nat) : RField := ⟨Reg.UIO_PAD d k, 28, 27⟩
def Fld.UIO_PAD_DRIVE (d k : Nat) : RField := ⟨Reg.UIO_PAD d k, 26, 25⟩
def Fld.UIO_PAD_TERM (d k : Nat) : RField := ⟨Reg.UIO_PAD d k, 24, 24⟩
def Fld.UIO_PAD_GEAR (d k : Nat) : RField := ⟨Reg.UIO_PAD d k, 23, 23⟩
def Fld.UIO_PAD_CLK (d k : Nat) : RField := ⟨Reg.UIO_PAD d k, 22, 18⟩
def Fld.UIO_PAD_CINV (d k : Nat) : RField := ⟨Reg.UIO_PAD d k, 17, 17⟩
def Fld.UIO_PAD_DELAY (d k : Nat) : RField := ⟨Reg.UIO_PAD d k, 16, 11⟩
/-- FLN_ERRSUM, R676. -/
def Reg.FLN_ERRSUM : Nat := 0x10300
def Fld.FLN_ERRSUM_DIE : RField := ⟨Reg.FLN_ERRSUM, 31, 16⟩
def Fld.FLN_ERRSUM_HUB : RField := ⟨Reg.FLN_ERRSUM, 7, 0⟩
/-- FLN_ERRMASK, R676. -/
def Reg.FLN_ERRMASK : Nat := 0x10304
def Fld.FLN_ERRMASK_DIE : RField := ⟨Reg.FLN_ERRMASK, 31, 16⟩
def Fld.FLN_ERRMASK_HUB : RField := ⟨Reg.FLN_ERRMASK, 7, 0⟩
/-- FLN_FWLOG_A, R676. -/
def Reg.FLN_FWLOG_A : Nat := 0x10308
def Fld.FLN_FWLOG_A_VALID : RField := ⟨Reg.FLN_FWLOG_A, 31, 31⟩
def Fld.FLN_FWLOG_A_KIND : RField := ⟨Reg.FLN_FWLOG_A, 30, 28⟩
def Fld.FLN_FWLOG_A_BUSKIND : RField := ⟨Reg.FLN_FWLOG_A, 12, 10⟩
def Fld.FLN_FWLOG_A_ADDRHI : RField := ⟨Reg.FLN_FWLOG_A, 9, 0⟩
/-- FLN_FWLOG_B, R676. -/
def Reg.FLN_FWLOG_B : Nat := 0x1030c
def Fld.FLN_FWLOG_B_ADDRLO : RField := ⟨Reg.FLN_FWLOG_B, 31, 0⟩
/-- PWR_HALT_A, R680. -/
def Reg.PWR_HALT_A : Nat := 0x40110
def Fld.PWR_HALT_A_VALID : RField := ⟨Reg.PWR_HALT_A, 31, 31⟩
def Fld.PWR_HALT_A_CAUSE : RField := ⟨Reg.PWR_HALT_A, 30, 28⟩
def Fld.PWR_HALT_A_DETAIL : RField := ⟨Reg.PWR_HALT_A, 27, 26⟩
def Fld.PWR_HALT_A_CHANNEL : RField := ⟨Reg.PWR_HALT_A, 25, 23⟩
def Fld.PWR_HALT_A_SENSOR : RField := ⟨Reg.PWR_HALT_A, 22, 16⟩
def Fld.PWR_HALT_A_COUNT : RField := ⟨Reg.PWR_HALT_A, 15, 8⟩
/-- PWR_HALT_B, R680. -/
def Reg.PWR_HALT_B : Nat := 0x40114
def Fld.PWR_HALT_B_INFO : RField := ⟨Reg.PWR_HALT_B, 31, 0⟩

end Sys2Proof.Machine
end

