-- ==== Sys2Proof/Machine/State.lean ====
section
/-! DEFINITION. The state of the device as plain data, the reasons a step can stop, and the state right after reset. -/

namespace Sys2Proof.Machine

/-! ## Start-up, resets and leases -/

/-- Where the device stands between power-off and service (R594, R596, R597, R658, R678). -/
inductive Phase where
  /-- Both supplies failed; nothing is retained. -/
  | off
  /-- VAON lost, VBAK holding the retained state (R597). -/
  | hold
  /-- A monitored rail is out of range: the device is held in a supply reset (R658). -/
  | supplyReset
  /-- Start-up has entered step `n` of R594. -/
  | start (n : Nat)
  /-- Handed over: step 7 is done. -/
  | running
  /-- Halted under R677. -/
  | halted
  deriving DecidableEq, Repr

/-- A resource held under a lease (R76). -/
inductive Lease where
  | sem (k : Nat)
  | pair (q : Nat)
  | cfgLock
  | probe (d : Nat)
  | key (k : Nat)
  | filter (k : Nat)
  | resv (d r p n : Nat)
  deriving DecidableEq, Repr

/-- A revocation that has started and not completed (R80): the owner, what it held, and whether Flint has restarted since, which
then completes it in the order of declaration. -/
structure Revocation where
  owner : Word
  held : List Lease
  restarted : Bool
  deriving DecidableEq, Repr

/-- An armed K guard: the block instance by its base address and the path that armed it (R72). -/
structure Arm where
  block : Nat
  path : Path
  deriving DecidableEq, Repr

/-- A register access that waits for a power domain to wake (R67): a write of a value, or a read; `id` names the PCIe request
that a read answers. -/
structure HeldAccess where
  path : Path
  addr : Nat
  value : Option Word
  id : Nat
  deriving DecidableEq, Repr

/-- What the fuses of one die give (R10, R35 to R37, R403). -/
structure Straps where
  rcvryN : Bool
  pudcN : Bool
  xadly : BitVec 3
  deriving DecidableEq, Repr

/-- The clock manager's state that no register shows (R584 to R593). -/
structure ClkState where
  /-- The AON domain has a clock (R588, R591). -/
  aonClocked : Bool
  /-- A switch onto REFA waits for its start delay (R589). -/
  deferred : Bool
  /-- REFA's start-delay counter has begun (R584). -/
  counting : Bool
  /-- The start delay in use, in REFA cycles. -/
  delay : Nat
  /-- The AON domain runs on MCLK after a loss and returns to a reference when one is present (R589). -/
  lossOnMclk : Bool
  /-- MCLK is known to toggle (R583). -/
  mclk : Bool
  deriving DecidableEq, Repr

/-- The fuses, and what the assembly fixed (R10, R29, R34 to R37, R611, R621, R624, R625, R633). `dev` to `end_` are the eight
fuses of each state bit, `void` those of OWNER_VOID; an owner key of zeros is not fused. -/
structure Fuses where
  part : BitVec 16
  speed : BitVec 4
  temp : BitVec 4
  present : BitVec 4
  step : BitVec 16
  feat : Word
  dieStep : List (BitVec 16)
  dieFeat : List Word
  pos : List (BitVec 3)
  mirror : List Bool
  serial : W64
  idpk : List Word
  dev : Byte
  field : Byte
  ret : Byte
  end_ : Byte
  void : Byte
  ownerPk : List Byte
  ownerAes : W256
  rollback : Nat
  epochs : BitVec 256
  /-- Failed lanes of the halves of bundle `i`, by 2i + 1 for the up half (R403). -/
  lanes : SMap (BitVec 70)
  deriving DecidableEq, Repr

/-! ## Configuration (R543 to R582) -/

/-- A region record of a manifest (R551). -/
structure ManReg where
  num : Nat
  perm : Nat
  sectors : BitVec 64
  ranges : List (Word × Word)
  deriving DecidableEq, Repr

/-- A block record of a manifest (R551): its first 16 bytes and its SHA-256. -/
structure ManBlk where
  far : Nat
  count : Nat
  region : Nat
  head : List Byte
  hash : List Byte
  deriving DecidableEq, Repr

/-- A manifest that has passed steps 1 to 4 of R554. -/
structure Manifest where
  enc : Bool
  iv : List Byte
  version : Word
  regs : List ManReg
  blks : List ManBlk
  deriving DecidableEq, Repr

/-- Where a loader command comes from (R556, R561). -/
inductive LoadSrc where
  | reg (path : Path)
  | queue
  | flint
  deriving DecidableEq, Repr

/-- An open stream (R558, R559): its command, the bytes that have arrived and are not consumed, their total count, TOTAL once
the header is known, the manifest once it is checked, and the next block. -/
structure Stream where
  src : LoadSrc
  region : Nat
  op : Nat
  bytes : List Byte
  got : Nat
  total : Nat
  man : Option Manifest
  blk : Nat
  deriving DecidableEq, Repr

/-- A FREEZE or CLEAR that runs. -/
structure LoadBusy where
  clear : Bool
  region : Nat
  src : LoadSrc
  deriving DecidableEq, Repr

/-- An accepted commit that waits for its epoch (R570 to R573). -/
structure CommitW where
  region : Nat
  epoch : Nat
  ents : List (Nat × Word)
  src : LoadSrc
  deriving DecidableEq, Repr

/-- The loader: its stream, its running command, the loader-queue entry in hand and whether it has started, the words that READ
has left for CFG_DATA, the commits that wait, and what the configuration flash returns to the read in progress. -/
structure Loader where
  stream : Option Stream
  busy : Option LoadBusy
  ent : Option (List Word)
  started : Bool
  readBuf : List Word
  commits : List CommitW
  flash : Option (List Byte)
  deriving DecidableEq, Repr

/-- What the device keeps of a region beside CFG_REGr (R59, R551, R565, R631): the register ranges of its grant, VERSION, MEAS,
and whether it has been released since power-up. -/
structure RegionInfo where
  ranges : List (Word × Word)
  version : Word
  meas : List Byte
  ran : Bool
  deriving DecidableEq, Repr

/-! ## Host interface (R483 to R513) -/

/-- Bytes with their poison. -/
abbrev PBytes := List (Byte × Bool)

/-- A part of a descriptor's transfer that is under way: its offset and length, the source pieces that have arrived by piece
number, and how many reads and writes of it are outstanding (R501, R506). -/
structure Chunk where
  off : Nat
  len : Nat
  got : SMap PBytes
  reads : Nat
  writes : Nat
  deriving DecidableEq, Repr

/-- A descriptor that the device has fetched (R500 to R509): its number in the pair, its eight dwords, SQHEAD after it, whether
it has started, the offset of the next chunk, the chunks under way, the earliest failure as (offset of the failed unit, STATUS,
WHERE), whether poisoned data was moved, and whether revocation stops it. -/
structure Desc where
  num : Nat
  dws : List Word
  sqHead : Nat
  started : Bool
  next : Nat
  chunks : List Chunk
  fail : Option (Nat × Nat × Nat)
  poison : Bool
  stop : Bool
  deriving DecidableEq, Repr

/-- A queue pair's state that no register shows (R494 to R499). -/
structure Pair where
  sqTail : Nat
  cqHead : Nat
  cqTail : Nat
  phase : Bool
  descs : List Desc
  nextNum : Nat
  deriving DecidableEq, Repr

/-- What a read of host memory is for (R502, R557). -/
inductive HostWhy where
  | sq (q : Nat)
  | data (q num off : Nat)
  | lqEntry
  | lqData
  | lqList
  deriving DecidableEq, Repr

/-- A read of host memory that the device has issued. -/
structure HostRd where
  id : Nat
  port : Bool
  len : Nat
  why : HostWhy
  deriving DecidableEq, Repr

/-- A window access under way (R488 to R492): its number, 2 id of a read with request identifier id and odd for a write, the bytes enabled (all of a read), the lines still to
send, the lines outstanding by request TAG as (line, TAG), the line data that has arrived, and the first status other than OK
and POISON. -/
structure Win where
  id : Nat
  port : Bool
  write : Bool
  addr : Nat
  bytes : List (Option Byte)
  ep : Bool
  todo : List Nat
  sent : List (Nat × BitVec 12)
  got : SMap PBytes
  fail : Option (Nat × Nat)
  deriving DecidableEq, Repr

/-- What an access of a port does: a window read at an ADDR, a BAR0 write, a doorbell write. -/
inductive HostOp where
  | read (id addr len : Nat)
  | write (addr : Nat) (shapeOk : Bool) (value : Word)
  | bell (page off : Nat) (value : Word)
  deriving DecidableEq, Repr

/-- An access of a port that waits (R492, R497), with the numbers of the window writes that came before it. -/
structure HostHeld where
  port : Bool
  after : List Nat
  op : HostOp
  deriving DecidableEq, Repr

/-! ## Life cycle (R611 to R635) -/

/-- The LCS block's hidden state: the running command, the token windows, LCS_FUSEDATA, the patch staging area, the running
patch as its version and measurement, a report request that waits for its epoch, the snapshot it took, and the report. -/
structure LcsSt where
  op : Option Nat
  tokA : SMap Word
  tokB : SMap Word
  fuseData : SMap Word
  staging : List Word
  patch : Option (Nat × List Byte)
  attWait : Bool
  snap : Option (List Byte)
  report : List Byte
  deriving DecidableEq, Repr

/-! ## System pins (R636 to R651) -/

/-- The pins: which of them the world outside drives, the levels that it drives and that undriven pads had at the last tick,
the synchroniser, the pins in the one-tick hold with their held levels and enables, the filtered levels and sample counts, the
strobe counters of the filter timers, GPIO writes that wait for the next AON clock, the timers' output levels, the timers that
have matched in this tick, falling edges counted by each fan, the UART FIFOs (2u TX, 2u + 1 RX) and the I2C operations in
progress. -/
structure PinSt where
  drive : BitVec 64
  level : BitVec 64
  sync1 : BitVec 64
  sync2 : BitVec 64
  hold : BitVec 64
  heldOut : BitVec 64
  heldOe : BitVec 64
  filt : BitVec 64
  cnt : SMap Nat
  strobe : SMap Nat
  gpio : SMap Nat
  tmr : BitVec 8
  tmrHit : BitVec 8
  tach : SMap Nat
  fifo : SMap (List Byte)
  i2c : SMap Word
  deriving DecidableEq, Repr

/-! ## The ring network -/

/-- Where a packet in flight waits: a buffer at a Slate router (input 0 to 15 a local port, 16 moving +x, 17 moving -x,
18 moving up, 19 moving down), at an edge stop bound for the hub, at the ingress switch (from a bundle or from an agent
port), at a stop of a hub ring (input 0 from the ingress switch, 1 moving toward increasing stops, 2 toward decreasing ones),
or at the receiving end of a bundle on a Slate die (R325 to R333). -/
inductive Loc where
  | router (d x y inp : Nat)
  | edge (d c : Nat)
  | ingressDie (bundle : Nat)
  | ingressPort (x y p : Nat)
  | hub (x y inp : Nat)
  | edgeIn (bundle : Nat)
  deriving DecidableEq, Repr

/-- A packet in flight and where it is. -/
structure Flight where
  loc : Loc
  pkt : Packet
  deriving DecidableEq, Repr

/-- What a response to a tracked request is for. -/
inductive Purpose where
  | user
  | engine (e : Nat)
  | window (id : Nat)
  | dma (q idx unit : Nat)
  | debug
  deriving DecidableEq, Repr

/-- One outstanding or expired request of a port (R336, R341, R342). -/
structure TagEntry where
  ep : Ep
  tag : BitVec 12
  live : Bool
  timed : Bool
  slots : Nat
  cmd : BitVec 8
  addr : BitVec 48
  dst : Ep
  purpose : Purpose
  deriving DecidableEq, Repr

/-- A packet delivered to an endpoint and not yet served. -/
structure Delivered where
  ep : Ep
  pkt : Packet
  deriving DecidableEq, Repr

/-! ## Coherent memory -/

/-- States of a vein slice line other than I (R368). -/
inductive VSt where
  | s | p | e | m
  deriving DecidableEq, Repr

/-- A line of a vein slice: its line number ADDR[47:6], its state and its poison bits; the data is in the vein array. -/
structure VLine where
  line : Nat
  st : VSt
  poison : BitVec 8
  deriving DecidableEq, Repr

/-- An entry of the write-back buffer, and how often its WR was sent (R377, R393). -/
structure WbEnt where
  line : Nat
  data : List W64
  poison : BitVec 8
  sends : Nat
  lost : Bool
  tag : BitVec 12
  deriving DecidableEq, Repr

/-- A request of a slice that is outstanding at home, with the port requests that wait for it (R379). -/
structure SliceReq where
  line : Nat
  rdx : Bool
  way : Nat
  tag : BitVec 12
  waiting : List Packet
  deriving DecidableEq, Repr

/-- A request that a slice has forwarded to home (R369, R379). -/
structure SliceFwd where
  tag : BitVec 12
  req : Packet
  deriving DecidableEq, Repr

/-- One vein slice (R366 to R379, R393, R394): its lines by 16 set + way, the pseudo-LRU trees by set, the write-back buffer,
the requests outstanding at home and the forwarded ones, the responses that may still arrive after a timeout or a second sending
as (tag, line + 1 of a fill, else 0), the sets lost to a tag or state error that still wait for their write-backs, the lines of
lost ways that were M, and the home agents that have still to take the VLOST of a set as (set, number). -/
structure Slice where
  lines : SMap VLine
  plru : SMap Nat
  wb : List WbEnt
  reqs : List SliceReq
  fwd : List SliceFwd
  late : List (BitVec 12 × Nat)
  lostSets : List Nat
  gone : List Nat
  vlost : List (Nat × Nat)
  deriving DecidableEq, Repr

/-- A directory entry: sharers as a vector, or one owner (R370). The list order is the order of allocation. -/
structure DirEnt where
  line : Nat
  owner : Option Nat
  sharers : BitVec 4
  deriving DecidableEq, Repr

/-- Why a home agent runs a transaction on a line. -/
inductive TxnKind where
  | request (p : Packet)
  /-- A request whose slice was lost in a die reset: nobody takes its response (R391). -/
  | dropped (p : Packet)
  | backInv
  | flush (discard : Bool)
  deriving DecidableEq, Repr

/-- A transaction of a home agent: its line, the snoops not yet answered as (die, tag), and the die whose ACKG ends it once
it has granted the line (R372). -/
structure Txn where
  line : Nat
  kind : TxnKind
  snoops : List (Nat × BitVec 12)
  ackWait : Option Nat
  deriving DecidableEq, Repr

/-- A write that a home agent holds for the window of a die in reset (R396). -/
structure HeldWrite where
  line : Nat
  words : List (W64 × Bool)
  cause : Nat
  deriving DecidableEq, Repr

/-- One home agent (R370 to R373, R391, R395, R396): directory, transactions, failed sets, requests and writes that wait on
the window of a die in reset, and dies whose directory walk is still to end. -/
structure Home where
  dir : List DirEnt
  txns : List Txn
  failed : List Nat
  winWait : List Packet
  winData : List HeldWrite
  walking : List Nat
  deriving DecidableEq, Repr

/-- A flush in progress (R389): lines whose snoops have still to start, and the mode. -/
structure FlushSt where
  todo : List Nat
  discard : Bool
  deriving DecidableEq, Repr

/-! ## Links -/

/-- A flit on the link: 256 flit bits, 32 sideband bits (R317, R414), and the receive buffer it takes a credit of. -/
structure TxFlit where
  bits : BitVec 288
  buf : Nat
  deriving DecidableEq, Repr

/-- A packet that the receiving end has accepted in part: its header and the data flits so far. -/
structure PartPkt where
  pkt : Packet
  deriving DecidableEq, Repr

/-- One half of a link: the sender's state and the receiver's state of that half (R414 to R419). `skip` names the receive buffer
of a discarded header while the flits after it are discarded too, `asked` says that the receiver has reached the replay limit and waits
for the retrain, and `stale` counts, by receive buffer, flits that have been in it since before the link layer started. -/
structure Half where
  queue : List Packet
  cur : List TxFlit
  replay : List TxFlit
  nextSeq : Nat
  ackSeq : Nat
  resend : Option Nat
  nakSeen : Option Nat
  taken : List Nat
  crcnt : List Nat
  slot : Nat
  sinceReq : Nat
  lastSeq : Nat
  nak : Bool
  nakCount : Nat
  asked : Bool
  retrained : Bool
  force : Bool
  skip : Option Nat
  badFrames : Nat
  freed : List Nat
  stale : List Nat
  part : Option PartPkt
  deriving DecidableEq, Repr

/-- What a training set says (R407): the fail report of a leaf end or the map set of a hub end. -/
structure TrainSet where
  type : Nat
  level : Nat
  epoch : Nat
  upHalf : Bool
  dnHalf : Bool
  dnMask : Nat
  upMask : Nat
  deriving DecidableEq, Repr

/-- A link: its halves (`dn` from the hub end, `up` to it; of a bridge or Lode port `dn` sends and `up` receives), the count
of consecutive failed attempts (R408), where its training stands, the map set that the leaf end of a bundle holds (R403, R410),
and the number of a bridge port's own epoch (R404). -/
structure Link where
  dn : Half
  up : Half
  fails : Nat
  mapSet : Option TrainSet
  epoch : Nat
  training : Bool
  keep : Bool
  echoSent : Option Packet
  echoOk : Bool
  deriving DecidableEq, Repr

/-- A maintenance packet that a link end has received (R422, R423). -/
structure MaintIn where
  at_ : LinkEnd
  pkt : Packet
  deriving DecidableEq, Repr

/-- A pair that has been turned off and whose bundles return to packet mode at epoch `at_` (R431): the value of STR_WPAIR that
named them, and STATE before. -/
structure Leaving where
  named : Word
  at_ : Nat
  was : Nat
  deriving DecidableEq, Repr

/-- A wire pair's hidden state (R426, R430, R431): the value of STR_WPAIR that names the bundles it holds, whether its drain has
ended, the epoch number of a pending switch to wire mode, and a return to packet mode that is still to come. -/
structure WireSt where
  named : Word
  drained : Bool
  switchAt : Option Nat
  leaving : Option Leaving
  deriving DecidableEq, Repr

/-- The registers of a bundle strip and its wire-mode path (R140, R427, R429, R430): the attach-input registers, the wire-clock
edges since the pair was connected, the values sent at the latest edges, newest first, and the receiving registers. -/
structure StripSt where
  tx : BitVec 1024
  edges : Nat
  sent : List (BitVec 1024)
  rx : BitVec 1024
  deriving DecidableEq, Repr

/-- A spine: the level of its source at the latest tick, and its gate (R153 to R156). -/
structure SpineSt where
  src : Bool
  open_ : Bool
  deriving DecidableEq, Repr

/-- A regional tree: whether its multiplexer has opened onto the active input since the latest region clock reset, the level that
drives the divider, the hang of R164, the gate of R173, the level that its consumers saw at the latest tick, and the phase of the
divider in half periods of its input, none until its first rising edge (R157 to R173). -/
structure TreeSt where
  open_ : Bool
  mux : Bool
  hung : Bool
  gate : Bool
  level : Bool
  phase : Option Nat
  deriving DecidableEq, Repr

/-- A flit that a user fabric port presents to user logic, with its KIND, and whether it holds a slot of its router's response pool
(R336, R352). -/
structure RxFlit where
  data : W256
  poison : BitVec 4
  kind : Nat
  pooled : Bool
  deriving DecidableEq, Repr

/-- The fabric side of a user fabric port (R347, R351, R352): the flits of the packet that user logic is sending, whether that packet
started before the port began to drain, the packets accepted whole that wait to be injected, and the flits of delivered responses and
requests that user logic has still to take. -/
structure UPort where
  tx : List (W256 × BitVec 4)
  begun : Bool
  ready : List (Packet × Bool)
  rsp : List RxFlit
  req : List RxFlit
  deriving DecidableEq, Repr

/-- One recorded slot of a bridge port's capture buffer (R439). -/
structure CapEntry where
  slot : Slot
  time : Nat
  received : Bool
  rejected : Bool
  deriving DecidableEq, Repr

/-- The capture state of a bridge port that no register shows (R439, R440): its entries, those still to record after the trigger, and the
time since ARM in eighths of a nanosecond. -/
structure CapSt where
  ents : SMap CapEntry
  left : Option Nat
  time : Nat
  deriving DecidableEq, Repr

/-- A Lode port's state that no register shows (R521 to R527): its nonce and the partner's, the session keys of its sending and
receiving directions, the slots sent and received since the link layer started, the slots of the group being sent as sent and
of the group being received as (slot, touched by an uncorrectable code word), consecutive tag failures of one group, whether
they have already led to a retrain, the sequence number that this group failed to bring, whether the retrain in progress changes the
key, the RING_REV level that the link runs (R522), and the flits of transit traffic since an injected packet last left (R520). -/
structure LodeSt where
  nonce : W64
  peer : W64
  txKey : W256
  rxKey : W256
  txSlot : Nat
  rxSlot : Nat
  txGroup : List Slot
  rxGroup : List (Slot × Bool)
  tagFails : Nat
  tagRetrained : Bool
  tagSeq : Option Nat
  rekey : Bool
  level : Nat
  transit : Nat
  deriving DecidableEq, Repr

/-- A user transceiver's state that no register shows (R536 to R538): the word of the TX code word that is next, bits slipped,
words since RX_CWSET with their channel errors that have not been presented, the number of the next word to present, and the
word presented with its channel errors, RX_CWSTART and RX_UNCORR. -/
structure XcvSt where
  txPos : Nat
  /-- The data words of the TX code word so far. -/
  txCode : List (BitVec 160)
  /-- The last symbol that the precoder sent (R542). -/
  txSym : Nat
  /-- The pattern generator and the checker's own, while they run: the pattern and its last 31 bits, the latest in bit 0 (R538). -/
  gen : Option (Nat × BitVec 31)
  chk : Option (Nat × BitVec 31)
  /-- The raw word before, with its channel errors, of which a slipped word still takes bits. -/
  prev : Option (BitVec 160 × BitVec 160)
  slip : Nat
  line : List (BitVec 160 × BitVec 160)
  pos : Nat
  left : Nat
  rx : BitVec 160
  rxErr : BitVec 160
  cwStart : Bool
  uncorr : Bool
  /-- The word presented has had no edge of the interface clock yet: RX_VALID. -/
  valid : Bool
  deriving DecidableEq, Repr

/-- Instructions of the test access port (R540, R623). -/
inductive JtagIr where
  | bypass | idcode | sample | extest | clamp | highz | pulse | train | dbgacc
  deriving DecidableEq, Repr

/-- The test access port: the selected instruction, and what the boundary cells hold since their last update, in the order of
`Config.boundary` (R539, R540). -/
structure JtagSt where
  ir : JtagIr
  cells : List Bool
  deriving DecidableEq, Repr

/-- The port after VAON has come up (R661). -/
def JtagSt.start : JtagSt := { ir := .idcode, cells := [] }

/-! ## Mica -/

/-- A response of a Mica port that waits to leave it (R192, R193). -/
structure MicaResp where
  die : Nat
  port : Nat
  status : Nat
  data : W64
  poison : Bool
  cause : Nat
  corr : Bool
  /-- Edges of the port clock until the response appears. -/
  wait : Nat
  deriving DecidableEq, Repr

/-- A Mica port's place in its array cycle (R198, R217): the throttle level in force at the port, the port cycles since its latest array
cycle boundary, and whether its clock has had an edge since its release. -/
structure MicaPort where
  level : Nat
  count : Nat
  started : Bool
  deriving DecidableEq, Repr

/-! ## User I/O pins -/

/-- The four-bit path of an LVDS pair with GEAR 1 (R666): the nibbles sampled from TXD at the latest two edges of the pad clock, newest
first, the one being sent, the one received in the pad clock before, and the one on RXD. -/
structure PadSt where
  tx1 : BitVec 4
  tx2 : BitVec 4
  sent : BitVec 4
  rx1 : BitVec 4
  rx : BitVec 4
  deriving DecidableEq, Repr

/-! ## DDR5 and Obsidian -/

/-- A counter block (R464): the major counter and the minor counters that are not 0. -/
structure CtrBlk where
  major : Nat
  minors : SMap Nat
  deriving DecidableEq, Repr

/-- An entry of the counter cache (R467): the counter block (level 0) or node that it holds, whether it is newer than the reserve's
copy, and an error of its SECDED code that its next use finds: corrected (false) or uncorrectable (true). -/
structure ObsEntry where
  range : Nat
  chan : Nat
  level : Nat
  index : Nat
  dirty : Bool
  err : Option Bool
  deriving DecidableEq, Repr

/-- A broken entry (R478): range, channel, whether a tag line failed, the covered channel-local lines `lo` to `hi - 1`, REMAIN
and the covered lines already written. -/
structure Broken where
  range : Nat
  chan : Nat
  tag : Bool
  lo : Nat
  hi : Nat
  remain : Nat
  done : List Nat
  deriving DecidableEq, Repr

/-! ## Signal engines (R221 to R306) -/

/-- One address register with its base, length and modifier (R237). -/
structure AReg where
  a : BitVec 10
  b : BitVec 10
  l : BitVec 11
  m : BitVec 11
  deriving DecidableEq, Repr

/-- Engine states (R257). -/
inductive RunSt where
  | halted | running | waiting | faulted
  deriving DecidableEq, Repr

/-- A register write that lands at the end of stage M: a load or a move out (R248). -/
inductive PendWr where
  | v (n : Nat) (x : W64)
  | s (n : Nat) (x : Word)
  deriving DecidableEq, Repr

/-- A ring command of an engine at its group port, or an RFENCE that holds later ones (R270, R301 to R304). -/
structure RingOut where
  rc : Nat
  sent : Bool
  tag : BitVec 12
  mem : Bool
  loc : BitVec 10
  len : Nat
  addr : BitVec 48
  dst : Nat
  bells : Word
  atop : Nat
  deriving DecidableEq, Repr

/-- The loop cache: its range, and the instruction words fetched into it so far, by address (R234, R235). -/
structure LoopCache where
  lo : BitVec 10
  len : Nat
  words : SMap W64
  deriving DecidableEq, Repr

/-- An engine: the architectural state of R237, the three memories of R230, the stream FIFOs of R253, and what is in flight.
`pend` holds the register writes of the latest issue cycle that have not landed, `w1` and `w2` the accumulators as they stood
one and two cycles before the next issue, `ov` the overflow bits on their way to SR, newest first (R246 to R249); `slots` counts
the delay slots to come before `target`, and `reti` holds the SR that RETI restores there (R288, R289); `exit` says that the
repeat exit cycle follows the next instruction (R305), `held` is the word that a repeat executes, or that is frozen in the
pipeline, without being fetched again (R246, R251), `faultPend` the RING faults that came while the engine was HALTED, and `waitHeld` that HALT
stopped the engine in WAITING (R258). `timer` bounds TIMER from above: it is 0 just when the timer is stopped (R260). -/
structure EngSt where
  v : List W64
  w : List W384
  s : List Word
  ar : List AReg
  pc : BitVec 10
  sr : Word
  epc : BitVec 10
  esr : Word
  vbase : BitVec 10
  timer : Word
  treload : Word
  tevent : Bool
  dbell : Word
  fcause : Nat
  faddr : BitVec 48
  rcount : BitVec 16
  run : RunSt
  rptLeft : Nat
  slots : Nat
  target : BitVec 10
  reti : Option Word
  pend : List PendWr
  w1 : List W384
  w2 : List W384
  ov : List Nat
  sin0 : List (W64 × Bool)
  sin1 : List (W64 × Bool)
  sout0 : List W64
  sout1 : List W64
  stall : Nat
  seq : BitVec 8
  ring : List RingOut
  loop : Option LoopCache
  exit : Bool
  held : Option W64
  faultPend : List (BitVec 48)
  waitHeld : Bool
  pm : SMap Cell
  xm : SMap Cell
  ym : SMap Cell
  deriving DecidableEq, Repr

/-! ## What leaves the device -/

/-- What the device sends to the world outside, newest last. -/
inductive Out where
  | mgmt (status : Byte) (data : Option Word)
  | cpl (port : Bool) (id : Nat) (ok : Bool) (poisoned : Bool) (bytes : List Byte)
  | memWrite (port : Bool) (addr : Nat) (poisoned : Bool) (bytes : List Byte)
  | memRead (port : Bool) (id addr len : Nat)
  | msix (port : Bool) (vector : Nat)
  | deliver (ep : Ep) (pkt : Packet)
  | slot (link : LinkRef) (bits : Lanes)
  | mica (r : MicaResp)
  | stream (eng port : Nat) (w : W64)
  | uart (u : Nat) (b : Byte)
  | i2c (i : Nat) (cmd : Word)
  | trainSet (l : LinkRef) (bits : BitVec 256)
  | xcvTx (d t : Nat) (bits : BitVec 160) (taps : List Int) (swing : Nat)
  | jtag (bits : List Bool)
  deriving DecidableEq, Repr

/-- Reasons to stop with a fault. No meaning of the model has one: whatever comes, the device goes on. -/
inductive Fault where
  deriving DecidableEq, Repr

/-- Reasons to refuse a command. -/
inductive Refusal where
  /-- A command without a meaning, by its mnemonic; raised by an arm of `exec`. Safe: the model stops where the device goes on. -/
  | notModelled (mnemonic : String)
  deriving DecidableEq, Repr

/-- The whole device. -/
structure State where
  /-- Start-up and halt. -/
  phase : Phase
  /-- Applied register values that differ from the Reset column (R17 to R23), by register address. -/
  regs : SMap Word
  /-- Buffered writes, by register address (R64, R65, R68). -/
  shadow : SMap Word
  /-- Blocks whose LOCK bit is set, by base address (R70). -/
  locks : List Nat
  arms : List Arm
  heldAcc : List HeldAccess
  /-- Flint runs (R48, R80). -/
  flintUp : Bool
  /-- Times, in ms, of the watchdog restarts performed since the start (R48). -/
  wdog : List Nat
  revs : List Revocation
  straps : Straps
  clk : ClkState
  /-- Trees whose pending switch has done its close step (R162), by 512 d + 32 s + t. -/
  treeClosed : List Nat
  /-- Spines, by 16 d + k; an unlisted one is closed (R153). -/
  spines : SMap SpineSt
  /-- Regional trees, by 512 d + 32 s + t; an unlisted one is low and closed (R157). -/
  trees : SMap TreeSt
  /-- Half periods of the spine source clock with a phase that have passed since all aligned clocks rose together (R146). -/
  drefPhase : Nat
  /-- The fabric side of user fabric ports, by 256 d + 4 r + p. -/
  uports : SMap UPort
  net : List Flight
  inbox : List Delivered
  tags : List TagEntry
  /-- Requests delivered to user logic and not yet answered (R340, R347). -/
  unanswered : List Delivered
  /-- FENCE requests that their port holds (R384). -/
  fences : List Delivered
  /-- Ports of a freezing region that drain (R347). -/
  drains : List Ep
  /-- Ports whose packets are held while the domain wakes, and ports that act as under fence because it did not (R345). -/
  waking : List Ep
  wakeFail : List Ep
  slices : SMap Slice
  homes : SMap Home
  /-- Slate dies whose reset has not ended (R391, R396). -/
  dieDown : List Nat
  flush : Option FlushSt
  /-- Flushes of range operations, by range (R473 to R475). -/
  rangeFlush : SMap FlushSt
  links : SMap Link
  minbox : List MaintIn
  /-- Packets that have arrived on a bridge or Lode port and wait to be handled (R435, R517). -/
  arrivals : List (LinkRef × Packet)
  wire : SMap WireSt
  /-- Bundle strips, by 16 d + b. -/
  strips : SMap StripSt
  /-- The Strata revision level that the internal bundles run (R405, R421). -/
  strata : Nat
  cap : SMap CapSt
  lode : SMap LodeSt
  /-- User transceivers, by 12 d + t. -/
  xcv : SMap XcvSt
  jtag : JtagSt
  /-- Words of the user blocks, by die, port and word, and of the vein arrays, by die and word index; an unlisted word holds
  the UNWRITTEN poison code word (R183, R203, R209). -/
  mica : SMap Cell
  vein : SMap Cell
  micaOut : List MicaResp
  /-- The response on the outputs of a Mica port, by 3,072 d + port: RVALID is 1 (R192). -/
  micaShown : SMap MicaResp
  /-- Array cycles of the Mica ports, by 3,072 d + port (R217). -/
  mports : SMap MicaPort
  /-- The group being erased, by die (R205). -/
  erasing : SMap Nat
  /-- Stored DDR5 lines by channel and channel-local line; an unlisted line was never written (R448, R453). -/
  ddr : SMap DLine
  /-- Counter blocks by page and channel, and tags by line number, of the protected ranges (R463, R464). -/
  ctr : SMap CtrBlk
  otag : SMap W64
  /-- Hashes that the nodes and roots hold (R465, R466), by range, channel, level and index of the block hashed; an unlisted one is as
  INIT or RETIRE computed it. -/
  otree : SMap W64
  /-- The counter cache, by cache line: 16,384 sets of 16 ways (R467). -/
  ocache : SMap ObsEntry
  metaErr : SMap MetaErr
  broken : List Broken
  /-- Key slots (R460), and per range the tree key and MAXMAJOR (R466). -/
  keys : SMap W256
  treeKey : SMap W256
  maxMajor : SMap Nat
  /-- Next line of each channel's patrol (R447). -/
  patrol : SMap Nat
  /-- Configuration frames by die, sector, column and frame; an unlisted frame holds zeros (R543 to R549). -/
  frames : SMap (BitVec 4096)
  /-- Engines by 12 (192 d + g) + e; an unlisted engine is in its power-up state (R231, R237). -/
  engines : SMap EngSt
  /-- The engine with which the next turn of a group port begins, by 192 d + g (R270). -/
  grpNext : SMap Nat
  /-- Responses to engine ring commands that have arrived, by engine (R270). -/
  engRsp : List (Nat × Packet)
  /-- Flip-flops whose value differs from their INIT bit, by `ffKey` (R98, R99). -/
  ffs : SMap Bool
  /-- Values that L48 boundary latches hold for sectors that do not run, by `latchKey`; an unlisted one is 0 (R132). -/
  latches : SMap Bool
  /-- Held TXD[0] and OE of user I/O pins that are 1 in sectors that do not run, by 2 (576 d + k) + 0 or 1 (R565). -/
  padHold : SMap Bool
  /-- LVDS pairs with GEAR 1, by 576 d + k (R666). -/
  pads : SMap PadSt
  loader : Loader
  regions : SMap RegionInfo
  /-- Next frame of each die's scrubber, by die (R574). -/
  scrub : SMap Nat
  /-- Flipped bits of frames that the scrubber has not corrected, by frame: word and bit of the 72-bit code word (R130, R131). -/
  upsets : SMap (List (Nat × Nat))
  /-- Probe samples by 16,384 d + index, and POST samples still to come after the trigger, by die (R580). -/
  probeBuf : SMap W256
  probeLeft : SMap Nat
  /-- Queue pairs by number (R493). -/
  pairs : SMap Pair
  hostReads : List HostRd
  nextRead : Nat
  wins : List Win
  hostHeld : List HostHeld
  /-- Window writes that have begun, which numbers them (R492). -/
  winNext : Nat
  /-- Configuration spaces, by port (R484, R485). -/
  pcie : SMap PcieCfg
  /-- The queue pair with which the next turn of SQ fetches begins (R503). -/
  sqTurn : Nat
  fuses : Fuses
  lcs : LcsSt
  pins : PinSt
  /-- IRQ WARN waits for every sensor to fall below WARN - 5 °C (R606). -/
  warned : Bool
  /-- Steps 2 to 5 of a halt are done (R678). -/
  haltDone : Bool
  /-- What has left the device. -/
  out : List Out
  /-- Commands that wait, oldest first. -/
  pending : List Instr
  /-- The model's own counter: the number of the next free value (assumption 3). -/
  free : Nat
  deriving DecidableEq, Repr

/-! ## Reset -/

/-- The fuses and straps of the device that State.reset stands for: an LR9-4850 of speed grade 3 in TEST with every die at step B0
and every feature, with the Strata and ring revision levels of R44's example (assumption 2). -/
def Fuses.blank : Fuses :=
  { part := 0x4850, speed := 3, temp := 0, present := 15, step := 0x4200, feat := 0xFF37, dieStep := List.replicate 4 0x4200,
    dieFeat := List.replicate 4 0xFF37, pos := [1, 2, 3, 4], mirror := List.replicate 4 true, serial := 0,
    idpk := List.replicate 14 0, dev := 0, field := 0, ret := 0, end_ := 0, void := 0, ownerPk := List.replicate 56 0,
    ownerAes := 0, rollback := 0, epochs := 0, lanes := [] }

/-- The pins with no level driven. -/
def PinSt.blank : PinSt :=
  { drive := 0, level := 0, sync1 := 0, sync2 := 0, hold := 0, heldOut := 0, heldOe := 0, filt := 0, cnt := [], strobe := [],
    gpio := [], tmr := 0, tmrHit := 0, tach := [], fifo := [], i2c := [] }

/-- Everything at its reset value, and every register at the value of its Reset column. -/
def State.blank : State :=
  { phase := .start 1, regs := [], shadow := [], locks := [], arms := [], heldAcc := [], flintUp := true, wdog := [], revs := [],
    straps := { rcvryN := true, pudcN := true, xadly := 0 },
    clk := { aonClocked := true, deferred := false, counting := false, delay := 0, lossOnMclk := false, mclk := false },
    treeClosed := [], spines := [], trees := [], drefPhase := 0, uports := [], net := [], inbox := [], tags := [], unanswered := [], fences := [], drains := [], waking := [],
    wakeFail := [], slices := [], homes := [], dieDown := [], flush := none, rangeFlush := [], links := [], minbox := [],
    arrivals := [], wire := [], strips := [], strata := 1, cap := [], lode := [], xcv := [], jtag := JtagSt.start, mica := [], vein := [],
    micaOut := [], micaShown := [], mports := [], erasing := [], ddr := [], ctr := [], otag := [], otree := [], ocache := [], metaErr := [], broken := [], keys := [], treeKey := [],
    maxMajor := [], patrol := [], frames := [], engines := [], grpNext := [], engRsp := [], ffs := [], latches := [], padHold := [], pads := [],
    loader := { stream := none, busy := none, ent := none, started := false, readBuf := [], commits := [], flash := none },
    regions := [], scrub := [], upsets := [], probeBuf := [], probeLeft := [], pairs := [], hostReads := [], nextRead := 0, wins := [],
    hostHeld := [], winNext := 0, pcie := [], sqTurn := 0, fuses := Fuses.blank,
    lcs := { op := none, tokA := [], tokB := [], fuseData := [], staging := [], patch := none, attWait := false, snap := none,
             report := [] },
    pins := PinSt.blank, warned := false, haltDone := false, out := [], pending := [], free := 0 }

/-- The token nonce that the DRBG gives at the first start (R619): a free value (assumption 3). -/
def resetNonce : SMap Word :=
  ((List.range 4).map fun w => (0x60010 + 4 * w, BitVec.ofNat 32 ((Config.freeW256 0).toNat / 2 ^ (32 * w)))).filter fun e => e.2 ≠ 0#32

/-- The registers that differ from their Reset column after the first start: what fuses and straps show, domains 0 and 1 ON, and pins
0 to 5 and 48 with FUNC 2 (R637). -/
def resetRegs : SMap Word :=
  [(0, 0x485030f0#32), (4, 0x00004200#32), (8, 0x0000ff37#32), (32, 0x00184200#32), (36, 0x00284200#32), (40, 0x00384200#32),
   (44, 0x00484200#32), (0x40000, 0xa0000000#32), (0x40004, 0xa0000000#32)] ++ resetNonce ++
  [(0x70000, 2#32), (0x70004, 2#32), (0x70008, 2#32), (0x7000C, 2#32), (0x70010, 2#32), (0x70014, 2#32), (0x700C0, 2#32),
   (0x1000000, 0x42000000#32), (0x1000004, 0x0000ff37#32), (0x1000008, 0x00000120#32),
   (0x2000000, 0x42000000#32), (0x2000004, 0x0000ff37#32), (0x2000008, 0x00000231#32),
   (0x3000000, 0x42000000#32), (0x3000004, 0x0000ff37#32), (0x3000008, 0x00000332#32),
   (0x4000000, 0x42000000#32), (0x4000004, 0x0000ff37#32), (0x4000008, 0x00000423#32)]

/-- The device right after a cold start: step 1 of R594 with both straps high, VBAK present and bank nominals 0 (assumption 2). -/
def State.reset : State := { State.blank with regs := resetRegs, free := 1 }

end Sys2Proof.Machine
end

