-- ==== Sys2Proof/Machine/Ops.lean ====
section
/-! DEFINITION. The named operations every family uses: bit fields, the register file, counters and first-record logs, the
collector of error bits and the event vector, owners, power domains, free values. -/

namespace Sys2Proof.Machine

/-! ## Bit fields -/

/-- Bits [hi:lo] of a number. -/
def natBits (v hi lo : Nat) : Nat := (v / 2 ^ lo) % 2 ^ (hi + 1 - lo)

/-- Bits [hi:lo] of a word. -/
def bits (v : Word) (hi lo : Nat) : Nat := natBits v.toNat hi lo

/-- The word with bits [hi:lo] replaced by the low bits of `x`. -/
def setBits (v : Word) (hi lo x : Nat) : Word :=
  BitVec.ofNat 32 (v.toNat / 2 ^ (hi + 1) * 2 ^ (hi + 1) + (x % 2 ^ (hi + 1 - lo)) * 2 ^ lo + v.toNat % 2 ^ lo)

/-- Bit `n` of a number. -/
def natBit (v n : Nat) : Bool := v.testBit n

/-- Signed reading of a `w`-bit number. -/
def signed (w v : Nat) : Int := if v % 2 ^ w < 2 ^ (w - 1) then (v % 2 ^ w : Nat) else (v % 2 ^ w : Nat) - (2 ^ w : Nat)

/-- One where the condition holds. -/
def b2n (b : Bool) : Nat := if b then 1 else 0

/-- XOR of all bits of the low `w` bits (R324). -/
def parityOf (w v : Nat) : Nat :=
  match w with
  | 0 => 0
  | n + 1 => (b2n (natBit v n) + parityOf n v) % 2

/-- XOR of the successive 3-bit chunks of a `3 * n`-bit number (R324). -/
def fold3Of (n v : Nat) : Nat :=
  match n with
  | 0 => 0
  | k + 1 => natBits v (3 * k + 2) (3 * k) ^^^ fold3Of k v

/-- fold3 of a key of at most 42 bits (R324). -/
def fold3 (k : Nat) : Nat := fold3Of 14 k

/-- parity of a key of at most 42 bits (R324). -/
def parity (k : Nat) : Nat := parityOf 42 k

/-- Replace the element at index `i` of a list. -/
def listSet {α : Type} (l : List α) (i : Nat) (a : α) : List α := l.set i a

/-- Drop the element at index `i` of a list. -/
def listDropAt {α : Type} (l : List α) (i : Nat) : List α := l.take i ++ l.drop (i + 1)

/-- Little-endian bytes of a number. -/
def bytesLE (n v : Nat) : List Byte :=
  match n with
  | 0 => []
  | k + 1 => BitVec.ofNat 8 v :: bytesLE k (v / 256)

/-- The number of a little-endian list of bytes. -/
def natLE (bs : List Byte) : Nat :=
  match bs with
  | [] => 0
  | b :: rest => b.toNat + 256 * natLE rest

/-- The number of a big-endian list of bytes. -/
def natBE (bs : List Byte) : Nat := bs.foldl (fun a b => 256 * a + b.toNat) 0

/-- Big-endian bytes of a number. -/
def bytesBE (n v : Nat) : List Byte := (bytesLE n v).reverse

/-! ## The register map -/

/-- Registers that the manual lays out in text: the MSI-X table and pending bits (R511, whose entries follow the PCIe
standard), the capture buffers (R440), the token windows and the attestation report window (R635). -/
def extraRegs : List RegDesc :=
  [⟨.pci, 0x8000, 257, 16, 1, 0, [⟨31, 2, .rw, 0, .none, .immediate⟩]⟩,
   ⟨.pci, 0x8004, 257, 16, 1, 0, [⟨31, 0, .rw, 0, .none, .immediate⟩]⟩,
   ⟨.pci, 0x8008, 257, 16, 1, 0, [⟨31, 0, .rw, 0, .none, .immediate⟩]⟩,
   ⟨.pci, 0x800C, 257, 16, 1, 0, [⟨0, 0, .rw, 1, .none, .immediate⟩]⟩,
   ⟨.pci, 0xA000, 10, 4, 1, 0, [⟨31, 0, .ro, 0, .none, .dash⟩]⟩,
   ⟨.str, 0x40000, 0x20000, 4, 1, 0, [⟨31, 0, .ro, 0, .none, .dash⟩]⟩,
   ⟨.lcs, 0x4000, 1024, 4, 1, 0, [⟨31, 0, .wo, 0, .none, .immediate⟩]⟩,
   ⟨.lcs, 0x5000, 1024, 4, 1, 0, [⟨31, 0, .wo, 0, .none, .immediate⟩]⟩,
   ⟨.lcs, 0x8000, 4096, 4, 1, 0, [⟨31, 0, .ro, 0, .none, .dash⟩]⟩]

/-- The block instance that holds an address: block, base of the instance, offset in it, die (0 for Bedrock), instance. -/
structure BlockAt where
  desc : BlockDesc
  base : Nat
  off : Nat
  die : Nat
  inst : Nat
  deriving DecidableEq, Repr

/-- Search one window of block descriptions. -/
def findBlock (slate : Bool) (rel : Nat) (l : List BlockDesc) : Option (BlockDesc × Nat) :=
  match l with
  | [] => none
  | b :: rest =>
    let step := if b.stride = 0 then b.size else b.stride
    if b.slate = slate ∧ b.base ≤ rel ∧ (rel - b.base) / step < b.count ∧ (rel - b.base) % step < b.size
    then some (b, (rel - b.base) / step)
    else findBlock slate rel rest

/-- The block instance of an address (R50 to R52). -/
def blockAt (addr : Nat) : Option BlockAt :=
  let win := addr / 0x1000000
  let rel := addr % 0x1000000
  if win = 0 then
    (findBlock false rel blockTable).map fun (b, i) =>
      { desc := b, base := b.base + i * b.stride, off := rel - (b.base + i * b.stride), die := 0, inst := i }
  else if win ≤ 4 then
    (findBlock true rel blockTable).map fun (b, i) =>
      { desc := b, base := win * 0x1000000 + b.base + i * b.stride, off := rel - (b.base + i * b.stride),
        die := win - 1, inst := i }
  else none

/-- Whether a register description covers an offset, and the indexes of the entry. -/
def RegDesc.index (r : RegDesc) (off : Nat) : Option (Nat × Nat) :=
  if off < r.off then none
  else
    let t := off - r.off
    let i := if r.s1 = 0 then 0 else t / r.s1
    let u := if r.s1 = 0 then t else t % r.s1
    let j := if r.s2 = 0 then 0 else u / r.s2
    let v := if r.s2 = 0 then u else u % r.s2
    if i < r.n1 ∧ j < r.n2 ∧ v = 0 then some (i, j) else none

/-- The register entry at an offset of a block. -/
def findReg (b : Block) (off : Nat) (l : List RegDesc) : Option RegDesc :=
  match l with
  | [] => none
  | r :: rest => if r.blk = b ∧ (r.index off).isSome then some r else findReg b off rest

/-- The registers of one block. -/
def regsOf (b : Block) : List RegDesc :=
  match b with
  | .hub => regsHUB | .fln => regsFLN | .cfg => regsCFG | .clk => regsCLK | .pwr => regsPWR | .thm => regsTHM
  | .lcs => regsLCS ++ extraRegs | .pin => regsPIN | .que => regsQUE | .pci => regsPCI ++ extraRegs | .hrg => regsHRG
  | .str => regsSTR ++ extraRegs | .ddr => regsDDR | .obs => regsOBS | .lod => regsLOD | .slt => regsSLT
  | .spl => regsSPL | .xcv => regsXCV | .uio => regsUIO | .sep => regsSEP | .sec => regsSEC | .rtr => regsRTR
  | .seg => regsSEG | .mca => regsMCA | .ven => regsVEN

/-- The register at an address: a location that is neither listed nor a block control register is reserved (R51 to R53). -/
def regAt (addr : Nat) : Option (BlockAt × RegDesc) :=
  match blockAt addr with
  | none => none
  | some b =>
    if b.desc.blk = .lod ∧ b.off = 0xF00 ∧ b.inst ≠ 0 then none
    else if b.desc.blk = .pwr ∧ b.off = 0x3C then none
    else (findReg b.desc.blk b.off (regsOf b.desc.blk)).map fun r => (b, r)

/-- What an address of the register space names: a register of a table, or a block control register (R53, R83). -/
inductive RegSel where
  | reg (r : RegDesc)
  | pend
  | guard
  | unlock
  deriving DecidableEq, Repr

/-- The block instance and the register at an address; none where the location is reserved (R51 to R53). -/
def regSel (addr : Nat) : Option (BlockAt × RegSel) :=
  match blockAt addr with
  | none => none
  | some b =>
    if b.off + 0x10 = b.desc.size then some (b, .pend)
    else if b.off + 0xC = b.desc.size then some (b, .guard)
    else if b.off + 8 = b.desc.size then some (b, .unlock)
    else (regAt addr).map fun x => (b, .reg x.2)

/-- The Reset column of a register as one word. -/
def RegDesc.resetWord (r : RegDesc) : Word :=
  r.fields.foldl (fun w f => setBits w f.hi f.lo f.rst) 0

/-- What a register reads as that no write has changed. -/
def regReset (addr : Nat) : Word :=
  match regAt addr with
  | some (_, r) => r.resetWord
  | none => 0

/-! ## Register values -/

/-- The applied value of the register at an address. -/
def State.reg (s : State) (addr : Nat) : Word :=
  match SMap.find s.regs addr with
  | some v => v
  | none => regReset addr

/-- The state with the applied value of a register replaced. -/
def State.setReg (s : State) (addr : Nat) (v : Word) : State :=
  { s with regs := SMap.put (regReset addr) s.regs addr v }

/-- The value of a field. -/
def State.fld (s : State) (f : RField) : Nat := bits (s.reg f.addr) f.hi f.lo

/-- A one-bit field as a truth value. -/
def State.bit (s : State) (f : RField) : Bool := s.fld f = 1

/-- The state with a field replaced. -/
def State.setFld (s : State) (f : RField) (x : Nat) : State :=
  s.setReg f.addr (setBits (s.reg f.addr) f.hi f.lo x)

/-- A saturating counter one up (R675). -/
def State.bump (s : State) (f : RField) : State :=
  if s.fld f + 1 < 2 ^ (f.hi + 1 - f.lo) then s.setFld f (s.fld f + 1) else s

/-- A saturating counter `n` up. -/
def State.bumpBy (s : State) (f : RField) (n : Nat) : State :=
  s.setFld f (min (s.fld f + n) (2 ^ (f.hi + 1 - f.lo) - 1))

/-- A log that keeps its first record until software clears VALID (R63, R675). -/
def State.logOnce (s : State) (valid : RField) (record : State → State) : State :=
  if s.fld valid = 0 then (record s).setFld valid 1 else s

/-- Every register of a block instance back to its reset value, its buffered writes, its lock and its arm gone (R53, R66,
R70). -/
def State.resetBlock (s : State) (base size : Nat) : State :=
  { s with
    regs := SMap.dropIf s.regs (fun a => base ≤ a && a < base + size)
    shadow := SMap.dropIf s.shadow (fun a => base ≤ a && a < base + size)
    locks := s.locks.filter (fun b => !(base ≤ b && b < base + size))
    arms := s.arms.filter (fun b => !(base ≤ b.block && b.block < base + size)) }

/-! ## What leaves the device, free values -/

/-- Send something outside. -/
def State.emit (s : State) (o : Out) : State := { s with out := s.out ++ [o] }

/-- Take one free value: the counter moves on. -/
def State.useFree (s : State) : State := { s with free := s.free + 1 }

/-! ## Device, dies, features and power domains -/

/-- The device's own coordinates (R77, R328). -/
def State.odx (s : State) : Nat := s.fld (Fld.LOD_SYS_ODX 0)

/-- The device's own coordinates (R77, R328). -/
def State.ody (s : State) : Nat := s.fld (Fld.LOD_SYS_ODY 0)

/-- Slate die `d` was assembled and is not excluded (R4, R11, R41). -/
def State.dieOk (s : State) (d : Nat) : Bool :=
  d < 4 && natBit (s.fld Fld.HUB_IDENT_DIE_PRESENT) d
    && !(2 ≤ s.fld (Fld.HUB_DIE_STATUS_STATE d) && s.fld (Fld.HUB_DIE_STATUS_STATE d) ≤ 4)

/-- Bit `n` of the common feature set (R38, R39). -/
def State.feature (s : State) (n : Nat) : Bool := natBit (s.fld Fld.HUB_FEATURES_COMMON) n

/-- Number of the Slate domain `k` of die `d` (R599). -/
def slateDom (d k : Nat) : Nat := 16 + 10 * d + k

/-- Domain `d` is ON. -/
def State.domOn (s : State) (d : Nat) : Bool := s.fld (Fld.PWR_DOM_STATE d) = 2

/-- A power domain works: it is ON, or DRAINING, when it still delivers and answers what it holds and has not raised its fence
(R346; DEDUCED, assumption 63). -/
def State.domLive (s : State) (d : Nat) : Bool := s.domOn d || s.fld (Fld.PWR_DOM_STATE d) = 3

/-- The device runs: powered, out of reset and not halted. -/
def State.up (s : State) : Bool :=
  match s.phase with
  | .start _ => true
  | .running => true
  | _ => false

/-- Start-up has entered step `n` (R594). -/
def State.stepDone (s : State) (n : Nat) : Bool :=
  match s.phase with
  | .start k => n ≤ k
  | .running => true
  | _ => false

/-- The meaning of an event that only a running device can have. -/
def ifUp (f : State → State) (s : State) : State := if s.up then f s else s

/-! ## What every command leaves alone -/

/-- What a command answers. -/
abbrev Res := Host.Outcome State Fault Refusal

/-- The state `t` that a command makes of `s`, with the queue's rest and the end of a halt as they were. -/
def keep (s t : State) : State := { t with pending := s.pending, haltDone := s.haltDone }

/-- A command that only a running device carries out; elsewhere it has no effect. -/
def onDevice (f : State → State) (s : State) : Res := .next (if s.up then keep s (f s) else s)

/-- A command that may also meet a device that does not run, which `f` decides. -/
def always (f : State → State) (s : State) : Res := .next (keep s (f s))

/-- A command that starts the device or ends a halt; the queue stays. -/
def restart (f : State → State) (s : State) : Res := .next { f s with pending := s.pending }

/-! ## The error-log collector and the event vector -/

/-- The FLN_ERRSUM bit that a status register feeds, and its enable register (R674). -/
def errSource (addr : Nat) : Option (Nat × Option Nat) :=
  match blockAt addr with
  | none => none
  | some b =>
    match b.desc.blk with
    | .cfg => if b.off = 0x2C then some (0, some (addr + 4)) else none
    | .clk => if b.off = 0x14 then some (1, some (addr + 4)) else none
    | .thm => if b.off = 0x208 then some (2, some (addr + 4)) else none
    | .pin => if b.off = 0x140 ∨ b.off = 0x144 then some (3, none) else none
    | .str => if b.off = 4 then some (4, some (addr + 4)) else none
    | .ddr => if b.off = 0x18 then some (5, some (addr + 4)) else none
    | .obs => if b.off = 0x10 then some (6, some (addr + 4)) else none
    | .lod => if b.off = 0x14 then some (7, some (addr + 4)) else none
    | .mca => if b.off = 0x18 then some (16 + 4 * b.die, some (addr + 4)) else none
    | .seg => if b.off = 0x14 then some (17 + 4 * b.die, some (addr + 4)) else none
    | .rtr => if b.off = 0x14 then some (18 + 4 * b.die, some (addr + 4)) else none
    | .ven => if b.off = 0x18 then some (18 + 4 * b.die, some (addr + 4)) else none
    | .spl => if b.off < 0x100 ∧ b.off % 0x20 = 0xC then some (19 + 4 * b.die, none) else none
    | _ => none

/-- The bits that one listed register sets in FLN_ERRSUM. -/
def State.errBitsOf (s : State) (e : Nat × Word) : Nat :=
  match errSource e.1 with
  | none => 0
  | some (b, some en) => if e.2 &&& s.reg en = 0 then 0 else 2 ^ b
  | some (b, none) =>
    if 16 ≤ b then (if bits e.2 1 1 = 1 then 2 ^ b else 0)
    else (if e.2 = 0 then 0 else 2 ^ b)

/-- FLN_ERRSUM as the status and enable registers make it (R674). -/
def State.errSum (s : State) : Nat := s.regs.foldl (fun a e => a ||| s.errBitsOf e) 0

/-- The bits whose rise raises the event vector (R511, R674): enabled FLN_IRQ_STATUS bits in [3:0], masked FLN_ERRSUM bits
above. -/
def State.eventBits (s : State) : Nat :=
  ((s.reg Reg.FLN_IRQ_STATUS &&& s.reg Reg.FLN_IRQ_ENABLE).toNat % 16)
    + 16 * (s.errSum &&& (s.reg Reg.FLN_ERRMASK).toNat)

/-- Address of dword `w` of MSI-X table entry `v` of a port (R511). -/
def msixAddr (port : Bool) (v w : Nat) : Nat := 0x98000 + 0x10000 * b2n port + 16 * v + 4 * w

/-- Address of dword `w` of the pending bit array of a port (R511). -/
def pbaAddr (port : Bool) (w : Nat) : Nat := 0x9A000 + 0x10000 * b2n port + 4 * w

/-- The configuration space of a function after reset: BAR4 of 1 GiB, MSI-X disabled (R485, R487). -/
def PcieCfg.fresh : PcieCfg := { bar4 := 0, msix := false }

/-- What the host has set in the configuration space of a port's function. -/
def State.pcieCfg (s : State) (port : Bool) : PcieCfg := SMap.get PcieCfg.fresh s.pcie (b2n port)

/-- Raise vector `v` of a port: nothing while MSI-X is disabled; a masked vector only becomes pending (R484, R508, R511). -/
def State.msix (s : State) (port : Bool) (v : Nat) : State :=
  if ¬(s.pcieCfg port).msix then s
  else if bits (s.reg (msixAddr port v 3)) 0 0 = 1 then
    s.setReg (pbaAddr port (v / 32)) (s.reg (pbaAddr port (v / 32)) ||| BitVec.ofNat 32 (2 ^ (v % 32)))
  else s.emit (.msix port v)

/-- The event vector on every port whose EVTEN is 1 (R511). -/
def State.event (s : State) : State :=
  let s1 := if s.fld (Fld.PCI_WIN_EVTEN 0) = 1 then s.msix false 256 else s
  if s.fld (Fld.PCI_WIN_EVTEN 1) = 1 then s1.msix true 256 else s1

/-- Do `f`, and raise the event vector once for each watched bit that it makes rise. -/
def withEvents (f : State → State) (s : State) : State :=
  let t := f s
  let old := s.eventBits
  let new := t.eventBits
  ((List.range 36).filter fun n => natBit new n && !natBit old n).foldl (fun (u : State) _ => u.event) t

/-- Raise a bit of an IRQ_STATUS register. -/
def State.raise (s : State) (f : RField) : State := withEvents (fun t => t.setFld f 1) s

/-! ## The life cycle and K guards -/

/-- The life-cycle state in effect (R611). -/
def State.lcState (s : State) : Nat := s.fld Fld.LCS_STATUS_STATE

/-- K guards are available on a path (R71, R622). -/
def State.kAvail (s : State) (p : Path) : Bool :=
  match p with
  | .mgmt => s.lcState ≠ 4 && (s.bit Fld.FLN_STATUS_STARTWIN || s.lcState ≤ 1 || s.bit Fld.FLN_STATUS_RECOVERY)
  | .pcie _ => s.lcState ≤ 1
  | _ => false

/-! ## Owners (R77) -/

/-- An owner ID. -/
def ownerId (kind dx dy index : Nat) : Word := BitVec.ofNat 32 (kind * 2 ^ 28 + dx * 2 ^ 21 + dy * 2 ^ 14 + index)

/-- The owner ID of Flint. -/
def State.flintId (s : State) : Word := ownerId 7 s.odx s.ody 0

/-- The ID of a resource whose revocation is in progress: KIND 15 with INDEX 0, and with DX and DY 0, which R77 gives to owners only
(DESIGN CHOICE, assumption 59). -/
def revokingId : Word := ownerId 15 0 0 0

/-- KIND of an owner ID. -/
def ownerKind (w : Word) : Nat := bits w 31 28

/-- INDEX of an owner ID. -/
def ownerIndex (w : Word) : Nat := bits w 13 0

/-- The region of a sector: the one whose SECTORS bit is set and that is not EMPTY (R543, R562); sector numbers as in
CFG_REG_SECLO. -/
def State.regionOf (s : State) (d sec : Nat) : Option Nat :=
  let a := if d < 2 then Reg.CFG_REG_SECLO else Reg.CFG_REG_SECHI
  (List.range 256).find? fun r =>
    (s.reg (a r)).toNat.testBit (16 * (d % 2) + sec) && decide (s.fld (Fld.CFG_REG_STAT_STATE r) ≠ 0)

/-- The owner ID of an endpoint that is no region's port (R77). -/
def epOwner (e : Ep) : Word :=
  ownerId 6 e.dx.toNat e.dy.toNat (e.die.toNat * 1024 + e.x.toNat * 128 + e.y.toNat * 16 + e.p.toNat)

/-- A local endpoint of this device. -/
def State.mkEp (s : State) (d x y p : Nat) : Ep :=
  { dx := BitVec.ofNat 7 s.odx, dy := BitVec.ofNat 7 s.ody, die := BitVec.ofNat 3 d,
    x := BitVec.ofNat 3 x, y := BitVec.ofNat 3 y, p := BitVec.ofNat 4 p }

/-- The endpoint lies in this device. -/
def State.localEp (s : State) (e : Ep) : Bool := e.dx.toNat = s.odx && e.dy.toNat = s.ody

/-- XFLIP of die `d` (R29, R30). -/
def State.xflip (s : State) (d : Nat) : Bool := s.bit (Fld.SLT_ORIENT_XFLIP d)

/-- Die-physical column of a router or sector column of `n` columns (R30). -/
def State.physX (s : State) (d n x : Nat) : Nat := if s.xflip d then n - 1 - x else x

/-- Sector 4 sy + sx, in the die-physical frame, of the tile of die-logical router (x, y) (R28, R30, R52). -/
def State.physSector (s : State) (d x y : Nat) : Nat := 4 * (y / 2) + (s.physX d 8 x) / 2

/-- Sector 4 sy + sx, in the die-logical frame, of the tile of router (x, y) (R28, R52). -/
def logSector (x y : Nat) : Nat := 4 * (y / 2) + x / 2

end Sys2Proof.Machine
end

