-- ==== Sys2Proof/Machine/Writes.lean ====
section
/-! DEFINITION. What a write does to a register that no rule treats specially: fields that apply at once, W1C and W1S bits, and
the shadow that holds the others until their boundary (R19, R20, R23, R64 to R69). -/

namespace Sys2Proof.Machine

/-- A field that a write changes at once. -/
def FieldDesc.now (f : FieldDesc) : Bool := f.eff = .immediate || f.eff = .dash

/-- The word with one field written (R19, R20): `defer` chooses the fields that wait for a boundary. -/
def FieldDesc.write (f : FieldDesc) (defer : Bool) (cur v : Word) : Word :=
  match f.acc with
  | .rw => if f.now = defer then cur else setBits cur f.hi f.lo (bits v f.hi f.lo)
  | .w1c => if defer then cur else setBits cur f.hi f.lo (bits (cur &&& ~~~v) f.hi f.lo)
  | .w1s => if defer then cur else setBits cur f.hi f.lo (bits (cur ||| v) f.hi f.lo)
  | .ro => cur
  | .wo => cur

/-- The word with the fields that apply at once, or those that wait, taken from `v`. -/
def RegDesc.write (r : RegDesc) (defer : Bool) (cur v : Word) : Word :=
  r.fields.foldl (fun c f => f.write defer c v) cur

/-- The boundary that a register's waiting fields share; no register has two. -/
def RegDesc.boundary (r : RegDesc) : Option Bound :=
  (r.fields.find? fun f => f.acc = .rw && !f.now).map fun f => f.eff

/-- A write of `v` to a register under the rules of R19, R64 and R65. -/
def State.plainWrite (s : State) (r : RegDesc) (addr : Nat) (v : Word) : State :=
  let s1 := withEvents (fun t => t.setReg addr (r.write false (t.reg addr) v)) s
  match r.boundary with
  | none => s1
  | some _ => { s1 with shadow := SMap.set s1.shadow addr (r.write true 0 v) }

/-- Apply the shadow of a register (R64). -/
def State.applyShadow (s : State) (addr : Nat) : State :=
  match SMap.find s.shadow addr, regAt addr with
  | some v, some (_, r) => { s.setReg addr (r.write true (s.reg addr) v) with shadow := SMap.drop s.shadow addr }
  | _, _ => s

/-- The boundary of a register address. -/
def boundaryOf (addr : Nat) : Option Bound :=
  match regAt addr with
  | some (_, r) => r.boundary
  | none => none

/-- Apply every waiting write whose boundary is `b` and whose address `p` names. -/
def State.applyAll (s : State) (b : Bound) (p : Nat → Bool) : State :=
  (s.shadow.filter fun e => boundaryOf e.1 = some b && p e.1).foldl (fun t e => t.applyShadow e.1) s

/-- The value a guard compares with: the shadowed fields where a write waits, the applied ones elsewhere (R70). -/
def State.current (s : State) (r : RegDesc) (addr : Nat) : Word :=
  match SMap.find s.shadow addr with
  | some v => r.write true (s.reg addr) v
  | none => s.reg addr

end Sys2Proof.Machine
end

