-- ==== Sys2Proof/Machine/Clocks.lean ====
section
/-! DEFINITION. Fabric clocks: PLLs, spines and regional trees (R141 to R182). -/

namespace Sys2Proof.Machine

/-- DREF runs: it has a source, or the PLL is in holdover (R592, R593). -/
def State.dref (s : State) : Bool :=
  !s.bit Fld.CLK_STATUS_DREFLOST && (s.fld Fld.CLK_STATUS_DREFSRC ≠ 0 || s.bit Fld.CLK_STATUS_HOLDOVER)

/-! ## PLLs (R144 to R151) -/

/-- FRAC as used: 0 in aligned mode (R146). -/
def State.pllFrac (s : State) (d p : Nat) : Nat := if s.bit (Fld.SPL_PLL_CTRL_ALIGN d p) then 0 else s.fld (Fld.SPL_PLL_FRAC_FRAC d p)

/-- N + FRAC / 2^24 lies from 20 up to, but not including, 60 (R144). -/
def State.pllValid (s : State) (d p : Nat) : Bool :=
  let x := s.fld (Fld.SPL_PLL_CTRL_N d p) * 2 ^ 24 + s.pllFrac d p
  20 * 2 ^ 24 ≤ x && x < 60 * 2 ^ 24

/-- DIVc and OENc of output `c`. -/
def State.pllDiv (s : State) (d p c : Nat) : Nat := bits (s.reg (Reg.SPL_PLL_OUT d p)) (8 * c + 6) (8 * c)

/-- Output `c` of PLL `p` runs (R145, R148). -/
def State.pllRuns (s : State) (d p c : Nat) : Bool :=
  s.bit (Fld.SPL_PLL_STATUS_LOCKED d p) && natBit (s.reg (Reg.SPL_PLL_OUT d p)).toNat (8 * c + 7) && 2 ≤ s.pllDiv d p c

/-- The settings whose change unlocks an enabled PLL (R147). -/
def State.pllSet (s : State) (d p : Nat) : List Nat :=
  [s.fld (Fld.SPL_PLL_CTRL_N d p), s.fld (Fld.SPL_PLL_FRAC_FRAC d p), s.fld (Fld.SPL_PLL_CTRL_ALIGN d p), s.pllDiv d p 0,
   s.pllDiv d p 1, s.pllDiv d p 2, s.pllDiv d p 3]

/-- A write to a setting of PLL `p` of die `d` (R147, R151). Invalid settings set BADCFG only while EN is 1: R151 and R181 name no EN,
and N resets to 0 with BADCFG at 0 (DESIGN CHOICE, assumption 65). -/
def State.pllWrite (s : State) (r : RegDesc) (addr d p : Nat) (v : Word) : State :=
  let t := s.plainWrite r addr v
  let en := t.bit (Fld.SPL_PLL_CTRL_EN d p)
  let t := if ¬en ∨ ¬s.bit (Fld.SPL_PLL_CTRL_EN d p) ∨ s.pllSet d p ≠ t.pllSet d p then t.setFld (Fld.SPL_PLL_STATUS_LOCKED d p) 0 else t
  if t.pllValid d p then t.setFld (Fld.SPL_PLL_STATUS_BADCFG d p) 0
  else if en then t.setFld (Fld.SPL_PLL_STATUS_BADCFG d p) 1
  else t

/-- PLL_LOCK (R143, R147, R149). -/
def State.pllLock (s : State) (d p : Nat) : State :=
  if s.bit (Fld.SPL_PLL_CTRL_EN d p) ∧ s.pllValid d p ∧ s.dref ∧ s.domLive (slateDom d 5) ∧ s.dieOk d then
    s.setFld (Fld.SPL_PLL_STATUS_LOCKED d p) 1
  else s

/-- PLL_LOSS_OF_LOCK: lock lost without a write (R148, R150). -/
def State.pllLose (s : State) (d p : Nat) : State :=
  if s.bit (Fld.SPL_PLL_STATUS_LOCKED d p) then
    withEvents (fun t => (t.setFld (Fld.SPL_PLL_STATUS_LOCKED d p) 0).setFld (Fld.SPL_PLL_STATUS_LOSTLOCK d p) 1) s
  else s

/-- Every locked PLL of every die loses lock (R143). -/
def State.pllsLose (s : State) : State :=
  (List.range 32).foldl (fun (t : State) i => t.pllLose (i / 8) (i % 8)) s

/-- The multiple of 100 MHz of an aligned output that runs at a whole one (R146). -/
def State.pllMultiple (s : State) (d p c : Nat) : Option Nat :=
  let div := s.pllDiv d p c
  let n := s.fld (Fld.SPL_PLL_CTRL_N d p)
  if s.bit (Fld.SPL_PLL_CTRL_ALIGN d p) ∧ n % div = 0 then some (n / div) else none

/-- Half a period of DREF in units of `State.drefPhase`: a number that every multiple of 100 MHz up to the 30th divides. -/
def drefHalf : Nat := 2329089562800

/-- The level of a clock at `m` x 100 MHz, aligned with DREF, at a point of DREF's period: high in the first half of each of its own
periods, the first of which begins with DREF's (R146). -/
def alignedLevel (m phase : Nat) : Bool := phase * m / drefHalf % 2 = 0

/-- The next point of DREF's period at which such a clock has an edge. -/
def nextEdge (m phase : Nat) : Nat := (phase * m / drefHalf + 1) * (drefHalf / m)

/-- The multiples of 100 MHz at which DREF and the aligned outputs of the device run. -/
def State.multiples (s : State) : List Nat :=
  1 :: (List.range 128).filterMap fun i =>
    if s.pllRuns (i / 32) (i / 4 % 8) (i % 4) then s.pllMultiple (i / 32) (i / 4 % 8) (i % 4) else none

/-- The point of DREF's period after this tick: the next edge of DREF or of an aligned output, or no further, as a free value decides. No
edge is passed over, so every aligned output rises with each rise of DREF (R146). -/
def State.phaseNext (s : State) : Nat :=
  if ¬s.dref ∨ ¬Config.freeClock s.free 1 then s.drefPhase
  else ((s.multiples.map fun m => nextEdge m s.drefPhase).foldl min (2 * drefHalf)) % (2 * drefHalf)

/-! ## Spines (R153 to R156) -/

/-- The source of a spine runs (R153, R155). -/
def State.srcRuns (s : State) (d src : Nat) : Bool :=
  if src < 32 then s.pllRuns d (src / 4) (src % 4) else src = 32 && s.dref

/-- Spine `k` is toggling. -/
def State.spineRuns (s : State) (d k : Nat) : Bool :=
  s.bit (Fld.SPL_SPINE_EN d k) && s.srcRuns d (s.fld (Fld.SPL_SPINE_SRC d k)) && s.domLive (slateDom d 5)

/-- A spine that has never been enabled. -/
def SpineSt.shut : SpineSt := { src := false, open_ := false }

/-- Spine `k` of die `d`. -/
def State.spine (s : State) (d k : Nat) : SpineSt := SMap.get SpineSt.shut s.spines (16 * d + k)

/-- The level of a spine. -/
def SpineSt.level (v : SpineSt) : Bool := v.src && v.open_

/-- The level of the source of a spine after this tick; `was` is what a stopped DREF keeps (R148, R153). An output that is not aligned, or
not at a whole multiple of 100 MHz, is a clock of its own. -/
def State.srcLevel (s : State) (d src : Nat) (was : Bool) : Bool :=
  if src < 32 then
    s.pllRuns d (src / 4) (src % 4) && match s.pllMultiple d (src / 4) (src % 4) with
      | some m => alignedLevel m s.phaseNext
      | none => Config.freeClock s.free (1000 + 64 * d + src)
  else src = 32 && (if s.dref then alignedLevel 1 s.phaseNext else was)

/-- A spine after this tick: its gate opens at a falling edge of its source, and closes at one or where the source is stopped (R155,
R156). -/
def State.spineNext (s : State) (d k : Nat) : SpineSt :=
  let old := s.spine d k
  let src := s.fld (Fld.SPL_SPINE_SRC d k)
  let level := s.srcLevel d src old.src
  let fall := old.src && !level
  let on := s.bit (Fld.SPL_SPINE_EN d k) && s.domLive (slateDom d 5)
  { src := level, open_ := if on then old.open_ || fall else old.open_ && !(fall || !s.srcRuns d src) }

/-- A spine has no edge to come: it does not run, and is low, or high over a DREF that has stopped high (R148, R155). -/
def State.spineStopped (s : State) (d k : Nat) : Bool :=
  !s.spineRuns d k
    && (!(s.spine d k).level || (s.bit (Fld.SPL_SPINE_EN d k) && s.fld (Fld.SPL_SPINE_SRC d k) = 32 && s.domLive (slateDom d 5)))

/-- The spines that can have an edge. -/
def State.liveSpines (s : State) : List Nat :=
  (List.range 64).filter fun i => s.bit (Fld.SPL_SPINE_EN (i / 16) (i % 16)) || (SMap.find s.spines i).isSome

/-- DREF and every spine after this tick. -/
def State.spinesTick (s : State) : State :=
  let t : State := { s with drefPhase := s.phaseNext }
  s.liveSpines.foldl (fun (t : State) i => { t with spines := SMap.put SpineSt.shut t.spines i (s.spineNext (i / 16) (i % 16)) }) t

/-- A write to SPL_SPINEk: SRC changes only while the applied EN is 0 or with EN going to 0 (R154). -/
def State.spineWrite (s : State) (addr d k : Nat) (v : Word) : State :=
  let en := natBit v.toNat 31
  let src := bits v 5 0
  let refused := en ∧ s.bit (Fld.SPL_SPINE_EN d k) ∧ src ≠ s.fld (Fld.SPL_SPINE_SRC d k)
  let t := s.setReg addr (setBits (s.reg addr) 31 31 (b2n en))
  if refused then t.setFld (Fld.SPL_STATUS_SRC_REFUSED d) 1 else t.setFld (Fld.SPL_SPINE_SRC d k) src

/-! ## Regional trees (R157 to R173) -/

/-- The key of tree `t` of sector `sec` of die `d`. -/
def treeKeyOf (d sec t : Nat) : Nat := 512 * d + 32 * sec + t

/-- The applied source of input `i` of a tree (R158). -/
def State.treeSrc (s : State) (d sec t i : Nat) : Nat := bits (s.reg (Reg.SEC_RCLK d sec t)) (5 * i + 4) (5 * i)

/-- Input `i` of a tree has edges to come, or is constant low, which hangs no switch (R155, R163). -/
def State.treeFree (s : State) (d sec t i : Nat) : Bool :=
  16 ≤ s.treeSrc d sec t i || !s.spineStopped d (s.treeSrc d sec t i)

/-- Input `i` of a tree is constant low. -/
def State.treeLow (s : State) (d sec t i : Nat) : Bool := 16 ≤ s.treeSrc d sec t i

/-- A tree before any clock. -/
def TreeSt.idle : TreeSt := { open_ := false, mux := false, hung := false, gate := false, level := false, phase := none }

/-- A tree of a sector. -/
def State.tree (s : State) (d sec t : Nat) : TreeSt := SMap.get TreeSt.idle s.trees (treeKeyOf d sec t)

/-- Replace it. -/
def State.setTree (s : State) (d sec t : Nat) (v : TreeSt) : State :=
  { s with trees := SMap.put TreeSt.idle s.trees (treeKeyOf d sec t) v }

/-- The level of input `i` of a tree (R158). -/
def State.inLevel (s : State) (d sec t i : Nat) : Bool :=
  let src := s.treeSrc d sec t i
  src < 16 && (s.spine d src).level

/-- The division that DIV names (R159). -/
def State.division (s : State) (d sec t : Nat) : Nat := [1, 2, 3, 4, 6, 8, 16, 16].getD (s.fld (Fld.SEC_RCLK_DIV d sec t)) 16

/-- The divider's input takes a level: each edge is half an input period, and the first rising edge starts the count (R160). -/
def TreeSt.drive (v : TreeSt) (n : Nat) (b : Bool) : TreeSt :=
  if v.mux = b then v
  else { v with mux := b, phase := match v.phase with
    | some k => some ((k + 1) % (2 * n))
    | none => if b then some 0 else none }

/-- The divider's output: high for the first half of each output period (R160). -/
def TreeSt.divided (v : TreeSt) (n : Nat) : Bool :=
  match v.phase with
  | some k => k < n
  | none => false

/-- A switch that waits for the close step hangs once the input it leaves is stopped (R164). -/
def State.treeHangs (s : State) (d sec t : Nat) : Bool :=
  s.bit (Fld.SEC_RCLK_SWITCH_PENDING d sec t) && !s.treeClosed.contains (treeKeyOf d sec t)
    && !s.treeFree d sec t (s.fld (Fld.SEC_RCLK_ACTIVE d sec t))

/-- Note the hang of a tree. -/
def State.treeHang (s : State) (d sec t : Nat) : State :=
  if s.treeHangs d sec t then s.setTree d sec t { s.tree d sec t with hung := true } else s

/-- Do the steps of a pending switch that `can` allows for the input they need (R162 to R166): the first holds the multiplexer's output
low, the second makes SEL the active input, onto which that output opens while it is low. A tree that hangs does none (R164, R167). R162
does not say whether the output that is held low is the multiplexer's or the divided one; the divider keeps its place, so with DIV
above 0 the tree may stay high until it closes (DESIGN CHOICE, assumption 65). -/
def State.treeAdvance (s : State) (d sec t : Nat) (can : Nat → Bool) : State :=
  if ¬s.bit (Fld.SEC_RCLK_SWITCH_PENDING d sec t) ∨ (s.tree d sec t).hung then s
  else
    let key := treeKeyOf d sec t
    let act := s.fld (Fld.SEC_RCLK_ACTIVE d sec t)
    let s : State :=
      if ¬s.treeClosed.contains key ∧ can act then
        { s with treeClosed := s.treeClosed ++ [key] }.setTree d sec t { (s.tree d sec t).drive (s.division d sec t) false with open_ := false }
      else s
    let sel := s.fld (Fld.SEC_RCLK_SEL d sec t)
    if s.treeClosed.contains key ∧ can sel then
      let s := (s.setFld (Fld.SEC_RCLK_ACTIVE d sec t) sel).setFld (Fld.SEC_RCLK_SWITCH_PENDING d sec t) 0
      { s with treeClosed := s.treeClosed.filter fun k => k ≠ key }.setTree d sec t
        { s.tree d sec t with open_ := !s.inLevel d sec t sel }
    else s

/-- A write to SEC_RCLKs_t: INk_SRC and DIV wait for a region clock reset; SEL starts, replaces or cancels a switch (R161 to
R166). A SEL that names the active input clears SWITCH_PENDING during the hang of R164 too, as R166 says; the output stays frozen until
a region clock reset, as R167 says, where no rule says which of the two stands (DESIGN CHOICE, assumption 65). -/
def State.treeWrite (s : State) (r : RegDesc) (addr d sec t : Nat) (v : Word) : State :=
  let s1 := s.plainWrite r addr v
  let sel := s1.fld (Fld.SEC_RCLK_SEL d sec t)
  let closed := s.treeClosed.contains (treeKeyOf d sec t)
  if sel = s.fld (Fld.SEC_RCLK_SEL d sec t) then s1
  else
    let pend := b2n (decide (sel ≠ s.fld (Fld.SEC_RCLK_ACTIVE d sec t)) || closed)
    ((s1.setFld (Fld.SEC_RCLK_SWITCH_PENDING d sec t) pend).treeHang d sec t).treeAdvance d sec t (fun i => s1.treeLow d sec t i)

/-- TREE_SWITCH_COMPLETE: the edges that a pending switch waits for come, from those inputs that run (R162 to R165). -/
def State.treeComplete (s : State) (d sec t : Nat) : State :=
  (s.treeHang d sec t).treeAdvance d sec t (fun i => s.treeFree d sec t i)

/-- A region clock reset of one tree: its output is low at once, a switch is abandoned, the shadow is applied, SEL is forced in and the
divider is cleared (R169). No flip-flop takes that fall for an edge (R171). -/
def State.treeReset (s : State) (d sec t : Nat) : State :=
  let s := s.applyShadow (Reg.SEC_RCLK d sec t)
  let s := s.setFld (Fld.SEC_RCLK_SWITCH_PENDING d sec t) 0
  let v := s.tree d sec t
  { s.setFld (Fld.SEC_RCLK_ACTIVE d sec t) (s.fld (Fld.SEC_RCLK_SEL d sec t)) with
    treeClosed := s.treeClosed.filter fun k => k ≠ treeKeyOf d sec t }.setTree d sec t { TreeSt.idle with gate := v.gate }

/-- Region clock resets of the trees of a sector that `mask` names (R168). -/
def State.treesReset (s : State) (d sec mask : Nat) : State :=
  (List.range 24).foldl (fun (u : State) t => if natBit mask t then u.treeReset d sec t else u) s

/-- The output of a tree has edges (R157, R163, R164). -/
def State.treeRuns (s : State) (d sec t : Nat) : Bool :=
  let src := s.treeSrc d sec t (s.fld (Fld.SEC_RCLK_ACTIVE d sec t))
  src < 16 && s.spineRuns d src && !s.treeClosed.contains (treeKeyOf d sec t) && !(s.tree d sec t).hung

/-- The clocks of a sector may run: its region is RUNNING, and is not frozen or still has a port that drains (R110, R113, R173, R347,
R566). -/
def State.secClocked (s : State) (d sec : Nat) : Bool :=
  match s.regionOf d sec with
  | none => false
  | some r =>
    s.fld (Fld.CFG_REG_STAT_STATE r) = 3 &&
      (!s.bit (Fld.CFG_REG_STAT_FROZEN r) || s.drains.any fun e => s.regionOf e.die.toNat (logSector e.x.toNat e.y.toNat) = some r)

/-- The steps of a tree's switch at this tick, where `s` holds the levels before it and `u` those after it: a step waits for a falling
edge of its input, or none of a constant low one (R162 to R165); without a switch a closed output opens in the same way (R169). -/
def State.treeSteps (s u : State) (d sec t : Nat) : State :=
  let can := fun (i : Nat) => u.treeLow d sec t i || (s.inLevel d sec t i && !u.inLevel d sec t i)
  let v := u.tree d sec t
  if u.bit (Fld.SEC_RCLK_SWITCH_PENDING d sec t) then u.treeAdvance d sec t can
  else if ¬v.open_ ∧ ¬v.hung ∧ can (u.fld (Fld.SEC_RCLK_ACTIVE d sec t)) then u.setTree d sec t { v with open_ := true }
  else u

/-- The divider after this tick: the first input rise after a region clock reset starts it only once the tree's gate is open (R160). -/
def TreeSt.clocked (v : TreeSt) (n : Nat) (b gate : Bool) : TreeSt :=
  if v.hung then v
  else
    let w := v.drive n b
    if v.phase.isNone && !gate then { w with phase := none } else w

/-- A tree after this tick: its switch, the divider, and the gate, which opens and closes while the divided clock is low and closes
at once over a stopped one (R112, R159, R160, R173). `s` is the state before the tick. A switch hangs only when the last edge of the
input that it leaves has gone by (R164). -/
def State.treeTick (s u : State) (d sec t : Nat) : State :=
  let u := (s.treeSteps u d sec t).treeHang d sec t
  let n := u.division d sec t
  let on := u.secClocked d sec
  let v := u.tree d sec t
  let gate := v.gate || (on && !v.divided n)
  let v := v.clocked n (v.open_ && u.inLevel d sec t (u.fld (Fld.SEC_RCLK_ACTIVE d sec t))) gate
  let x := v.divided n
  let gate := if on then gate || !x else v.gate && x && u.treeRuns d sec t
  u.setTree d sec t { v with gate := gate, level := gate && x }

/-- The tree whose register stands at an address, as (die, sector, tree). -/
def treeOfAddr (addr : Nat) : Option (Nat × Nat × Nat) :=
  match blockAt addr with
  | some b => if b.desc.blk = .sec ∧ b.off < 0x60 then some (b.die, b.inst, b.off / 4) else none
  | none => none

/-- The trees that can have an edge: those with a setting, and those that have had one. -/
def State.liveTrees (s : State) : List (Nat × Nat × Nat) :=
  let set := s.regs.filterMap fun e => treeOfAddr e.1
  set ++ (s.trees.map fun e => (e.1 / 512, e.1 / 32 % 16, e.1 % 32)).filter fun x => x.2.2 < 24 && !set.contains x

/-- Every spine and every tree, after this tick. -/
def State.clockTick (s : State) : State :=
  s.liveTrees.foldl (fun (u : State) x => s.treeTick u x.1 x.2.1 x.2.2) s.spinesTick

/-- A rising edge of the line that tree `t` gives, inverted or not, from the tick before `s` to that of `u`. -/
def State.treeEdge (s u : State) (d sec t : Nat) (inv : Bool) : Bool :=
  let a := (s.tree d sec t).level
  let b := (u.tree d sec t).level
  t < 24 && (if inv then a && !b else !a && b)

/-! ## Wire clocks (R176, R177) -/

/-- The wire-mode clock maximum of the speed grade, in units of 100 MHz (R8). -/
def State.wireMax (s : State) : Nat :=
  match s.fld Fld.HUB_IDENT_SPEED with
  | 3 => 10
  | 2 => 9
  | _ => 8

/-- The frequency of the wire clock of logical bundle `b` of die `d` in units of 100 MHz, if it is valid (R176, R177). -/
def State.wireClock (s : State) (d b : Nat) : Option Nat :=
  let k := s.fld (Fld.SPL_WCLK_SPINE d b)
  let src := s.fld (Fld.SPL_SPINE_SRC d k)
  let p := src / 4
  let div := s.pllDiv d p (src % 4)
  let n := s.fld (Fld.SPL_PLL_CTRL_N d p)
  if src < 32 ∧ s.spineRuns d k ∧ s.bit (Fld.SPL_PLL_CTRL_ALIGN d p) ∧ n % div = 0 ∧ n / div ≤ s.wireMax then some (n / div)
  else none

end Sys2Proof.Machine
end

