-- ==== Sys2Proof/Machine/Operands.lean ====
section
/-! DEFINITION. The operand forms of signal engine instructions: the fields of an instruction word, the transfer field with its
three slots, address generation, and which words are legal whatever the state (R273 to R306). -/

namespace Sys2Proof.Machine

/-! ## Instruction words (R273) -/

/-- A word from its class, its operation field and its transfer field. -/
def engWord (cls op : Nat) (x : BitVec 32) : W64 := BitVec.ofNat 64 (cls * 2 ^ 60 + op % 2 ^ 28 * 2 ^ 32 + x.toNat)

/-- Bits [hi:lo] of an instruction word. -/
def wbits (w : W64) (hi lo : Nat) : Nat := natBits w.toNat hi lo

/-! ## The transfer field (R275) -/

/-- One slot: enabled, a store, an S register, the register, the address register 0 to 7, the mode. -/
structure XSlot where
  en : Bool
  store : Bool
  sreg : Bool
  reg : Nat
  ar : Nat
  mode : Nat
  deriving DecidableEq, Repr

/-- The X slot. -/
def xSlot (x : BitVec 32) : XSlot :=
  let v := x.toNat
  { en := natBit v 31, store := natBit v 30, sreg := natBit v 29, reg := natBits v 28 25, ar := natBits v 24 23,
    mode := natBits v 22 21 }

/-- The Y slot. -/
def ySlot (x : BitVec 32) : XSlot :=
  let v := x.toNat
  { en := natBit v 20, store := natBit v 19, sreg := natBit v 18, reg := natBits v 17 14, ar := 4 + natBits v 13 12,
    mode := natBits v 11 10 }

/-- The P slot, which only loads V registers. -/
def pSlot (x : BitVec 32) : XSlot :=
  let v := x.toNat
  { en := natBit v 9, store := false, sreg := false, reg := natBits v 8 5, ar := natBits v 4 2, mode := natBits v 1 0 }

/-- The slots of a transfer field. -/
def slotsOf (x : BitVec 32) : List XSlot := [xSlot x, ySlot x, pSlot x]

/-- A slot that changes its address register. -/
def XSlot.updates (k : XSlot) (ar : Nat) : Bool := k.en && k.mode ≠ 0 && k.ar = ar

/-- Two loads into one register. -/
def sameLoad (a b : XSlot) : Bool :=
  a.en && b.en && !a.store && !b.store && a.sreg = b.sreg && a.reg = b.reg

/-- Static rules of R275 and R278 on the transfer field. -/
def xferLegal (x : BitVec 32) : Bool :=
  let v := x.toNat
  let a := xSlot x
  let b := ySlot x
  let c := pSlot x
  (a.en || natBits v 30 21 = 0) && (b.en || natBits v 19 10 = 0) && (c.en || natBits v 8 0 = 0)
    && !(a.en && a.sreg && 8 ≤ a.reg) && !(b.en && b.sreg && 8 ≤ b.reg)
    && !(c.en && c.mode ≠ 0 && (a.updates c.ar || b.updates c.ar))
    && !sameLoad a b && !sameLoad a c && !sameLoad b c

/-- Some slot uses bit-reversed addressing. -/
def usesReverse (x : BitVec 32) : Bool := (slotsOf x).any fun k => k.en && k.mode = 3

/-! ## Legal operation fields (R274, R282 to R301) -/

/-- The operation field of a word is one that this chapter gives a meaning. -/
def opLegal (w : W64) : Bool :=
  let x : BitVec 32 := w.setWidth 32
  let f := fun (hi lo : Nat) => wbits w hi lo
  match f 63 60 with
  | 0 =>
    f 48 45 = 0 &&
    match f 59 56 with
    | 0 => f 55 49 = 0 && f 44 32 = 0
    | 1 => f 55 49 = 0 && 1 ≤ f 44 32 && f 44 32 ≤ 4096
    | 2 => f 52 49 = 0 && f 44 32 = 0
    | 3 => f 55 49 = 0 && f 44 32 = 0 && x = 0
    | 4 => f 55 49 = 0 && f 44 32 = 0 && x = 0
    | 5 => f 52 49 ≤ 6 && f 44 32 = 0
    | 6 => f 52 49 ≤ 11 && f 44 32 = 0
    | _ => false
  | 1 =>
    f 47 42 = 0 && f 57 54 ≤ 7 && (3 ≤ f 57 54 || f 53 51 = 0) &&
    match f 59 58 with
    | 0 => f 50 48 = 0
    | 1 => !(f 57 54 = 7 && f 53 51 = f 50 48)
    | 2 => f 41 32 = 0
    | _ => f 57 48 = 0 && f 41 32 = 0
  | 2 => f 59 55 ≤ 14 && f 45 32 = 0 && (f 59 55 ≠ 13 || f 48 46 = 0)
  | 3 =>
    f 59 56 ≤ 9 && f 49 48 = 0 && (!(4 ≤ f 59 56 && f 59 56 ≤ 6) || f 47 37 = 0)
      && (!(f 59 56 = 7 || f 59 56 = 8) || f 52 50 = 0)
  | 4 =>
    let wr := (f 59 58 = 0 || f 59 58 = 1) && f 54 53 = 0 || f 59 58 = 3
    f 49 43 = 0 && !(wr && (slotsOf x).any fun k => k.updates (f 57 55)) &&
    match f 59 58 with
    | 0 => f 52 50 = 0
    | 1 => f 42 32 = 0
    | 2 => f 42 32 = 0
    | _ => f 54 53 = 0 && f 52 50 = 0
  | 5 => f 39 32 = 0 && (f 59 58 = 0 || f 47 44 = 0) && (f 59 58 ≤ 1 || f 43 42 = 0)
  | 6 =>
    f 36 32 = 0 &&
    match f 59 57 with
    | 0 => f 54 37 = 0
    | 1 =>
      match f 50 48 with
      | 0 => f 47 44 ≤ 3 && f 43 38 ≤ 23
      | 1 => f 47 44 ≤ 1 && f 43 38 ≤ 23
      | 2 => f 47 44 ≤ 3 && f 43 38 ≤ 47
      | 3 => f 47 44 ≤ 1
      | 4 => f 47 44 ≤ 3 && f 43 38 = 0 && f 37 37 = 0
      | 5 => f 47 44 ≤ 1 && f 43 38 = 0 && f 37 37 = 0
      | _ => false
    | 2 =>
      f 37 37 = 0 &&
      match f 50 48 with
      | 0 => f 47 44 ≤ 3 && f 43 38 ≤ 23
      | 2 => f 47 44 ≤ 3 && f 43 38 ≤ 47
      | 3 => f 47 44 ≤ 1
      | 4 => f 47 44 ≤ 3 && f 43 38 = 0
      | _ => false
    | _ => false
  | 7 =>
    f 42 32 = 0 &&
    match f 59 56 with
    | 0 => f 47 43 = 0
    | 1 => f 51 48 = 0 && f 43 43 = 0
    | 2 => f 55 55 = 0 && f 47 45 = 0 && f 43 43 = 0
    | 3 => f 51 44 = 0
    | 4 => f 55 52 = 0 && f 47 44 = 0
    | 5 => f 51 48 = 0 && f 44 43 = 0
    | _ => false
  | 8 =>
    f 37 32 = 0 && f 52 52 = 0 &&
    match f 59 56 with
    | 0 => f 45 38 = 0
    | 1 => f 45 38 = 0
    | 2 => 1 ≤ f 45 41 && f 45 41 ≤ 16 && f 40 38 = 0
    | 3 => 1 ≤ f 45 41 && f 45 41 ≤ 16 && f 40 38 = 0
    | 4 => f 55 55 = 0 && f 45 38 = 0
    | 5 => f 45 41 = 0 && f 40 38 ≤ 6
    | 6 => f 55 38 = 0
    | _ => false
  | _ => false

/-- The word is a legal instruction whatever the engine's state (R274, R275, R278). -/
def wordLegal (w : W64) : Bool := opLegal w && xferLegal (w.setWidth 32)

/-! ## Address generation (R237, R277 to R281) -/

/-- The effective length of an address register. -/
def AReg.len (r : AReg) : Nat := if r.l.toNat = 0 ∨ 1024 < r.l.toNat then 1024 else r.l.toNat

/-- The circular update with a signed modifier (R279). -/
def AReg.circular (r : AReg) (m : Int) : BitVec 10 :=
  let off : Int := ((r.a - r.b).toNat : Nat)
  let l : Int := (r.len : Nat)
  let t := off + m
  let t := if l ≤ t then t - l else if t < 0 then t + l else t
  BitVec.ofInt 10 ((r.b.toNat : Nat) + t)

/-- Reverse the low `k` bits of a number. -/
def revBits (k v : Nat) : Nat :=
  match k with
  | 0 => 0
  | j + 1 => (v % 2) * 2 ^ j + revBits j (v / 2)

/-- k where L = 2^k (R281). -/
def AReg.log2Len (r : AReg) : Option Nat := (List.range 11).find? fun k => 2 ^ k = r.len

/-- The bit-reversed update (R281). -/
def AReg.reversed (r : AReg) (k : Nat) : BitVec 10 :=
  let off := (r.a - r.b).toNat % r.len
  let t := ((revBits k off : Nat) + r.m.toInt) % (r.len : Nat)
  BitVec.ofNat 10 (r.b.toNat + revBits k t.toNat)

/-- The update of a mode; none where mode 3 meets a length that is no power of two. -/
def AReg.update (r : AReg) (mode : Nat) : Option (BitVec 10) :=
  match mode with
  | 0 => some r.a
  | 1 => some (r.circular 1)
  | 2 => some (r.circular r.m.toInt)
  | _ => r.log2Len.map fun k => r.reversed k

end Sys2Proof.Machine
end

