-- ==== Sys2Proof/Machine/Flags.lean ====
section
/-! DEFINITION. Flags and arithmetic of signal engines: the status register, scalar results and SR.Z, branch conditions, the
integer multiply-accumulate with its OV bits, binary32 and BF16 arithmetic, moves out of an accumulator (R238 to R243, R284 to
R299). -/

namespace Sys2Proof.Machine

/-! ## The status register (R239) -/

/-- The bits of SR that are not reserved. -/
def srMask : Word := 0xF8FF#32

/-- Set or clear one bit of a word. -/
def putBit (w : Word) (n : Nat) (b : Bool) : Word := setBits w n n (b2n b)

/-- SR with Z for a result (R292). -/
def srZ (sr r : Word) : Word := putBit sr 0 (r = 0)

/-- SR.GIE. -/
def srGie (sr : Word) : Bool := natBit sr.toNat 7

/-- SR.INFAULT. -/
def srInfault (sr : Word) : Bool := natBit sr.toNat 11

/-- SR after MOVTC: reserved bits read 0 and INFAULT ignores the write (R239, R284). -/
def srWrite (sr v : Word) : Word := (v &&& 0xF0FF#32) ||| (sr &&& 0x800#32)

/-- SR with the sticky overflow bits of a 4-bit set (R239, R241). -/
def srOv (sr : Word) (ov : Nat) : Word := sr ||| BitVec.ofNat 32 (ov % 16 * 4096)

/-! ## Scalar operations (R290, R291) -/

/-- The result of an SALU operation; none for a code that is illegal. -/
def saluOp (op : Nat) (a b : Word) : Option Word :=
  match op with
  | 0 => some (a + b)
  | 1 => some (a - b)
  | 2 => some (a &&& b)
  | 3 => some (a ||| b)
  | 4 => some (a ^^^ b)
  | 5 => some (a <<< (b.toNat % 32))
  | 6 => some (a >>> (b.toNat % 32))
  | 7 => some (a.sshiftRight (b.toNat % 32))
  | 8 => some (if a.toInt < b.toInt then 1 else 0)
  | 9 => some (if a.toNat < b.toNat then 1 else 0)
  | 10 => some (if a.toInt ≤ b.toInt then a else b)
  | 11 => some (if a.toInt ≤ b.toInt then b else a)
  | 12 => some (a * b)
  | 13 => some a
  | 14 => some (if 2 ^ 32 ≤ a.toNat + b.toNat then 1 else 0)
  | _ => none

/-- The result of a SIMM operation; none for a code that is illegal. -/
def simmOp (op : Nat) (a : Word) (imm : BitVec 16) : Option Word :=
  let se : Word := imm.signExtend 32
  let ze : Word := imm.setWidth 32
  match op with
  | 0 => some (a + se)
  | 1 => some (a &&& ze)
  | 2 => some (a ||| ze)
  | 3 => some (a ^^^ ze)
  | 4 => some (a <<< (imm.toNat % 32))
  | 5 => some (a >>> (imm.toNat % 32))
  | 6 => some (a.sshiftRight (imm.toNat % 32))
  | 7 => some se
  | 8 => some (ze <<< (16 : Nat))
  | 9 => some (if a.toInt < se.toInt then 1 else 0)
  | _ => none

/-- Whether a branch condition is met on the values at the start of stage A (R286). -/
def condMet (cond : Nat) (sr c : Word) : Bool :=
  match cond with
  | 0 => true
  | 1 => c2 sr
  | 2 => !c2 sr
  | 3 => natBit c.toNat 31
  | 4 => !natBit c.toNat 31
  | 5 => natBit c.toNat 0
  | 6 => !natBit c.toNat 0
  | 7 => decide (c - 1 ≠ 0)
  | _ => false
where
  /-- SR.Z. -/
  c2 (sr : Word) : Bool := natBit sr.toNat 0

/-! ## Accumulator lanes (R238) -/

/-- Lane `k` of a view of `w`-bit lanes. -/
def lane (w k : Nat) (a : W384) : Nat := natBits a.toNat (w * k + w - 1) (w * k)

/-- The accumulator with lane `k` replaced. -/
def setLane (w k : Nat) (a : W384) (v : Int) : W384 :=
  let m : Nat := 2 ^ (w * k)
  let old := lane w k a
  BitVec.ofNat 384 (a.toNat - old * m + (v % (2 ^ w : Nat)).toNat * m)

/-- One integer lane: the product is added or replaces the lane; the second part says that the exact sum left the signed range
(R241, R295). -/
def accLane (w k : Nat) (clr : Bool) (p : Int) (a : W384) : W384 × Bool :=
  let sum := if clr then p else signed w (lane w k a) + p
  (setLane w k a sum, !clr && !(decide (-(2 ^ (w - 1) : Nat) ≤ sum) && decide (sum < (2 ^ (w - 1) : Nat))))

/-- Accumulate a list of products, from lane `k` up. -/
def accLanes (w k : Nat) (clr : Bool) (ps : List Int) (a : W384) : W384 × Bool :=
  match ps with
  | [] => (a, false)
  | p :: rest =>
    let (a, o) := accLane w k clr p a
    let (a, q) := accLanes w (k + 1) clr rest a
    (a, o || q)

/-- A `w`-bit operand field as signed or unsigned. -/
def operand (w : Nat) (sg : Bool) (v : Nat) : Int := if sg then signed w v else ((v % 2 ^ w : Nat) : Int)

/-- Byte `k` of a vector register. -/
def vbyte (v : W64) (k : Nat) : Nat := natBits v.toNat (8 * k + 7) (8 * k)

/-- The sixteen products of INT8 (R240). -/
def int8Products (va vb vc : W64) (sa sb neg : Bool) : List Int :=
  let p := fun (v : W64) (k : Nat) =>
    let x := operand 8 sa (vbyte va k) * operand 8 sb (vbyte v k)
    if neg then -x else x
  (List.range 8).map (p vb) ++ (List.range 8).map (p vc)

/-- The two products of 18×27 (R240, R241). -/
def p18x27 (va vb : W64) (sa sb neg : Bool) : List Int :=
  (List.range 2).map fun k =>
    let x := operand 27 sa (natBits va.toNat (32 * k + 26) (32 * k)) * operand 18 sb (natBits vb.toNat (32 * k + 17) (32 * k))
    if neg then -x else x

/-! ## Binary32 (R242) -/

/-- A binary32 operand with subnormals flushed: NaN, infinity, or sign, significand and exponent of a finite value. -/
inductive FVal where
  | nan
  | inf (neg : Bool)
  | fin (neg : Bool) (m : Nat) (e : Int)
  deriving DecidableEq, Repr

/-- Read a binary32 number (R242). -/
def fread (v : Word) : FVal :=
  let n := v.toNat
  let s := natBit n 31
  let e := natBits n 30 23
  let f := natBits n 22 0
  if e = 255 then (if f = 0 then .inf s else .nan)
  else if e = 0 then .fin s 0 0
  else .fin s (2 ^ 23 + f) ((e : Int) - 150)

/-- The quiet NaN that every NaN result is (R242). -/
def fnan : Word := 0x7FC00000#32

/-- An infinity. -/
def finf (neg : Bool) : Word := if neg then 0xFF800000#32 else 0x7F800000#32

/-- A zero. -/
def fzero (neg : Bool) : Word := if neg then 0x80000000#32 else 0#32

/-- `m * 2 ^ (-k)` rounded to an integer, to nearest even. -/
def shiftRne (m k : Nat) : Nat :=
  if k = 0 then m
  else
    let q := m / 2 ^ k
    let r := m % 2 ^ k
    let h := 2 ^ (k - 1)
    if r < h then q else if h < r then q + 1 else q + q % 2

/-- Round `±m * 2 ^ e` to binary32, to nearest even; a subnormal result is flushed (R242). -/
def fround (neg : Bool) (m : Nat) (e : Int) : Word :=
  if m = 0 then fzero neg
  else
    let top : Int := (Nat.log2 m : Int) + e
    let q : Int := if top < -126 then -149 else top - 23
    let n := if q ≤ e then m * 2 ^ (e - q).toNat else shiftRne m (q - e).toNat
    let n' := if n = 2 ^ 24 then 2 ^ 23 else n
    let q' : Int := if n = 2 ^ 24 then q + 1 else q
    if n' < 2 ^ 23 then fzero neg
    else
      let x := q' + 150
      if 255 ≤ x then finf neg
      else BitVec.ofNat 32 ((b2n neg) * 2 ^ 31 + x.toNat * 2 ^ 23 + (n' - 2 ^ 23))

/-- Fused multiply-add with one rounding (R242). -/
def fma (a b c : Word) : Word :=
  match fread a, fread b, fread c with
  | .nan, _, _ => fnan
  | _, .nan, _ => fnan
  | _, _, .nan => fnan
  | .inf s, .inf t, .inf u => if xor s t = u then finf u else fnan
  | .inf s, .inf t, .fin _ _ _ => finf (xor s t)
  | .inf s, .fin t m _, .inf u => if m = 0 then fnan else if xor s t = u then finf u else fnan
  | .inf s, .fin t m _, .fin _ _ _ => if m = 0 then fnan else finf (xor s t)
  | .fin s m _, .inf t, .inf u => if m = 0 then fnan else if xor s t = u then finf u else fnan
  | .fin s m _, .inf t, .fin _ _ _ => if m = 0 then fnan else finf (xor s t)
  | .fin _ _ _, .fin _ _ _, .inf u => finf u
  | .fin s ma ea, .fin t mb eb, .fin u mc ec =>
    let sp := xor s t
    let mp := ma * mb
    let ep := ea + eb
    if mp = 0 then (if mc = 0 then fzero (sp && u) else fround u mc ec)
    else if mc = 0 then fround sp mp ep
    else
      let e := min ep ec
      let p : Int := (mp * 2 ^ (ep - e).toNat : Nat)
      let z : Int := (mc * 2 ^ (ec - e).toNat : Nat)
      let sum := (if sp then -p else p) + (if u then -z else z)
      if sum = 0 then fzero false else fround (decide (sum < 0)) sum.natAbs e

/-- The sign of a binary32 number inverted. -/
def fneg (v : Word) : Word := v ^^^ 0x80000000#32

/-- BF16 from binary32, to nearest even, subnormals flushed (R242, R298). -/
def toBf16 (v : Word) : Nat :=
  match fread v with
  | .nan => 0x7FC0
  | .inf s => if s then 0xFF80 else 0x7F80
  | .fin s m _ =>
    if m = 0 then (if s then 0x8000 else 0)
    else shiftRne v.toNat 16

/-- Floating-point lanes: lane `k` takes fma(±a, b, lane or +0); bits [47:32] take 0 (R240, R242, R295). -/
def fpLanes (k : Nat) (neg clr : Bool) (ops : List (Word × Word)) (a : W384) : W384 :=
  match ops with
  | [] => a
  | (x, y) :: rest =>
    let c : Word := if clr then 0 else BitVec.ofNat 32 (lane 48 k a)
    let r := fma (if neg then fneg x else x) y c
    fpLanes (k + 1) neg clr rest (setLane 48 k a (r.toNat : Int))

/-- The four BF16 operand pairs, widened (R240, R242). -/
def bf16Ops (va vb : W64) : List (Word × Word) :=
  (List.range 4).map fun k =>
    (BitVec.ofNat 32 (natBits va.toNat (16 * k + 15) (16 * k) * 2 ^ 16),
     BitVec.ofNat 32 (natBits vb.toNat (16 * k + 15) (16 * k) * 2 ^ 16))

/-- The multiply-accumulate of a MAC word: the new accumulator and whether a lane wrapped (R240 to R243, R294, R295). -/
def macOp (w : W64) (va vb vc : W64) (a : W384) : W384 × Bool :=
  let sa := wbits w 43 43 = 1
  let sb := wbits w 42 42 = 1
  let neg := wbits w 41 41 = 1
  let clr := wbits w 40 40 = 1
  match wbits w 59 58 with
  | 0 => accLanes 24 0 clr (int8Products va vb vc sa sb neg) a
  | 1 => accLanes 64 0 clr (p18x27 va vb sa sb neg) a
  | 2 => (fpLanes 0 neg clr (bf16Ops va vb) a, false)
  | _ => (fpLanes 0 neg clr [(va.setWidth 32, vb.setWidth 32)] a, false)

/-! ## Moves out of an accumulator and loads (R297 to R299) -/

/-- Clamp to the signed range of `w` bits. -/
def clamp (w : Nat) (v : Int) : Int :=
  let lim : Int := (2 ^ (w - 1) : Nat)
  if v < -lim then -lim else if lim - 1 < v then lim - 1 else v

/-- One lane shifted right with optional rounding (R298). -/
def moveShift (v : Int) (sh : Nat) (rnd : Bool) : Int :=
  (if rnd && 0 < sh then v + (2 ^ (sh - 1) : Nat) else v) / ((2 ^ sh : Nat) : Int)

/-- The `w`-bit two's complement of an integer. -/
def wrapTo (w : Nat) (v : Int) : Nat := (v % (2 ^ w : Nat)).toNat

/-- Fields of `w` bits joined, the first lowest. -/
def joinFields (w : Nat) (l : List Nat) : Nat :=
  match l with
  | [] => 0
  | x :: rest => x % 2 ^ w + 2 ^ w * joinFields w rest

/-- What AMOV writes to V (R297, R298). -/
def amovOp (mo q sh : Nat) (rnd : Bool) (a : W384) : W64 :=
  let int := fun (lw k tw : Nat) => wrapTo tw (clamp tw (moveShift (signed lw (lane lw k a)) sh rnd))
  let f := fun (k : Nat) => BitVec.ofNat 32 (lane 48 k a)
  BitVec.ofNat 64 <|
    match mo with
    | 0 => joinFields 16 ((List.range 4).map fun k => int 24 (4 * q + k) 16)
    | 1 => joinFields 8 ((List.range 8).map fun k => int 24 (8 * q + k) 8)
    | 2 => joinFields 32 ((List.range 2).map fun k => int 48 (2 * q + k) 32)
    | 3 => wrapTo 64 (moveShift (signed 64 (lane 64 q a)) sh rnd)
    | 4 => joinFields 32 ((List.range 2).map fun k => (f (2 * q + k)).toNat)
    | _ => joinFields 16 ((List.range 4).map fun k => toBf16 (f (4 * q + k)))

/-- Lanes written from `k` up. -/
def loadLanes (w k : Nat) (vs : List Int) (a : W384) : W384 :=
  match vs with
  | [] => a
  | v :: rest => loadLanes w (k + 1) rest (setLane w k a v)

/-- What ALD does to an accumulator (R299). -/
def aldOp (mo q sh : Nat) (v : W64) (a : W384) : W384 :=
  let fld := fun (w k : Nat) => natBits v.toNat (w * k + w - 1) (w * k)
  let up := fun (x : Int) => x * (2 ^ sh : Nat)
  match mo with
  | 0 => loadLanes 24 (4 * q) ((List.range 4).map fun k => up (signed 16 (fld 16 k))) a
  | 2 => loadLanes 48 (2 * q) ((List.range 2).map fun k => up (signed 32 (fld 32 k))) a
  | 3 => loadLanes 64 q [up (v.toNat : Int)] a
  | _ => loadLanes 48 (2 * q) ((List.range 2).map fun k => ((fld 32 k : Nat) : Int)) a

end Sys2Proof.Machine
end

