-- ==== Sys2Proof/Machine/Frames.lean ====
section
/-! DEFINITION. Configuration frames: frame addresses, the fields of a position's two frames and the interface records
(R543 to R549, R108, R125 to R127, R137, R138). Positions are die-physical. -/

namespace Sys2Proof.Machine

/-- The key of a frame: die, physical sector 4 psy + psx, sector-local column, frame (R544). -/
def frameKey (d sec col fr : Nat) : Nat := ((d * 16 + sec) * 192 + col) * 384 + fr

/-- FAR of a frame key (R544). -/
def farOfKey (k : Nat) : Nat :=
  let fr := k % 384
  let col := k / 384 % 192
  let sec := k / (384 * 192) % 16
  let d := k / (384 * 192 * 16)
  d * 2 ^ 24 + sec * 2 ^ 20 + col * 2 ^ 12 + fr

/-- The frame key of a FAR, or none for a FAR that R544 does not allow. -/
def keyOfFar (far : Nat) : Option Nat :=
  let fr := natBits far 8 0
  let col := natBits far 19 12
  let sec := natBits far 23 20
  let d := natBits far 26 24
  if far / 2 ^ 27 ≠ 0 ∨ natBits far 11 9 ≠ 0 ∨ d > 3 ∨ col > 191 ∨ fr > 383 then none else some (frameKey d sec col fr)

/-- Physical sector of a frame key, as 16 d + 4 psy + psx. -/
def keySector (k : Nat) : Nat := k / (384 * 192)

/-- The payload of a frame (R549: all zeros until one is written). -/
def State.frame (s : State) (k : Nat) : BitVec 4096 := SMap.get 0 s.frames k

/-- The state with a frame's payload written. -/
def State.setFrame (s : State) (k : Nat) (v : BitVec 4096) : State := { s with frames := SMap.put 0 s.frames k v }

/-- A field of a frame. -/
def frameBits (f : BitVec 4096) (off w : Nat) : Nat := (f.extractLsb' off w).toNat

/-- The key of frame `2r` (`odd = 0`) or `2r + 1` of the position in die-physical column `pc` and row `pr` (R545, R546). -/
def posKey (d pc pr odd : Nat) : Nat := frameKey d (4 * (pr / 192) + pc / 192) (pc % 192) (2 * (pr % 192) + odd)

/-- The interface record field of a position (R546, R547). -/
def State.ifaceRec (s : State) (d pc pr : Nat) : Nat := frameBits (s.frame (posKey d pc pr 1)) 3104 16

/-- The sector-local columns of one repeat: 42 cluster columns, 3 engine columns, 3 Mica-port columns (R27). -/
def isClusterCol (pc : Nat) : Bool := pc % 48 < 42

/-- The configuration record of user fabric port `p` of die-logical router (x, y) (R137, R309, R349, R547). -/
def State.upRec (s : State) (d x y p : Nat) : Nat :=
  s.ifaceRec d (96 * (s.physX d 8 x) + 41) (96 * y + 24 * p + 16)

end Sys2Proof.Machine
end

