-- ==== Sys2Proof/Machine/Mica.lean ====
section
/-! DEFINITION. Mica: the code words of its memories, the user ports, erase, the correction log and export (R183 to R220). -/

namespace Sys2Proof.Machine

/-! ## Code words (R199 to R202) -/

/-- The UNWRITTEN poison code word (R200). -/
def Cell.unwritten : Cell := { data := 1, syn := .poison }

/-- The poison code word of a cause byte (R200). -/
def Cell.poisoned (cause : Nat) : Cell := { data := BitVec.ofNat 64 cause, syn := .poison }

/-- A word written with correct check bits. -/
def Cell.of (w : W64) : Cell := { data := w, syn := .clean }

/-- What a write stores: the data, or the poison code word with cause STORED (R196, R200). -/
def Cell.store (w : W64) (poison : Bool) : Cell := if poison then Cell.poisoned 2 else Cell.of w

/-- The wrong bits of a code word, and whether it was written as a poison code word. -/
def Syn.wrong (y : Syn) : Bool × BitVec 72 :=
  match y with
  | .clean => (false, 0)
  | .single n => (false, BitVec.ofNat 72 (2 ^ n))
  | .poison => (true, 0)
  | .other p b => (p, b)

/-- The code word with these wrong bits. -/
def Syn.ofWrong (p : Bool) (b : BitVec 72) : Syn :=
  if b = 0 then (if p then .poison else .clean)
  else
    match (if p then none else (List.range 72).find? fun n => b = BitVec.ofNat 72 (2 ^ n)) with
    | some n => .single n
    | none => .other p b

/-- An upset of bit `n` of a code word, 0 to 63 for data and 64 to 71 for check bits. -/
def Cell.flip (c : Cell) (n : Nat) : Cell :=
  { data := if n < 64 then c.data ^^^ BitVec.ofNat 64 (2 ^ n) else c.data
    syn := Syn.ofWrong c.syn.wrong.1 (c.syn.wrong.2 ^^^ BitVec.ofNat 72 (2 ^ n)) }

/-- What a read of a code word gives (R200 to R202, R206, R212). -/
structure CellRead where
  data : W64
  poison : Bool
  /-- RCAUSE: 1 UNWRITTEN, 2 STORED, 3 LOST, 0 UNCORR. -/
  cause : Nat
  /-- The bit that was corrected. -/
  corrected : Option Nat
  /-- An uncorrectable read, to be counted and logged. -/
  ue : Bool
  deriving DecidableEq, Repr

/-- Read a code word. -/
def Cell.read (c : Cell) : CellRead :=
  match c.syn with
  | .clean => { data := c.data, poison := false, cause := 0, corrected := none, ue := false }
  | .single n =>
    { data := if n < 64 then c.data ^^^ BitVec.ofNat 64 (2 ^ n) else c.data, poison := false, cause := 0, corrected := some n,
      ue := false }
  | .poison =>
    if 1 ≤ c.data.toNat ∧ c.data.toNat ≤ 3 then
      { data := 0, poison := true, cause := c.data.toNat, corrected := none, ue := false }
    else { data := 0, poison := true, cause := 0, corrected := none, ue := true }
  | .other _ _ => { data := 0, poison := true, cause := 0, corrected := none, ue := true }

/-! ## Places (R184, R185, R221, R224) -/

/-- Key of a user word: port k of die d, word w. -/
def micaKey (d port word : Nat) : Nat := (d * 3072 + port) * 4096 + word

/-- Key of a vein array word of die d (R209). -/
def veinKey (d idx : Nat) : Nat := d * 2 ^ 21 + idx

/-- Group of a port, and of nothing else (R185). -/
def portGroup (port : Nat) : Nat := port / 16

/-- Die-physical sector 4 psy + psx of a group (R184, R221). -/
def groupPhysSector (g : Nat) : Nat := 4 * (g % 4) + g / 4 / 12

/-- Die-logical sector of a group (R30, R52). -/
def State.groupSector (s : State) (d g : Nat) : Nat := 4 * (g % 4) + s.physX d 4 (g / 4 / 12)

/-- The configuration record of a memory port (R184, R189, R547). -/
def State.mpRec (s : State) (d port : Nat) : Nat :=
  let j := port / 64
  s.ifaceRec d (192 * (j / 12) + 48 * ((j % 12) / 3) + 45 + j % 3) (192 * (port / 16 % 4) + 12 * (port % 16))

/-- The configuration record of an engine group (R221, R222, R225, R547). -/
def State.sgRec (s : State) (d g : Nat) : Nat :=
  let j := g / 4
  s.ifaceRec d (192 * (j / 12) + 48 * ((j % 12) / 3) + 42 + j % 3) (192 * (g % 4))

/-- The ring port of a group as an endpoint of this device (R224). -/
def State.groupEp (s : State) (d g : Nat) : Ep :=
  let j := g / 4
  let px := 2 * (j / 12) + j % 12 / 6
  s.mkEp d (s.physX d 8 px) (2 * (g % 4) + j % 2) (4 + j % 6 / 2)

/-- The group behind port 4 to 6 of a router (R224). -/
def State.groupOf (s : State) (e : Ep) : Nat :=
  let px := s.physX e.die.toNat 8 e.x.toNat
  let j := 12 * (px / 2) + 6 * (px % 2) + 2 * (e.p.toNat - 4) + e.y.toNat % 2
  4 * j + e.y.toNat / 2

/-- Applied export bit of a group (R186, R187). -/
def State.exported (s : State) (d g : Nat) : Bool := natBit (s.reg (Reg.MCA_EXPORT d (g / 32))).toNat (g % 32)

/-! ## Error logs (R207 to R212) -/

/-- The log address of R209, with VEIN in bit 30 as in the log register. -/
def logAddr (vein : Bool) (a : Nat) : Nat := b2n vein * 2 ^ 30 + a

/-- Entry `e` of the correction log holds this address. -/
def State.logHolds (s : State) (d e : Nat) (vein : Bool) (a : Nat) : Bool :=
  s.bit (Fld.MCA_LOG_A_VALID d e) && s.fld (Fld.MCA_LOG_A_VEIN d e) = b2n vein && s.fld (Fld.MCA_LOG_A_ADDR d e) = a

/-- Set STICKY of an entry and raise its interrupt. -/
def State.stickyUp (s : State) (d e : Nat) : State :=
  (s.setFld (Fld.MCA_LOG_A_STICKY d e) 1).raise (Fld.MCA_IRQ_STATUS_STICKY d)

/-- One correctable event at a word, failing bit `b` (R207). -/
def State.micaCE (s : State) (d : Nat) (vein : Bool) (a b : Nat) : State :=
  let s := s.bump (Fld.MCA_CECOUNT_COUNT d)
  let th := s.fld (Fld.MCA_CETHRESH_THRESH d)
  match (List.range 16).find? (fun e => s.logHolds d e vein a) with
  | some e =>
    let s := s.bump (Fld.MCA_LOG_B_COUNT d e)
    if th ≠ 0 ∧ th ≤ s.fld (Fld.MCA_LOG_B_COUNT d e) ∧ ¬s.bit (Fld.MCA_LOG_A_STICKY d e) then s.stickyUp d e else s
  | none =>
    match (List.range 16).find? (fun e => !s.bit (Fld.MCA_LOG_A_VALID d e)) with
    | some e =>
      let s := s.setReg (Reg.MCA_LOG_A d e) (BitVec.ofNat 32 (2 ^ 31 + logAddr vein a))
      let s := s.setReg (Reg.MCA_LOG_B d e) (BitVec.ofNat 32 (2 ^ 24 + b))
      if th = 1 then s.stickyUp d e else s
    | none => (s.bump (Fld.MCA_LOGOVF_COUNT d)).raise (Fld.MCA_IRQ_STATUS_LOGOVF d)

/-- One uncorrectable read at a word (R212). -/
def State.micaUE (s : State) (d : Nat) (vein : Bool) (a : Nat) : State :=
  let s := s.bump (Fld.MCA_UECOUNT_COUNT d)
  let s := s.logOnce (Fld.MCA_UELOG_VALID d) fun s =>
    (s.setFld (Fld.MCA_UELOG_VEIN d) (b2n vein)).setFld (Fld.MCA_UELOG_ADDR d) a
  s.raise (Fld.MCA_IRQ_STATUS_UE d)

/-- The events of one read. -/
def State.micaNote (s : State) (d : Nat) (vein : Bool) (a : Nat) (r : CellRead) : State :=
  match r.corrected with
  | some b => s.micaCE d vein a b
  | none => if r.ue then s.micaUE d vein a else s

/-! ## Words -/

/-- The code word of a user block. -/
def State.micaCell (s : State) (d port word : Nat) : Cell := SMap.get Cell.unwritten s.mica (micaKey d port word)

/-- Write a code word of a user block. -/
def State.setMica (s : State) (d port word : Nat) (c : Cell) : State :=
  { s with mica := SMap.put Cell.unwritten s.mica (micaKey d port word) c }

/-- Read a word of a user block, with its events. -/
def State.micaRead (s : State) (d port word : Nat) : State × CellRead :=
  let r := (s.micaCell d port word).read
  (s.micaNote d false (port * 4096 + word) r, r)

/-- The code word of a vein array. -/
def State.veinCell (s : State) (d idx : Nat) : Cell := SMap.get Cell.unwritten s.vein (veinKey d idx)

/-- Write a code word of a vein array. -/
def State.setVein (s : State) (d idx : Nat) (c : Cell) : State :=
  { s with vein := SMap.put Cell.unwritten s.vein (veinKey d idx) c }

/-- Read a word of a vein array, with its events. -/
def State.veinRead (s : State) (d idx : Nat) : State × CellRead :=
  let r := (s.veinCell d idx).read
  (s.micaNote d true idx r, r)

/-! ## Ports (R189 to R198) -/

/-- The region of a sector runs and is not frozen (R197, R563). -/
def State.sectorRuns (s : State) (d sec : Nat) : Bool :=
  match s.regionOf d sec with
  | none => false
  | some r => s.fld (Fld.CFG_REG_STAT_STATE r) = 3 && !s.bit (Fld.CFG_REG_STAT_FROZEN r)

/-- The divisor of a throttle level (R214, R217). -/
def micaDiv (level : Nat) : Nat := [1, 2, 4, 1].getD level 1

/-- A port whose clock has had no edge since its release (R198). -/
def MicaPort.idle : MicaPort := { level := 0, count := 0, started := false }

/-- The array cycle of a port. -/
def State.micaPort (s : State) (d port : Nat) : MicaPort := SMap.get MicaPort.idle s.mports (3072 * d + port)

/-- An edge of the port's clock: one port cycle more, or an array cycle boundary, at which the level in force takes effect (R217). -/
def MicaPort.next (p : MicaPort) (level : Nat) : MicaPort :=
  if micaDiv p.level ≤ p.count + 1 then { level := level, count := 0, started := true } else { p with count := p.count + 1 }

/-- READY of a port (R197, R198, R217): 1 in the port cycle that begins at an array cycle boundary, from the first edge after release on. -/
def State.micaReady (s : State) (d port : Nat) : Bool :=
  let p := s.micaPort d port
  natBit (s.mpRec d port) 0 && s.bit (Fld.MCA_STATUS_INIT_DONE d)
    && SMap.find s.erasing d ≠ some (portGroup port)
    && s.sectorRuns d (s.groupSector d (portGroup port))
    && p.started && p.count = 0 && p.level ≠ 3

/-- The tree of a port's clock has edges (R189 to R191). -/
def State.micaClock (s : State) (d port : Nat) : Bool :=
  let sec := s.groupSector d (portGroup port)
  s.secClocked d sec && s.treeRuns d sec (natBits (s.mpRec d port) 5 1)

/-- Upsets that the array has suffered since its last access of this word. -/
def State.micaUpset (s : State) (d port word : Nat) (flips : List (Fin 72)) : State :=
  s.setMica d port word (flips.foldl (fun c n => c.flip n.val) (s.micaCell d port word))

/-- Edges of the port clock from acceptance to the response (R192, R217). R217 leaves the latency of a request in flight between the old
divisor's and the new one's when the level changes: it is that of the level in force at the port when it accepts the request (DESIGN
CHOICE, assumption 67). -/
def State.micaLatency (s : State) (d port : Nat) : Nat :=
  3 * micaDiv (s.micaPort d port).level + b2n (natBit (s.mpRec d port) 7)

/-- Queue a response of a port. -/
def State.micaAnswer (s : State) (r : MicaResp) : State :=
  { s with micaOut := s.micaOut ++ [{ r with wait := s.micaLatency r.die r.port }] }

/-- A refusal or a write's answer: no data. -/
def MicaResp.plain (d port status : Nat) : MicaResp :=
  { die := d, port := port, status := status, data := 0, poison := false, cause := 0, corr := false, wait := 0 }

/-- A port accepts a read (R186, R191 to R195, R200 to R212). -/
def State.micaPortRead (s : State) (d port word : Nat) : State :=
  if s.exported d (portGroup port) then s.micaAnswer (MicaResp.plain d port 2)
  else
    let (s, r) := s.micaRead d port word
    s.micaAnswer { die := d, port := port, status := 0, data := r.data, poison := r.poison, cause := r.cause,
                   corr := r.corrected.isSome, wait := 0 }

/-- A port accepts a write (R186, R191 to R196). -/
def State.micaPortWrite (s : State) (d port word : Nat) (data : W64) (be : Byte) (wpoison : Bool) : State :=
  if s.exported d (portGroup port) then s.micaAnswer (MicaResp.plain d port 2)
  else if be ≠ 0xFF then s.micaAnswer (MicaResp.plain d port 1)
  else (s.setMica d port word (Cell.store data wpoison)).micaAnswer (MicaResp.plain d port 0)

/-- The response on the outputs of a port, if RVALID is 1 (R192). -/
def State.micaShows (s : State) (d port : Nat) : Option MicaResp := SMap.find s.micaShown (3072 * d + port)

/-- The response on the outputs of a port goes. -/
def State.micaUnshow (s : State) (d port : Nat) : State := { s with micaShown := SMap.drop s.micaShown (3072 * d + port) }

/-- The oldest response of a port comes onto its outputs; it is discarded while the sector is frozen or faulted (R192, R198). -/
def State.micaRespond (s : State) (d port : Nat) : State :=
  match s.micaOut.findIdx? (fun r => r.die = d && r.port = port) with
  | none => s
  | some i =>
    match s.micaOut[i]? with
    | none => s
    | some r =>
      let s : State := { s with micaOut := listDropAt s.micaOut i }
      if s.sectorRuns d (s.groupSector d (portGroup port)) then
        { s with micaShown := SMap.set s.micaShown (3072 * d + port) { r with wait := 0 } }.emit (.mica { r with wait := 0 })
      else s

/-- An edge of a port's clock: the response shown before it goes, every response is one edge nearer, the oldest appears once its time has
come, and the array cycle goes on (R192, R217). -/
def State.micaEdge (s : State) (d port : Nat) : State :=
  let s := s.micaUnshow d port
  let due := (s.micaOut.find? fun r => r.die = d && r.port = port).any fun r => r.wait ≤ 1
  let s := if due then s.micaRespond d port else s
  let p := (s.micaPort d port).next (s.fld (Fld.MCA_STATUS_THROTTLE d))
  { s with micaOut := s.micaOut.map fun r => if r.die = d ∧ r.port = port then { r with wait := r.wait - 1 } else r
           mports := SMap.put MicaPort.idle s.mports (3072 * d + port) p }

/-- An edge of a port's clock at which user logic requests a read or a write: it is accepted if READY was 1 (R191). Without a clock
nothing happens. -/
def State.micaRequest (s : State) (d port : Nat) (take : State → State) : State :=
  if ¬s.micaClock d port then s
  else if s.micaReady d port then take (s.micaEdge d port)
  else s.micaEdge d port

/-- Edges of a port's clock. -/
def State.micaEdges (s : State) (d port n : Nat) : State :=
  match n with
  | 0 => s
  | k + 1 => (s.micaEdge d port).micaEdges d port k

/-- MICA_RESPONSE: the edges of a port's clock pass that its oldest response has still to wait for, and it appears (R190, R192). -/
def State.micaLeave (s : State) (d port : Nat) : State :=
  match s.micaOut.find? fun r => r.die = d && r.port = port with
  | some r => if s.micaClock d port then s.micaEdges d port (max 1 r.wait) else s
  | none => s

/-- MICA_INIT_DONE: after power-up every word holds UNWRITTEN poison and INIT_DONE reads 1 (R203). -/
def State.micaInitDone (s : State) (d : Nat) : State :=
  if s.fld (Fld.PWR_DOM_STATE (slateDom d 9)) ≠ 0 ∧ ¬s.bit (Fld.MCA_STATUS_INIT_DONE d) then
    { s with mica := SMap.dropIf s.mica (fun k => k / (3072 * 4096) = d)
             vein := SMap.dropIf s.vein (fun k => k / 2 ^ 21 = d) }.setFld (Fld.MCA_STATUS_INIT_DONE d) 1
  else s

/-- A write of MCA_ERASE with GO = 1 (R205). -/
def State.eraseStart (s : State) (d index : Nat) : State :=
  if 191 < index ∨ s.exported d index ∨ s.bit (Fld.MCA_STATUS_ERASE_BUSY d) then s.setFld (Fld.MCA_STATUS_ERASE_REFUSED d) 1
  else { s with erasing := SMap.set s.erasing d index }.setFld (Fld.MCA_STATUS_ERASE_BUSY d) 1

/-- ERASE_DONE: every word of the group is UNWRITTEN and the erase ends (R205). -/
def State.eraseDone (s : State) (d : Nat) : State :=
  match SMap.find s.erasing d with
  | none => s
  | some g =>
    { s with mica := SMap.dropIf s.mica (fun k => k / (16 * 4096) = d * 192 + g)
             erasing := SMap.drop s.erasing d }.setFld (Fld.MCA_STATUS_ERASE_BUSY d) 0

/-- A write of 1 to VALID of a log entry clears the whole entry (R211). -/
def State.logClear (s : State) (d e : Nat) : State :=
  (s.setReg (Reg.MCA_LOG_A d e) 0).setReg (Reg.MCA_LOG_B d e) 0

/-! ## Export (R187) -/

/-- The mask of export bits of word `w` whose group's sector belongs to region `r`, or to no region where `r` is none. -/
def State.exportMask (s : State) (d w : Nat) (r : Option Nat) : Nat :=
  (List.range 32).foldl (fun m b => if s.regionOf d (s.groupSector d (32 * w + b)) = r then m + 2 ^ b else m) 0

/-- Apply the shadowed export bits under a mask; the shadow goes once all its bits are applied. -/
def State.exportApply (s : State) (d w mask : Nat) : State :=
  let a := Reg.MCA_EXPORT d w
  match SMap.find s.shadow a with
  | none => s
  | some v =>
    let m := BitVec.ofNat 32 mask
    let nv := (s.reg a &&& ~~~m) ||| (v &&& m)
    let s := s.setReg a nv
    if nv = v then { s with shadow := SMap.drop s.shadow a } else s

end Sys2Proof.Machine
end

