-- ==== Sys2Proof/Machine/Power.lean ====
section
/-! DEFINITION. Waking a power domain (R345, R599 to R603, R67). -/

namespace Sys2Proof.Machine

/-- The device has domain `d` (R599): not 15, and not of a Slate die that is absent or excluded. -/
def State.domExists (s : State) (d : Nat) : Bool :=
  d < 56 && d ≠ 15 && (d < 15 || s.dieOk ((d - 16) / 10))

/-- A REQ write is refused with a cause (R601). -/
def State.domRefuse (s : State) (d cause : Nat) : State :=
  (s.setFld (Fld.PWR_DOM_REFUSED d) 1).setFld (Fld.PWR_DOM_CAUSE d) cause

/-- One domain starts to wake: OFF becomes WAKING; a DRAINING one finishes its drain and returns to ON (R600, R603). -/
def State.wakeOne (s : State) (d : Nat) : State :=
  let s1 := s.setFld (Fld.PWR_DOM_REQ d) 1
  if s.fld (Fld.PWR_DOM_STATE d) = 0 then s1.setFld (Fld.PWR_DOM_STATE d) 1 else s1

/-- REQ = 1 for a domain: a Slate domain brings domains 5 and 8 of its die up first (R600, R601). -/
def State.wakeDomain (s : State) (d : Nat) : State :=
  if ¬s.domExists d then s.domRefuse d 5
  else if d < 16 then s.wakeOne d
  else
    let n := (d - 16) / 10
    let s := if s.domOn (slateDom n 5) then s else s.wakeOne (slateDom n 5)
    let s := if s.domOn (slateDom n 8) then s else s.wakeOne (slateDom n 8)
    s.wakeOne d

end Sys2Proof.Machine
end

