-- ==== Sys2Proof/Machine/Packets.lean ====
section
/-! DEFINITION. Packets: the header layout, the two CRCs, what makes a packet malformed, the routing key and the responses that
the network and its endpoints form (R315 to R324, R344). -/

namespace Sys2Proof.Machine

/-! ## CRCs -/

/-- One bit step of a reflected CRC-32C (R316). -/
def crc32cStep (n : Nat) (c : Word) : Word :=
  match n with
  | 0 => c
  | k + 1 => crc32cStep k (if c.getLsbD 0 then (c >>> 1) ^^^ 0x82F63B78#32 else c >>> 1)

/-- CRC-32C, Castagnoli, reflected, initial value and final XOR all ones (R316). -/
def crc32c (bs : List Byte) : Word :=
  (bs.foldl (fun c b => crc32cStep 8 (c ^^^ b.setWidth 32)) 0xFFFFFFFF#32) ^^^ 0xFFFFFFFF#32

/-- One bit step of the CRC-24 (R319). -/
def crc24Step (n : Nat) (c : BitVec 24) : BitVec 24 :=
  match n with
  | 0 => c
  | k + 1 => crc24Step k (if c.getLsbD 23 then (c <<< (1 : Nat)) ^^^ 0x864CFB#24 else c <<< (1 : Nat))

/-- CRC-24 with polynomial 0x864CFB and initial value 0xB704CE, not reflected, each byte from its top bit (R319). -/
def crc24 (bs : List Byte) : BitVec 24 :=
  bs.foldl (fun c b => crc24Step 8 (c ^^^ ((b.setWidth 24 : BitVec 24) <<< (16 : Nat)))) 0xB704CE#24

/-! ## The header flit -/

/-- The header bits [223:0] of a packet as a number (R315). -/
def Packet.headNat (p : Packet) : Nat :=
  p.cmd.toNat + p.len.toNat * 2 ^ 8 + p.cls.toNat * 2 ^ 16 + p.vc.toNat * 2 ^ 18 + p.ord.toNat * 2 ^ 19
    + p.rsv.toNat * 2 ^ 20
    + p.dst.dx.toNat * 2 ^ 24 + p.dst.dy.toNat * 2 ^ 31 + p.dst.die.toNat * 2 ^ 38 + p.dst.x.toNat * 2 ^ 41
    + p.dst.y.toNat * 2 ^ 44 + p.dst.p.toNat * 2 ^ 47
    + p.src.dx.toNat * 2 ^ 51 + p.src.dy.toNat * 2 ^ 58 + p.src.die.toNat * 2 ^ 65 + p.src.x.toNat * 2 ^ 68
    + p.src.y.toNat * 2 ^ 71 + p.src.p.toNat * 2 ^ 74
    + p.tag.toNat * 2 ^ 78 + p.addr.toNat * 2 ^ 90 + p.status.toNat * 2 ^ 138 + p.gran.toNat * 2 ^ 142
    + p.spec.toNat * 2 ^ 150

/-- HCRC of a header: CRC-32C over header bytes 0 to 27, with the VC bit that routers set taken as the injected 0 (R316). -/
def Packet.headCrc (p : Packet) : Word := crc32c (bytesLE 28 { p with vc := 0 }.headNat)

/-- The packet with its HCRC computed. -/
def Packet.seal (p : Packet) : Packet := { p with hcrc := p.headCrc }

/-- The 256 bits of the header flit (R315). -/
def Packet.headBits (p : Packet) : W256 := BitVec.ofNat 256 (p.headNat + p.hcrc.toNat * 2 ^ 224)

/-- The endpoint that 27 bits of a header or a register name, in the order of header bits [50:24] (R315). -/
def epOfBits (v : Nat) : Ep :=
  { dx := BitVec.ofNat 7 v, dy := BitVec.ofNat 7 (v / 2 ^ 7), die := BitVec.ofNat 3 (v / 2 ^ 14),
    x := BitVec.ofNat 3 (v / 2 ^ 17), y := BitVec.ofNat 3 (v / 2 ^ 20), p := BitVec.ofNat 4 (v / 2 ^ 23) }

/-- The 27 bits that name an endpoint. -/
def epBits (e : Ep) : Nat :=
  e.dx.toNat + e.dy.toNat * 2 ^ 7 + e.die.toNat * 2 ^ 14 + e.x.toNat * 2 ^ 17 + e.y.toNat * 2 ^ 20 + e.p.toNat * 2 ^ 23

/-- The packet whose header flit these bits are, with no data yet (R315). -/
def packetOfHead (h : W256) : Packet :=
  let v := h.toNat
  { cmd := BitVec.ofNat 8 v, len := BitVec.ofNat 8 (v / 2 ^ 8), cls := BitVec.ofNat 2 (v / 2 ^ 16),
    vc := BitVec.ofNat 1 (v / 2 ^ 18), ord := BitVec.ofNat 1 (v / 2 ^ 19), rsv := BitVec.ofNat 4 (v / 2 ^ 20),
    dst := epOfBits (v / 2 ^ 24), src := epOfBits (v / 2 ^ 51), tag := BitVec.ofNat 12 (v / 2 ^ 78),
    addr := BitVec.ofNat 48 (v / 2 ^ 90), status := BitVec.ofNat 4 (v / 2 ^ 138), gran := BitVec.ofNat 8 (v / 2 ^ 142),
    spec := BitVec.ofNat 74 (v / 2 ^ 150), hcrc := BitVec.ofNat 32 (v / 2 ^ 224), data := [] }

/-- KIND of a flit (R317): header or data flit `k` of `len`. -/
def headKind (len : Nat) : Nat := if len = 0 then 3 else 0

/-- KIND of data flit `k` of `len` (R317). -/
def dataKind (len k : Nat) : Nat := if k + 1 = len then 2 else 1

/-- Sideband bits [7:0]: reserved, KIND, POISON (R317). -/
def sideLow (kind poison : Nat) : Nat := poison + kind * 16

/-- The CRC-24 of a flit with its sideband bits [7:0] (R319). -/
def flitCrc (bits : W256) (kind poison : Nat) : BitVec 24 :=
  crc24 (bytesLE 32 bits.toNat ++ [BitVec.ofNat 8 (sideLow kind poison)])

/-- A data flit with its CRC computed for its place in the packet. -/
def Flit.seal (f : Flit) (len k : Nat) : Flit := { f with crc := flitCrc f.data (dataKind len k) f.poison.toNat }

/-- Seal the data flits from place `k`. -/
def sealFlits (len k : Nat) (l : List Flit) : List Flit :=
  match l with
  | [] => []
  | f :: rest => f.seal len k :: sealFlits len (k + 1) rest

/-- Both CRCs computed, as the injecting port does (R316, R319). -/
def Packet.finish (p : Packet) : Packet := { p.seal with data := sealFlits p.len.toNat 0 p.data }

/-! ## Commands (R320, R374, R422) -/

/-- CLASS of a command, or none for a reserved code (R320, R374, R422). -/
def cmdClass (c : Nat) : Option Nat :=
  if (1 ≤ c ∧ c ≤ 6) ∨ c = 8 ∨ c = 9 ∨ c = 0x10 ∨ c = 0x11 ∨ c = 0x20 ∨ c = 0x21 then some 0
  else if 0x30 ≤ c ∧ c ≤ 0x34 then some 2
  else if 0x40 ≤ c ∧ c ≤ 0x42 then some 1
  else if 0x50 ≤ c ∧ c ≤ 0x55 then some 3
  else none

/-- LEN, GRANULE and the command-specific field agree with R320, R374 and R422. -/
def fieldsOk (p : Packet) : Bool :=
  let len := p.len.toNat
  let g := p.gran.toNat
  let sp := p.spec.toNat
  match p.cmd.toNat with
  | 0x01 => len = 0 && g = 0xFF && sp = 0
  | 0x02 => len = 0 && g = 0xFF && sp = 0
  | 0x03 => len = 2 && g = 0xFF && sp = 0
  | 0x04 => len = 2 && g ≠ 0 && sp = 0
  | 0x05 => len = 1 && g = 2 ^ (natBits p.addr.toNat 5 3) && sp < 7
  | 0x06 => len = 0 && g = 0 && sp = 0
  | 0x08 => len = 0 && g = 0xFF && (1 ≤ sp && sp ≤ 16)
  | 0x09 => (1 ≤ len && len ≤ 16) && g = 0xFF && sp = 0
  | 0x10 => len = 0 && g = 0 && sp < 2 ^ 32
  | 0x11 => len ≤ 16 && g = 0
  | 0x20 => len = 0 && g = 0 && sp = 0
  | 0x21 => len = 1 && g = 0 && sp = 0
  | 0x30 => len = 0 && g = 0xFF && sp = 0
  | 0x31 => len = 0 && g = 0xFF && sp = 0
  | 0x32 => len = 0 && g = 0xFF && sp = 0
  | 0x33 => len = 0 && g = 0xFF && sp = 0
  | 0x34 => len = 0 && g = 0 && sp < 2 ^ 14 && p.addr = 0
  | 0x40 => (1 ≤ len && len ≤ 16) && g = 0 && (sp = 0 || (sp = 1 && p.src.die.toNat < 4 && p.src.p = 8))
  | 0x41 => len = 0 && g = 0 && sp = 0
  | 0x42 => len = 0 && g = 0 && sp = 0
  | 0x50 => len = 0 && g = 0 && sp < 2 ^ 9 && p.addr = 0
  | 0x51 => len = 0 && g = 0 && sp < 2 ^ 9 && p.addr = 0
  | 0x52 => len ≤ 16 && g = 0 && p.addr = 0
  | 0x53 => len ≤ 16 && g = 0 && p.addr = 0
  | 0x54 => len = 0 && g = 0 && sp = 0 && p.addr = 0
  | 0x55 => len = 0 && g = 0 && sp = 0 && p.addr = 0
  | _ => false

/-- The packet is malformed under R323. -/
def malformed (p : Packet) : Bool :=
  p.len.toNat > 16 || cmdClass p.cmd.toNat ≠ some p.cls.toNat || p.rsv ≠ 0 || p.dst.die.toNat > 4 || !fieldsOk p
    || p.data.length ≠ p.len.toNat

/-- The commands whose key is the address while ORD is 0 (R324). -/
def addrKeyed (c : Nat) : Bool :=
  (1 ≤ c && c ≤ 5) || c = 8 || c = 9 || c = 0x20 || c = 0x21 || (0x30 ≤ c && c ≤ 0x37)

/-- The key K of a packet (R324). -/
def Packet.key (p : Packet) : Nat :=
  if addrKeyed p.cmd.toNat ∧ p.ord = 0 then p.addr.toNat / 64 else epBits p.dst

/-- Data flits that follow a header whose LEN is `len`: a header with LEN above 16 is discarded alone (R323). -/
def dataFlits (len : Nat) : Nat := if 16 < len then 0 else len

/-- Flits of a packet: its header and its data. -/
def Packet.flits (p : Packet) : Nat := p.len.toNat + 1

/-! ## Forming packets -/

/-- A packet with the given fields and sealed. -/
def mkPacket (cmd cls : Nat) (ord : BitVec 1) (dst src : Ep) (tag : BitVec 12) (addr : BitVec 48) (status gran spec : Nat)
    (data : List Flit) : Packet :=
  ({ cmd := BitVec.ofNat 8 cmd, len := BitVec.ofNat 8 data.length, cls := BitVec.ofNat 2 cls, vc := 0, ord := ord, rsv := 0,
     dst := dst, src := src, tag := tag, addr := addr, status := BitVec.ofNat 4 status, gran := BitVec.ofNat 8 gran,
     spec := BitVec.ofNat 74 spec, hcrc := 0, data := data : Packet }).finish

/-- Some word of the data is poisoned. -/
def anyPoison (l : List Flit) : Bool := l.any (fun f => f.poison ≠ 0)

/-- RSP_DATA to a request: TAG and ADDR copied, source and destination exchanged, status POISON if any data is (R321). -/
def rspData (q : Packet) (data : List Flit) : Packet :=
  mkPacket 0x40 1 0 q.src q.dst q.tag q.addr (b2n (anyPoison data)) 0 0 data

/-- RSP_ACK to a request (R321). -/
def rspAck (q : Packet) : Packet := mkPacket 0x41 1 0 q.src q.dst q.tag q.addr 0 0 0 []

/-- RSP_ERR to a request with a status code (R321, R322, R344). -/
def rspErr (q : Packet) (status : Nat) : Packet := mkPacket 0x42 1 0 q.src q.dst q.tag q.addr status 0 0 []

/-- Flits the response to a request holds (R320, R336). -/
def rspFlits (q : Packet) : Nat :=
  match q.cmd.toNat with
  | 0x01 => 3
  | 0x02 => 3
  | 0x05 => 2
  | 0x08 => q.spec.toNat % 32 + 1
  | 0x20 => 2
  | _ => 1

/-! ## Data words of flits (R318) -/

/-- Word `w` of a flit. -/
def Flit.word (f : Flit) (w : Nat) : W64 := f.data.extractLsb' (64 * w) 64

/-- The 64-bit words of a list of flits, each with its poison bit. -/
def flitWords (l : List Flit) : List (W64 × Bool) :=
  l.flatMap fun f => [(f.word 0, f.poison.getLsbD 0), (f.word 1, f.poison.getLsbD 1), (f.word 2, f.poison.getLsbD 2),
    (f.word 3, f.poison.getLsbD 3)]

/-- A flit from up to four words; missing words are 0. -/
def mkFlit (ws : List (W64 × Bool)) : Flit :=
  let w := fun i => (ws.getD i (0, false)).1.toNat
  let q := fun i => b2n (ws.getD i (0, false)).2
  { data := BitVec.ofNat 256 (w 0 + w 1 * 2 ^ 64 + w 2 * 2 ^ 128 + w 3 * 2 ^ 192),
    poison := BitVec.ofNat 4 (q 0 + 2 * q 1 + 4 * q 2 + 8 * q 3), crc := 0 }

/-- Flits that carry a list of words, four to a flit. -/
def wordFlits (n : Nat) (ws : List (W64 × Bool)) : List Flit :=
  match n with
  | 0 => []
  | k + 1 => if ws.isEmpty then [] else mkFlit (ws.take 4) :: wordFlits k (ws.drop 4)

/-- Flits that carry a list of words (at most 16 flits). -/
def mkFlits (ws : List (W64 × Bool)) : List Flit := wordFlits 16 ws

/-- The eight words of a line as bytes, least significant first. -/
def wordsBytes (ws : List (W64 × Bool)) : List Byte := ws.flatMap fun w => bytesLE 8 w.1.toNat

/-- Words from bytes, eight to a word. -/
def bytesWords (n : Nat) (bs : List Byte) : List W64 :=
  match n with
  | 0 => []
  | k + 1 => if bs.isEmpty then [] else BitVec.ofNat 64 (natLE (bs.take 8)) :: bytesWords k (bs.drop 8)

end Sys2Proof.Machine
end

