-- ==== Sys2Proof/Machine/Strata.lean ====
section
/-! DEFINITION. The link layer of every packet-mode link and the training of internal bundles and bridge ports (R400 to R423,
R432 to R440). -/

namespace Sys2Proof.Machine

/-! ## Link state -/

/-- A half right after its link layer starts: no flit sent or accepted, 20 credits for each receive buffer (R417). The first
flit has SEQ 0, so the last accepted one counts as 511. -/
def Half.fresh : Half :=
  { queue := [], cur := [], replay := [], nextSeq := 0, ackSeq := 511, resend := none, nakSeen := none,
    taken := [0, 0, 0, 0, 0, 0, 0, 0], crcnt := [0, 0, 0, 0, 0, 0, 0, 0], slot := 0, sinceReq := 0, lastSeq := 511,
    nak := false, nakCount := 0, asked := false, retrained := false, force := false, skip := none, badFrames := 0,
    freed := [0, 0, 0, 0, 0, 0, 0, 0], stale := [0, 0, 0, 0, 0, 0, 0, 0], part := none }

/-- A link that has never trained. -/
def Link.fresh : Link :=
  { dn := Half.fresh, up := Half.fresh, fails := 0, mapSet := none, epoch := 0, training := false, keep := false, echoSent := none,
    echoOk := false }

/-- The key of a link in the table of links. -/
def LinkRef.key (l : LinkRef) : Nat :=
  match l with
  | .bundle i => i.val
  | .bridge k => 64 + k.val
  | .lode k => 72 + k.val

/-- The state of a link. -/
def State.link (s : State) (l : LinkRef) : Link := SMap.get Link.fresh s.links l.key

/-- The state with a link replaced. -/
def State.setLink (s : State) (l : LinkRef) (v : Link) : State := { s with links := SMap.put Link.fresh s.links l.key v }

/-- The half of a link that the named end sends on. -/
def Link.sends (k : Link) (leaf : Bool) : Half := if leaf then k.up else k.dn

/-- Replace the half that the named end sends on. -/
def Link.setSends (k : Link) (leaf : Bool) (h : Half) : Link := if leaf then { k with up := h } else { k with dn := h }

/-- Receive buffer of a packet: class and virtual channel (R330, R417). -/
def bufOf (p : Packet) : Nat := 2 * p.cls.toNat + p.vc.toNat

/-- The state of a bundle or bridge port in its status register (R434, R442). -/
def State.linkState (s : State) (l : LinkRef) : Nat :=
  match l with
  | .bundle i => s.fld (Fld.STR_BSTAT_STATE i.val)
  | .bridge k => s.fld (Fld.STR_BP_STAT_STATE k.val)
  | .lode k => s.fld (Fld.LOD_STAT_STATE k.val)

/-- Flits that packets from the half hold in its receive buffers, by buffer (R330). -/
def State.heldFlits (s : State) (l : LinkRef) (leafSent : Bool) : List Nat :=
  let ps : List Packet := match l with
    | .bundle i => (s.net.filter fun f => f.loc = if leafSent then .ingressDie i.val else .edgeIn i.val).map fun f => f.pkt
    | _ => if leafSent then (s.arrivals.filter fun a => a.1 = l).map fun a => a.2 else []
  (List.range 8).map fun b => ps.foldl (fun n p => if bufOf p = b then n + p.flits else n) 0

/-- A half whose link layer starts, with what its receive buffers still hold. -/
def State.freshHalf (s : State) (l : LinkRef) (leafSent : Bool) : Half := { Half.fresh with stale := s.heldFlits l leafSent }

/-- The link-layer state of a link is cleared (R409); the leaf end of a bundle keeps its map. -/
def State.clearLink (s : State) (l : LinkRef) : State :=
  s.setLink l { Link.fresh with dn := s.freshHalf l false, up := s.freshHalf l true, mapSet := (s.link l).mapSet }

/-! ## Bundles of wire pairs (R411, R424 to R431) -/

/-- The wire state of pair `k`. -/
def State.wireSt (s : State) (k : Nat) : WireSt := SMap.get { named := 0, drained := false, switchAt := none, leaving := none } s.wire k

/-- Replace the wire state of a pair. -/
def State.setWire (s : State) (k : Nat) (w : WireSt) : State :=
  { s with wire := SMap.put { named := 0, drained := false, switchAt := none, leaving := none } s.wire k w }

/-- The two bundles that a value of STR_WPAIR names, as global bundle numbers. -/
def wpairBundles (v : Word) : Fin 64 × Fin 64 :=
  let f := fun (d b : Nat) => (⟨(16 * d + b) % 64, Nat.mod_lt _ (by decide)⟩ : Fin 64)
  (f (bits v 11 10) (bits v 9 6), f (bits v 5 4) (bits v 3 0))

/-- A value of STR_WPAIR names the bundle. -/
def wpairNames (v : Word) (i : Nat) : Bool := (wpairBundles v).1.val = i || (wpairBundles v).2.val = i

/-- STATE of a pair: 0 OFF, 1 DRAINING, 2 CONNECTED, 3 REFUSED, 4 DOWN. -/
def State.wpState (s : State) (k : Nat) : Nat := s.fld (Fld.STR_WPSTAT_STATE k)

/-- STATE of the pair that holds the bundle: of an active pair, or of one that was turned off and whose bundles are still to return
to packet mode; 0 without one. -/
def State.pairPhase (s : State) (k i : Nat) : Nat :=
  let w := s.wireSt k
  let st := s.wpState k
  if (st = 1 ∨ st = 2 ∨ st = 4) ∧ wpairNames w.named i then st
  else match w.leaving with
    | some l => if wpairNames l.named i then l.was else 0
    | none => 0

/-- A bundle is in a wire pair (R411). -/
def State.inPair (s : State) (i : Nat) : Bool := (List.range 16).any fun k => s.pairPhase k i ≠ 0

/-- A bundle is in a pair that drains: it still carries slots (R426). -/
def State.draining (s : State) (i : Nat) : Bool := (List.range 16).any fun k => s.pairPhase k i = 1

/-- A bundle that packets may take: LIVE, or retraining with its state kept, and in no wire pair (R411). -/
def State.usable (s : State) (i : Nat) : Bool :=
  (s.fld (Fld.STR_BSTAT_STATE i) = 2 || s.fld (Fld.STR_BSTAT_STATE i) = 5) && !s.inPair i

/-- A draining bundle retrains with its state kept; STATE stays 4. -/
def State.drainRetrain (s : State) (l : LinkRef) : Bool := s.linkState l = 4 && (s.link l).keep && match l with
  | .bundle _ => true
  | _ => false

/-! ## Lanes (R401, R414, R416, R432) -/

/-- The physical lanes of an `n`-lane half that are not in its record, upward (R401). -/
def lanesLeft (n record : Nat) : List Nat := (List.range n).filter fun p => !natBit record p

/-- The logical lanes of UI `u` of a slot at `w` data lanes: data, then VALID, then FRAME (R401, R414, R416). -/
def logicalUi (w : Nat) (slot : Slot) (first : Bool) (u : Nat) : Nat :=
  slot.toNat / 2 ^ (w * u) % 2 ^ w + b2n (natBit slot.toNat 300) * 2 ^ w + b2n (u = 0 || (first && u = 1)) * 2 ^ (w + 1)

/-- Logical lane values on the physical lanes that carry them; the lanes left over are low (R401). -/
def spreadLanes (lanes : List Nat) (v : Nat) : Nat := lanes.zipIdx.foldl (fun a p => a + b2n (natBit v p.2) * 2 ^ p.1) 0

/-- The logical lane values that physical lanes carry. -/
def gatherLanes (lanes : List Nat) (v : Nat) : Nat := lanes.zipIdx.foldl (fun a p => a + b2n (natBit v p.1) * 2 ^ p.2) 0

/-- A half as its ends see it: physical lanes, data lanes in use, and the record. -/
structure HalfGeom where
  n : Nat
  w : Nat
  record : Nat
  deriving DecidableEq, Repr

/-- The physical lanes in use: `w` data lanes, VALID and FRAME. -/
def HalfGeom.lanes (g : HalfGeom) : List Nat := (lanesLeft g.n g.record).take (g.w + 2)

/-- The physical lanes during a slot; `first` says that it is the first of an epoch. -/
def HalfGeom.drive (g : HalfGeom) (slot : Slot) (first : Bool) : Lanes :=
  BitVec.ofNat 1280 ((List.range (320 / g.w)).foldl (fun a u => a + spreadLanes g.lanes (logicalUi g.w slot first u) * 2 ^ (g.n * u)) 0)

/-- The logical lanes of UI `u` of what the physical lanes carry. -/
def HalfGeom.ui (g : HalfGeom) (x : Lanes) (u : Nat) : Nat := gatherLanes g.lanes (x.toNat / 2 ^ (g.n * u) % 2 ^ g.n)

/-- The slot that the data lanes carry. -/
def HalfGeom.slot (g : HalfGeom) (x : Lanes) : Slot :=
  BitVec.ofNat 320 ((List.range (320 / g.w)).foldl (fun a u => a + g.ui x u % 2 ^ g.w * 2 ^ (g.w * u)) 0)

/-- What FRAME carries, UI 0 lowest. -/
def HalfGeom.frame (g : HalfGeom) (x : Lanes) : Nat :=
  (List.range (320 / g.w)).foldl (fun a u => a + b2n (natBit (g.ui x u) (g.w + 1)) * 2 ^ u) 0

/-- The lanes of a Lode port during a slot: its bits striped over the active lanes alone, before the code of R518 is added (R514, R518; the
order of bits is that of R414: DEDUCED, assumption 73). -/
def HalfGeom.stripe (g : HalfGeom) (slot : Slot) : Lanes :=
  let lanes := (lanesLeft g.n g.record).take g.w
  BitVec.ofNat 1280 ((List.range (320 / g.w)).foldl (fun a u =>
    a + spreadLanes lanes (slot.toNat / 2 ^ (g.w * u) % 2 ^ g.w) * 2 ^ (g.n * u)) 0)

/-- The slot that the active lanes of a Lode port carry. -/
def HalfGeom.unstripe (g : HalfGeom) (x : Lanes) : Slot :=
  let lanes := (lanesLeft g.n g.record).take g.w
  BitVec.ofNat 320 ((List.range (320 / g.w)).foldl (fun a u =>
    a + gatherLanes lanes (x.toNat / 2 ^ (g.n * u) % 2 ^ g.n) % 2 ^ g.w * 2 ^ (g.w * u)) 0)

/-! ## Slots (R414, R415) -/

/-- One step of the 6-bit CRC of a link word. -/
def crc6Step (c : Nat) (b : Bool) : Nat :=
  let fb := (natBit c 5) != b
  let c' := (c * 2) % 64
  if fb then c' ^^^ 3 else c'

/-- LWCRC over link word bits [31:6], most significant bit first (R415). -/
def lwCrc (v : Nat) : Nat := ((List.range 26).map fun i => natBit v (31 - i)).foldl crc6Step 0

/-- A link word (R415). -/
def linkWord (seq ack : Nat) (nak flit : Bool) (crcnt : Nat) : Nat :=
  let w := (seq % 512) * 2 ^ 23 + (ack % 512) * 2 ^ 14 + b2n nak * 2 ^ 13 + b2n flit * 2 ^ 12 + (crcnt % 64) * 2 ^ 6
  w + lwCrc w

/-- The flits of a packet on the link, header first, with their sidebands (R317, R319). -/
def packetTx (p : Packet) : List TxFlit :=
  let n := p.len.toNat
  let one := fun (bits : W256) (kind poison : Nat) (crc : BitVec 24) =>
    ({ bits := BitVec.ofNat 288 (bits.toNat + (sideLow kind poison + crc.toNat * 256) * 2 ^ 256), buf := bufOf p } : TxFlit)
  one p.headBits (headKind n) 0 (flitCrc p.headBits (headKind n) 0)
    :: p.data.mapIdx fun k f => one f.data (dataKind n k) f.poison.toNat f.crc

/-- Credits a sender has for a receive buffer (R417). -/
def Half.credits (h : Half) (b : Nat) : Nat := 20 - (h.taken.getD b 0 + 64 - h.crcnt.getD b 0) % 64

/-- Credits remain for every flit of a packet beside those that packets queued before it will take (R333, R417). -/
def Half.fits (h : Half) (p : Packet) : Bool :=
  let b := bufOf p
  h.queue.foldl (fun n q => if bufOf q = b then n + q.flits else n) 0 + (h.cur.filter fun f => f.buf = b).length + p.flits
    ≤ h.credits b

/-- A packet joins those that wait on a half. -/
def Half.push (h : Half) (p : Packet) : Half := { h with queue := h.queue ++ [p] }

/-- The packet that starts next among those that `sel` names: maintenance, snoop, response, request, with one slot in eight for a waiting
request (R334). Packets of one class and VC leave in their order (R330, R520). -/
def Half.nextOf (h : Half) (sel : Packet → Bool) : Option Nat :=
  let first := fun (c : Nat) => (List.range h.queue.length).find? fun i =>
    match h.queue[i]? with
    | some p => sel p && p.cls.toNat = c && p.flits ≤ h.credits (bufOf p) && !(h.queue.take i).any fun q => sel q && bufOf q = bufOf p
    | none => false
  match (if 7 ≤ h.sinceReq then first 0 else none) with
  | some i => some i
  | none => (first 3).orElse fun _ => (first 2).orElse fun _ => (first 1).orElse fun _ => first 0

/-- The packet that starts next on a link. -/
def Half.next (h : Half) : Option Nat := h.nextOf fun _ => true

/-- Start the packet `pick` of the queue if none is being sent. -/
def Half.loadBy (h : Half) (pick : Option Nat) : Half :=
  match h.cur with
  | _ :: _ => h
  | [] =>
    match pick with
    | none => h
    | some i =>
      match h.queue[i]? with
      | none => h
      | some p => { h with queue := listDropAt h.queue i, cur := packetTx p,
                           sinceReq := if p.cls = 0 then 0 else h.sinceReq + p.flits }

/-- Start the next packet if none is being sent. -/
def Half.load (h : Half) : Half := h.loadBy h.next

/-- The slot that the sender of half `h` sends now; while the replay buffer is full no new packet starts. Here `rev` is the half that its own end receives on; `limit` is the
size of the replay buffer (R415, R417, R418). -/
def Half.send (h : Half) (rev : Half) (limit : Nat) : Half × Slot :=
  let word := fun (seq : Nat) (flit : Bool) => linkWord seq rev.lastSeq rev.nak flit (rev.freed.getD (h.slot % 8) 0)
  let mk := fun (f : BitVec 288) (seq : Nat) (flit : Bool) => (BitVec.ofNat 320 (f.toNat + word seq flit * 2 ^ 288) : Slot)
  match h.resend with
  | some i =>
    match h.replay[i]? with
    | some f =>
      let seq := (h.ackSeq + 1 + i) % 512
      ({ h with resend := if i + 1 < h.replay.length then some (i + 1) else none,
                nakSeen := if h.nakSeen = some seq then none else h.nakSeen, slot := h.slot + 1 }, mk f.bits seq true)
    | none => ({ h with resend := none, slot := h.slot + 1 }, mk 0 0 false)
  | none =>
    let room : Bool := h.replay.length < limit && h.replay.length < 511
    let h := if room then h.load else h
    match h.cur with
    | f :: rest =>
      if room then
        ({ h with cur := rest, replay := h.replay ++ [f], nextSeq := (h.nextSeq + 1) % 512,
                  taken := h.taken.set f.buf ((h.taken.getD f.buf 0 + 1) % 64), slot := h.slot + 1 },
         mk f.bits h.nextSeq true)
      else ({ h with slot := h.slot + 1 }, mk 0 0 false)
    | [] => ({ h with slot := h.slot + 1 }, mk 0 0 false)

/-- What the sender `h` of an end takes from a link word that the end receives (R417, R418). -/
def Half.takeWord (h : Half) (w slot : Nat) : Half :=
  let ack := natBits w 22 14
  let n := (ack + 512 - h.ackSeq) % 512
  let h := if n ≤ h.replay.length then
      { h with replay := h.replay.drop n, ackSeq := ack,
               resend := h.resend.map (fun i => i - n) }
    else h
  let h := { h with crcnt := h.crcnt.set (slot % 8) (natBits w 11 6) }
  if natBit w 13 ∧ h.replay ≠ [] ∧ h.nakSeen ≠ some ((ack + 1) % 512) then
    { h with resend := some 0, nakSeen := some ((ack + 1) % 512) }
  else h

/-- What a receiver does with one flit. -/
inductive FlitDone where
  | nothing
  | packet (p : Packet)
  deriving DecidableEq, Repr

/-- Flits that leave receive buffer `b` give their credits back (R333, R417), but for those that were in it when the link layer
started. -/
def Half.release (h : Half) (b n : Nat) : Half :=
  let old := h.stale.getD b 0
  { h with stale := h.stale.set b (old - n), freed := h.freed.set b ((h.freed.getD b 0 + (n - old)) % 64) }

/-- The receive buffer for which the sender took the credit of the flit with sequence number `seq`, where the model holds the sender: the
end of an internal bundle, or of a port's own half (R333, R417). -/
def Half.creditOf (h : Half) (seq : Nat) : Option Nat := (h.replay[(seq + 511 - h.ackSeq) % 512]?).map fun f => f.buf

/-- Take an accepted flit into the packet being received (R318, R419). A flit whose CRC is wrong is a header or a data flit by its place. A
discarded flit gives its credit back to the buffer `own` that it took it from; where the sender is another device, to the one that the
discarded header named as received (DESIGN CHOICE, assumption 72). A header with LEN above 16 has no data flits (R323). -/
def Half.takeFlit (h : Half) (f : BitVec 288) (crcOk : Bool) (own : Option Nat) : Half × FlitDone :=
  let bits : W256 := f.extractLsb' 0 256
  let side := (f.extractLsb' 256 32).toNat
  let kind := natBits side 5 4
  let isHead := kind = 0 ∨ kind = 3
  let past : Option Nat := if isHead ∧ crcOk then none else h.skip
  match past with
  | some b => (h.release (own.getD b) 1, .nothing)
  | none =>
    let h := { h with skip := none }
    match h.part with
    | none =>
      let p := packetOfHead bits
      let b := own.getD (bufOf p)
      if ¬(isHead ∧ crcOk) then ({ h with skip := some b }.release b 1, .nothing)
      else if dataFlits p.len.toNat = 0 then (h, .packet p)
      else ({ h with part := some ⟨p⟩ }, .nothing)
    | some q =>
      let fl : Flit := { data := bits, poison := if crcOk then BitVec.ofNat 4 side else 0xF, crc := BitVec.ofNat 24 (side / 256) }
      let fl := if crcOk then fl else fl.seal q.pkt.len.toNat q.pkt.data.length
      let p := { q.pkt with data := q.pkt.data ++ [fl] }
      if p.data.length = p.len.toNat then ({ h with part := none }, .packet p) else ({ h with part := some ⟨p⟩ }, .nothing)

/-- What the link does after a slot. -/
structure SlotResult where
  half : Half
  done : FlitDone
  rejected : Bool
  poisoned : Bool
  retrain : Bool

/-- The receiver of half `h` takes a slot whose link word was good (R418, R419); `damaged` says that the flit counts as failed
whatever its CRC-24 says (R518), and `final` that the final acceptance of R419 exists (R525). -/
def Half.receive (h : Half) (slot : Slot) (limit : Nat) (damaged final : Bool) : SlotResult :=
  let w := (slot.extractLsb' 288 32).toNat
  let f : BitVec 288 := slot.extractLsb' 0 288
  if ¬natBit w 12 then { half := h, done := .nothing, rejected := false, poisoned := false, retrain := false }
  else
    let side := (f.extractLsb' 256 32).toNat
    let crcOk : Bool := !damaged && flitCrc (f.extractLsb' 0 256) (natBits side 5 4 + 4 * natBits side 7 6) (natBits side 3 0)
      = BitVec.ofNat 24 (side / 256)
    let seq := natBits w 31 23
    let expected := (h.lastSeq + 1) % 512
    if seq = expected ∧ (crcOk ∨ h.force) then
      let (h', d) := Half.takeFlit { h with lastSeq := seq, nak := false, nakCount := 0, asked := false, retrained := false, force := false } f crcOk
        (h.creditOf seq)
      { half := h', done := d, rejected := false, poisoned := !crcOk, retrain := false }
    else if h.nak ∧ seq ≠ expected then
      { half := h, done := .nothing, rejected := false, poisoned := false, retrain := false }
    else if h.asked ∨ h.nakCount + 1 < limit then
      { half := { h with nak := true, nakCount := if h.asked then h.nakCount else h.nakCount + 1 }, done := .nothing, rejected := true, poisoned := false,
        retrain := false }
    else if h.retrained && final then
      { half := { h with nak := true, nakCount := 0, force := true }, done := .nothing, rejected := true, poisoned := false,
        retrain := false }
    else
      { half := { h with nak := true, nakCount := 0, asked := true }, done := .nothing, rejected := true, poisoned := false,
        retrain := true }

/-! ## Events of a link in its registers -/

/-- Count a rejected flit (R418, R442, R541). -/
def State.linkCrcErr (s : State) (l : LinkRef) : State :=
  match l with
  | .bundle i => s.bump (Fld.STR_BCNT_CRCERR i.val)
  | .bridge k => s.bump (Fld.STR_BP_CNT_CRCERR k.val)
  | .lode k => s.bump (Fld.LOD_CNT0_CRCERR k.val)

/-- Count an event of R419. -/
def State.linkPoisoned (s : State) (l : LinkRef) : State :=
  match l with
  | .bundle i => s.bump (Fld.STR_BCNT_POISONED i.val)
  | .bridge k => s.bump (Fld.STR_BP_CNT_POISONED k.val)
  | .lode k => s.bump (Fld.LOD_CNT0_POISONED k.val)

/-- REPLAY_LIMIT of a link, where 0 acts as 8 (R419, R442, R541). -/
def State.replayLimit (s : State) (l : LinkRef) : Nat :=
  let n := match l with
    | .lode k => s.fld (Fld.LOD_CTRL_REPLAY_LIMIT k.val)
    | _ => s.fld Fld.STR_CTRL_REPLAY_LIMIT
  if n = 0 then 8 else n

/-- A half in a retrain with its state kept: its sender forgets its replay position, so that every unacknowledged flit goes out again, and its
receiver has had the retrain that it waited for (R419). -/
def Half.restart (h : Half) : Half :=
  { h with resend := if h.replay = [] then none else some 0, nakSeen := none, slot := 0, asked := false,
           retrained := h.retrained || h.asked }

/-- Start a retrain of a link with its state kept (R409): of a LIVE one, or of a bundle that drains. -/
def State.retrain (s : State) (l : LinkRef) : State :=
  let drains : Bool := match l with
    | .bundle i => s.linkState l = 4 && s.draining i.val && !(s.link l).keep
    | _ => false
  if s.linkState l ≠ 2 ∧ drains = false then s
  else
    let k := s.link l
    let s := s.setLink l { k with training := false, keep := true, echoOk := false, echoSent := none,
                                  dn := k.dn.restart, up := k.up.restart }
    match l with
    | .bundle i =>
      ((s.setFld (Fld.STR_BSTAT_STATE i.val) (if drains then 4 else 5)).bump (Fld.STR_BSTAT_RETRAINS i.val)).raise Fld.STR_IRQ_STATUS_RETRAIN
    | .bridge k =>
      ((s.setFld (Fld.STR_BP_STAT_STATE k.val) 1).bump (Fld.STR_BP_STAT_RETRAINS k.val)).raise Fld.STR_IRQ_STATUS_RETRAIN
    | .lode k =>
      ((s.setFld (Fld.LOD_STAT_STATE k.val) 7).bump (Fld.LOD_STAT_RETRAINS k.val)).raise (Fld.LOD_IRQ_STATUS_RETRAIN k.val)

/-- Flits of a packet that the receiving end has consumed give their credits back (R333, R417). -/
def Half.free (h : Half) (p : Packet) : Half := h.release (bufOf p) p.flits

/-- Return the credits of a packet that leaves the receive buffer of a link end. -/
def State.freeCredits (s : State) (l : LinkRef) (leafSent : Bool) (p : Packet) : State :=
  let k := s.link l
  s.setLink l (k.setSends leafSent ((k.sends leafSent).free p))

/-- Count a maintenance packet that an end discards (R423). -/
def State.maintMalformed (s : State) (e : LinkEnd) : State :=
  match e.link with
  | .bundle i => (s.bump (Fld.RTR_ERRCNT0_MALFORMED (i.val / 16) 0)).raise (Fld.RTR_IRQ_STATUS_MALFORMED (i.val / 16) 0)
  | .bridge k => s.bump (Fld.STR_BP_STAT_MALFORMED k.val)
  | .lode k => s.bump (Fld.LOD_CNT1_DROP k.val)

/-- The role of a bridge or Lode end is given by its register; an internal end's by its place. -/
def State.isLeaf (s : State) (e : LinkEnd) : Bool :=
  match e.link with
  | .bundle _ => e.leaf
  | .bridge k => s.bit (Fld.STR_BP_CTRL_ROLE k.val)
  | .lode k => k.val % 2 = 1

/-- An end sends a maintenance packet ahead of everything else that waits. -/
def State.sendMaint (s : State) (e : LinkEnd) (p : Packet) : State :=
  let k := s.link e.link
  let inner := match e.link with
    | .bundle _ => e.leaf
    | _ => false
  let h := k.sends inner
  s.setLink e.link (k.setSends inner { h with queue := p :: h.queue })

/-- The end of a link at which a replay limit is reached, or FRAME is wrong four times, has the link retrained: a hub end starts the
retrain, and a leaf end asks the hub end for it by RETRAIN (R405, R409, R422). -/
def State.endRetrain (s : State) (e : LinkEnd) : State :=
  if s.isLeaf e then s.sendMaint e (mkPacket 0x54 3 0 (epOfBits 0) (epOfBits 0) 0 0 0 0 0 []).finish else s.retrain e.link

/-- Class-3 commands that a link knows (R422, R517, R521). -/
def maintKnown (l : LinkRef) (c : Nat) : Bool :=
  match l with
  | .lode _ => c = 0x52 || c = 0x53 || c = 0x54
  | _ => 0x50 ≤ c && c ≤ 0x55

/-- A packet wholly received at an end: a maintenance packet stays at the link end, every other one enters the network or
waits at its port (R423, R435, R517). `leafSent` says that the leaf end sent it. -/
def State.linkDeliver (s : State) (l : LinkRef) (leafSent : Bool) (p : Packet) : State :=
  if p.cls = 3 then
    let e : LinkEnd := { link := l, leaf := !leafSent }
    let s : State := if maintKnown l p.cmd.toNat then { s with minbox := s.minbox ++ [{ at_ := e, pkt := p }] } else s.maintMalformed e
    s.freeCredits l leafSent p
  else
    match l with
    | .bundle i =>
      { s with net := s.net ++ [{ loc := if leafSent then .ingressDie i.val else .edgeIn i.val, pkt := p }] }
    | _ => { s with arrivals := s.arrivals ++ [(l, p)] }

/-! ## Capture (R439, R440) -/

/-- The capture state of a bridge port. -/
def State.capOf (s : State) (k : Nat) : CapSt := SMap.get { ents := [], left := none, time := 0 } s.cap k

/-- Time passes for the capture buffer of a port, in eighths of a nanosecond: a ring cycle is four of them (R307, R439). -/
def State.capTime (s : State) (k n : Nat) : State :=
  let c := s.capOf k
  if s.bit (Fld.STR_BP_CAPCTRL_ARM k) then { s with cap := SMap.set s.cap k { c with time := c.time + n } } else s

/-- The trigger of a capture fires, if it is armed and has not fired. -/
def State.capTrigger (s : State) (k : Nat) : State :=
  if s.bit (Fld.STR_BP_CAPCTRL_ARM k) ∧ ¬s.bit (Fld.STR_BP_CAPSTAT_TRIGGERED k) then
    let c := s.capOf k
    let post := s.fld (Fld.STR_BP_CAPCTRL_POST k)
    let s := (s.setFld (Fld.STR_BP_CAPSTAT_TRIGGERED k) 1).setFld (Fld.STR_BP_CAPSTAT_TRIGIDX k)
      ((s.fld (Fld.STR_BP_CAPSTAT_NEXT k) + 1023) % 1024)
    let s := { s with cap := SMap.set s.cap k { c with left := some post } }
    let s := s.raise Fld.STR_IRQ_STATUS_CAPTRIG
    if post = 0 then s.setFld (Fld.STR_BP_CAPCTRL_ARM k) 0 else s
  else s

/-- Record a slot of a bridge port, and fire the trigger that it matches (R440): `failed` says that its flit or link word failed its CRC
(R439), `rejected` that the receiver rejects its flit (R418). -/
def State.capture (s : State) (k : Nat) (slot : Slot) (received failed rejected : Bool) : State :=
  let dirs := s.fld (Fld.STR_BP_CAPCTRL_DIRS k)
  let w := (slot.extractLsb' 288 32).toNat
  if s.bit (Fld.STR_BP_CAPCTRL_ARM k) ∧ natBit w 12 ∧ natBit dirs (b2n received) then
    let c := s.capOf k
    let e := s.fld (Fld.STR_BP_CAPSTAT_NEXT k)
    let triggered := s.bit (Fld.STR_BP_CAPSTAT_TRIGGERED k)
    let ent : CapEntry := { slot := slot, time := c.time / 4, received := received, rejected := failed }
    let c : CapSt := { c with ents := SMap.set c.ents e ent, left := if triggered then c.left.map (fun n => n - 1) else c.left }
    let s : State := { s with cap := SMap.set s.cap k c }
    let s := s.setFld (Fld.STR_BP_CAPSTAT_NEXT k) ((e + 1) % 1024)
    let s := if e = 1023 then s.setFld (Fld.STR_BP_CAPSTAT_WRAPPED k) 1 else s
    if triggered then
      if (s.capOf k).left = some 0 then s.setFld (Fld.STR_BP_CAPCTRL_ARM k) 0 else s
    else
      let kind := natBits (slot.extractLsb' 256 32).toNat 5 4
      let trig := s.fld (Fld.STR_BP_CAPCTRL_TRIG k)
      if (trig = 1 ∧ (kind = 0 ∨ kind = 3) ∧ (slot.extractLsb' 0 8).toNat = s.fld (Fld.STR_BP_CAPCTRL_CMDMATCH k))
          ∨ (trig = 2 ∧ rejected) then s.capTrigger k
      else s
  else s

/-! ## LINK_SLOT_RECEIVE -/

/-- A received slot at the end that the named end did not send from: FRAME check, link word, flit (R409, R415, R418, R419). -/
def State.takeSlot (s : State) (l : LinkRef) (leafSent : Bool) (slot : Slot) (frameOk : Bool) : State :=
  let k := s.link l
  let h := k.sends leafSent
  let bad := if frameOk then 0 else h.badFrames + 1
  let w := (slot.extractLsb' 288 32).toNat
  let at_ := h.slot
  let at_end : LinkEnd := { link := l, leaf := !leafSent }
  let h := { h with badFrames := if bad = 4 then 0 else bad }
  let s1 :=
    if lwCrc w ≠ w % 64 then s.setLink l (k.setSends leafSent h)
    else
      let other := (k.sends (!leafSent)).takeWord w (at_ + 7)
      let r := h.receive slot (s.replayLimit l) false true
      let s := s.setLink l ((k.setSends leafSent r.half).setSends (!leafSent) other)
      let s := if r.rejected then s.linkCrcErr l else s
      let s := if r.poisoned then s.linkPoisoned l else s
      let s := match r.done with
        | .nothing => s
        | .packet p => s.linkDeliver l leafSent p
      if r.retrain then s.endRetrain at_end else s
  if bad = 4 then s1.endRetrain at_end else s1

/-- The lanes of a record. -/
def popCount (w v : Nat) : Nat :=
  match w with
  | 0 => 0
  | n + 1 => b2n (natBit v n) + popCount n v

/-- A bundle half's record (R403). -/
def State.bundleMask (s : State) (up : Bool) (i : Nat) : Nat :=
  let r := if up then Reg.STR_BUMAP else Reg.STR_BDMAP
  (s.reg (r i 0)).toNat + (s.reg (r i 1)).toNat * 2 ^ 32 + (s.reg (r i 2)).toNat * 2 ^ 64

/-- The half that the receiving end sees (R401, R403, R432): Bedrock by its record, a Slate end by the map set that it holds. -/
def State.halfGeom (s : State) (l : LinkRef) (leafSent : Bool) : HalfGeom :=
  match l with
  | .bundle i =>
    if leafSent then { n := 70, w := if s.bit (Fld.STR_BSTAT_UPHALF i.val) then 32 else 64, record := s.bundleMask true i.val }
    else match (s.link l).mapSet with
      | some m => { n := 70, w := if m.dnHalf then 32 else 64, record := m.dnMask }
      | none => { n := 70, w := 64, record := 0 }
  | .bridge k => { n := 20, w := if s.bit (Fld.STR_BP_STAT_RXHALF k.val) then 8 else 16, record := s.fld (Fld.STR_BP_RXMAP_MASK k.val) }
  | .lode k => { n := 16, w := 16 / 2 ^ s.fld (Fld.LOD_STAT_WIDTH k.val), record := s.fld (Fld.LOD_LANES_RXFAIL k.val) }

/-- The sending half of a Lode port (R514). -/
def State.lodeTxGeom (s : State) (k : Nat) : HalfGeom :=
  { n := 16, w := 16 / 2 ^ s.fld (Fld.LOD_STAT_WIDTH k), record := s.fld (Fld.LOD_LANES_TXFAIL k) }

/-- The sending half of a bridge port. -/
def State.txGeom (s : State) (k : Nat) : HalfGeom :=
  { n := 20, w := if s.bit (Fld.STR_BP_STAT_TXHALF k) then 8 else 16, record := s.fld (Fld.STR_BP_TXMAP_MASK k) }

/-- One slot time of an internal half: the sender's slot reaches the other end with the lanes of `err` inverted. -/
def State.innerSlot (s : State) (l : LinkRef) (leafSent : Bool) (err : Lanes) : State :=
  let k := s.link l
  let g := s.halfGeom l leafSent
  let (h, slot) := (k.sends leafSent).send (k.sends (!leafSent)) 128
  (s.setLink l (k.setSends leafSent h)).takeSlot l leafSent (slot ^^^ g.slot err) (g.frame err = 0)

/-- Slots of a bridge port's half in an epoch (R404). -/
def HalfGeom.epochSlots (g : HalfGeom) : Nat := if g.w = 8 then 2048 else 4096

/-- One slot time of a bridge port: the port sends its own slot on its lanes and takes what the partner's lanes carry. Slots count
from 0 in each epoch of the port (R404, R414 to R416, R439). -/
def State.outerSlot (s : State) (b : Fin 8) (x : Lanes) : State :=
  let l := LinkRef.bridge b
  let k := s.link l
  let g := s.halfGeom l true
  let t := s.txGeom b.val
  let slot := g.slot x
  let (h, mine) := k.dn.send k.up 256
  let dn := { h with slot := h.slot % t.epochSlots }
  let up := { k.up with slot := (k.up.slot + 1) % g.epochSlots }
  let s := (s.setLink l { k with dn := dn, up := up, epoch := if dn.slot = 0 then (k.epoch + 1) % 256 else k.epoch }).emit
    (.slot l (t.drive mine (k.dn.slot = 0)))
  let w := (slot.extractLsb' 288 32).toNat
  let side := (slot.extractLsb' 256 32).toNat
  let good := lwCrc w = w % 64
    ∧ flitCrc (slot.extractLsb' 0 256) (natBits side 5 4 + 4 * natBits side 7 6) (natBits side 3 0) = BitVec.ofNat 24 (side / 256)
  let rejected := decide (lwCrc w = w % 64) && (up.receive slot (s.replayLimit l) false true).rejected
  let s := ((s.capture b.val mine false false false).capture b.val slot true (!good) rejected).capTime b.val (if t.w = 8 then 10 else 5)
  s.takeSlot l true slot (g.frame x = if k.up.slot = 0 then 3 else 1)

/-! ## Training (R405 to R410, R432, R434) -/

/-- Write a bundle half's record. -/
def State.setBundleMask (s : State) (up : Bool) (i m : Nat) : State :=
  let r := if up then Reg.STR_BUMAP else Reg.STR_BDMAP
  ((s.setReg (r i 0) (BitVec.ofNat 32 m)).setReg (r i 1) (BitVec.ofNat 32 (m / 2 ^ 32))).setReg (r i 2)
    (BitVec.ofNat 32 (m / 2 ^ 64 % 64))

/-- Set a half-width bit and raise HALF when the half falls to half width. -/
def State.setHalf (s : State) (f : RField) (half : Bool) : State :=
  let s1 := s.setFld f (b2n half)
  if half ∧ s.fld f = 0 then s1.raise Fld.STR_IRQ_STATUS_HALF else s1

/-- The Strata revision level of HUB_FEATURES (R405, R421). -/
def State.strataLevel (s : State) : Nat := max 1 (popCount 4 (natBits (s.fld Fld.HUB_FEATURES_COMMON) 3 0))

/-- CRC-32C of a training set over its bytes 4 to 31 (R407, R522). -/
def trainSetCrc (v : Nat) : Nat := (crc32c (bytesLE 28 (v / 2 ^ 32))).toNat

/-- The bits of a training set (R407). -/
def TrainSet.bits (t : TrainSet) : BitVec 256 :=
  let body := t.type * 2 ^ 248 + t.level % 16 * 2 ^ 244 + t.epoch % 256 * 2 ^ 236 + b2n t.upHalf * 2 ^ 235 + b2n t.dnHalf * 2 ^ 234
    + t.dnMask % 2 ^ 70 * 2 ^ 164 + t.upMask % 2 ^ 70 * 2 ^ 94
  BitVec.ofNat 256 (body + trainSetCrc body)

/-- What a receiver takes from a copy of a set of the type that it expects, if its CRC is correct (R407). -/
def readTrainSet (type : Nat) (b : BitVec 256) : Option TrainSet :=
  let v := b.toNat
  if trainSetCrc v = v % 2 ^ 32 ∧ natBits v 255 248 = type then
    some { type := type, level := natBits v 247 244, epoch := natBits v 243 236, upHalf := natBit v 235, dnHalf := natBit v 234,
           dnMask := natBits v 233 164, upMask := natBits v 163 94 }
  else none

/-- What a receiver reads of the 16 copies of a set on each of `n` lanes: the first copy that `read` finds sound on a lane that passed its own
BIST (R407). -/
def firstCopy {α : Type} (read : BitVec 256 → Option α) (set : BitVec 256) (errs : List SetErr) (map : Bool) (n failed : Nat) : Option α :=
  (List.range 16).findSome? fun c => (List.range n).findSome? fun p =>
    if natBit failed p then none
    else read (errs.foldl (fun v e => if e.map = map ∧ e.copy.val = c ∧ e.lane = p then v ^^^ e.mask else v) set)

/-- The Strata set that a receiver takes: a map set, or a fail report. -/
def receivedSet (set : BitVec 256) (errs : List SetErr) (map : Bool) (n failed : Nat) : Option TrainSet :=
  firstCopy (readTrainSet (if map then 0x4D else 0x46)) set errs map n failed

/-- The ECHO of step 7 of an attempt (R406, R422). -/
def trainEcho : Packet :=
  mkPacket 0x52 3 0 (epOfBits 0) (epOfBits 0) 0 0 0 0 0 [{ data := 0xA5A5#256, poison := 0, crc := 0 }]

/-- Steps 1 and 6 of an attempt: the link layer restarts unless its state is kept; ECHO goes out where the level has it. -/
def State.startLayer (s : State) (l : LinkRef) (keep echo : Bool) : State :=
  let k := s.link l
  let k := if keep then k else { k with dn := s.freshHalf l false, up := s.freshHalf l true, epoch := 0 }
  let k := if echo then { k with training := true, echoOk := false, echoSent := some trainEcho,
                                 dn := { k.dn with queue := trainEcho :: k.dn.queue } }
           else { k with training := true, echoOk := true, echoSent := none }
  s.setLink l k

/-- Bundle `i` is disabled (R402, R408). -/
def State.disableBundle (s : State) (i : Fin 64) : State :=
  ((s.setFld (Fld.STR_BSTAT_STATE i.val) 3).setLink (.bundle i) { s.link (.bundle i) with training := false }).raise
    Fld.STR_IRQ_STATUS_DISABLED

/-- The fail report of the leaf end of a bundle (R406, R407). -/
def State.failReport (s : State) (i : Fin 64) (failDn : Nat) : TrainSet :=
  { type := 0x46, level := (s.fuses.dieFeat.getD (i.val / 16) 0).toNat % 16, epoch := 0, upHalf := false, dnHalf := false,
    dnMask := failDn % 2 ^ 70, upMask := 0 }

/-- An attempt on an internal bundle with the lanes that failed BIST in each half (R403, R406): the leaf end reports, Bedrock forms
the record and the widths, and the leaf end takes the map set (R410). Where no copy of a set arrives sound the attempt goes no further
and runs out of time (R407, R408). -/
def State.attemptBundle (s : State) (i : Fin 64) (failUp failDn : Nat) (errs : List SetErr) : State :=
  let l := LinkRef.bundle i
  let st := s.fld (Fld.STR_BSTAT_STATE i.val)
  if st = 1 ∨ st = 5 ∨ s.drainRetrain l then
    let mu := s.bundleMask true i.val ||| failUp % 2 ^ 70
    match receivedSet (s.failReport i failDn).bits errs false 70 failUp with
    | none => s.setBundleMask true i.val mu
    | some report =>
    let md := s.bundleMask false i.val ||| report.dnMask
    let cu := popCount 70 mu
    let cd := popCount 70 md
    let forced := s.bit (Fld.STR_BSTAT_FORCED i.val)
    let s := (s.setBundleMask true i.val mu).setBundleMask false i.val md
    let s := (s.setFld (Fld.STR_BSTAT_UPFAIL i.val) cu).setFld (Fld.STR_BSTAT_DNFAIL i.val) cd
    if 36 < cu ∨ 36 < cd then s.disableBundle i
    else
      let uh := forced || 4 < cu
      let dh := forced || 4 < cd
      let s := (s.setHalf (Fld.STR_BSTAT_UPHALF i.val) uh).setHalf (Fld.STR_BSTAT_DNHALF i.val) dh
      let map : TrainSet := { type := 0x4D, level := s.fuses.feat.toNat % 16, epoch := (s.fld Fld.STR_CTRL_EPOCH + 1) % 256,
                              upHalf := uh, dnHalf := dh, dnMask := md, upMask := mu }
      match receivedSet map.bits errs true 70 failDn with
      | none => s
      | some got => (s.setLink l { s.link l with mapSet := some got }).startLayer l (st ≠ 1) (2 ≤ s.strata)
  else s

/-- Steps 5 and 6 of an attempt at a bridge port that runs level `lvl`. -/
def State.startBridge (s : State) (k : Fin 8) (lvl : Nat) : State :=
  let hub := !s.bit (Fld.STR_BP_CTRL_ROLE k.val)
  let s := (s.setFld (Fld.STR_BP_STAT_LEVEL k.val) (2 ^ lvl - 1)).setFld (Fld.STR_BP_STAT_STATE k.val) 1
  s.startLayer (.bridge k) (s.link (.bridge k)).keep (2 ≤ lvl && hub)

/-- The hub end of an attempt: it takes the fail report, forms the record and the widths, and sends the map set (R406, R432). -/
def State.attemptHub (s : State) (k : Fin 8) (t : TrainSet) : State :=
  let mr := s.fld (Fld.STR_BP_RXMAP_MASK k.val)
  let mt := s.fld (Fld.STR_BP_TXMAP_MASK k.val) ||| t.dnMask % 2 ^ 20
  let s := s.setFld (Fld.STR_BP_TXMAP_MASK k.val) mt
  let cr := popCount 20 mr
  let ct := popCount 20 mt
  let forced := s.bit (Fld.STR_BP_STAT_FORCED k.val)
  if 10 < cr ∨ 10 < ct then
    (s.setFld (Fld.STR_BP_STAT_STATE k.val) 3).raise Fld.STR_IRQ_STATUS_DISABLED
  else
    let rh := forced || 2 < cr
    let th := forced || 2 < ct
    let s := (s.setHalf (Fld.STR_BP_STAT_RXHALF k.val) rh).setHalf (Fld.STR_BP_STAT_TXHALF k.val) th
    let map : TrainSet := { type := 0x4D, level := 2 ^ s.strataLevel - 1, epoch := ((s.link (.bridge k)).epoch + 1) % 256,
                            upHalf := rh, dnHalf := th, dnMask := mt, upMask := mr }
    (s.emit (.trainSet (.bridge k) map.bits)).startBridge k (max 1 (min (popCount 4 t.level) s.strataLevel))

/-- The leaf end of an attempt takes the map set: widths and record are the hub end's (R406, R410). -/
def State.attemptLeaf (s : State) (k : Fin 8) (t : TrainSet) : State :=
  let s := (s.setFld (Fld.STR_BP_RXMAP_MASK k.val) (t.dnMask % 2 ^ 20)).setFld (Fld.STR_BP_TXMAP_MASK k.val) (t.upMask % 2 ^ 20)
  let s := (s.setHalf (Fld.STR_BP_STAT_RXHALF k.val) t.dnHalf).setHalf (Fld.STR_BP_STAT_TXHALF k.val) t.upHalf
  s.startBridge k (max 1 (min (popCount 4 t.level) s.strataLevel))

/-- An attempt on a bridge port (R432, R434), with the lanes that fail at its receiver and the set that its partner sends: a fail
report to a hub end, a map set to a leaf end. A set with a wrong CRC or of another type is not taken, and the attempt then runs out
of time (R407, R408). What a port sends stands for 16 copies on each of its lanes. -/
def State.attemptBridge (s : State) (k : Fin 8) (failRx : Nat) (set : BitVec 256) (errs : List SetErr) : State :=
  let leaf := s.bit (Fld.STR_BP_CTRL_ROLE k.val)
  let st := s.fld (Fld.STR_BP_STAT_STATE k.val)
  if st = 1 ∨ (st = 4 ∧ leaf) then
    let s := { s with free := s.free + 1 }.capTime k.val (Config.freeGap s.free)
    if leaf then
      let report : TrainSet := { type := 0x46, level := 2 ^ s.strataLevel - 1, epoch := 0, upHalf := false, dnHalf := false,
                                 dnMask := failRx % 2 ^ 20, upMask := 0 }
      let s := (s.setFld (Fld.STR_BP_STAT_STATE k.val) 1).emit (.trainSet (.bridge k) report.bits)
      match receivedSet set errs true 20 failRx with
      | some t => s.attemptLeaf k t
      | none => s
    else
      let s := s.setFld (Fld.STR_BP_RXMAP_MASK k.val) (s.fld (Fld.STR_BP_RXMAP_MASK k.val) ||| failRx % 2 ^ 20)
      match receivedSet set errs false 20 failRx with
      | some t => s.attemptHub k t
      | none => s
  else s

/-- A failed attempt: half width is forced after three in a row, and the link is disabled after three more (R408). A leaf port
chooses neither and waits for its partner's next attempt (R434, DEDUCED, assumption 61). -/
def State.attemptFails (s : State) (l : LinkRef) : State :=
  let k := s.link l
  if ¬k.training ∧ ¬(s.linkState l = 1 ∨ s.linkState l = 5 ∨ s.drainRetrain l) then s
  else
    let n := k.fails + 1
    let s := s.setLink l { k with fails := n, training := false, echoOk := false, echoSent := none }
    match l with
    | .bundle i =>
      if n = 3 then
        ((s.setFld (Fld.STR_BSTAT_FORCED i.val) 1).setHalf (Fld.STR_BSTAT_UPHALF i.val) true).setHalf
          (Fld.STR_BSTAT_DNHALF i.val) true
      else if 6 ≤ n then s.disableBundle i
      else s
    | .bridge b =>
      if s.bit (Fld.STR_BP_CTRL_ROLE b.val) then s.setFld (Fld.STR_BP_STAT_STATE b.val) 4
      else if n = 3 then
        ((s.setFld (Fld.STR_BP_STAT_FORCED b.val) 1).setHalf (Fld.STR_BP_STAT_TXHALF b.val) true).setHalf
          (Fld.STR_BP_STAT_RXHALF b.val) true
      else if 6 ≤ n then (s.setFld (Fld.STR_BP_STAT_STATE b.val) 3).raise Fld.STR_IRQ_STATUS_DISABLED
      else s
    | .lode _ => s

/-- The position strap of a die is valid (R29, R33). -/
def State.strapValid (s : State) (d : Nat) : Bool :=
  let v := s.fuses.pos.getD d 0
  decide (1 ≤ v.toNat ∧ v.toNat ≤ 4)

/-- A link's other end is out of reset: a die whose strap is invalid stays in reset (R33, R405). -/
def State.endUp (s : State) (l : LinkRef) : Bool :=
  match l with
  | .bundle i => s.strapValid (i.val / 16)
  | _ => true

/-- A trained link becomes LIVE at the next epoch (R406 step 8, R408); a bundle of a wire pair stays out of routing (R411, R430). -/
def State.goLive (s : State) (l : LinkRef) : State :=
  let k := s.link l
  if s.endUp l ∧ k.training ∧ k.echoOk ∧ (s.linkState l = 1 ∨ s.linkState l = 5 ∨ s.linkState l = 7 ∨ s.drainRetrain l) then
    let s := s.setLink l { k with training := false, keep := false, fails := 0, echoSent := none }
    match l with
    | .bundle i => s.setFld (Fld.STR_BSTAT_STATE i.val) (if s.inPair i.val then 4 else 2)
    | .bridge b => s.setFld (Fld.STR_BP_STAT_STATE b.val) 2
    | .lode b => s.setFld (Fld.LOD_STAT_STATE b.val) 2
  else s

/-- A bundle drops because an end was reset: training starts over with the link-layer state cleared (R409, R684). -/
def State.dropBundle (s : State) (i : Fin 64) : State :=
  if s.fld (Fld.STR_BSTAT_STATE i.val) = 0 ∨ s.fld (Fld.STR_BSTAT_STATE i.val) = 3 then s
  else
    ((s.setFld (Fld.STR_BSTAT_STATE i.val) 1).bump (Fld.STR_BSTAT_RETRAINS i.val)).raise Fld.STR_IRQ_STATUS_RETRAIN

/-! ## Bundles that stop being usable (R412, R413) -/

/-- The receiving end completes a packet whose header it has accepted with poisoned data flits. -/
def Half.completePart (h : Half) : Half × Option Packet :=
  match h.part with
  | none => (h, none)
  | some q =>
    let n := q.pkt.len.toNat - q.pkt.data.length
    let dead := (List.range n).map fun i =>
      ({ data := 0, poison := 0xF, crc := 0 } : Flit).seal q.pkt.len.toNat (q.pkt.data.length + i)
    ({ h with part := none }, some { q.pkt with data := q.pkt.data ++ dead })

/-- The other bundle of a pair. -/
def pairMate (i : Fin 64) : Fin 64 := ⟨if i.val % 2 = 0 then i.val + 1 else i.val - 1, by have := i.isLt; split <;> omega⟩

/-- Packets not yet started on a bundle that is no longer usable move to the other bundle of the pair, ahead of later ones;
a started packet is completed with poison where its header was accepted and lost otherwise (R412). A bundle that drains still sends what
it has started (R426). -/
def State.unuse (s : State) (i : Fin 64) : State :=
  if s.usable i.val ∨ s.draining i.val then s
  else
    let k := s.link (.bundle i)
    let m := s.link (.bundle (pairMate i))
    let (dn, pd) := Half.completePart { k.dn with queue := [], cur := [], replay := [], resend := none }
    let (up, pu) := Half.completePart { k.up with queue := [], cur := [], replay := [], resend := none }
    let s := s.setLink (.bundle i) { k with dn := dn, up := up }
    let waits := fun (h : Half) => h.queue.filter fun p => p.cls ≠ 3
    let s := if s.usable (pairMate i).val then
        s.setLink (.bundle (pairMate i)) { m with dn := { m.dn with queue := waits k.dn ++ m.dn.queue },
                                                  up := { m.up with queue := waits k.up ++ m.up.queue } }
      else
        { s with net := s.net ++ (waits k.up).map (fun p => { loc := .edge (i.val / 16) (i.val % 16 / 2), pkt := p })
            ++ (waits k.dn).map (fun p => { loc := .hub (i.val % 16 / 2) (2 * (i.val / 16)) 0, pkt := p }) }
    let s := match pd with
      | none => s
      | some p => s.linkDeliver (.bundle i) false p
    match pu with
    | none => s
    | some p => s.linkDeliver (.bundle i) true p

/-! ## Maintenance packets (R422, R423) -/

/-- The maintenance packet `n` waiting at a link end. -/
def State.maint (s : State) (n : Nat) (cmd : Nat) : Option MaintIn :=
  match s.minbox[n]? with
  | some m => if m.pkt.cmd.toNat = cmd then some m else none
  | none => none

/-- The state without that packet. -/
def State.dropMaint (s : State) (n : Nat) : State := { s with minbox := listDropAt s.minbox n }

/-- A maintenance packet of an end that follows R422: class 3 commands with zero destination fields at the level run. -/
def State.maintOk (s : State) (m : MaintIn) : Bool :=
  let lvl := match m.at_.link with
    | .bundle _ => s.strata
    | .bridge k => popCount 4 (s.fld (Fld.STR_BP_STAT_LEVEL k.val))
    | .lode _ => 2
  let c := m.pkt.cmd.toNat
  !malformed m.pkt && epBits m.pkt.dst = 0 && (2 ≤ lvl || !(c = 0x52 || c = 0x53 || c = 0x55))

end Sys2Proof.Machine
end

