-- ==== Sys2Proof/Machine/Ring.lean ====
section
/-! DEFINITION. The ring network: endpoints, routing, buffers, injection, ejection and the tables of outstanding requests
(R307 to R348, R353, R411 to R413, R685). -/

namespace Sys2Proof.Machine

/-! ## Endpoints -/

/-- What stands behind a local port (R309, R313). -/
inductive PortKind where
  | user
  | group
  | mica
  | vein
  | dieReg
  | home (h : Nat)
  | channel (x : Nat)
  | bridge (k : Nat)
  | pcie (port : Bool)
  | lode (k : Nat)
  | hubReg
  | none
  deriving DecidableEq, Repr

/-- The endpoint at a Slate router port (R309). -/
def slatePort (x y p : Nat) : PortKind :=
  if p < 4 then .user
  else if p < 7 then .group
  else if p = 7 then .mica
  else if p = 8 then .vein
  else if p = 9 ∧ x = 0 ∧ y = 0 then .dieReg
  else .none

/-- The endpoint at a Bedrock agent port (R313). -/
def hubPort (x y p : Nat) : PortKind :=
  if p = 0 ∧ y = 1 then .home (2 * x)
  else if p = 0 ∧ y = 5 then .home (2 * x + 1)
  else if p = 0 ∧ y = 3 then .channel x
  else if p = 1 ∧ y = 3 then .bridge x
  else if p = 0 ∧ y = 7 ∧ x = 0 then .pcie false
  else if p = 0 ∧ y = 7 ∧ x = 4 then .pcie true
  else if y = 7 ∧ 1 ≤ p ∧ p ≤ 4 then .lode (p - 1)
  else if x = 0 ∧ y = 1 ∧ p = 15 then .hubReg
  else .none

/-- The endpoint that coordinates name. -/
def portKind (e : Ep) : PortKind :=
  if e.die.toNat < 4 then slatePort e.x.toNat e.y.toNat e.p.toNat
  else if e.die.toNat = 4 then hubPort e.x.toNat e.y.toNat e.p.toNat
  else .none

/-- The home agent of a line number K (R361). -/
def homeOf (k : Nat) : Nat := 2 * fold3 k + parity k

/-- The endpoint of home agent `h` (R361). -/
def State.homeEp (s : State) (h : Nat) : Ep := s.mkEp 4 (h / 2) (if h % 2 = 0 then 1 else 5) 0

/-- Row of HRG_COLMAP for a die (R308, R357). -/
def State.liveCols (s : State) (d : Nat) : Nat := bits (s.reg Reg.HRG_COLMAP) (8 * d + 7) (8 * d)

/-- First live column from `h` on, wrapping (R325, R366). -/
def firstLive (live h : Nat) : Option Nat :=
  ((List.range 8).map fun i => (h + i) % 8).find? fun c => natBit live c

/-- Coordinates of the vein slice of a line on a die (R366). -/
def State.slicePlace (s : State) (d line : Nat) : Option (Nat × Nat) :=
  (firstLive (s.liveCols d) (fold3 line)).map fun x => (x, fold3 (line / 2))

/-- The power domain of a local port (R685, R599). -/
def State.portDomain (s : State) (e : Ep) : Nat :=
  let d := e.die.toNat
  match portKind e with
  | .user => slateDom d (s.physX d 8 e.x.toNat / 4 + 2 * (e.y.toNat / 4))
  | .group => slateDom d 4
  | .mica => slateDom d 9
  | .vein => slateDom d 5
  | .dieReg => slateDom d 5
  | .home _ => 3
  | .channel x => if x < 4 then 7 else 8
  | .bridge _ => 14
  | .pcie p => 5 + b2n p
  | .lode k => 10 + k
  | .hubReg => 1
  | .none => 0

/-- The policy of a port: true is fence (R345, R356, R357). -/
def State.portFencePolicy (s : State) (e : Ep) : Bool :=
  if e.die.toNat < 4 then s.bit (Fld.RTR_PORT_POLICY e.die.toNat (8 * e.y.toNat + e.x.toNat) e.p.toNat)
  else
    let x := e.x.toNat
    let p := e.p.toNat
    match e.y.toNat with
    | 1 => natBit (s.fld (Fld.HRG_POL_LO_POLICY_A x)) p
    | 3 => natBit (s.fld (Fld.HRG_POL_LO_POLICY_B x)) p
    | 5 => natBit (s.fld (Fld.HRG_POL_HI_POLICY_A x)) p
    | 7 => natBit (s.fld (Fld.HRG_POL_HI_POLICY_B x)) p
    | _ => false

/-- Router number of an endpoint. -/
def Ep.router (e : Ep) : Nat := 8 * e.y.toNat + e.x.toNat

/-- The region of the sector that a local port of a router lies in (R28, R228). -/
def State.portRegion (s : State) (e : Ep) : Option Nat := s.regionOf e.die.toNat (logSector e.x.toNat e.y.toNat)

/-- A user fabric port or group port is under fence: FENCED was raised, or its region does not run (R347, R565, R567). -/
def State.portFenced (s : State) (e : Ep) : Bool :=
  (portKind e = .user || portKind e = .group) &&
    (s.bit (Fld.RTR_PORT_FENCED e.die.toNat e.router e.p.toNat) ||
      match s.portRegion e with
      | some r => s.fld (Fld.CFG_REG_STAT_STATE r) ≠ 3
      | none => true)

/-- The fabric side of a port at which nothing is under way. -/
def UPort.idle : UPort := { tx := [], begun := false, ready := [], rsp := [], req := [] }

/-- The number of a user fabric port. -/
def uportKey (e : Ep) : Nat := 256 * e.die.toNat + 4 * e.router + e.p.toNat

/-- The fabric side of a user fabric port (R350 to R352). -/
def State.uport (s : State) (e : Ep) : UPort := SMap.get UPort.idle s.uports (uportKey e)

/-- Replace it. -/
def State.setUport (s : State) (e : Ep) (u : UPort) : State := { s with uports := SMap.put UPort.idle s.uports (uportKey e) u }

/-- The flits of a packet as a port presents them (R317, R352). -/
def rxFlits (pooled : Bool) (p : Packet) : List RxFlit :=
  { data := p.headBits, poison := 0, kind := headKind p.data.length, pooled := pooled } ::
    p.data.mapIdx fun k f => { data := f.data, poison := f.poison, kind := dataKind p.data.length k, pooled := pooled }

/-- A port delivers a packet to user logic, which takes its flits at edges of the port's clock (R352); `pooled` says that they hold
slots of the response pool until then (R336). -/
def State.presentTo (s : State) (e : Ep) (pooled : Bool) (p : Packet) : State :=
  let u := s.uport e
  let l := rxFlits pooled p
  (s.setUport e (if p.cls = 0 then { u with req := u.req ++ l } else { u with rsp := u.rsp ++ l })).emit (.deliver e p)

/-! ## Logs of a router (R356) -/

/-- Record an event in a router's log. -/
def State.rtrLog (s : State) (d r kind port : Nat) (p : Packet) : State :=
  s.logOnce (Fld.RTR_ERRLOG_VALID d r) fun s =>
    ((((s.setFld (Fld.RTR_ERRLOG_KIND d r) kind).setFld (Fld.RTR_ERRLOG_PORT d r) port).setFld
      (Fld.RTR_ERRLOG_TAG d r) p.tag.toNat).setFld (Fld.RTR_ERRLOG_STATUS d r) p.status.toNat).setFld
      (Fld.RTR_ERRLOG_CMD d r) p.cmd.toNat

/-- An event of a router's counter, log and interrupt; Bedrock's stops have none of the three. -/
def State.rtrEvent (s : State) (e : Ep) (counter irq : Nat → Nat → RField) (kind : Nat) (p : Packet) : State :=
  if e.die.toNat < 4 then
    let d := e.die.toNat
    let r := e.router
    ((s.bump (counter d r)).rtrLog d r kind e.p.toNat p).raise (irq d r)
  else s

/-- A count of equal events of a router. -/
def State.rtrEvents (s : State) (e : Ep) (counter irq : Nat → Nat → RField) (kind : Nat) (p : Packet) (n : Nat) : State :=
  match n with
  | 0 => s
  | k + 1 => (s.rtrEvent e counter irq kind p).rtrEvents e counter irq kind p k

/-- A packet for a port without an endpoint: logged, not counted. -/
def State.noEpEvent (s : State) (e : Ep) (p : Packet) : State :=
  if e.die.toNat < 4 then
    (s.rtrLog e.die.toNat e.router 5 e.p.toNat p).raise (Fld.RTR_IRQ_STATUS_NOEP e.die.toNat e.router)
  else s

/-- A response that is discarded and counted in LATE (R343). -/
def State.late (s : State) (e : Ep) (p : Packet) : State :=
  s.rtrEvent e Fld.RTR_ERRCNT0_LATE Fld.RTR_IRQ_STATUS_LATE 1 p

/-! ## Buffers (R330, R333) -/

/-- Flits waiting in the buffer of a place, class and channel. -/
def State.bufferUse (s : State) (l : Loc) (cls vc : Nat) : Nat :=
  s.net.foldl (fun n f => if f.loc = l ∧ f.pkt.cls.toNat = cls ∧ f.pkt.vc.toNat = vc then n + f.pkt.flits else n) 0

/-- The buffer has credits for all flits of the packet (R333). -/
def State.hasRoom (s : State) (l : Loc) (p : Packet) : Bool :=
  s.bufferUse l p.cls.toNat p.vc.toNat + p.flits ≤ 20

/-- Flight `n` is the oldest of its place, class and channel. -/
def State.isHead (s : State) (n : Nat) (f : Flight) : Bool :=
  (s.net.take n).all fun g => !(g.loc = f.loc && g.pkt.cls = f.pkt.cls && g.pkt.vc = f.pkt.vc)

/-- Take flight `n` off the network; a packet that leaves a bundle's receive buffer gives its credits back. -/
def State.leave (s : State) (n : Nat) (f : Flight) : State :=
  let s : State := { s with net := listDropAt s.net n }
  match f.loc with
  | .ingressDie b => if h : b < 64 then s.freeCredits (.bundle ⟨b, h⟩) true f.pkt else s
  | .edgeIn b => if h : b < 64 then s.freeCredits (.bundle ⟨b, h⟩) false f.pkt else s
  | _ => s

/-- Put a packet into a buffer. -/
def State.place (s : State) (l : Loc) (p : Packet) : State := { s with net := s.net ++ [{ loc := l, pkt := p }] }

/-- Where a port's packets enter the network (R314, R325). -/
def injectLoc (e : Ep) : Loc :=
  if e.die.toNat < 4 then .router e.die.toNat e.x.toNat e.y.toNat e.p.toNat
  else .ingressPort e.x.toNat e.y.toNat e.p.toNat

/-- An endpoint of the device sends a packet of its own: source written, CRCs computed (R316, R319). -/
def State.send (s : State) (from_ : Ep) (p : Packet) : State :=
  s.place (injectLoc from_) { p with src := from_, vc := 0 }.finish

/-- The network answers a request from the place where it stands; the source of the answer is the request's destination
(R344). -/
def State.answerAt (s : State) (l : Loc) (r : Packet) : State :=
  match l with
  | .router d x y _ => s.place (.router d x y 20) r
  | .edge d c => s.place (.router d c 0 20) r
  | .edgeIn b => s.place (.router (b / 16) (b % 16 / 2) 0 20) r
  | .ingressDie b => s.place (.ingressPort (b % 16 / 2) (2 * (b / 16)) 15) r
  | .ingressPort x y p => s.place (.ingressPort x y p) r
  | .hub x y _ => s.place (.ingressPort x y 14) r

/-- Answer or discard a packet that has no path (R329, R413). -/
def State.noPath (s : State) (l : Loc) (p : Packet) : State :=
  let s := s.bump Fld.HRG_UNREACH_COUNT
  if p.cls = 0 then s.answerAt l (rspErr p 7) else s

/-! ## Routing on a Slate die (R325, R331, R332) -/

/-- The next hop of a packet at a Slate router. -/
inductive Hop where
  | unreach
  | eject
  | move (next : Loc) (vc : Nat)
  deriving DecidableEq, Repr

/-- The packet is for this die (R325). -/
def State.localTo (s : State) (d : Nat) (p : Packet) : Bool := s.localEp p.dst && p.dst.die.toNat = d

/-- One hop on the row ring from x toward tx: the next x, the input side there and the channel (R325, R331). -/
def rowHop (d x y tx vc : Nat) (onRing : Bool) : Hop :=
  let v := if onRing then vc else 0
  if (tx + 8 - x) % 8 ≤ 4 then .move (.router d ((x + 1) % 8) y 16) (if x = 7 then 1 else v)
  else .move (.router d ((x + 7) % 8) y 17) (if x = 0 then 1 else v)

/-- Where a Slate router sends a packet (R325). -/
def State.route (s : State) (d x y inp : Nat) (p : Packet) : Hop :=
  let here := s.localTo d p
  let target : Option (Nat × Option Nat) :=
    if here then some (p.dst.x.toNat, some p.dst.y.toNat)
    else (firstLive (s.liveCols d) (fold3 p.key)).map fun c => (c, none)
  match target with
  | none => .unreach
  | some (tx, ty) =>
    if x ≠ tx then rowHop d x y tx p.vc.toNat (inp = 16 ∨ inp = 17)
    else
      match ty with
      | none => if y = 0 then .move (.edge d x) 0 else .move (.router d x (y - 1) 19) 0
      | some ty =>
        if y = ty then .eject
        else if y < ty then .move (.router d x (y + 1) 18) 0
        else .move (.router d x (y - 1) 19) 0

/-- ROUTER_FORWARD: one hop of flight `n`, if it is at the head of its buffer and the next buffer has room (R325 to R334). -/
def State.forward (s : State) (n : Nat) : State :=
  match s.net[n]? with
  | none => s
  | some f =>
    if ¬s.isHead n f then s
    else
      match f.loc with
      | .router d x y inp =>
        if ¬s.domLive (slateDom d 5) then s
        else
          match s.route d x y inp f.pkt with
          | .unreach => (s.leave n f).noPath f.loc f.pkt
          | .eject => s
          | .move l vc =>
            let p := { f.pkt with vc := BitVec.ofNat 1 vc }
            if s.hasRoom l p then (s.leave n f).place l p else s
      | .edgeIn b =>
        if ¬s.domLive (slateDom (b / 16) 5) then s
        else
          let p := { f.pkt with vc := 0 }
          let l := Loc.router (b / 16) (b % 16 / 2) 0 18
          if s.hasRoom l p then (s.leave n f).place l p else s
      | _ => s

/-! ## Edge stops, die stations and the ingress switch (R326 to R329, R345, R411 to R413) -/

/-- The bundle a packet takes of the pair of column `c` (R326, R327, R411). -/
def State.bundleFor (s : State) (d c : Nat) (p : Packet) : Option (Fin 64) :=
  let b := 16 * d + 2 * c + parity p.key
  let o := 16 * d + 2 * c + (1 - parity p.key)
  if h : b < 64 ∧ o < 64 then
    if s.usable b then some ⟨b, h.1⟩ else if s.usable o then some ⟨o, h.2⟩ else none
  else none

/-- What stands for Slate die `d` among the places whose packets wait for a domain (R345). -/
def State.dieMark (s : State) (d : Nat) : Ep := s.mkEp d 0 0 15

/-- Answer FENCED or discard at a fenced place; discards at Bedrock count in HRG_FENCEDROP (R345). -/
def State.fenceOut (s : State) (l : Loc) (e : Ep) (p : Packet) : State :=
  if p.cls = 0 then s.answerAt l (rspErr p 4)
  else if e.die.toNat < 4 then s.late e p
  else s.bump Fld.HRG_FENCEDROP_COUNT

/-- The Lode port toward another device (R328): E 0, W 1, N 2, S 3. -/
def State.lodePort (s : State) (e : Ep) : Nat :=
  let nx := s.fld (Fld.LOD_SYS_NXM1 0) + 1
  let ny := s.fld (Fld.LOD_SYS_NYM1 0) + 1
  if e.dx.toNat ≠ s.odx then
    let a := (e.dx.toNat + nx - s.odx % nx) % nx
    if a ≤ nx - a then 0 else 1
  else
    let a := (e.dy.toNat + ny - s.ody % ny) % ny
    if a ≤ ny - a then 2 else 3

/-- Where a packet leaves the hub rings: at a local port, or for a die (R327). -/
inductive HubExit where
  | port (p : Nat)
  | die (d : Nat)
  deriving DecidableEq, Repr

/-- The hub ring and stop of a packet, and where it leaves there (R327, R328). -/
def State.hubTarget (s : State) (p : Packet) : Nat × Nat × HubExit :=
  if ¬s.localEp p.dst then (fold3 p.key, 7, .port (1 + s.lodePort p.dst))
  else if p.dst.die.toNat = 4 then (p.dst.x.toNat, p.dst.y.toNat, .port p.dst.p.toNat)
  else (p.dst.x.toNat, 2 * p.dst.die.toNat, .die p.dst.die.toNat)

/-- One hop on hub ring `x` from stop `y` toward stop `ty`, and the channel after it (R327, R331). -/
def hubHop (x y ty vc : Nat) : Loc × Nat :=
  if (ty + 8 - y) % 8 ≤ 4 then (.hub x ((y + 1) % 8) 1, if y = 7 then 1 else vc)
  else (.hub x ((y + 7) % 8) 2, if y = 0 then 1 else vc)

/-- The die whose station a packet at this place of a hub ring leaves by. -/
def State.stationOf (s : State) (x y : Nat) (p : Packet) : Option Nat :=
  match s.hubTarget p with
  | (tx, ty, .die d) => if tx = x ∧ ty = y then some d else none
  | _ => none

/-- EDGE_STOP_EXIT: a packet at an edge stop or a die station goes onto a bundle of the column's pair (R326, R327, R412,
R413); at a die station whose die is off the policy of HRG_DIEPOL applies first (R345). A packet waits while the half has no credits for it (R333). -/
def State.exitEdge (s : State) (n : Nat) : State :=
  match s.net[n]? with
  | none => s
  | some f =>
    if ¬s.isHead n f then s
    else
      let go := fun (d c : Nat) (leaf : Bool) =>
        match s.bundleFor d c f.pkt with
        | none => (s.leave n f).noPath f.loc f.pkt
        | some b =>
          let t := s.leave n f
          let k := t.link (.bundle b)
          let h := k.sends leaf
          if h.fits f.pkt then t.setLink (.bundle b) (k.setSends leaf (h.push f.pkt)) else s
      match f.loc with
      | .edge d c => go d c true
      | .hub c y _ =>
        match s.stationOf c y f.pkt with
        | none => s
        | some d =>
          if s.domLive (slateDom d 5) ∧ s.domLive (slateDom d 8) then go d c false
          else if natBit (s.fld Fld.HRG_DIEPOL_FENCE) d ∨ s.wakeFail.contains (s.dieMark d) then
            (s.leave n f).fenceOut f.loc (s.mkEp 4 c (2 * d) 0) f.pkt
          else
            let e := s.dieMark d
            let s : State := if s.waking.contains e then s else { s with waking := s.waking ++ [e] }
            (s.wakeDomain (slateDom d 5)).wakeDomain (slateDom d 8)
      | _ => s

/-- INGRESS_SWITCH: a packet at the ingress switch is placed on its hub ring at the stop of its entry, or answered UNREACH; a packet
on a hub ring moves one hop toward its stop (R327 to R331, R333). -/
def State.ingress (s : State) (n : Nat) : State :=
  match s.net[n]? with
  | none => s
  | some f =>
    if ¬s.isHead n f then s
    else
      let p := f.pkt
      let go := fun (l : Loc) (vc : Nat) =>
        let p := { p with vc := BitVec.ofNat 1 vc }
        if s.hasRoom l p then (s.leave n f).place l p else s
      let enter := fun (y : Nat) =>
        let t := s.hubTarget p
        match t.2.2 with
        | .die d =>
          if ¬s.dieOk d ∨ ¬natBit (s.liveCols d) p.dst.x.toNat then (s.leave n f).noPath f.loc p else go (.hub t.1 y 0) 0
        | .port _ => go (.hub t.1 y 0) 0
      match f.loc with
      | .ingressDie b => enter (2 * (b / 16))
      | .ingressPort _ y _ => enter y
      | .hub x y _ =>
        let ty := (s.hubTarget p).2.1
        if y = ty then s
        else
          let (l, vc) := hubHop x y ty p.vc.toNat
          go l vc
      | _ => s

/-! ## Outstanding requests and the response pool (R336, R337, R341) -/

/-- Entries of a port. -/
def State.entriesOf (s : State) (e : Ep) : List TagEntry := s.tags.filter fun t => t.ep = e

/-- Flits of responses that user logic has still to take from a user fabric port (R336, R352). -/
def State.rspHeld (s : State) (e : Ep) : Nat :=
  if portKind e = .user then ((s.uport e).rsp.filter fun f => f.pooled).length else 0

/-- Pool slots that a port of a router holds: those of its live requests, and those of responses that user logic has not taken. -/
def State.slotsUsed (s : State) (e : Ep) : Nat :=
  s.tags.foldl (fun n t => if t.ep = e ∧ t.live then n + t.slots else n) (s.rspHeld e)

/-- The lease is the reservation of port `p` of router `r` on die `d`. -/
def Lease.slotsOf (l : Lease) (d r p : Nat) : Bool :=
  match l with
  | .resv a b c _ => a = d && b = r && c = p
  | _ => false

/-- Pool slots of a lease. -/
def Lease.slotCount (l : Lease) : Nat :=
  match l with
  | .resv _ _ _ n => n
  | _ => 0

/-- Slots of a revoked reservation of port `p`, which the pool gets back when the revocation completes (R76). -/
def State.revokedSlots (s : State) (e : Ep) : Nat :=
  s.revs.foldl (fun n r => r.held.foldl (fun m l => if l.slotsOf e.die.toNat e.router e.p.toNat then m + l.slotCount else m) n) 0

/-- Slots of the shared remainder that port `p` uses beyond its reservation. -/
def State.sharedUse (s : State) (e : Ep) (extra : Nat) : Nat :=
  s.slotsUsed e + extra - s.fld (Fld.RTR_PORT_RESV e.die.toNat e.router e.p.toNat) - s.revokedSlots e

/-- The seven ports that share a router's pool. -/
def poolPorts (e : Ep) : List Ep := (List.range 7).map fun p => { e with p := BitVec.ofNat 4 p }

/-- Sum of RESV over a router's ports 0 to 6 (R336, R356). -/
def State.resvSum (s : State) (e : Ep) : Nat :=
  (poolPorts e).foldl (fun n q => n + s.fld (Fld.RTR_PORT_RESV q.die.toNat q.router q.p.toNat)) 0

/-- RTR_POOL.FREE: slots neither reserved nor in use (R356). -/
def State.poolFree (s : State) (e : Ep) : Nat :=
  512 - s.resvSum e - (poolPorts e).foldl (fun n q => n + s.revokedSlots q + s.sharedUse q 0) 0

/-- The pool has slots for one more response of port `e` (R336). -/
def State.poolRoom (s : State) (e : Ep) (slots : Nat) : Bool :=
  s.sharedUse e slots - s.sharedUse e 0 ≤ s.poolFree e

/-- How many requests a port tracks (R341). -/
def portLimit (k : PortKind) : Nat :=
  match k with
  | .user => 64
  | .group => 96
  | .pcie _ => 2048
  | _ => 4096

/-- The lowest TAG that a port has no entry for. -/
def State.freeTag (s : State) (e : Ep) (limit : Nat) : Option (BitVec 12) :=
  ((List.range limit).find? fun t => !(s.tags.any fun u => u.ep = e && u.tag.toNat = t)).map (BitVec.ofNat 12)

/-- What became of an injection. -/
inductive Inject where
  /-- The packet is on its way, or was dropped or held by rule. -/
  | done (s : State)
  /-- The port answers at once with this response (R323, R341, R329). -/
  | answer (s : State) (r : Packet)
  /-- The port does not accept it now (R336, R341, R347, R384). -/
  | wait
  deriving Repr

/-- The commands that a user fabric port may send as requests (R353) and an engine group may (R301). -/
def maySend (k : PortKind) (c : Nat) : Bool :=
  match k with
  | .user => cmdClass c = some 0 || cmdClass c = some 1
  | .group => c = 1 || c = 3 || c = 8 || c = 9 || c = 0x10 || c = 5 || cmdClass c = some 1
  | _ => true

/-- A coherent command of a local user or group port (R364). -/
def coherentCmd (c : Nat) : Bool := 1 ≤ c && c ≤ 5

/-- A user port's answer goes to a request that it has received and not answered (R340, R353). -/
def State.answers (s : State) (e : Ep) (p : Packet) : Option Nat :=
  s.unanswered.findIdx? fun u => u.ep = e && u.pkt.tag = p.tag && u.pkt.src = p.dst

/-- A tracked request leaves its port (R336, R341, R342, R364). -/
def State.injectRequest (s : State) (e : Ep) (p : Packet) (why : Purpose) : Inject :=
  let k := portKind e
  if s.tags.any (fun t => t.ep = e && t.tag = p.tag) then .answer s (rspErr p 9)
  else if portLimit k ≤ (s.entriesOf e).length then .wait
  else
    let slots := rspFlits p
    let pooled := e.die.toNat < 4 && e.p.toNat < 7
    if pooled && !s.poolRoom e slots then .wait
    else
      let local_ := (k = .user || k = .group) && coherentCmd p.cmd.toNat
      let place := s.slicePlace e.die.toNat (p.addr.toNat / 64)
      if local_ ∧ place = none then .answer (s.bump Fld.HRG_UNREACH_COUNT) (rspErr p 7)
      else
        let dst := match local_, place with
          | true, some (x, y) => s.mkEp e.die.toNat x y 8
          | _, _ => p.dst
        let timed := match k with
          | .pcie _ => true
          | _ => s.fld (Fld.RTR_CTRL_TIMEOUT e.die.toNat e.router) ≠ 0
        let t : TagEntry := { ep := e, tag := p.tag, live := true, timed := timed, slots := if pooled then slots else 0,
                              cmd := p.cmd, addr := p.addr, dst := dst, purpose := why }
        .done ({ s with tags := s.tags ++ [t] }.send e { p with dst := dst })

/-- A port injects a packet (R316, R323, R336, R341, R347, R353, R364, R384). The destination fields of a command whose destination
the port replaces or ignores are not checked. R323 does not say whether a malformed packet whose CMD and CLASS disagree is a request:
one is answered BUSERR if CMD is below 0x30 or CLASS is 0 (DESIGN CHOICE, assumption 67). -/
def State.inject (s : State) (e : Ep) (p0 : Packet) (why : Purpose) : Inject :=
  let p := { p0 with src := e, vc := 0 }
  let k := portKind e
  let isReq := p.cmd.toNat < 0x30
  let fromUser := k = .user
  let stray := fromUser && p.cls = 1 && (s.answers e p).isNone
  let seen := if ((k = .user || k = .group) && coherentCmd p.cmd.toNat) || (fromUser && p.cmd = 6) then { p with dst := e } else p
  if malformed seen || ((k = .user || k = .group) && (!maySend k p.cmd.toNat || 2 ≤ p.cls.toNat)) || stray then
    let s := s.rtrEvent e Fld.RTR_ERRCNT0_MALFORMED Fld.RTR_IRQ_STATUS_MALFORMED 0 p
    if isReq || p.cls = 0 then .answer s (rspErr p 2) else .done s
  else if p.cls = 1 then
    match (if fromUser then s.answers e p else none) with
    | some i => .done ({ s with unanswered := listDropAt s.unanswered i }.send e p)
    | none => .done (s.send e p)
  else if p.cls ≠ 0 then .done (s.send e p)
  else if s.drains.contains e || s.portFenced e then .wait
  else if s.fences.any (fun f => f.ep = e) then .wait
  else if fromUser && p.cmd = 0x06 && s.tags.any (fun t => t.ep = e && t.tag = p.tag) then .answer s (rspErr p 9)
  else if fromUser && p.cmd = 0x06 && decide (portLimit k ≤ (s.entriesOf e).length) then .wait
  else if fromUser && p.cmd = 0x06 then .done { s with fences := s.fences ++ [{ ep := e, pkt := p }] }
  else s.injectRequest e p why

/-! ## Ejection (R311, R319, R343 to R347, R353, R685) -/

/-- Flits of requests that wait at a user port, those included that it presents (R352). -/
def State.inboundFlits (s : State) (e : Ep) : Nat :=
  s.inbox.foldl (fun n d => if d.ep = e ∧ d.pkt.cls = 0 then n + d.pkt.flits else n) (s.uport e).req.length

/-- Check the CRCs of a packet at its last stop: none if HCRC fails; a data flit whose CRC fails is poisoned whole. The number of
such flits comes back (R319). -/
def checkCrc (p : Packet) : Option (Packet × Nat) :=
  if p.hcrc ≠ p.headCrc then none
  else
    let n := p.len.toNat
    let chk := p.data.mapIdx fun k f =>
      if f.crc = flitCrc f.data (dataKind n k) f.poison.toNat then (f, false) else ({ f with poison := 0xF }, true)
    some ({ p with data := chk.map fun c => c.1 }, (chk.filter fun c => c.2).length)

/-- Deliver a packet to its endpoint, where a command of its own serves it. -/
def State.deliver (s : State) (e : Ep) (p : Packet) : State := { s with inbox := s.inbox ++ [{ ep := e, pkt := p }] }

/-- What an endpoint's port does with a packet whose domain is on (R311, R313, R347, R353). `enabled` is UP_EN or SG_EN. No endpoint
serves FENCE, which only a bridge partner or another device can send to one: BUSERR (R322, R340). -/
def State.accept (s : State) (l : Loc) (e : Ep) (p : Packet) (enabled : Bool) : State :=
  let fenced := s.portFenced e
  match portKind e with
  | .user =>
    if p.cls = 0 then
      if !enabled then s.answerAt l (rspErr p 6)
      else if fenced || s.drains.contains e then s.answerAt l (rspErr p 4)
      else s.deliver e p
    else if fenced then s.late e p
    else s.deliver e p
  | .group =>
    if p.cls = 0 then
      if !enabled then s.answerAt l (rspErr p 6)
      else if fenced || s.drains.contains e then s.answerAt l (rspErr p 4)
      else if p.cmd = 6 then s.answerAt l (rspErr p 2)
      else s.deliver e p
    else if fenced then s.late e p
    else s.deliver e p
  | .pcie _ => if p.cls = 0 then s.answerAt l (rspErr p 2) else s.deliver e p
  | _ => if p.cmd = 6 then s.answerAt l (rspErr p 2) else s.deliver e p

/-- Configuration enable of a user or group port; true elsewhere. The group record is read by the caller. -/
def State.userEnabled (s : State) (e : Ep) : Bool :=
  natBit (s.upRec e.die.toNat e.x.toNat e.y.toNat e.p.toNat) 0

/-- A port whose domain is not on acts as under fence: its policy says so, or a wake has failed (R345). -/
def State.meetsFence (s : State) (e : Ep) : Bool := s.portFencePolicy e || s.wakeFail.contains e

/-- A packet is held at its stop while the domain of its port wakes (R345). -/
def State.holdFor (s : State) (e : Ep) : State :=
  let s : State := if s.waking.contains e then s else { s with waking := s.waking ++ [e] }
  let s := if e.die.toNat < 4 then s.setFld (Fld.RTR_PORT_WAKING e.die.toNat e.router e.p.toNat) 1 else s
  s.wakeDomain (s.portDomain e)

/-- The local port that a flight stands before, at its last stop (R325, R327). -/
def State.atPort (s : State) (f : Flight) : Option Ep :=
  match f.loc with
  | .router d x y inp => if s.domLive (slateDom d 5) ∧ s.route d x y inp f.pkt = .eject then some f.pkt.dst else none
  | .hub x y _ =>
    match s.hubTarget f.pkt with
    | (tx, ty, .port p) => if tx = x ∧ ty = y then some (s.mkEp 4 x y p) else none
    | _ => none
  | _ => none

/-- Snoops that a vein slice holds (R375). -/
def State.snoopsAt (s : State) (e : Ep) : Nat := (s.inbox.filter fun d => d.ep = e && d.pkt.cls = 2).length

/-- PACKET_EJECT of flight `n`, where `grpEnabled` says SG_EN of a group port. Packets for a bridge or Lode port stay for
their own handling: `out` sends them on the link, or answers none while it cannot take them. -/
def State.ejectWith (s : State) (n : Nat) (grpEnabled : Ep → Bool) (out : State → Ep → Packet → Option State) : State :=
  match s.net[n]? with
  | none => s
  | some f =>
    if ¬s.isHead n f then s
    else
      match s.atPort f with
      | none => s
      | some e =>
        match checkCrc f.pkt with
        | none => (s.leave n f).rtrEvent e Fld.RTR_ERRCNT1_CRCERR Fld.RTR_IRQ_STATUS_CRC 2 f.pkt
        | some (p, badFlits) =>
          let kind := portKind e
          let off := (s.leave n f).rtrEvents e Fld.RTR_ERRCNT1_CRCERR Fld.RTR_IRQ_STATUS_CRC 3 p badFlits
          if kind = .none then
            let t := off.noEpEvent e p
            if p.cls = 0 then t.answerAt f.loc (rspErr p 2) else t
          else if kind = .user ∧ p.cls = 0 ∧ ¬(p.cmd = 8 ∨ p.cmd = 9 ∨ p.cmd = 0x10 ∨ p.cmd = 0x11) then
            off.answerAt f.loc (rspErr p 2)
          else if ¬s.domLive (s.portDomain e) then
            if s.meetsFence e then off.fenceOut f.loc e p else s.holdFor e
          else
            match kind with
            | .bridge _ => (out off e p).getD s
            | .lode _ => (out off e p).getD s
            | .user =>
              if p.cls = 0 ∧ 36 < s.inboundFlits e + p.flits then s else off.accept f.loc e p (s.userEnabled e)
            | .group => off.accept f.loc e p (grpEnabled e)
            | .vein => if p.cls = 2 ∧ 32 ≤ s.snoopsAt e then s else off.accept f.loc e p true
            | _ => off.accept f.loc e p true

/-! ## Serving what an endpoint has received -/

/-- No earlier packet of the same source, class and key waits at the endpoint of delivered packet `n` (R338). -/
def State.inOrder (s : State) (n : Nat) (d : Delivered) : Bool :=
  (s.inbox.take n).all fun g => !(g.ep = d.ep && g.pkt.src = d.pkt.src && g.pkt.cls = d.pkt.cls && g.pkt.key = d.pkt.key)

/-- The delivered packet `n`, if it carries command `cmd` and is next of its source, class and key at its endpoint (R338). -/
def State.delivered (s : State) (n cmd : Nat) : Option Delivered :=
  match s.inbox[n]? with
  | some d => if d.pkt.cmd.toNat = cmd ∧ s.inOrder n d then some d else none
  | none => none

/-- The state without delivered packet `n`. -/
def State.take (s : State) (n : Nat) : State := { s with inbox := listDropAt s.inbox n }

/-- Index of the live entry that a response matches (R343). -/
def State.liveEntry (s : State) (e : Ep) (tag : BitVec 12) : Option Nat :=
  s.tags.findIdx? fun t => t.ep = e && t.tag = tag && t.live

/-- A FENCE that its port holds is answered once no earlier request of the port is live (R384). -/
def State.releaseFence (s : State) (e : Ep) : State :=
  if s.tags.any (fun t => t.ep = e && t.live) then s
  else
    match s.fences.find? (fun f => f.ep = e) with
    | none => s
    | some f => { s with fences := s.fences.filter (fun g => g.ep ≠ e) }.presentTo e false (rspAck { f.pkt with src := e })

/-- Waking ends for the ports of a domain that is ON: held packets go on (R345). A die's stations wait for both its domains. -/
def State.wakeDone (s : State) (d : Nat) : State :=
  let gone := fun (e : Ep) =>
    if e.p = 15 && decide (e.die.toNat < 4) then s.domOn (slateDom e.die.toNat 5) && s.domOn (slateDom e.die.toNat 8)
    else s.portDomain e = d
  let s := s.waking.foldl (fun (t : State) e =>
    if gone e ∧ e.die.toNat < 4 ∧ e.p ≠ 15 then t.setFld (Fld.RTR_PORT_WAKING e.die.toNat e.router e.p.toNat) 0 else t) s
  { s with waking := s.waking.filter (fun e => !gone e), wakeFail := s.wakeFail.filter (fun e => !gone e) }

/-- A flight that is held for the port, or for the die, that `e` stands for. -/
def State.heldFor (s : State) (e : Ep) (f : Flight) : Bool :=
  match f.loc with
  | .hub x y _ => s.atPort f = some e || (s.stationOf x y f.pkt).map s.dieMark = some e
  | _ => s.atPort f = some e

/-- A held flight is answered FENCED or discarded, after the CRC checks of its last stop (R319, R345). -/
def State.fenceHeld (s : State) (e : Ep) (f : Flight) : State :=
  match checkCrc f.pkt with
  | none => s.rtrEvent e Fld.RTR_ERRCNT1_CRCERR Fld.RTR_IRQ_STATUS_CRC 2 f.pkt
  | some (p, n) => (s.rtrEvents e Fld.RTR_ERRCNT1_CRCERR Fld.RTR_IRQ_STATUS_CRC 3 p n).fenceOut f.loc e p

/-- WAKE_HOLD_TIMEOUT: after 40 µs without ON the port acts as under fence, and what it holds is answered FENCED or discarded
(R345). -/
def State.wakeTimeout (s : State) (e : Ep) : State :=
  if s.waking.contains e then
    let die : Bool := e.die.toNat < 4 && e.p = 15
    let s := if e.die.toNat < 4 ∧ e.p ≠ 15 then s.setFld (Fld.RTR_PORT_WAKING e.die.toNat e.router e.p.toNat) 0 else s
    let held := s.net.filter (s.heldFor e)
    let s : State := { s with waking := s.waking.filter (fun f => f ≠ e)
                              wakeFail := s.wakeFail ++ [e]
                              net := s.net.filter fun f => !s.heldFor e f }
    held.foldl (fun (t : State) f =>
      if die then t.fenceOut f.loc (s.mkEp 4 0 0 0) f.pkt else t.fenceHeld e f) s
  else s

end Sys2Proof.Machine
end

