-- ==== Sys2Proof/Machine/EngineCore.lean ====
section
/-! DEFINITION. Signal engines: states, memories with their error events, faults, the loop cache and the fetch, parallel
transfers, one issue cycle, interrupts, stream ports, the group port and ring commands (R225 to R306). -/

namespace Sys2Proof.Machine

/-! ## Engines and their state (R221 to R231, R237) -/

/-- The number of an engine. -/
def EngRef.key (r : EngRef) : Nat := 12 * (192 * r.die.val + r.grp.val) + r.eng.val

/-- The group of an engine. -/
def EngRef.g (r : EngRef) : Nat := r.grp.val

/-- An address register after reset (R237). -/
def AReg.fresh : AReg := { a := 0, b := 0, l := 1024, m := 0 }

/-- An engine in its power-up state: engine reset, and every memory word UNWRITTEN (R231, R237). -/
def EngSt.fresh : EngSt :=
  { v := List.replicate 16 0, w := List.replicate 4 0, s := List.replicate 8 0, ar := List.replicate 8 AReg.fresh,
    pc := 0, sr := 0, epc := 0, esr := 0, vbase := 0, timer := 0, treload := 0, tevent := false, dbell := 0, fcause := 0,
    faddr := 0, rcount := 0, run := .halted, rptLeft := 0, slots := 0, target := 0, reti := none, pend := [],
    w1 := List.replicate 4 0, w2 := List.replicate 4 0, ov := [0, 0, 0], sin0 := [], sin1 := [], sout0 := [], sout1 := [],
    stall := 0, seq := 0, ring := [], loop := none, exit := false, held := none, faultPend := [],
    waitHeld := false, pm := [], xm := [], ym := [] }

/-- The state of an engine. -/
def State.eng (s : State) (k : Nat) : EngSt := SMap.get EngSt.fresh s.engines k

/-- The state with an engine replaced. -/
def State.setEng (s : State) (k : Nat) (v : EngSt) : State := { s with engines := SMap.put EngSt.fresh s.engines k v }

/-- Engine reset: registers and FIFOs cleared, HALTED; the memories stay (R237, R256, R258). Commands under way at the group port stay
too, and count among the eight until they complete; one whose entry a fence has ended without delivery keeps its place: no rule says
what becomes of them (DESIGN CHOICE, assumption 64). -/
def EngSt.reset (v : EngSt) : EngSt :=
  { EngSt.fresh with pm := v.pm, xm := v.xm, ym := v.ym, ring := v.ring, seq := v.seq }

/-- Reset every engine of a group (R228). -/
def State.groupReset (s : State) (d g : Nat) : State :=
  (List.range 12).foldl (fun (t : State) e =>
    let k := 12 * (192 * d + g) + e
    t.setEng k (t.eng k).reset) s

/-- SG_EN of a group (R225). -/
def State.groupEnabled (s : State) (d g : Nat) : Bool := natBit (s.sgRec d g) 0

/-- SG_EN of the group behind a port. -/
def State.groupPortEnabled (s : State) (e : Ep) : Bool := s.groupEnabled e.die.toNat (s.groupOf e)

/-- The engines of a die's groups that are not enabled are HALTED in their reset state (R227). -/
def State.resetDisabled (s : State) (d : Nat) : State :=
  s.engines.foldl (fun (t : State) e =>
    if e.1 / 2304 = d ∧ ¬t.groupEnabled d (e.1 / 12 % 192) then t.setEng e.1 (t.eng e.1).reset else t) s

/-- The engine clock of a group runs (R225 to R228). -/
def State.engClock (s : State) (d g : Nat) : Bool :=
  let sec := s.groupSector d g
  s.groupEnabled d g && s.domLive (slateDom d 4) && s.secClocked d sec && s.treeRuns d sec (natBits (s.sgRec d g) 5 1)

/-! ## Memories and their events (R230, R232) -/

/-- A memory of an engine: 0 P, 1 X, 2 Y. -/
def EngSt.mem (v : EngSt) (m : Nat) : SMap Cell :=
  match m with
  | 0 => v.pm
  | 1 => v.xm
  | _ => v.ym

/-- The engine with a memory replaced; any write to P memory clears the loop cache (R235). -/
def EngSt.setMem (v : EngSt) (m : Nat) (c : SMap Cell) : EngSt :=
  match m with
  | 0 => { v with pm := c, loop := none }
  | 1 => { v with xm := c }
  | _ => { v with ym := c }

/-- The code word of a memory at a word address modulo 1,024. -/
def EngSt.cell (v : EngSt) (m a : Nat) : Cell := SMap.get Cell.unwritten (v.mem m) (a % 1024)

/-- The engine with a code word stored. -/
def EngSt.store (v : EngSt) (m a : Nat) (c : Cell) : EngSt := v.setMem m (SMap.put Cell.unwritten (v.mem m) (a % 1024) c)

/-- Upset one bit of a memory word. It is no write, so the loop cache stays (R235). -/
def EngSt.upset (v : EngSt) (m a n : Nat) : EngSt :=
  { v.store m a ((v.cell m a).flip n) with loop := v.loop }

/-- Record an event in SEG_ECCLOG: the first one, or an uncorrectable one over a corrected one (R232). -/
def State.eccLog (s : State) (d g e m a : Nat) (ue : Bool) : State :=
  if ¬s.bit (Fld.SEG_ECCLOG_VALID d g) ∨ (ue ∧ ¬s.bit (Fld.SEG_ECCLOG_UNCORR d g)) then
    s.setReg (Reg.SEG_ECCLOG d g) (BitVec.ofNat 32 (2 ^ 31 + b2n ue * 2 ^ 30 + e * 2 ^ 16 + m * 2 ^ 12 + a % 1024))
  else s

/-- The events of one read of an engine memory (R232). -/
def State.segNote (s : State) (d g e m a : Nat) (r : CellRead) : State :=
  if r.ue then ((s.bump (Fld.SEG_UECOUNT_COUNT d g)).eccLog d g e m a true).raise (Fld.SEG_IRQ_STATUS_UE d g)
  else if r.corrected.isSome then ((s.bump (Fld.SEG_CECOUNT_COUNT d g)).eccLog d g e m a false).raise (Fld.SEG_IRQ_STATUS_CE d g)
  else s

/-- Read a word of an engine memory, with its events. -/
def State.segRead (s : State) (d g e m a : Nat) : State × CellRead :=
  let r := ((s.eng (12 * (192 * d + g) + e)).cell m a).read
  (s.segNote d g e m a r, r)

/-- Words `a` on of an engine memory, modulo 1,024. -/
def State.segWords (s : State) (d g e m a n : Nat) : State × List (W64 × Bool) :=
  match n with
  | 0 => (s, [])
  | k + 1 =>
    let (s, r) := s.segRead d g e m a
    let (s, l) := s.segWords d g e m (a + 1) k
    (s, (r.data, r.poison) :: l)

/-- Store words from `a` on, poison with cause STORED (R266, R270). -/
def EngSt.storeWords (v : EngSt) (m a : Nat) (ws : List (W64 × Bool)) : EngSt :=
  match ws with
  | [] => v
  | x :: rest => (v.store m a (Cell.store x.1 x.2)).storeWords m (a + 1) rest

/-! ## What lands between issue cycles (R246 to R250) -/

/-- One register write lands. -/
def EngSt.landOne (v : EngSt) (p : PendWr) : EngSt :=
  match p with
  | .v n x => { v with v := listSet v.v n x }
  | .s n x => { v with s := listSet v.s n x }

/-- Land the register writes of the cycle before, and the oldest overflow bits on their way to SR. -/
def EngSt.land (v : EngSt) : EngSt :=
  let u := v.pend.foldl EngSt.landOne v
  { u with pend := [], sr := srOv v.sr (v.ov.getD 2 0), ov := v.ov.take 2 }

/-- The end of a cycle, after `land`: `w` and `ov` say what the MAC unit's instruction does. -/
def EngSt.cycle (v : EngSt) (w : List W384) (ov : Nat) : EngSt :=
  { v with ov := ov :: v.ov, w := w, w1 := v.w, w2 := v.w1 }

/-- A cycle in which nothing issues (R305). -/
def EngSt.bubble (v : EngSt) : EngSt := v.land.cycle v.w 0

/-- Every issued instruction completes (R250, R261, R263, R283). -/
def EngSt.settle (v : EngSt) : EngSt := v.bubble.bubble.bubble

/-- One engine clock of a RUNNING or WAITING engine: TIMER counts down; on the step from 1 to 0 it raises its event and reloads, and 0
stays (R260). -/
def EngSt.count (v : EngSt) : EngSt :=
  if v.timer = 0 then v
  else if v.timer = 1 then { v with tevent := true, timer := v.treload }
  else { v with timer := v.timer - 1 }

/-! ## Faults (R263, R264) -/

/-- A fault: the engine enters the fault vector with INFAULT set, or FAULTED where a handler already runs. EPC, ESR and GIE stay as they
are: R263 names none of them, though R259 lists the fault as interrupt 0 (DESIGN CHOICE, assumption 64). -/
def EngSt.fault (v : EngSt) (cause : Nat) (addr : BitVec 48) : EngSt :=
  let v := { v.settle with fcause := cause, faddr := addr, rptLeft := 0, slots := 0, reti := none, exit := false, held := none,
                           stall := 0, faultPend := [], waitHeld := false }
  if srInfault v.sr then { v with run := .faulted }
  else { v with run := .running, sr := putBit v.sr 11 true, pc := BitVec.ofNat 10 (v.vbase.toNat / 32 * 32) }

/-- A fault of engine `r`, with the interrupt of an engine that enters FAULTED (R264). -/
def State.engFault (s : State) (r : EngRef) (cause : Nat) (addr : BitVec 48) : State :=
  let v := (s.eng r.key).fault cause addr
  let s := s.setEng r.key v
  if v.run = .faulted then s.raise (Fld.SEG_IRQ_STATUS_FAULT r.die.val r.g) else s

/-- A RING fault is taken at the next boundary; a FAULTED engine has none (R263, R264). -/
def State.ringFault (s : State) (r : EngRef) (addr : BitVec 48) : State :=
  if (s.eng r.key).run = .faulted then s else s.engFault r 7 addr

/-- The RING faults that wait are taken, oldest first (R258, R263). -/
def State.takeFaults (s : State) (r : EngRef) : State := (s.eng r.key).faultPend.foldl (fun (t : State) a => t.ringFault r a) s

/-! ## Interrupts (R259 to R262) -/

/-- The sources that are pending and enabled: bit 1 doorbell, bit 2 stream, bit 3 timer (R259). DESIGN CHOICE (assumption 64): R239
lists the ports of SIE [5:2] without bit numbers; bit 2 is taken as SIN0, bit 3 SIN1, bit 4 SOUT0 and bit 5 SOUT1. -/
def EngSt.sources (v : EngSt) : Nat :=
  let sr := v.sr.toNat
  let stream := (natBit sr 2 && !v.sin0.isEmpty) || (natBit sr 3 && !v.sin1.isEmpty) || (natBit sr 4 && v.sout0.length < 4)
    || (natBit sr 5 && v.sout1.length < 4)
  2 * b2n (natBit sr 1 && v.dbell ≠ 0) + 4 * b2n stream + 8 * b2n (natBit sr 6 && v.tevent)

/-- An interruptible boundary (R261). -/
def EngSt.interruptible (v : EngSt) : Bool := v.slots = 0 && v.rptLeft = 0

/-- With GIE at 0 a WAITING engine goes on once an enabled source is pending (R283). -/
def EngSt.wake (v : EngSt) : EngSt :=
  if v.run = .waiting ∧ ¬srGie v.sr ∧ v.sources ≠ 0 then { v with run := .running } else v

/-- INTERRUPT_ENTRY: the pending enabled interrupt of the highest priority is taken, three engine clocks before the handler's first
instruction (R261), or WAIT ends without one (R283). -/
def EngSt.interrupt (v : EngSt) : EngSt :=
  if v.run ≠ .running ∧ v.run ≠ .waiting then v
  else if ¬srGie v.sr then v.wake
  else if ¬v.interruptible ∨ v.sources = 0 then v
  else
    let k := if natBit v.sources 1 then 1 else if natBit v.sources 2 then 2 else 3
    let v := v.settle.count.count.count
    { v with epc := v.pc, esr := v.sr, sr := putBit v.sr 7 false, run := .running, exit := false, held := none, stall := 0,
             pc := BitVec.ofNat 10 (v.vbase.toNat / 32 * 32 + 8 * k) }

/-- ENGINE_TIMER_EXPIRY: the engine clock in which TIMER steps from 1 to 0 (R260). -/
def EngSt.timerExpiry (v : EngSt) : EngSt :=
  if (v.run = .running ∨ v.run = .waiting) ∧ v.timer = 1 then v.count else v

/-- INTERRUPT_ENTRY at an engine's boundary: a RING fault that came while the engine could not take it goes first (R259, R261, R263). -/
def State.interruptEntry (s : State) (r : EngRef) : State :=
  let e := s.eng r.key
  if ¬s.engClock r.die.val r.g then s
  else if e.faultPend ≠ [] ∧ (e.run = .running ∨ e.run = .waiting) then s.takeFaults r
  else s.setEng r.key e.interrupt

/-! ## Control (R257, R258) -/

/-- HALT: the engine stops at its next boundary, with the writes of issued instructions still on their way, so that RUN goes on
exactly where it stopped. An instruction that was frozen has not issued and is fetched again. -/
def EngSt.halt (v : EngSt) : EngSt :=
  if v.run = .running ∨ v.run = .waiting then
    { v with run := .halted, stall := 0, held := if v.rptLeft = 0 then none else v.held, waitHeld := decide (v.run = .waiting) }
  else v

/-- RUN: a HALTED engine resumes where it stopped, or at START. -/
def EngSt.start (v : EngSt) (at_ : Option (BitVec 10)) : EngSt :=
  if v.run ≠ .halted then v
  else
    match at_ with
    | none => { v with run := if v.waitHeld then .waiting else .running, waitHeld := false }
    | some pc => { v with run := .running, waitHeld := false, pc := pc, rptLeft := 0, slots := 0, reti := none, exit := false, held := none }

/-- A write of SEG_ECTL: RESET, then HALT, then RUN; RING faults that waited are then taken, at once where the engine has a clock, else
with its first one (R228, R258, R263). -/
def State.ectl (s : State) (r : EngRef) (v : Word) : State :=
  let b := fun n => natBit v.toNat n
  let e := s.eng r.key
  let e := if b 29 then e.reset else e
  let e := if b 30 then e.halt else e
  let e := if b 31 ∧ s.groupEnabled r.die.val r.g then e.start (if b 28 then some (v.setWidth 10) else none) else e
  let s := s.setEng r.key e
  if (e.run = .running ∨ e.run = .waiting) ∧ s.engClock r.die.val r.g = true then s.takeFaults r else s

/-! ## Fetch and the loop cache (R234, R235) -/

/-- The cached word at an address of a complete cache. -/
def LoopCache.hit (c : LoopCache) (pc : BitVec 10) : Option W64 :=
  if c.words.length = c.len then SMap.find c.words pc.toNat else none

/-- The cache after the word `w` at `pc` came from P memory. -/
def EngSt.noteFetch (v : EngSt) (w : W64) : EngSt :=
  match v.loop with
  | none => v
  | some c =>
    if c.words.length = c.len ∨ (v.slots ≠ 0 ∧ c.words = []) then v
    else if c.lo.toNat ≤ v.pc.toNat ∧ v.pc.toNat < c.lo.toNat + c.len then
      { v with loop := some { c with words := SMap.set c.words v.pc.toNat w } }
    else { v with loop := none }

/-- A taken branch from `b` to `t` may define a range (R234). -/
def EngSt.noteBranch (v : EngSt) (t : BitVec 10) : EngSt :=
  let n := v.pc.toNat + 3 - t.toNat
  if t.toNat < v.pc.toNat + 3 ∧ n ≤ 16 then
    match v.loop with
    | some c =>
      if c.lo = t ∧ c.len = n ∧ n ≤ c.words.length + 2 then v else { v with loop := some { lo := t, len := n, words := [] } }
    | none => { v with loop := some { lo := t, len := n, words := [] } }
  else v

/-- The instruction word at the next issue, none if it is poisoned. -/
def State.engFetch (s : State) (r : EngRef) : State × Option W64 :=
  let v := s.eng r.key
  match v.held with
  | some w => (s, some w)
  | none =>
    match v.loop.bind fun c => c.hit v.pc with
    | some w => (s, some w)
    | none =>
      let (s, c) := s.segRead r.die.val r.g r.eng.val 0 v.pc.toNat
      if c.poison then (s, none) else (s.setEng r.key (v.noteFetch c.data), some c.data)

/-! ## Legal in this state (R243, R252, R263, R264, R281, R283, R306) -/

/-- The word breaks a rule that depends on the state of the engine and the device. -/
def State.wordBarred (s : State) (v : EngSt) (w : W64) : Bool :=
  let x : BitVec 32 := w.setWidth 32
  let rep := v.rptLeft ≠ 0
  let cls := wbits w 63 60
  let op := wbits w 59 56
  (cls = 1 && (v.slots ≠ 0 || rep || (wbits w 59 58 = 3 && srInfault v.sr)))
    || (cls = 0 && ((op = 1 || op = 2) && (v.slots = 2 || rep) || op = 3 && rep || op = 4 && (v.slots ≠ 0 || rep)))
    || (cls = 5 && wbits w 59 58 = 3 && !s.feature 14)
    || (usesReverse x && (!s.feature 10
      || (slotsOf x).any fun k => k.en && k.mode = 3 && ((v.ar.getD k.ar AReg.fresh).log2Len).isNone))

/-! ## Parallel transfers (R236, R275 to R281) -/

/-- The memory of slot `i`: X, Y or P. -/
def slotMem (i : Nat) : Nat :=
  match i with
  | 0 => 1
  | 1 => 2
  | _ => 0

/-- What the transfers of one instruction do: the loads that will land, the stores, or the fault of a poisoned load. -/
structure XferRes where
  pend : List PendWr
  stores : List (Nat × Nat × W64)
  fault : Option (Nat × Nat)
  deriving DecidableEq, Repr

/-- Perform the loads of the enabled slots on the old values, each with its events, and collect the stores. The fault is that of the
first poisoned load. -/
def State.loads (s : State) (r : EngRef) (v : EngSt) (i : Nat) (ks : List XSlot) : State × XferRes :=
  match ks with
  | [] => (s, { pend := [], stores := [], fault := none })
  | k :: rest =>
    if ¬k.en then s.loads r v (i + 1) rest
    else
      let a := (v.ar.getD k.ar AReg.fresh).a.toNat
      if k.store then
        let w : W64 := if k.sreg then (v.s.getD k.reg 0).setWidth 64 else v.v.getD k.reg 0
        let (s, x) := s.loads r v (i + 1) rest
        (s, { x with stores := (slotMem i, a, w) :: x.stores })
      else
        let (s, c) := s.segRead r.die.val r.g r.eng.val (slotMem i) a
        let p : PendWr := if k.sreg then .s k.reg (c.data.setWidth 32) else .v k.reg c.data
        let (s, x) := s.loads r v (i + 1) rest
        (s, if c.poison then { x with fault := some (i + 3, a) } else { x with pend := p :: x.pend })

/-- The updates of the address registers, computed on the old values (R277). -/
def AReg.updates (old : List AReg) (cur : List AReg) (ks : List XSlot) : List AReg :=
  ks.foldl (fun c k =>
    if k.en && k.mode ≠ 0 then
      match (old.getD k.ar AReg.fresh).update k.mode with
      | some a => listSet c k.ar { c.getD k.ar AReg.fresh with a := a }
      | none => c
    else c) cur

/-! ## One issue cycle (R245 to R252, R288, R289, R305, R306) -/

/-- What the operation of an instruction does in stage A. `old` holds the values at the start of the cycle. -/
inductive OpRes where
  /-- The engine after the writes of stage A, the accumulators and overflow bits of the MAC unit, and a move out that lands at
  the end of stage M. -/
  | ok (v : EngSt) (w : List W384) (ov : Nat) (out : List PendWr)
  /-- The pipeline freezes at a stream port or at the group port; `stall` is STALL of SEG_ESTAT. -/
  | freeze (stall : Nat)
  | illegal
  | spoison (port : Nat)
  deriving Repr

/-- An operation that only writes registers in stage A. -/
def OpRes.regs (v : EngSt) : OpRes := .ok v v.w 0 []

/-- Move on past an instruction that has issued: repeats, delay slots and the end of RETI. `rpt` is a new repeat count. DESIGN CHOICE
(assumption 64): the cycle in which a repeat ends without an issue (R305) moves the pipeline on, where R246, R248 and R249 count
instructions only. -/
def EngSt.advance (v : EngSt) (w : W64) (rpt : Nat) (branch : Option (BitVec 10)) : EngSt :=
  if 1 < v.rptLeft then { v with rptLeft := v.rptLeft - 1, held := some w }
  else
    let last := v.rptLeft = 1
    let v := { v with rptLeft := rpt, held := none }
    let v :=
      match branch with
      | some t => { v with slots := 2, target := t, pc := v.pc + 1 }
      | none =>
        if v.slots = 1 then
          match v.reti with
          | some sr => { v with slots := 0, pc := v.target, sr := sr, reti := none }
          | none => { v with slots := 0, pc := v.target }
        else { v with slots := v.slots - 1, pc := v.pc + 1 }
    if last then { v with exit := true } else if v.exit then { v.bubble.count with exit := false } else v

/-- The end of an issue cycle: the MAC unit, the transfers and the move to the next word; `u` is the engine after its operation,
`v` the engine before the cycle. DESIGN CHOICE (assumption 64): where one instruction moves out to the register that one of its own
loads writes, both land in one cycle and neither R247 nor R278 orders them; the move out stands. -/
def EngSt.finish (u v : EngSt) (w : W64) (ws : List W384) (ov : Nat) (out : List PendWr) (x : XferRes) (rpt : Nat)
    (branch : Option (BitVec 10)) : EngSt :=
  let u := u.cycle ws ov
  let u := x.stores.foldl (fun (z : EngSt) m => z.store m.1 m.2.1 (Cell.of m.2.2)) u
  let u := { u with ar := AReg.updates v.ar u.ar (slotsOf (w.setWidth 32)), pend := x.pend ++ out }
  let u : EngSt := u.advance w rpt branch
  if u.run = .running then u else u.settle

/-- The legal word `w` of an engine that is `v` is performed in one engine clock. A frozen word waits in the pipeline and is not fetched
again. Where one instruction meets several faults the first of these is recorded: ILLEGAL at run time, a poisoned load of the X, the Y
and the P slot, SPOISON; no rule gives their order (DESIGN CHOICE, assumption 64). -/
def State.runWord (s : State) (r : EngRef) (v : EngSt) (w : W64) (rpt : EngSt → Nat) (branch : EngSt → Option (BitVec 10))
    (op : EngSt → EngSt → OpRes) : State :=
  match op v { v.land.count with stall := 0 } with
  | .illegal => s.engFault r 1 (v.pc.setWidth 48)
  | .freeze st => s.setEng r.key { v.count with stall := st, held := some w }
  | res =>
    let (s, x) := s.loads r v 0 (slotsOf (w.setWidth 32))
    match x.fault with
    | some (c, a) => s.engFault r c (BitVec.ofNat 48 a)
    | none =>
      match res with
      | .spoison p => s.engFault r 6 (BitVec.ofNat 48 p)
      | .ok u ws ov out => s.setEng r.key (u.finish v w ws ov out x (rpt v) (branch v))
      | _ => s

/-- The next instruction of an engine issues. `word` is the word that the command names: only the word that stands at the PC
issues; a poisoned or illegal one faults. -/
def State.issueWith (s : State) (r : EngRef) (word : W64) (rpt : EngSt → Nat) (branch : EngSt → Option (BitVec 10))
    (op : EngSt → EngSt → OpRes) : State :=
  if ¬s.engClock r.die.val r.g then s
  else
    let s := s.setEng r.key (s.eng r.key).wake
    if (s.eng r.key).run ≠ .running then s
    else if (s.eng r.key).faultPend ≠ [] then s.takeFaults r
    else
      let here : BitVec 48 := (s.eng r.key).pc.setWidth 48
      let (t, fetched) := s.engFetch r
      match fetched with
      | none => t.engFault r 2 here
      | some w =>
        if ¬wordLegal w ∨ t.wordBarred (t.eng r.key) w then t.engFault r 1 here
        else if w ≠ word then s
        else t.runWord r (t.eng r.key) w rpt branch op

/-- An instruction that is neither a repeat nor a branch. -/
def State.issue (s : State) (r : EngRef) (word : W64) (op : EngSt → EngSt → OpRes) : State :=
  s.issueWith r word (fun _ => 0) (fun _ => none) op

/-! ## Stream ports (R253 to R256) -/

/-- STREAM_TRANSFER at port 0 SIN0, 1 SIN1, 2 SOUT0, 3 SOUT1. -/
def State.stream (s : State) (r : EngRef) (port : Nat) (w : W64) (poison : Bool) : State :=
  if ¬s.engClock r.die.val r.g then s
  else
    let v := s.eng r.key
    match port with
    | 0 => if v.sin0.length < 4 then s.setEng r.key { v with sin0 := v.sin0 ++ [(w, poison)] } else s
    | 1 => if v.sin1.length < 4 then s.setEng r.key { v with sin1 := v.sin1 ++ [(w, poison)] } else s
    | 2 =>
      match v.sout0 with
      | [] => s
      | x :: rest => (s.setEng r.key { v with sout0 := rest }).emit (.stream r.key 0 x)
    | _ =>
      match v.sout1 with
      | [] => s
      | x :: rest => (s.setEng r.key { v with sout1 := rest }).emit (.stream r.key 1 x)

/-! ## The group port (R265 to R269) -/

/-- The engines that an address names: engine e, or those of SEG_BCAST for 15 (R265). -/
def State.portEngines (s : State) (d g a : Nat) (bcast : Bool) : List Nat :=
  let e := natBits a 19 16
  if e < 12 then [e]
  else if e = 15 ∧ bcast then (List.range 12).filter fun e => natBit (s.fld (Fld.SEG_BCAST_MASK d g)) e
  else []

/-- An address of the group port's map, for `n` words: memory and first word (R265). -/
def portWord (a n : Nat) (bcast : Bool) : Option (Nat × Nat) :=
  let e := natBits a 19 16
  let m := natBits a 15 14
  if a / 2 ^ 20 ≠ 0 ∨ (12 ≤ e ∧ ¬(e = 15 ∧ bcast)) ∨ m = 3 ∨ natBit a 13 ∨ a % 8 ≠ 0 ∨ 1024 < natBits a 12 3 + n then none
  else some (m, natBits a 12 3)

/-- A RDNC or WRNC at a group port (R265 to R268). -/
def State.groupMem (s : State) (n : Nat) (x : Delivered) : State :=
  let p := x.pkt
  let d := x.ep.die.toNat
  let g := s.groupOf x.ep
  let a := p.addr.toNat
  let s := s.take n
  if p.cmd = 8 then
    match portWord a (4 * (p.spec.toNat % 32)) false with
    | none => s.send x.ep (rspErr p 2)
    | some (m, w) =>
      let (s, ws) := s.segWords d g (natBits a 19 16) m w (4 * (p.spec.toNat % 32))
      s.send x.ep (rspData p (mkFlits ws))
  else
    match portWord a (4 * p.len.toNat) true with
    | none => s.send x.ep (rspErr p 2)
    | some (m, w) =>
      let es := s.portEngines d g a true
      if m = 0 ∧ es.any (fun e => (s.eng (12 * (192 * d + g) + e)).run ≠ .halted) then s.send x.ep (rspErr p 9)
      else
        let s := es.foldl (fun (t : State) e =>
          let k := 12 * (192 * d + g) + e
          t.setEng k ((t.eng k).storeWords m w (flitWords p.data))) s
        s.send x.ep (rspAck p)

/-- OR bells into an engine's DBELL (R269). -/
def State.ring (s : State) (k : Nat) (bells : Word) : State :=
  let v := s.eng k
  s.setEng k { v with dbell := v.dbell ||| bells }

/-- A DB at a group port: any address of the map names its engine (R265, R269). -/
def State.groupBell (s : State) (n : Nat) (x : Delivered) : State :=
  let p := x.pkt
  let d := x.ep.die.toNat
  let g := s.groupOf x.ep
  let a := p.addr.toNat
  let e := natBits a 19 16
  let s := s.take n
  if a / 2 ^ 20 ≠ 0 ∨ (12 ≤ e ∧ e ≠ 15) ∨ natBits a 15 14 = 3 ∨ natBit a 13 then s.send x.ep (rspErr p 2)
  else
    let s := (s.portEngines d g a true).foldl (fun (t : State) e => t.ring (12 * (192 * d + g) + e) (p.spec.setWidth 32)) s
    s.send x.ep (rspAck p)

/-- A group port serves one request; every other command is answered BUSERR (R265). -/
def State.groupServe (s : State) (n : Nat) (x : Delivered) : State :=
  if x.pkt.cmd = 8 ∨ x.pkt.cmd = 9 then s.groupMem n x
  else if x.pkt.cmd = 0x10 then s.groupBell n x
  else (s.take n).send x.ep (rspErr x.pkt 2)

/-! ## Ring commands (R270, R301 to R304) -/

/-- The TAG of a command (R270). -/
def engTag (e : Nat) (seq : BitVec 8) : BitVec 12 := BitVec.ofNat 12 (256 * e + seq.toNat)

/-- The packet of a ring command; local words are read when it is sent (R301 to R303). -/
def State.ringPacket (s : State) (r : EngRef) (q : RingOut) : State × Packet :=
  let src := s.groupEp r.die.val r.g
  let m := if q.mem then 2 else 1
  let words := fun (s : State) (n : Nat) => s.segWords r.die.val r.g r.eng.val m q.loc.toNat n
  let dst := epOfBits q.dst
  let mk := fun (cmd gran spec : Nat) (d : List Flit) => mkPacket cmd 0 0 dst src q.tag q.addr 0 gran spec d
  match q.rc with
  | 0 => (s, mk 1 0xFF 0 [])
  | 1 =>
    let (s, ws) := words s 8
    (s, mk 3 0xFF 0 (mkFlits ws))
  | 2 => (s, mk 8 0xFF q.len [])
  | 3 =>
    let (s, ws) := words s (4 * q.len)
    (s, mk 9 0xFF 0 (mkFlits ws))
  | 4 => (s, mk 0x10 0 q.bells.toNat [])
  | _ =>
    let (s, ws) := words s 2
    (s, mk 5 (2 ^ natBits q.addr.toNat 5 3) q.atop (mkFlits ws))

/-- The commands of an engine without the RFENCEs that every earlier command has met (R304). -/
def unfenced (l : List RingOut) : List RingOut := l.dropWhile fun q => q.rc = 6

/-- The place of the oldest command that may go to the port: not yet sent, and before every RFENCE (R304). -/
def EngSt.nextCmd (v : EngSt) : Option Nat := (v.ring.takeWhile fun q => q.rc ≠ 6).findIdx? fun q => !q.sent

/-- The port takes the next command of an engine; none if there is none or the port cannot take it (R270). -/
def State.engSend (s : State) (r : EngRef) : Option State :=
  match (s.eng r.key).nextCmd with
  | none => none
  | some i =>
    match (s.eng r.key).ring[i]? with
    | none => none
    | some q =>
      let sent := fun (s : State) => s.setEng r.key { s.eng r.key with ring := listSet (s.eng r.key).ring i { q with sent := true } }
      let (t, p) := s.ringPacket r q
      match t.inject (t.groupEp r.die.val r.g) p (.engine r.key) with
      | .done t => some (sent t)
      | .answer t a => some (sent { t with engRsp := t.engRsp ++ [(r.key, a)] })
      | .wait => none

/-- One turn of a group port: the first of the engines `es` that has a command for it. The next turn begins after that engine. -/
def State.groupTurn (s : State) (d : Fin 4) (g : Fin 192) (es : List (Fin 12)) : Option State :=
  match es with
  | [] => none
  | e :: rest =>
    match s.engSend { die := d, grp := g, eng := e } with
    | some t => some { t with grpNext := SMap.put 0 t.grpNext (192 * d.val + g.val) ((e.val + 1) % 12) }
    | none => s.groupTurn d g rest

/-- The engines of a group in the order of the port's next turn (R270). -/
def State.turnOrder (s : State) (k : Nat) : List (Fin 12) :=
  let n := SMap.get 0 s.grpNext k
  (List.finRange 12).drop n ++ (List.finRange 12).take n

/-- Turns of a group port, as many as commands may go. -/
def State.groupTurns (s : State) (d : Fin 4) (g : Fin 192) (fuel : Nat) : State :=
  match fuel with
  | 0 => s
  | n + 1 =>
    match s.groupTurn d g (s.turnOrder (192 * d.val + g.val)) with
    | some t => t.groupTurns d g n
    | none => s

/-- Commands that the engines of a group have at its port. -/
def State.groupCmds (s : State) (d : Fin 4) (g : Fin 192) : Nat :=
  (List.finRange 12).foldl (fun n e => n + (s.eng (EngRef.key { die := d, grp := g, eng := e })).ring.length) 0

/-- A group port serves its engines round-robin, one command each turn, while it can take one (R270). -/
def State.groupPump (s : State) (d : Fin 4) (g : Fin 192) : State := s.groupTurns d g (s.groupCmds d g)

/-- The group port of an engine sends what it may. -/
def State.ringPump (s : State) (r : EngRef) : State := s.groupPump r.die r.grp

/-- Room in the response pool of a router frees: its group ports send what they may (R270, R341). -/
def State.routerPump (s : State) (e : Ep) : State :=
  if h : e.die.toNat < 4 then
    [4, 5, 6].foldl (fun (t : State) (p : Nat) =>
      let q : Ep := { e with p := BitVec.ofNat 4 p }
      if portKind q = .group ∧ t.groupOf q < 192 then
        t.groupPump ⟨e.die.toNat, h⟩ ⟨t.groupOf q % 192, Nat.mod_lt _ (by decide)⟩
      else t) s
  else s

/-- Every group port at which commands wait sends what it may: slots of a pool, or its region, have come free (R270, R336). -/
def State.portsPump (s : State) : State :=
  ((s.engines.filter fun e => e.2.ring.any fun q => !q.sent).map fun e => e.1 / 12).eraseDups.foldl (fun (t : State) k =>
    if h : k / 192 < 4 then t.groupPump ⟨k / 192, h⟩ ⟨k % 192, Nat.mod_lt _ (by decide)⟩ else t) s

/-- A ring command enters the list of the engine's commands; an RFENCE that nothing precedes is complete (R304). -/
def EngSt.enqueue (v : EngSt) (e : Nat) (q : RingOut) : EngSt :=
  if q.rc = 6 then { v with ring := unfenced (v.ring ++ [q]) }
  else { v with ring := v.ring ++ [{ q with tag := engTag e v.seq }], seq := v.seq + 1 }

/-- Outstanding commands of an engine (R270, R304). -/
def EngSt.outstanding (v : EngSt) : Nat := (v.ring.filter fun q => q.rc ≠ 6).length

/-- The alignment that a ring command checks at run time is kept (R301). -/
def ringAligned (rc : Nat) (addr : BitVec 48) (sc : Word) : Bool :=
  match rc with
  | 0 => addr.toNat % 64 = 0 && sc.toNat % 8 = 0
  | 1 => addr.toNat % 64 = 0 && sc.toNat % 8 = 0
  | 2 => addr.toNat % 32 = 0 && sc.toNat % 4 = 0
  | 3 => addr.toNat % 32 = 0 && sc.toNat % 4 = 0
  | 5 => addr.toNat % 8 = 0
  | _ => true

/-- RING_COMMAND_COMPLETE: response `n` completes a command of its engine, whose clock runs (R228, R263, R270,
R303, R304). -/
def State.ringComplete (s : State) (n : Nat) : State :=
  match s.engRsp[n]? with
  | none => s
  | some (k, p) =>
    if h : k / 12 / 192 < 4 then
      if ¬s.engClock (k / 12 / 192) (k / 12 % 192) then s else
      let s : State := { s with engRsp := listDropAt s.engRsp n }
      let r : EngRef := ⟨⟨k / 12 / 192, h⟩, ⟨k / 12 % 192, Nat.mod_lt _ (by decide)⟩, ⟨k % 12, Nat.mod_lt _ (by decide)⟩⟩
      let v := s.eng k
      match v.ring.findIdx? fun q => q.rc ≠ 6 && q.sent && q.tag = p.tag with
      | none => s
      | some i =>
        match v.ring[i]? with
        | none => s
        | some q =>
          let m := if q.mem then 2 else 1
          let ok := p.status.toNat = 0 ∨ p.status.toNat = 1
          let ws := (flitWords p.data).take (match q.rc with | 0 => 8 | 2 => 4 * q.len | 5 => 1 | _ => 0)
          let v := if ok then v.storeWords m q.loc.toNat ws else v
          let v := { v with ring := unfenced (listDropAt v.ring i), rcount := v.rcount + 1 }
          let s := s.setEng k v
          let s :=
            if ok then s
            else
              match v.run with
              | .halted => s.setEng k { v with faultPend := v.faultPend ++ [q.addr] }
              | _ => s.ringFault r q.addr
          s.ringPump r
    else s

end Sys2Proof.Machine
end

