-- ==== Sys2Proof/Machine/Crypto.lean ====
section
/-! DEFINITION. The public algorithms that the manual names: AES-256 (FIPS 197), GHASH and GCM (NIST SP 800-38D), SHA-256
(FIPS 180-4) (R462, R463, R466, R523, R551, R553, R618). Blocks are byte lists, first byte first; key and block numbers are
big-endian, bit 127 of a block being the first bit of its first byte. -/

namespace Sys2Proof.Machine

/-! ## AES-256 -/

/-- The S-box of AES. -/
def aesSbox : List Nat :=
  [0x63, 0x7C, 0x77, 0x7B, 0xF2, 0x6B, 0x6F, 0xC5, 0x30, 0x01, 0x67, 0x2B, 0xFE, 0xD7, 0xAB, 0x76,
   0xCA, 0x82, 0xC9, 0x7D, 0xFA, 0x59, 0x47, 0xF0, 0xAD, 0xD4, 0xA2, 0xAF, 0x9C, 0xA4, 0x72, 0xC0,
   0xB7, 0xFD, 0x93, 0x26, 0x36, 0x3F, 0xF7, 0xCC, 0x34, 0xA5, 0xE5, 0xF1, 0x71, 0xD8, 0x31, 0x15,
   0x04, 0xC7, 0x23, 0xC3, 0x18, 0x96, 0x05, 0x9A, 0x07, 0x12, 0x80, 0xE2, 0xEB, 0x27, 0xB2, 0x75,
   0x09, 0x83, 0x2C, 0x1A, 0x1B, 0x6E, 0x5A, 0xA0, 0x52, 0x3B, 0xD6, 0xB3, 0x29, 0xE3, 0x2F, 0x84,
   0x53, 0xD1, 0x00, 0xED, 0x20, 0xFC, 0xB1, 0x5B, 0x6A, 0xCB, 0xBE, 0x39, 0x4A, 0x4C, 0x58, 0xCF,
   0xD0, 0xEF, 0xAA, 0xFB, 0x43, 0x4D, 0x33, 0x85, 0x45, 0xF9, 0x02, 0x7F, 0x50, 0x3C, 0x9F, 0xA8,
   0x51, 0xA3, 0x40, 0x8F, 0x92, 0x9D, 0x38, 0xF5, 0xBC, 0xB6, 0xDA, 0x21, 0x10, 0xFF, 0xF3, 0xD2,
   0xCD, 0x0C, 0x13, 0xEC, 0x5F, 0x97, 0x44, 0x17, 0xC4, 0xA7, 0x7E, 0x3D, 0x64, 0x5D, 0x19, 0x73,
   0x60, 0x81, 0x4F, 0xDC, 0x22, 0x2A, 0x90, 0x88, 0x46, 0xEE, 0xB8, 0x14, 0xDE, 0x5E, 0x0B, 0xDB,
   0xE0, 0x32, 0x3A, 0x0A, 0x49, 0x06, 0x24, 0x5C, 0xC2, 0xD3, 0xAC, 0x62, 0x91, 0x95, 0xE4, 0x79,
   0xE7, 0xC8, 0x37, 0x6D, 0x8D, 0xD5, 0x4E, 0xA9, 0x6C, 0x56, 0xF4, 0xEA, 0x65, 0x7A, 0xAE, 0x08,
   0xBA, 0x78, 0x25, 0x2E, 0x1C, 0xA6, 0xB4, 0xC6, 0xE8, 0xDD, 0x74, 0x1F, 0x4B, 0xBD, 0x8B, 0x8A,
   0x70, 0x3E, 0xB5, 0x66, 0x48, 0x03, 0xF6, 0x0E, 0x61, 0x35, 0x57, 0xB9, 0x86, 0xC1, 0x1D, 0x9E,
   0xE1, 0xF8, 0x98, 0x11, 0x69, 0xD9, 0x8E, 0x94, 0x9B, 0x1E, 0x87, 0xE9, 0xCE, 0x55, 0x28, 0xDF,
   0x8C, 0xA1, 0x89, 0x0D, 0xBF, 0xE6, 0x42, 0x68, 0x41, 0x99, 0x2D, 0x0F, 0xB0, 0x54, 0xBB, 0x16]

/-- SubBytes of one byte. -/
def aesSub (b : Nat) : Nat := aesSbox.getD b 0

/-- Multiplication by x in the field of AES. -/
def aesX (b : Nat) : Nat := if b < 128 then 2 * b else (2 * b - 256) ^^^ 0x1B

/-- One word of the key schedule: `i` is its index, `prev` the word before, `back` the word eight before. -/
def aesKeyWord (i : Nat) (rcon : Nat) (prev back : List Nat) : List Nat :=
  let t := if i % 8 = 0 then
      match prev with
      | a :: r => match (r ++ [a]).map aesSub with
        | x :: y => (x ^^^ rcon) :: y
        | [] => []
      | [] => []
    else if i % 8 = 4 then prev.map aesSub
    else prev
  List.zipWith (· ^^^ ·) t back

/-- Extend the key schedule by `n` words; the list holds the words so far, latest first. -/
def aesExpand (n i rcon : Nat) (ws : List (List Nat)) : List (List Nat) :=
  match n with
  | 0 => ws
  | k + 1 =>
    aesExpand k (i + 1) (if i % 8 = 0 then aesX rcon else rcon)
      (aesKeyWord i rcon (ws.getD 0 []) (ws.getD 7 []) :: ws)

/-- Split a list into pieces of four. -/
def fours (n : Nat) (l : List Nat) : List (List Nat) :=
  match n with
  | 0 => []
  | k + 1 => l.take 4 :: fours k (l.drop 4)

/-- The 60 words of the AES-256 key schedule, as 15 round keys of 16 bytes. -/
def aesRoundKeys (key : List Nat) : List (List Nat) :=
  let ws := (aesExpand 52 8 1 (fours 8 key).reverse).reverse
  (List.range 15).map fun r => ((List.range 4).flatMap fun c => ws.getD (4 * r + c) [])

/-- ShiftRows, on 16 bytes in column order. -/
def aesShift (s : List Nat) : List Nat :=
  (List.range 16).map fun i => s.getD ((i + 4 * (i % 4)) % 16) 0

/-- MixColumns of one column. -/
def aesMixCol (c : List Nat) : List Nat :=
  let a := fun i => c.getD (i % 4) 0
  (List.range 4).map fun i => aesX (a i) ^^^ (aesX (a (i + 1)) ^^^ a (i + 1)) ^^^ a (i + 2) ^^^ a (i + 3)

/-- MixColumns. -/
def aesMix (s : List Nat) : List Nat := (fours 4 s).flatMap aesMixCol

/-- The rounds after the first key addition. -/
def aesRounds (keys : List (List Nat)) (s : List Nat) : List Nat :=
  match keys with
  | [] => s
  | [k] => List.zipWith (· ^^^ ·) (aesShift (s.map aesSub)) k
  | k :: rest => aesRounds rest (List.zipWith (· ^^^ ·) (aesMix (aesShift (s.map aesSub))) k)

/-- AES-256 of one block of 16 bytes. -/
def aesBytes (key block : List Nat) : List Nat :=
  match aesRoundKeys key with
  | [] => []
  | k0 :: rest => aesRounds rest (List.zipWith (· ^^^ ·) block k0)

/-- Bytes of a number, most significant first, as numbers. -/
def natBytesBE (n v : Nat) : List Nat := (bytesBE n v).map BitVec.toNat

/-- The number of a list of byte values, most significant first. -/
def natOfBE (l : List Nat) : Nat := l.foldl (fun a b => 256 * a + b) 0

/-- AES-256 on numbers: bit 127 is the first bit of the block, bit 255 the first bit of the key. -/
def aes256 (key : W256) (block : Nat) : Nat := natOfBE (aesBytes (natBytesBE 32 key.toNat) (natBytesBE 16 block))

/-! ## GHASH (SP 800-38D) -/

/-- Multiplication in GF(2^128) of GCM, bit by bit of `x` from its first bit. -/
def gfMul (n : Nat) (x v z : Nat) : Nat :=
  match n with
  | 0 => z
  | k + 1 =>
    let z' := if natBit x k then z ^^^ v else z
    let v' := if natBit v 0 then (v / 2) ^^^ (0xE1 * 2 ^ 120) else v / 2
    gfMul k x v' z'

/-- GHASH of a list of 128-bit blocks under subkey `h`. -/
def ghash (h : Nat) (blocks : List Nat) : Nat :=
  blocks.foldl (fun y b => gfMul 128 (y ^^^ b) h 0) 0

/-- 128-bit blocks of bytes, the last one padded with zeros. -/
def blocks16 (n : Nat) (bs : List Byte) : List Nat :=
  match n with
  | 0 => []
  | k + 1 => if bs.isEmpty then [] else
      natBE (bs.take 16 ++ List.replicate (16 - (bs.take 16).length) 0) :: blocks16 k (bs.drop 16)

/-- Blocks of a byte list of any length. -/
def toBlocks (bs : List Byte) : List Nat := blocks16 (bs.length / 16 + 1) bs

/-- The keystream of GCM over `n` blocks from counter `c`. -/
def gcmStream (key : W256) (iv : Nat) (n c : Nat) : List Byte :=
  match n with
  | 0 => []
  | k + 1 => bytesBE 16 (aes256 key (iv * 2 ^ 32 + c)) ++ gcmStream key iv k (c + 1)

/-- GCM encryption or decryption of data under a 96-bit nonce. -/
def gcmCrypt (key : W256) (iv : Nat) (bs : List Byte) : List Byte :=
  List.zipWith (· ^^^ ·) bs (gcmStream key iv (bs.length / 16 + 1) 2)

/-- The GCM tag of ciphertext and associated data, 128 bits. -/
def gcmTag (key : W256) (iv : Nat) (aad ct : List Byte) : Nat :=
  let h := aes256 key 0
  let l := aad.length * 8 * 2 ^ 64 + ct.length * 8
  ghash h ((if aad.isEmpty then [] else toBlocks aad) ++ (if ct.isEmpty then [] else toBlocks ct) ++ [l])
    ^^^ aes256 key (iv * 2 ^ 32 + 1)

/-! ## SHA-256 -/

/-- The round constants of SHA-256. -/
def shaK : List Nat :=
  [0x428A2F98, 0x71374491, 0xB5C0FBCF, 0xE9B5DBA5, 0x3956C25B, 0x59F111F1, 0x923F82A4, 0xAB1C5ED5,
   0xD807AA98, 0x12835B01, 0x243185BE, 0x550C7DC3, 0x72BE5D74, 0x80DEB1FE, 0x9BDC06A7, 0xC19BF174,
   0xE49B69C1, 0xEFBE4786, 0x0FC19DC6, 0x240CA1CC, 0x2DE92C6F, 0x4A7484AA, 0x5CB0A9DC, 0x76F988DA,
   0x983E5152, 0xA831C66D, 0xB00327C8, 0xBF597FC7, 0xC6E00BF3, 0xD5A79147, 0x06CA6351, 0x14292967,
   0x27B70A85, 0x2E1B2138, 0x4D2C6DFC, 0x53380D13, 0x650A7354, 0x766A0ABB, 0x81C2C92E, 0x92722C85,
   0xA2BFE8A1, 0xA81A664B, 0xC24B8B70, 0xC76C51A3, 0xD192E819, 0xD6990624, 0xF40E3585, 0x106AA070,
   0x19A4C116, 0x1E376C08, 0x2748774C, 0x34B0BCB5, 0x391C0CB3, 0x4ED8AA4A, 0x5B9CCA4F, 0x682E6FF3,
   0x748F82EE, 0x78A5636F, 0x84C87814, 0x8CC70208, 0x90BEFFFA, 0xA4506CEB, 0xBEF9A3F7, 0xC67178F2]

/-- The initial hash value of SHA-256. -/
def shaInit : List Nat :=
  [0x6A09E667, 0xBB67AE85, 0x3C6EF372, 0xA54FF53A, 0x510E527F, 0x9B05688C, 0x1F83D9AB, 0x5BE0CD19]

/-- Rotate a 32-bit number right. -/
def rotr (n v : Nat) : Nat := (v / 2 ^ n) ||| ((v * 2 ^ (32 - n)) % 2 ^ 32)

/-- Extend the message schedule by `n` words; the list holds the words so far, latest first. -/
def shaExpand (n : Nat) (w : List Nat) : List Nat :=
  match n with
  | 0 => w
  | k + 1 =>
    let g := fun i => w.getD (i - 1) 0
    let s0 := rotr 7 (g 15) ^^^ rotr 18 (g 15) ^^^ (g 15 / 8)
    let s1 := rotr 17 (g 2) ^^^ rotr 19 (g 2) ^^^ (g 2 / 1024)
    shaExpand k (((g 16 + s0 + g 7 + s1) % 2 ^ 32) :: w)

/-- One round of SHA-256 on the eight working values. -/
def shaRound (v : List Nat) (kw : Nat) : List Nat :=
  let g := fun i => v.getD i 0
  let s1 := rotr 6 (g 4) ^^^ rotr 11 (g 4) ^^^ rotr 25 (g 4)
  let ch := (g 4 &&& g 5) ^^^ ((2 ^ 32 - 1 - g 4) &&& g 6)
  let t1 := (g 7 + s1 + ch + kw) % 2 ^ 32
  let s0 := rotr 2 (g 0) ^^^ rotr 13 (g 0) ^^^ rotr 22 (g 0)
  let mj := (g 0 &&& g 1) ^^^ (g 0 &&& g 2) ^^^ (g 1 &&& g 2)
  [(t1 + s0 + mj) % 2 ^ 32, g 0, g 1, g 2, (g 3 + t1) % 2 ^ 32, g 4, g 5, g 6]

/-- One block of 16 words. -/
def shaBlock (h : List Nat) (m : List Nat) : List Nat :=
  let w := (shaExpand 48 m.reverse).reverse
  List.zipWith (fun a b => (a + b) % 2 ^ 32) h ((List.zipWith (· + ·) w shaK).foldl shaRound h)

/-- Big-endian 32-bit words of bytes. -/
def words32 (n : Nat) (bs : List Byte) : List Nat :=
  match n with
  | 0 => []
  | k + 1 => if bs.isEmpty then [] else natBE (bs.take 4) :: words32 k (bs.drop 4)

/-- Blocks of 16 words. -/
def shaBlocks (n : Nat) (ws : List Nat) (h : List Nat) : List Nat :=
  match n with
  | 0 => h
  | k + 1 => if ws.isEmpty then h else shaBlocks k (ws.drop 16) (shaBlock h (ws.take 16))

/-- SHA-256 of a byte string, 32 bytes. -/
def sha256 (bs : List Byte) : List Byte :=
  let len := bs.length
  let pad := (119 - len % 64) % 64
  let m := bs ++ [0x80#8] ++ List.replicate pad 0#8 ++ bytesBE 8 (8 * len)
  (shaBlocks (m.length / 64 + 1) (words32 (m.length / 4 + 1) m) shaInit).flatMap (bytesBE 4)

end Sys2Proof.Machine
end

