-- ==== Sys2Proof/Machine/Obsidian.lean ====
section
/-! DEFINITION. DDR5 channels and the Obsidian engine below the home agents: line placement, codes and poison, protected
ranges, encryption, counters, broken entries, key slots (R444 to R480). -/

namespace Sys2Proof.Machine

/-! ## Placement (R448 to R450, R464, R465) -/

/-- The key of a stored line: channel and channel-local line. -/
def ddrKey (ch j : Nat) : Nat := ch * 2 ^ 32 + j

/-- Channel of a line number K (R448). -/
def chanOf (k : Nat) : Nat := fold3 k

/-- Channel-local line of a line number K (R448). -/
def localLine (k : Nat) : Nat := k / 8

/-- The line number K of a channel-local line: the low three bits make fold3(K) the channel. -/
def lineOfLocal (ch j : Nat) : Nat := 8 * j + ((fold3 (8 * j)) ^^^ ch)

/-- Lines of a channel (R450): none that can be reached where its RDIMM failed training. -/
def State.chanLines (s : State) (ch : Nat) : Nat :=
  if s.fld (Fld.DDR_STATUS_STATE ch) = 3 then 0 else s.fld (Fld.DDR_STATUS_GIB ch) * 2 ^ 24

/-- Lines of a channel that hold data (R450). -/
def State.dataLines (s : State) (ch : Nat) : Nat := 27 * s.chanLines ch / 32

/-- Line that holds the tag of line `j` (R450). -/
def State.tagLine (s : State) (ch j : Nat) : Nat := s.dataLines ch + j / 8

/-- Line of the counter block of page `p` (R450). -/
def State.ctrLine (s : State) (ch p : Nat) : Nat := s.dataLines ch + s.dataLines ch / 8 + p

/-- First line of the tree area (R450). -/
def State.treeStart (s : State) (ch : Nat) : Nat := s.dataLines ch + 9 * s.dataLines ch / 64

/-- Nodes of level `l` of a tree over `pages` pages (R465). -/
def nodesAt (pages l : Nat) : Nat := (pages + 8 ^ l - 1) / 8 ^ l

/-- The top level: the lowest with one node. SIZE has 22 bits, so a range has fewer than 8^9 pages and level 9 is enough (R465). -/
def topLevel (pages : Nat) : Nat := ((List.range 9).find? fun l => nodesAt pages l = 1).getD 9

/-- Nodes of levels 1 to the top (R465). -/
def treeNodes (pages : Nat) : Nat := ((List.range (topLevel pages)).map fun l => nodesAt pages (l + 1)).sum

/-- Line of node `n` of level `l` (R465). -/
def State.nodeLine (s : State) (r pages l n : Nat) : Nat :=
  (s.reg (Reg.OBS_RNG_TREE r)).toNat + ((List.range (l - 1)).map fun i => nodesAt pages (i + 1)).sum + n

/-! ## Stored lines (R446, R451 to R453) -/

/-- Record a corrected or uncorrectable read (R452). -/
def State.ddrEvent (s : State) (ch j : Nat) (unc : Bool) : State :=
  let s := s.bump (if unc then Fld.DDR_UECOUNT_COUNT ch else Fld.DDR_CECOUNT_COUNT ch)
  let s := s.logOnce (Fld.DDR_ERRLOG_A_VALID ch) fun s =>
    ((s.setFld (Fld.DDR_ERRLOG_A_UNCORR ch) (b2n unc)).setFld (Fld.DDR_ERRLOG_A_SUBCH ch) (j % 2)).setReg
      (Reg.DDR_ERRLOG_B ch) (BitVec.ofNat 32 j)
  s.raise (if unc then Fld.DDR_IRQ_STATUS_UE ch else Fld.DDR_IRQ_STATUS_CE ch)

/-- What a read of a stored line gives: its 64 bytes, or a poison cause; and whether it was corrected. -/
structure LineRead where
  data : BitVec 512
  poison : Option Nat
  corrected : Bool

/-- Read a stored line: corrected lines are written back; a line never written gives free data (R446, R451 to R453). -/
def State.ddrRead (s : State) (ch j : Nat) : State × LineRead :=
  match SMap.find s.ddr (ddrKey ch j) with
  | none =>
    let u : State := { s with free := s.free + 4 }
    let data : BitVec 512 := Config.freeW256 s.free ++ Config.freeW256 (s.free + 1)
    if Config.freeBool (s.free + 2) then (u.ddrEvent ch j true, { data := 0, poison := some 0, corrected := false })
    else if Config.freeBool (s.free + 3) then (u.ddrEvent ch j false, { data := data, poison := none, corrected := true })
    else (u, { data := data, poison := none, corrected := false })
  | some l =>
    match l.code with
    | .clean => (s, { data := l.data, poison := none, corrected := false })
    | .oneDevice =>
      ({ s with ddr := SMap.set s.ddr (ddrKey ch j) { l with code := .clean } }.ddrEvent ch j false,
       { data := l.data, poison := none, corrected := true })
    | .uncorrectable => (s.ddrEvent ch j true, { data := 0, poison := some 0, corrected := false })
    | .poison c => (s, { data := 0, poison := some c, corrected := false })

/-- Write a stored line. -/
def State.ddrWrite (s : State) (ch j : Nat) (l : DLine) : State := { s with ddr := SMap.set s.ddr (ddrKey ch j) l }

/-- The words of a line; a poisoned line delivers all eight poisoned (R451, R452). -/
def lineWords (r : LineRead) : List (W64 × Bool) :=
  match r.poison with
  | some _ => List.replicate 8 (0, true)
  | none => (List.range 8).map fun i => (r.data.extractLsb' (64 * i) 64, false)

/-- 512 bits of eight words, word 0 lowest. -/
def wordsLine (ws : List (W64 × Bool)) : BitVec 512 := BitVec.ofNat 512 (natLE (wordsBytes ws))

/-! ## Ranges and rights (R455 to R459) -/

/-- The classes of R455. -/
inductive Master where
  | fabric
  | host
  | dma (domain : Nat)
  | remote
  | debug
  deriving DecidableEq, Repr

/-- STATE of a range (R459). -/
def State.rngState (s : State) (r : Nat) : Nat := s.fld (Fld.OBS_RNG_STAT_STATE r)

/-- Range `r` covers line K (R458). -/
def State.rngCovers (s : State) (r k : Nat) : Bool :=
  let b := s.fld (Fld.OBS_RNG_BASE_BASE r) * 2 ^ 14
  b ≤ k && k < b + s.fld (Fld.OBS_RNG_SIZE_MIB r) * 2 ^ 14

/-- The range that line K lies in and that is not OFF. -/
def State.recordOf (s : State) (k : Nat) : Option Nat :=
  (List.range 64).find? fun r => s.rngState r ≠ 0 && s.rngCovers r k

/-- The range in ACTIVE, REKEY or BROKEN that line K lies in: only these protect their lines (R459). -/
def State.rangeOf (s : State) (k : Nat) : Option Nat :=
  (s.recordOf k).filter fun r => s.rngState r = 2 || s.rngState r = 3 || s.rngState r = 6

/-- The device is an LR9-2425 (R3, R10). -/
def State.is2425 (s : State) : Bool := s.fld Fld.HUB_IDENT_PART = 0x2425

/-- The right of a class in a range: 0 NONE, 1 CIPHER, 2 READ, 3 WRITE (R455 to R458). -/
def State.rightOf (s : State) (r : Nat) (m : Master) : Nat :=
  match m with
  | .fabric => s.fld (Fld.OBS_RNG_RIGHTS_FABRIC r)
  | .host => s.fld (Fld.OBS_RNG_RIGHTS_HOST r)
  | .remote => s.fld (Fld.OBS_RNG_RIGHTS_REMOTE r)
  | .debug => if s.is2425 then 0 else s.fld (Fld.OBS_RNG_RIGHTS_DEBUG r)
  | .dma d =>
    if natBit (s.fld (Fld.OBS_RNG_RIGHTS_DMADOM r)) d then s.fld (Fld.OBS_RNG_RIGHTS_DMA_GRANT r)
    else if s.is2425 then 0 else s.fld (Fld.OBS_RNG_RIGHTS_DMA_OTHER r)

/-- How a request uses a line. -/
inductive Use where
  | read
  | readNc
  | write
  deriving DecidableEq, Repr

/-- What the home agent's check of ranges and rights says (R456, R459, R476): go on plainly, go on with a raw read, refuse
with a status, or wait for the boundary block. -/
inductive RangeCheck where
  | plain
  | raw
  | refuse (status : Nat)
  | wait
  deriving DecidableEq, Repr

/-- Index of the 32 KiB block of line K within range `r` (R449, R476). -/
def State.blockOf (s : State) (r k : Nat) : Nat := (k - s.fld (Fld.OBS_RNG_BASE_BASE r) * 2 ^ 14) / 512

/-- The check of R455, R456, R459 and R476 for a request to line K. -/
def State.rangeCheck (s : State) (m : Master) (u : Use) (k : Nat) : RangeCheck :=
  match s.recordOf k with
  | none => .plain
  | some r =>
    let st := s.rngState r
    if st = 1 ∨ st = 4 ∨ st = 5 then .refuse 4
    else
      let right := s.rightOf r m
      match u with
      | .write =>
        if right < 3 then .refuse 6
        else if st = 6 then .refuse 6
        else if st = 3 ∧ s.blockOf r k = s.fld (Fld.OBS_RNG_STAT_BOUNDARY r) then .wait
        else .plain
      | .read =>
        if right < 2 then .refuse 6
        else if st = 3 ∧ s.blockOf r k = s.fld (Fld.OBS_RNG_STAT_BOUNDARY r) then .wait
        else .plain
      | .readNc =>
        if right = 0 then .refuse 6
        else if st = 3 ∧ s.blockOf r k = s.fld (Fld.OBS_RNG_STAT_BOUNDARY r) then .wait
        else if right = 1 then .raw
        else .plain

/-! ## Encryption and tags (R462, R463, R466) -/

/-- An AES input block of Obsidian (R462). -/
def obsBlock (domain field major minor b : Nat) : Nat :=
  domain * 2 ^ 126 + (field % 2 ^ 42) * 2 ^ 84 + (major % 2 ^ 56) * 2 ^ 28 + (minor % 2 ^ 7) * 2 ^ 21 + (b % 4) * 2 ^ 19

/-- The field of a tree mask: level, channel, range and node index (R462). -/
def treeField (l ch r n : Nat) : Nat := l * 2 ^ 38 + ch * 2 ^ 35 + r * 2 ^ 29 + n % 2 ^ 29

/-- Ciphertext or plaintext of the other, of the 64 bytes of line K under key and counters (R463). -/
def obsCrypt (key : W256) (k major minor : Nat) (bs : List Byte) : List Byte :=
  List.zipWith (· ^^^ ·) bs ((List.range 4).flatMap fun b => bytesBE 16 (aes256 key (obsBlock 0 k major minor b)))

/-- The 64-bit tag of a line's ciphertext (R463). -/
def obsTag (key : W256) (k major minor : Nat) (ct : List Byte) : W64 :=
  let h := aes256 key (obsBlock 3 0 0 0 0)
  BitVec.ofNat 64 ((ghash h (toBlocks ct ++ [512]) ^^^ aes256 key (obsBlock 1 k major minor 0)) / 2 ^ 64)

/-- The hash of a counter block or node under the range's tree key (R466). -/
def treeHash (kt : W256) (l ch r n : Nat) (bs : List Byte) : W64 :=
  let h := aes256 kt (obsBlock 3 0 0 0 0)
  BitVec.ofNat 64 ((ghash h (toBlocks bs ++ [512]) ^^^ aes256 kt (obsBlock 2 (treeField l ch r n) 0 0 0)) / 2 ^ 64)

/-- The 64 bytes of a counter block as stored (R464). -/
def CtrBlk.bytes (c : CtrBlk) : List Byte :=
  bytesLE 64 (c.major % 2 ^ 56 + ((List.range 64).foldl (fun n k => n + (SMap.get 0 c.minors k % 128) * 2 ^ (64 + 7 * k)) 0))

/-- The key in a slot. -/
def State.slotKey (s : State) (slot : Nat) : W256 := SMap.get 0 s.keys slot

/-- The key slot of a line: blocks below BOUNDARY of a REKEY are under NEXTKEY (R476). -/
def State.rangeKey (s : State) (r k : Nat) : W256 :=
  let slot := if s.rngState r = 3 ∧ s.blockOf r k < s.fld (Fld.OBS_RNG_STAT_BOUNDARY r) then s.fld (Fld.OBS_RNG_KEYS_NEXTKEY r)
    else s.fld (Fld.OBS_RNG_KEYS_KEY r)
  s.slotKey slot

/-- The counter block of page `p` in channel `ch`. -/
def State.ctrBlk (s : State) (ch p : Nat) : CtrBlk := SMap.get { major := 0, minors := [] } s.ctr (8 * p + ch)

/-- Pages of range `r` in each channel (R465). -/
def State.rngPages (s : State) (r : Nat) : Nat := 32 * s.fld (Fld.OBS_RNG_SIZE_MIB r)

/-- First page of range `r`. -/
def State.rngPage0 (s : State) (r : Nat) : Nat := s.fld (Fld.OBS_RNG_BASE_BASE r) * 32

/-- The counter cache with the entries that `p` names newer than the reserve's copies. -/
def dirtied (m : SMap ObsEntry) (p : ObsEntry → Bool) : SMap ObsEntry :=
  m.map fun e => if p e.2 then (e.1, { e.2 with dirty := true }) else e

/-- Replace a counter block; a change makes its entry in the counter cache dirty (R467). -/
def State.setCtr (s : State) (ch p : Nat) (c : CtrBlk) : State :=
  if s.ctrBlk ch p = c then s
  else
    { s with
      ctr := SMap.put { major := 0, minors := [] } s.ctr (8 * p + ch) c
      ocache := dirtied s.ocache fun e => e.level = 0 && e.chan = ch && s.rngPage0 e.range + e.index = p }

/-! ## The integrity tree (R465 to R467) -/

/-- Where the hash of block `n` of level `l` of range `r` in channel `ch` stands in `otree`. -/
def hashKey (r ch l n : Nat) : Nat := ((r * 8 + ch) * 16 + l) * 2 ^ 32 + n

/-- The 64 bytes of a node whose child `k` has hash `f k`, for `cnt` children; the words of children that the level below does not
have are 0 (DESIGN CHOICE, assumption 71). -/
def nodeBytes (cnt n : Nat) (f : Nat → W64) : List Byte :=
  (List.range 8).flatMap fun k => if 8 * n + k < cnt then bytesLE 8 (f (8 * n + k)).toNat else List.replicate 8 0

/-- The hash that INIT and RETIRE compute for block `n` of level `l`: every counter block below it is zero (R473). -/
def freshHash (kt : W256) (r ch pages l n : Nat) : W64 :=
  match l with
  | 0 => treeHash kt 0 ch r n (List.replicate 64 0)
  | l + 1 => treeHash kt (l + 1) ch r n (nodeBytes (nodesAt pages l) n (freshHash kt r ch pages l))

/-- The hash of a block that its parent holds, or of the top node that Obsidian keeps on-die as the root (R465, R466). -/
def State.heldHash (s : State) (r ch l n : Nat) : W64 :=
  match SMap.find s.otree (hashKey r ch l n) with
  | some h => h
  | none => freshHash (SMap.get 0 s.treeKey r) r ch (s.rngPages r) l n

/-- The 64 bytes of a counter block (level 0) or node (R464, R465). -/
def State.itemBytes (s : State) (r ch l n : Nat) : List Byte :=
  match l with
  | 0 => (s.ctrBlk ch (s.rngPage0 r + n)).bytes
  | l + 1 => nodeBytes (nodesAt (s.rngPages r) l) n (s.heldHash r ch l)

/-- The hash of the contents `bs` of a block (R466). -/
def State.itemHash (s : State) (r ch l n : Nat) (bs : List Byte) : W64 := treeHash (SMap.get 0 s.treeKey r) l ch r n bs

/-- Neither a block nor the hash that its parent holds has changed since INIT or RETIRE computed it: the two agree. -/
def State.itemFresh (s : State) (r ch l n : Nat) : Bool :=
  (SMap.find s.otree (hashKey r ch l n)).isNone &&
    match l with
    | 0 => decide (s.ctrBlk ch (s.rngPage0 r + n) = { major := 0, minors := [] })
    | l + 1 => (List.range 8).all fun k => (SMap.find s.otree (hashKey r ch l (8 * n + k))).isNone

/-- A block as stored agrees with its parent; one untouched since INIT does, and needs no computing. -/
def State.itemSound (s : State) (r ch l n : Nat) : Bool :=
  s.itemFresh r ch l n || decide (s.itemHash r ch l n (s.itemBytes r ch l n) = s.heldHash r ch l n)

/-- The channel-local line of a block (R450, R465). -/
def State.itemLine (s : State) (r ch l n : Nat) : Nat :=
  if l = 0 then s.ctrLine ch (s.rngPage0 r + n) else s.nodeLine r (s.rngPages r) l n

/-- The counter block that a line holds (R464). -/
def ctrOf (d : BitVec 512) : CtrBlk :=
  { major := d.toNat % 2 ^ 56
    minors := (List.range 64).foldl (fun m k => SMap.put 0 m k (d.toNat / 2 ^ (64 + 7 * k) % 128)) [] }

/-- A block takes the contents `d`. -/
def State.setItem (s : State) (r ch l n : Nat) (d : BitVec 512) : State :=
  match l with
  | 0 => { s with ctr := SMap.put { major := 0, minors := [] } s.ctr (8 * (s.rngPage0 r + n) + ch) (ctrOf d) }
  | l + 1 =>
    { s with otree := (List.range 8).foldl (fun m k =>
        if 8 * n + k < nodesAt (s.rngPages r) l then SMap.set m (hashKey r ch l (8 * n + k)) (d.extractLsb' (64 * k) 64) else m) s.otree }

/-- A block is written to the reserve and its hash to its parent. -/
def State.sealItem (s : State) (r ch l n : Nat) : State :=
  { s with
    metaErr := SMap.drop s.metaErr (ddrKey ch (s.itemLine r ch l n))
    otree := SMap.set s.otree (hashKey r ch l n) (s.itemHash r ch l n (s.itemBytes r ch l n)) }

/-- The entry of the counter cache that holds a block (R467). -/
def State.cached (s : State) (r ch l n : Nat) : Option (Nat × ObsEntry) :=
  s.ocache.find? fun e => e.2.range = r && e.2.chan = ch && e.2.level = l && e.2.index = n

/-! ## The device halt (R480, R596, R677 to R679) -/

/-- Registers that survive RESET_N, a halt and every start (R596, R675). -/
def retainedRegs : List Nat :=
  [Reg.CLK_LOSS, Reg.PWR_SUPPLY, Reg.PWR_RAILLOG, Reg.PWR_HALT_A, Reg.PWR_HALT_B]

/-- Record a halt and stop the device (R677, R678). The record keeps its first halt while VALID is 1 (R675); COUNT counts. -/
def State.halt (s : State) (cause detail chan sensor info : Nat) : State :=
  if ¬s.up then s
  else
    let s := (s.bump Fld.PWR_HALT_A_COUNT).logOnce Fld.PWR_HALT_A_VALID fun t =>
      let n := t.fld Fld.PWR_HALT_A_COUNT
      (t.setReg Reg.PWR_HALT_A (BitVec.ofNat 32
        (cause * 2 ^ 28 + detail * 2 ^ 26 + chan * 2 ^ 23 + sensor * 2 ^ 16 + n * 2 ^ 8))).setReg Reg.PWR_HALT_B (BitVec.ofNat 32 info)
    { s with phase := .halted }

/-! ## Metadata errors (R477 to R479) -/

/-- Log a metadata failure (R482). -/
def State.obsLog (s : State) (kind ch level r index : Nat) : State :=
  s.logOnce Fld.OBS_ERRLOG_A_VALID fun s =>
    ((((s.setFld Fld.OBS_ERRLOG_A_KIND kind).setFld Fld.OBS_ERRLOG_A_CHANNEL ch).setFld Fld.OBS_ERRLOG_A_LEVEL level).setFld
      Fld.OBS_ERRLOG_A_RANGE r).setReg Reg.OBS_ERRLOG_B (BitVec.ofNat 32 index)

/-- A metadata error was corrected (R477). -/
def State.metaCorrected (s : State) : State := (s.bump Fld.OBS_CNT_CORRECTED).raise Fld.OBS_IRQ_STATUS_CORR

/-- Open a broken entry, or put the range in BROKEN when all 16 are in use, which ends a REKEY (R478, R479, R482); an entry over no
line is not kept. -/
def State.openBroken (s : State) (b : Broken) : State :=
  let s := s.raise Fld.OBS_IRQ_STATUS_BROKEN
  if 16 ≤ s.broken.length then (s.setFld (Fld.OBS_RNG_STAT_STATE b.range) 6).setFld (Fld.OBS_RNG_STAT_BOUNDARY b.range) 0
  else if b.remain = 0 then s
  else { s with broken := s.broken ++ [b] }

/-- The blocks of level `i` that lie under block `n` of level `l`, or the one above it: first and number. -/
def treeSpan (pages l n i : Nat) : Nat × Nat :=
  if i ≤ l then (n * 8 ^ (l - i), min (8 ^ (l - i)) (nodesAt pages i - n * 8 ^ (l - i))) else (n / 8 ^ (i - l), 1)

/-- Obsidian rewrites every counter block under block `n` of level `l` with major counter `m` and minor counters 0, and recomputes every
node up to the root; none of these stays in the counter cache (R478). -/
def State.rebuild (s : State) (r ch l n m : Nat) : State :=
  let pages := s.rngPages r
  let p0 := s.rngPage0 r + n * 8 ^ l
  let cnt := (treeSpan pages l n 0).2
  let s : State := { s with
    ctr := (List.range cnt).foldl (fun t i => SMap.put { major := 0, minors := [] } t (8 * (p0 + i) + ch) { major := m, minors := [] })
      (SMap.dropIf s.ctr fun a => a % 8 = ch && (p0 ≤ a / 8 && a / 8 < p0 + cnt))
    ocache := s.ocache.filter fun e => !(e.2.range = r && e.2.chan = ch &&
      (let w := treeSpan pages l n e.2.level; w.1 ≤ e.2.index && e.2.index < w.1 + w.2)) }
  (List.range (topLevel pages + 1)).foldl (fun (t : State) i =>
    let w := treeSpan pages l n i
    (List.range w.2).foldl (fun (t : State) k => t.sealItem r ch i (w.1 + k)) t) s

/-- A counter block (level 0) or node `n` of level `l` has failed: everything below it restarts at MAXMAJOR + 1 with minor
counters 0 (R478). `slot` is the line of the counter cache where it failed there. -/
def State.failSubtree (s : State) (r ch l n : Nat) (slot : Option Nat) : State :=
  let p0 := s.rngPage0 r + n * 8 ^ l
  let cnt := (treeSpan (s.rngPages r) l n 0).2
  let m := SMap.get 0 s.maxMajor r + 1
  let s := { s with maxMajor := SMap.set s.maxMajor r m }.rebuild r ch l n m
  let s := match slot with
    | some w => s.obsLog 3 ch l r w
    | none => s.obsLog (if l = 0 then 0 else 1) ch l r (if l = 0 then p0 else n)
  s.openBroken { range := r, chan := ch, tag := false, lo := 64 * p0, hi := 64 * (p0 + cnt), remain := 64 * cnt, done := [] }

/-- The tags of a tag line become the words of `d`. -/
def State.setTags (s : State) (ch j : Nat) (d : BitVec 512) : State :=
  let j0 := j / 8 * 8
  { s with otag := (List.range 8).foldl (fun m i => SMap.put 0 m (ddrKey ch (j0 + i)) (d.extractLsb' (64 * i) 64)) s.otag }

/-- A tag line has failed: it is rewritten with zero tags (R478). -/
def State.failTags (s : State) (r ch j : Nat) : State :=
  let j0 := j / 8 * 8
  let live := (List.range 8).filter fun i => SMap.get 0 (s.ctrBlk ch ((j0 + i) / 64)).minors ((j0 + i) % 64) ≠ 0
  let s : State := { s.setTags ch j 0 with metaErr := SMap.drop s.metaErr (ddrKey ch (s.tagLine ch j)) }
  let s := s.obsLog 2 ch 0 r j0
  s.openBroken { range := r, chan := ch, tag := true, lo := j0, hi := j0 + 8, remain := live.length,
                 done := ((List.range 8).filter fun i => !live.contains i).map fun i => j0 + i }

/-- Read the tag line of line `j`; the answer says whether the code corrected it (R477, R478). -/
def State.tagLook (s : State) (r ch j : Nat) : State × Bool :=
  let line := s.tagLine ch j
  let key := ddrKey ch line
  let t : State := { s with metaErr := SMap.drop s.metaErr key }
  match SMap.find s.metaErr key with
  | none => (s, false)
  | some .correctable => ((t.ddrEvent ch line false).metaCorrected, true)
  | some (.miscorrected d) => (((t.setTags ch j d).ddrEvent ch line false).metaCorrected, true)
  | some .uncorrectable => ((t.ddrEvent ch line true).failTags r ch j, false)
  | some (.altered d) => (t.setTags ch j d, false)

/-! ## The counter cache (R467, R477, R478, R480) -/

/-- Read a block from the reserve and verify it against its parent, which is trusted: a clean block that does not match halts the
device, an uncorrectable one and one that does not match after a correction open a broken entry. -/
def State.obsVerify (s : State) (r ch l n : Nat) : State :=
  let line := s.itemLine r ch l n
  let key := ddrKey ch line
  let t : State := { s with metaErr := SMap.drop s.metaErr key }
  let halts := fun (u : State) => u.halt 1 (if l = 0 then 1 else 2) ch 0 line
  let agrees := fun (d : BitVec 512) => decide (s.itemHash r ch l n (bytesLE 64 d.toNat) = s.heldHash r ch l n)
  match SMap.find s.metaErr key with
  | none => if s.itemSound r ch l n then s else halts s
  | some .correctable =>
    let t := (t.ddrEvent ch line false).metaCorrected
    if s.itemSound r ch l n then t else t.failSubtree r ch l n none
  | some (.miscorrected d) =>
    let t := (t.ddrEvent ch line false).metaCorrected
    if agrees d then t.setItem r ch l n d else t.failSubtree r ch l n none
  | some .uncorrectable => (t.ddrEvent ch line true).failSubtree r ch l n none
  | some (.altered d) => if agrees d then t.setItem r ch l n d else halts t

/-- The levels above `l` that stand between block `n` and the first ancestor in the counter cache or the root. -/
def State.missing (s : State) (r ch lo l n : Nat) : List Nat :=
  ((List.range (topLevel (s.rngPages r) + 1)).drop lo).takeWhile fun i => (s.cached r ch i (n / 8 ^ (i - l))).isNone

/-- A dirty entry is written to the reserve and its hash to its parent, which is fetched if it is not in the counter cache: then the
change goes on up to the first ancestor that is, or to the root. -/
def State.obsWriteBack (s : State) (r ch l n : Nat) : State :=
  let up := s.missing r ch (l + 1) l n
  let s := up.reverse.foldl (fun (t : State) i => if t.phase = .halted then t else t.obsVerify r ch i (n / 8 ^ (i - l))) s
  if s.phase = .halted then s
  else
    let s := (l :: up).foldl (fun (t : State) i => t.sealItem r ch i (n / 8 ^ (i - l))) s
    let a := l + 1 + up.length
    { s with ocache := dirtied s.ocache fun e => e.range = r && e.chan = ch && e.level = a && e.index = n / 8 ^ (a - l) }

/-- Line `w` of the counter cache is emptied: a clean entry goes, a dirty one is written back, one that its code cannot correct fails. -/
def State.obsEvict (s : State) (w : Nat) : State :=
  match SMap.find s.ocache w with
  | none => s
  | some e =>
    let s : State := { s with ocache := SMap.drop s.ocache w }
    if ¬e.dirty then s
    else
      match e.err with
      | some true => s.failSubtree e.range e.chan e.level e.index (some w)
      | some false => s.metaCorrected.obsWriteBack e.range e.chan e.level e.index
      | none => s.obsWriteBack e.range e.chan e.level e.index

/-- Fill a block into the counter cache: verified, and placed in the first free of the 16 ways of its set, or in place of the entry that a
free value names (R467). -/
def State.obsFill (s : State) (r ch l n : Nat) : State :=
  let s := s.obsVerify r ch l n
  if s.phase = .halted then s
  else
    let w0 := 16 * (Config.obsSet (ddrKey ch (s.itemLine r ch l n)) % 16384)
    let e : ObsEntry := { range := r, chan := ch, level := l, index := n, dirty := false, err := none }
    match (List.range 16).find? fun w => (SMap.find s.ocache (w0 + w)).isNone with
    | some w => { s with ocache := SMap.set s.ocache (w0 + w) e }
    | none =>
      let w := w0 + Config.obsVictim s.free % 16
      let s := { s with free := s.free + 1 }.obsEvict w
      if s.phase = .halted then s else { s with ocache := SMap.set s.ocache w e }

/-- Use an entry of the counter cache: its code corrects it, or it fails (R477, R478). -/
def State.obsHit (s : State) (w : Nat) (e : ObsEntry) : State :=
  match e.err with
  | none => s
  | some false => { s with ocache := SMap.set s.ocache w { e with err := none } }.metaCorrected
  | some true => { s with ocache := SMap.drop s.ocache w }.failSubtree e.range e.chan e.level e.index (some w)

/-- An access to page `p`: a counter block in the cache is trusted; otherwise each missing level is filled in turn, from the one whose
parent is in the cache or on-die (R467). -/
def State.verifyPath (s : State) (r ch p : Nat) : State :=
  let i0 := p - s.rngPage0 r
  let miss := s.missing r ch 0 0 i0
  let l := miss.length
  let s := match s.cached r ch l (i0 / 8 ^ l) with
    | some (w, e) => s.obsHit w e
    | none => s
  miss.reverse.foldl (fun (t : State) i => if t.phase = .halted then t else t.obsFill r ch i (i0 / 8 ^ i)) s

/-- The line is covered by a broken entry of the given kind and has not been written since. -/
def State.isBroken (s : State) (ch j : Nat) (tag : Bool) : Bool :=
  s.broken.any fun b => b.chan = ch && b.tag = tag && b.lo ≤ j && j < b.hi && !b.done.contains j

/-- A write of a covered line: REMAIN falls the first time, and the entry frees at 0 (R478). -/
def State.reseal (s : State) (ch j : Nat) : State :=
  { s with broken := (s.broken.map fun b =>
      if b.chan = ch ∧ b.lo ≤ j ∧ j < b.hi ∧ ¬b.done.contains j then { b with remain := b.remain - 1, done := b.done ++ [j] }
      else b).filter fun b => b.remain ≠ 0 }

/-! ## Reads and writes of a line (R454, R463, R468 to R471) -/

/-- Read a protected line (R463, R469, R478 to R480): with minor counter 0 neither its tag line nor its data is read; a tag mismatch
halts the device, or poisons after a correction; metadata that fails may put the range in BROKEN, which delivers poison. -/
def State.protRead (s : State) (r k : Nat) : State × List (W64 × Bool) :=
  let ch := chanOf k
  let j := localLine k
  let dead := List.replicate 8 ((0 : W64), true)
  if s.rngState r = 6 then (s, dead)
  else
    let s := s.verifyPath r ch (j / 64)
    if s.phase = .halted then (s, dead)
    else
      let c := s.ctrBlk ch (j / 64)
      let m := SMap.get 0 c.minors (j % 64)
      if s.rngState r = 6 ∨ m = 0 ∨ s.isBroken ch j true then (s, dead)
      else
        let (s, mended) := s.tagLook r ch j
        if s.rngState r = 6 ∨ s.isBroken ch j true then (s, dead)
        else
          let (s, l) := s.ddrRead ch j
          match l.poison with
          | some _ => (s, dead)
          | none =>
            let ct := bytesLE 64 l.data.toNat
            let key := s.rangeKey r k
            if obsTag key k c.major m ct = SMap.get 0 s.otag (ddrKey ch j) then
              (s, (bytesWords 8 (obsCrypt key k c.major m ct)).map fun w => (w, false))
            else if l.corrected ∨ mended then (s.obsLog 4 ch 0 r j, dead)
            else (s.halt 1 0 ch 0 j, dead)

/-- Plaintext read of line K (R454). -/
def State.lineRead (s : State) (k : Nat) : State × List (W64 × Bool) :=
  match s.rangeOf k with
  | none => let (s, l) := s.ddrRead (chanOf k) (localLine k); (s, lineWords l)
  | some r => s.protRead r k

/-- Raw read of line K: the stored ciphertext, no tag check, poison still delivered (R454, R456). -/
def State.rawRead (s : State) (k : Nat) : State × List (W64 × Bool) :=
  match s.rangeOf k with
  | none => let (s, l) := s.ddrRead (chanOf k) (localLine k); (s, lineWords l)
  | some r =>
    let ch := chanOf k
    let j := localLine k
    if s.rngState r = 6 ∨ SMap.get 0 (s.ctrBlk ch (j / 64)).minors (j % 64) = 0 ∨ s.isBroken ch j true then (s, List.replicate 8 (0, true))
    else let (s, l) := s.ddrRead ch j; (s, lineWords l)

/-- Store a line under given counters: ciphertext, tag and minor counter together (R463, R468). -/
def State.sealLine (s : State) (r k : Nat) (key : W256) (c : CtrBlk) (minor : Nat) (pt : List Byte) : State :=
  let ch := chanOf k
  let j := localLine k
  let ct := obsCrypt key k c.major minor pt
  let s := s.ddrWrite ch j { data := BitVec.ofNat 512 (natLE ct), code := .clean }
  let s : State := { s with otag := SMap.put 0 s.otag (ddrKey ch j) (obsTag key k c.major minor ct),
                            maxMajor := SMap.put 0 s.maxMajor r (max (SMap.get 0 s.maxMajor r) c.major) }
  s.setCtr ch (j / 64) { c with minors := SMap.put 0 c.minors (j % 64) minor }

/-- Page re-encryption: every written line of the page moves to the next major counter (R470). -/
def State.reencrypt (s : State) (r ch p : Nat) (key oldKey : W256) (major : Nat) : State :=
  let old := s.ctrBlk ch p
  let start := s.setCtr ch p { major := major, minors := [] }
  let s := (List.range 64).foldl (fun (t : State) i =>
    let j := 64 * p + i
    let k := lineOfLocal ch j
    let m := SMap.get 0 old.minors i
    if m = 0 ∨ t.phase = .halted then t
    else
      let (t, mended) := t.tagLook r ch j
      let c := t.ctrBlk ch p
      let kept := fun (t : State) => t.setCtr ch p { c with minors := SMap.put 0 c.minors i 1 }
      let lost := fun (t : State) => kept (t.ddrWrite ch j { data := 0, code := .uncorrectable })
      if t.isBroken ch j true then lost t
      else
      let (t, l) := t.ddrRead ch j
      match l.poison with
      | some _ => kept t
      | none =>
        let ct := bytesLE 64 l.data.toNat
        if obsTag oldKey k old.major m ct ≠ SMap.get 0 t.otag (ddrKey ch j) then
          if l.corrected ∨ mended then lost (t.obsLog 4 ch 0 r j) else t.halt 1 0 ch 0 j
        else t.sealLine r k key c 1 (obsCrypt oldKey k old.major m ct)) start
  { s with maxMajor := SMap.put 0 s.maxMajor r (max (SMap.get 0 s.maxMajor r) major) }

/-- The line's next write would be refused (R471). -/
def State.exhausted (s : State) (k : Nat) : Bool :=
  match s.rangeOf k with
  | none => false
  | some _ =>
    let c := s.ctrBlk (chanOf k) (localLine k / 64)
    SMap.get 0 c.minors (localLine k % 64) = 127 && c.major = 2 ^ 56 - 1

/-- Note a refusal for exhausted counters (R471). -/
def State.noteExhausted (s : State) (k : Nat) : State :=
  match s.rangeOf k with
  | none => s
  | some r =>
    ((s.setFld (Fld.OBS_RNG_STAT_EXH r) 1).obsLog 5 (chanOf k) 0 r (localLine k)).raise Fld.OBS_IRQ_STATUS_EXH

/-- Write a whole line that has been granted: words, poison bits and the cause that poison is stored under (R451, R470,
R478). -/
def State.lineWrite (s : State) (k : Nat) (ws : List (W64 × Bool)) (cause : Nat) : State :=
  let ch := chanOf k
  let j := localLine k
  let bad := ws.any fun w => w.2
  let store := fun (t : State) => t.ddrWrite ch j { data := BitVec.ofNat 512 cause, code := .poison cause }
  match s.rangeOf k with
  | none => if bad then store s else s.ddrWrite ch j { data := wordsLine ws, code := .clean }
  | some r =>
    let s := s.verifyPath r ch (j / 64)
    if s.phase = .halted then s
    else
      let s := (s.tagLook r ch j).1
      let key := s.rangeKey r k
      let c := s.ctrBlk ch (j / 64)
      let m := SMap.get 0 c.minors (j % 64)
      let s := if m < 127 then s
        else (s.reencrypt r ch (j / 64) key key (c.major + 1)).bump Fld.OBS_CNT_OVERFLOWS
      if s.phase = .halted then s
      else
        let c := s.ctrBlk ch (j / 64)
        let m' := if m < 127 then m + 1 else 1
        let s := if bad then (store s).setCtr ch (j / 64) { c with minors := SMap.put 0 c.minors (j % 64) m' }
          else s.sealLine r k key c m' (wordsBytes ws)
        s.reseal ch j

/-! ## Patrol scrub (R447) -/

/-- What a line of the reserve holds of a protected range: the range, and the line's tags, or a counter block (level 0) or node. -/
inductive MetaItem where
  | tags (r j : Nat)
  | block (r l n : Nat)
  deriving DecidableEq, Repr

/-- The level and index of a node by its place in a range's tree (R465). -/
def nodeOf (pages : Nat) (place : Nat) : Nat × Nat :=
  let ends := (List.range (topLevel pages)).map fun l => ((List.range (l + 1)).map fun i => nodesAt pages (i + 1)).sum
  let l := (ends.takeWhile fun e => e ≤ place).length
  (l + 1, place - (ends.take l).getLastD 0)

/-- The metadata of a range that a line of the reserve holds (R450, R465). -/
def State.metaItem (s : State) (ch line : Nat) : Option MetaItem :=
  let u := s.dataLines ch
  if line < u + u / 8 then
    let j := 8 * (line - u)
    (s.rangeOf (lineOfLocal ch j)).map fun r => .tags r j
  else
    let on := (List.range 64).filter fun r => s.rngState r = 2 || s.rngState r = 3 || s.rngState r = 6
    if line < s.treeStart ch then
      let p := line - (u + u / 8)
      (on.find? fun r => s.rngPage0 r ≤ p && p < s.rngPage0 r + s.rngPages r).map fun r => .block r 0 (p - s.rngPage0 r)
    else
      (on.find? fun r => let b := s.fld (Fld.OBS_RNG_TREE_TREEBASE r); b ≤ line && line < b + treeNodes (s.rngPages r)).map fun r =>
        let w := nodeOf (s.rngPages r) (line - s.fld (Fld.OBS_RNG_TREE_TREEBASE r))
        .block r w.1 w.2

/-- The patrol reads a line of the reserve: a correctable error is corrected and counted, also as metadata of a range; an uncorrectable
one opens a broken entry, unless the counter cache holds the block (R447, R477, R478; DESIGN CHOICE, assumption 71). -/
def State.patrolMeta (s : State) (ch line : Nat) : State :=
  let key := ddrKey ch line
  let item := s.metaItem ch line
  let mend := fun (t : State) => if item.isSome then (t.ddrEvent ch line false).metaCorrected else t.ddrEvent ch line false
  match SMap.find s.metaErr key with
  | some .correctable => mend { s with metaErr := SMap.drop s.metaErr key }
  | some (.miscorrected d) => mend { s with metaErr := SMap.set s.metaErr key (.altered d) }
  | some .uncorrectable =>
    let t := s.ddrEvent ch line true
    match item with
    | none => t
    | some (.tags r j) => t.failTags r ch j
    | some (.block r l n) =>
      if (t.cached r ch l n).isSome then t else { t with metaErr := SMap.drop t.metaErr key }.failSubtree r ch l n none
  | _ => s

/-- PATROL_SCRUB: the next line of a channel is read, corrected and counted; `found` is what time has done to that line, in the data
area to its code or contents, in the reserve to metadata (R447, R452), and `cacheErr` an upset of a line of the counter cache, true
where its code cannot correct it (R467, R477). HOURS = 0 stops the scrubber. -/
def State.patrolScrub (s : State) (ch : Nat) (found : Option DLine) (metaFound : Option MetaErr) (cacheErr : Option (Nat × Bool)) :
    State :=
  let s : State := match cacheErr with
    | none => s
    | some (w, bad) =>
      { s with ocache := s.ocache.map fun e => if e.1 = w then (e.1, { e.2 with err := some bad }) else e }
  if s.fld (Fld.DDR_SCRUB_HOURS ch) = 0 ∨ s.chanLines ch = 0 ∨ ¬s.domOn (if ch < 4 then 7 else 8) then s
  else
    let j := SMap.get 0 s.patrol ch
    let s : State := { s with patrol := SMap.put 0 s.patrol ch ((j + 1) % s.chanLines ch) }
    if j < s.dataLines ch then
      let s := match found with
        | some l => s.ddrWrite ch j l
        | none => s
      (s.ddrRead ch j).1
    else
      let s : State := match metaFound with
        | some e => { s with metaErr := SMap.set s.metaErr (ddrKey ch j) e }
        | none => s
      s.patrolMeta ch j

/-! ## Key slots (R460, R461) -/

/-- References to a key slot: every range that is not OFF counts once for KEY and once for NEXTKEY, every encrypting Lode
port once for each (R461). -/
def State.keyRefs (s : State) (k : Nat) : Nat :=
  ((List.range 64).filter fun r => s.rngState r ≠ 0 && s.fld (Fld.OBS_RNG_KEYS_KEY r) = k).length
    + ((List.range 64).filter fun r => s.rngState r ≠ 0 && s.fld (Fld.OBS_RNG_KEYS_NEXTKEY r) = k).length
    + ((List.range 4).filter fun p => s.bit (Fld.LOD_CTRL_EN p) && s.bit (Fld.LOD_CTRL_ENC p) && s.fld (Fld.LOD_CTRL_KEY p) = k).length
    + ((List.range 4).filter fun p => s.bit (Fld.LOD_CTRL_EN p) && s.bit (Fld.LOD_CTRL_ENC p) && s.fld (Fld.LOD_CTRL_NEXTKEY p) = k).length

/-- The slot is LOADED. -/
def State.keyLoaded (s : State) (k : Nat) : Bool := s.fld (Fld.OBS_KEY_CTRL_STATE k) = 1

/-- A refused key operation (R461). -/
def State.keyRefuse (s : State) : State := s.setFld Fld.OBS_STATUS_KREFUSED 1

/-- Fill an empty slot and make the writer its owner (R461). -/
def State.keyFill (s : State) (k : Nat) (key : W256) (cls : Nat) (owner : Word) : State :=
  let s : State := { s with keys := SMap.put 0 s.keys k key }
  ((s.setFld (Fld.OBS_KEY_CTRL_STATE k) 1).setFld (Fld.OBS_KEY_CTRL_CLASS k) cls).setReg (Reg.OBS_KEY_OWNER k) owner

/-- KEY_GEN (R460, R461). -/
def State.keyGen (s : State) (k cls : Nat) (owner : Word) : State :=
  if s.keyLoaded k ∨ s.reg (Reg.OBS_KEY_OWNER k) = revokingId then s.keyRefuse
  else { s with free := s.free + 1 }.keyFill k (Config.freeW256 s.free) cls owner

/-- The key that OBS_KEYDATA0 to 7 hold (R460). The words are write-only: `data` keeps them. -/
def State.keyLoad (s : State) (k cls : Nat) (owner : Word) (key : W256) : State :=
  if s.keyLoaded k ∨ s.reg (Reg.OBS_KEY_OWNER k) = revokingId then s.keyRefuse else s.keyFill k key cls owner

/-- KEY_ZERO (R461). -/
def State.keyZero (s : State) (k : Nat) (owner : Word) : State :=
  let o := s.reg (Reg.OBS_KEY_OWNER k)
  if s.keyRefs k ≠ 0 ∨ ¬(o = 0 ∨ o = owner) then s.keyRefuse
  else
    let s : State := { s with keys := SMap.drop s.keys k }
    (s.setFld (Fld.OBS_KEY_CTRL_STATE k) 0).setReg (Reg.OBS_KEY_OWNER k) 0

end Sys2Proof.Machine
end

