-- ==== Sys2Proof/Machine/Wires.lean ====
section
/-! DEFINITION. Link epochs, maintenance packets, wire mode, bridge ports and capture buffers (R404 to R440). -/

namespace Sys2Proof.Machine

/-! ## Maintenance packets (R422, R423) -/

/-- LPARAM at a link end: the leaf end answers, with DENIED for wire mode on a bridge port; a hub end discards it. -/
def State.lparam (s : State) (n : Nat) : State :=
  match s.maint n 0x50 with
  | none => s
  | some m =>
    let s := s.dropMaint n
    if !s.maintOk m || !s.isLeaf m.at_ then s.maintMalformed m.at_
    else
      let wire : Bool := m.pkt.spec.getLsbD 8
      let bridge : Bool := match m.at_.link with
        | .bundle _ => false
        | _ => true
      let status := if wire && bridge then 6 else 0
      s.sendMaint m.at_ (mkPacket 0x51 3 0 (epOfBits 0) (epOfBits 0) 0 0 status 0 (m.pkt.spec.toNat % 512) []).finish

/-- LPARAM_ACK at a link end: a hub end discards and counts it, and so does a leaf end, which asked for nothing. -/
def State.lparamAck (s : State) (n : Nat) : State :=
  match s.maint n 0x51 with
  | none => s
  | some m => (s.dropMaint n).maintMalformed m.at_

/-- ECHO: answered with the same data and command-specific bits, at levels that have it (R421, R422). -/
def State.echo (s : State) (n : Nat) : State :=
  match s.maint n 0x52 with
  | none => s
  | some m =>
    let s := s.dropMaint n
    if !s.maintOk m then s.maintMalformed m.at_
    else
      let r := mkPacket 0x53 3 0 (epOfBits 0) (epOfBits 0) 0 0 0 0 m.pkt.spec.toNat m.pkt.data
      s.sendMaint m.at_ r.finish

/-- ECHO_RSP: in training a match lets the link become LIVE and a mismatch fails the attempt, as `fails` has it (R406, R408, R523). -/
def State.echoRsp (s : State) (n : Nat) (fails : State → LinkRef → State) : State :=
  match s.maint n 0x53 with
  | none => s
  | some m =>
    let s := s.dropMaint n
    if !s.maintOk m then s.maintMalformed m.at_
    else
      let k := s.link m.at_.link
      match k.echoSent with
      | none => s
      | some e =>
        if ¬k.training then s
        else if e.spec = m.pkt.spec ∧ e.data.map (fun f => f.data) = m.pkt.data.map (fun f => f.data) then
          s.setLink m.at_.link { k with echoOk := true, echoSent := none }
        else fails s m.at_.link

/-- RETRAIN from the leaf end (R409, R422); a leaf end that receives it discards it (R423). -/
def State.retrainMaint (s : State) (n : Nat) : State :=
  match s.maint n 0x54 with
  | none => s
  | some m =>
    let s := s.dropMaint n
    if !s.maintOk m || s.isLeaf m.at_ then s.maintMalformed m.at_ else s.retrain m.at_.link

/-- CAPTRIG: a trigger of a bridge port whose TRIG is 3 (R440). -/
def State.captrig (s : State) (n : Nat) : State :=
  match s.maint n 0x55 with
  | none => s
  | some m =>
    let s := s.dropMaint n
    if !s.maintOk m then s.maintMalformed m.at_
    else
      match m.at_.link with
      | .bridge k => if s.fld (Fld.STR_BP_CAPCTRL_TRIG k.val) = 3 then s.capTrigger k.val else s
      | _ => s

/-! ## Wire mode (R424 to R431) -/

/-- The registers of bundle strip `i`. -/
def State.strip (s : State) (i : Nat) : StripSt := SMap.get { tx := 0, edges := 0, sent := [], rx := 0 } s.strips i

/-- Replace them. -/
def State.setStrip (s : State) (i : Nat) (v : StripSt) : State :=
  { s with strips := SMap.put { tx := 0, edges := 0, sent := [], rx := 0 } s.strips i v }

/-- The wire clock of a bundle. -/
def State.bundleClock (s : State) (i : Fin 64) : Option Nat :=
  match s.wireClock (i.val / 16) (i.val % 16) with
  | some f => if [1, 2, 4, 5, 8, 10].contains f then some f else none
  | none => none

/-- FREQ of a pair: its wire clock, or 0 where that is not valid (R442). -/
def State.pairFreq (s : State) (k : Nat) : State :=
  s.setFld (Fld.STR_WPSTAT_FREQ k) ((s.bundleClock (wpairBundles (s.wireSt k).named).1).getD 0)

/-- A bundle is named in an enabled pair other than `k` (R425). -/
def State.namedElsewhere (s : State) (k i : Nat) : Bool :=
  (List.range 16).any fun j => j ≠ k && (s.wpState j = 1 || s.wpState j = 2 || s.wpState j = 4) && wpairNames (s.wireSt j).named i

/-- REASON of the refusal of a pair, 0 if it is accepted (R425). -/
def State.wpReason (s : State) (k : Nat) (v : Word) : Nat :=
  let (a, b) := wpairBundles v
  let dieOf := fun (i : Fin 64) => i.val / 16
  let mateBad := fun (i : Fin 64) => s.fld (Fld.STR_BSTAT_STATE (pairMate i).val) ≠ 2
  let half := fun (i : Fin 64) => s.bit (Fld.STR_BSTAT_UPHALF i.val) || s.bit (Fld.STR_BSTAT_DNHALF i.val)
  if dieOf a = dieOf b ∨ ¬s.dieOk (dieOf a) ∨ ¬s.dieOk (dieOf b) then 1
  else if mateBad a ∨ mateBad b then 2
  else if half a ∨ half b then 3
  else if s.bundleClock a = none ∨ s.bundleClock b = none then 4
  else if s.bundleClock a ≠ s.bundleClock b then 5
  else if s.namedElsewhere k a.val ∨ s.namedElsewhere k b.val then 6
  else 0

/-- Packets that have not started on a bundle that leaves routing move to the other bundle of its pair; what has started is
sent to its end (R412, R426). -/
def State.leaveRouting (s : State) (i : Fin 64) : State :=
  let k := s.link (.bundle i)
  let m := s.link (.bundle (pairMate i))
  let s := s.setFld (Fld.STR_BSTAT_STATE i.val) 4
  let maint := fun (l : List Packet) => l.filter fun p => p.cls = 3
  let rest := fun (l : List Packet) => l.filter fun p => p.cls ≠ 3
  let s := s.setLink (.bundle i) { k with dn := { k.dn with queue := maint k.dn.queue }, up := { k.up with queue := maint k.up.queue } }
  s.setLink (.bundle (pairMate i)) { m with dn := { m.dn with queue := rest k.dn.queue ++ m.dn.queue },
                                            up := { m.up with queue := rest k.up.queue ++ m.up.queue } }

/-- A write of EN = 1 applies at an epoch: the checks of R425, then DRAINING (R426). -/
def State.pairStart (s : State) (k : Nat) (v : Word) : State :=
  let why := s.wpReason k v
  let (a, b) := wpairBundles v
  let bad := fun (i : Fin 64) => s.fld (Fld.STR_BSTAT_STATE i.val) ≠ 2
  let why := if why = 0 ∧ (bad a ∨ bad b) then 2 else why
  if why ≠ 0 then
    ((s.setFld (Fld.STR_WPSTAT_STATE k) 3).setFld (Fld.STR_WPSTAT_REASON k) why).raise Fld.STR_IRQ_STATUS_WIRE
  else
    let s := ((s.setFld (Fld.STR_WPSTAT_STATE k) 1).setFld (Fld.STR_WPSTAT_REASON k) 0).setWire k
      { s.wireSt k with named := v, drained := false, switchAt := none }
    let s := s.pairFreq k
    (s.leaveRouting a).leaveRouting b

/-- LPARAM from Bedrock to the leaf ends of both bundles of a pair. -/
def State.sendLparam (s : State) (v : Word) (epoch : Nat) (wire : Bool) : State :=
  let (a, b) := wpairBundles v
  let p := (mkPacket 0x50 3 0 (epOfBits 0) (epOfBits 0) 0 0 0 0 (epoch % 256 + 256 * b2n wire) []).finish
  let one := fun (t : State) (i : Fin 64) => t.sendMaint { link := .bundle i, leaf := false } p
  one (one s a) b

/-- A pair turns OFF at epoch `epoch` (R431): the bundles that it holds return to packet mode two boundaries later. -/
def State.pairStop_ (s : State) (k epoch : Nat) : State :=
  let was := s.wpState k
  let w := s.wireSt k
  let s := s.setReg (Reg.STR_WPSTAT k) (s.reg (Reg.STR_WPSTAT k) &&& 0xFFFF#32)
  if was = 1 ∨ was = 2 ∨ was = 4 then
    (s.setWire k { w with drained := false, switchAt := none, leaving := some { named := w.named, at_ := (epoch + 2) % 256, was := was } }).sendLparam
      w.named (epoch + 2) false
  else s

/-- A bundle starts packet mode with its link-layer state cleared and rejoins routing (R431); one in a retrain goes on training. Its
strip outputs read 0 from now on (R139). -/
def State.rejoin (s : State) (i : Fin 64) : State :=
  let st := s.fld (Fld.STR_BSTAT_STATE i.val)
  let again : Bool := st = 5 || (st = 4 && (s.link (.bundle i)).keep)
  let s := s.setStrip i.val { s.strip i.val with edges := 0, sent := [], rx := 0 }
  if st = 4 ∨ st = 5 then (s.clearLink (.bundle i)).setFld (Fld.STR_BSTAT_STATE i.val) (if again then 1 else 2) else s

/-- The path of a strip starts: the receiving register is 0 until the first value arrives, or holds what it held (R426, R430). -/
def State.openStrip (s : State) (i : Fin 64) (first : Bool) : State :=
  s.setStrip i.val { s.strip i.val with edges := 0, sent := [], rx := if first then 0 else (s.strip i.val).rx }

/-- A pair is connected (R426, R430). -/
def State.connect (s : State) (k : Nat) : State :=
  let (a, b) := wpairBundles (s.wireSt k).named
  let first : Bool := s.wpState k = 1
  let s := (s.openStrip a first).openStrip b first
  let s := (s.setFld (Fld.STR_BSTAT_STATE a.val) 4).setFld (Fld.STR_BSTAT_STATE b.val) 4
  (s.setFld (Fld.STR_WPSTAT_STATE k) 2).pairFreq k

/-- A pair goes DOWN (R430). -/
def State.pairDown (s : State) (k : Nat) : State :=
  ((s.setFld (Fld.STR_WPSTAT_STATE k) 4).pairFreq k).raise Fld.STR_IRQ_STATUS_WIRE

/-- The wire clocks of a pair are valid, and both its bundles are LIVE in wire mode: no retrain is in progress (R425, R430). -/
def State.pairSound (s : State) (k : Nat) : Bool :=
  let (a, b) := wpairBundles (s.wireSt k).named
  let ok := fun (i : Fin 64) => s.bundleClock i ≠ none ∧ s.fld (Fld.STR_BSTAT_STATE i.val) = 4 ∧ (s.link (.bundle i)).keep = false
  decide (ok a) && decide (ok b)

/-- The conditions under which a DOWN pair reconnects (R425, R430): its own bundles are LIVE in wire mode, and its clocks are equal. -/
def State.mayConnect (s : State) (k : Nat) : Bool := s.wpReason k (s.wireSt k).named = 0 && s.pairSound k

/-- What the switch to and from wire mode does at a link epoch boundary with number `e`: a pair that was turned off gives its bundles
back; a draining pair names its switch, and switches, DOWN at once if what R430 asks of a CONNECTED pair has failed meanwhile; a DOWN pair reconnects
(R426, R430, R431). -/
def State.pairSwitch (s : State) (e k : Nat) : State :=
  let s := match (s.wireSt k).leaving with
    | some l =>
      if l.at_ ≠ e then s
      else
        let (a, b) := wpairBundles l.named
        ((s.setWire k { s.wireSt k with leaving := none }).rejoin a).rejoin b
    | none => s
  let w := s.wireSt k
  if s.wpState k = 1 then
    if w.switchAt = some e then
      let t := s.setWire k { w with drained := false, switchAt := none }
      let t' := t.connect k
      if t'.pairSound k then t' else t'.pairDown k
    else if w.drained ∧ w.switchAt = none then
      (s.setWire k { w with switchAt := some ((e + 2) % 256) }).sendLparam w.named (e + 2) true
    else s
  else if s.wpState k = 4 ∧ s.mayConnect k then s.connect k
  else s

/-- One pair at a link epoch boundary with number `e`: the switches that are due, then a waiting write of STR_WPAIR, which is stored
whole. EN = 0 turns the pair off, EN = 1 starts one that is OFF or REFUSED; an active pair keeps the bundles that it holds (DESIGN
CHOICE, assumption 62). -/
def State.pairEpoch (s : State) (e k : Nat) : State :=
  let s := s.pairSwitch e k
  match SMap.find s.shadow (Reg.STR_WPAIR k) with
  | none => s
  | some v =>
    let s := { s with shadow := SMap.drop s.shadow (Reg.STR_WPAIR k) }.setReg (Reg.STR_WPAIR k) v
    if ¬natBit v.toNat 31 then s.pairStop_ k e
    else if s.wpState k = 0 ∨ s.wpState k = 3 then s.pairStart k v
    else s

/-- Slot numbers of the internal halves count from 0 again (R404, R415). -/
def State.slotsRestart (s : State) : State :=
  s.links.foldl (fun (t : State) e =>
    if e.1 < 64 then
      { t with links := SMap.put Link.fresh t.links e.1 { e.2 with dn := { e.2.dn with slot := 0 }, up := { e.2.up with slot := 0 } } }
    else t) s

/-- LINK_EPOCH: the internal epoch number counts, settings marked link epoch apply, wire-mode switches happen, the level of
HUB_FEATURES takes effect, slots count from 0, and each Slate end measures its wire clocks (R404, R405, R415, R425, R426, R430, R431).
The spec gives no order between the checks of a pair and other settings that apply at the same boundary, such as SPL_WCLK: the model
checks the pairs first, on the clock settings before the boundary (DESIGN CHOICE, assumption 62). -/
def State.linkEpoch (s : State) : State :=
  let e := (s.fld Fld.STR_CTRL_EPOCH + 1) % 256
  let s := s.setFld Fld.STR_CTRL_EPOCH e
  let s := (List.range 16).foldl (fun (t : State) k => t.pairEpoch e k) s
  let s := s.applyAll .linkEpoch fun _ => true
  let s := { s with strata := s.strataLevel }.slotsRestart
  let s := (List.range 16).foldl (fun (t : State) k => if t.wpState k = 1 ∨ t.wpState k = 2 ∨ t.wpState k = 4 then t.pairFreq k else t) s
  (List.finRange 64).foldl (fun (t : State) i =>
    if t.dieOk (i.val / 16) ∧ t.domOn (slateDom (i.val / 16) 8) then
      t.setFld (Fld.SEP_WSTAT_FREQ (i.val / 16) (i.val % 16)) ((t.bundleClock i).getD 0)
    else t) s

/-- WIRE_DRAIN_END: every flit on both bundles of a draining pair is acknowledged (R426). -/
def State.wireDrainEnd (s : State) (k : Nat) : State :=
  let (a, b) := wpairBundles (s.wireSt k).named
  let idle := fun (i : Fin 64) =>
    let l := s.link (.bundle i)
    l.dn.cur.isEmpty && l.dn.replay.isEmpty && l.up.cur.isEmpty && l.up.replay.isEmpty
  if s.wpState k = 1 ∧ (s.wireSt k).switchAt = none ∧ idle a ∧ idle b then s.setWire k { s.wireSt k with drained := true } else s

/-- WIRE_PAIR_DOWN: a CONNECTED pair whose wire clock or bundle fails its condition goes DOWN (R430). -/
def State.wirePairDown (s : State) (k : Nat) : State := if s.wpState k = 2 ∧ s.pairSound k = false then s.pairDown k else s

/-- FORWARDED_CLOCK_LOSS (R409, R430): a retrain with the state kept; a bundle in wire mode leaves LIVE for it. -/
def State.clockLost (s : State) (l : LinkRef) : State :=
  match l with
  | .bundle i =>
    if s.fld (Fld.STR_BSTAT_STATE i.val) = 4 ∧ s.draining i.val = false then (s.setFld (Fld.STR_BSTAT_STATE i.val) 2).retrain l
    else s.retrain l
  | .bridge _ => s.retrain l
  | .lode _ => s

/-- BUNDLE_LIVE of an internal bundle or a bridge port. -/
def State.bundleLive (s : State) (l : LinkRef) : State := s.goLive l

/-! ## Bridge ports (R432 to R438) -/

/-- LIVE state of a bridge port. -/
def State.bridgeLive (s : State) (k : Nat) : Bool := s.fld (Fld.STR_BP_STAT_STATE k) = 2

/-- A packet delivered to port `k` from the network (R435, R437); none while the link has no credits for it (R333). -/
def State.bridgeOut (s : State) (k : Fin 8) (p : Packet) : Option State :=
  if 2 ≤ p.cls.toNat then some s
  else if s.bridgeLive k.val then
    let l := s.link (.bridge k)
    if l.dn.fits p then some (s.setLink (.bridge k) { l with dn := l.dn.push p }) else none
  else
    let s := s.bump (Fld.STR_BP_DROP_UNREACH k.val)
    some (if p.cls = 0 then s.place (.ingressPort k.val 3 1) (rspErr p 7).finish else s)

/-- The link of port `k` ends and the port takes state `st`: what waits for the link is handled as if delivered now (R437), and a
packet whose header has arrived is completed with poison, as on a bundle (R412, DEDUCED, assumption 61). -/
def State.bridgeDrop (s : State) (k : Fin 8) (st : Nat) : State :=
  let l := s.link (.bridge k)
  let s := s.setFld (Fld.STR_BP_STAT_STATE k.val) st
  let s : State := match l.up.completePart.2 with
    | none => s
    | some p => s.linkDeliver (.bridge k) true p
  let s := s.clearLink (.bridge k)
  (l.dn.queue.filter fun p => p.cls ≠ 3).foldl (fun (t : State) p => (t.bridgeOut k p).getD t) s

/-- The partner of a port that is LIVE, or retrains with its state kept, has been reset: the link trains again with its state cleared, a
hub end at once and a leaf end once its partner does (R409, R434). -/
def State.partnerReset (s : State) (k : Fin 8) : State :=
  let st := if s.bit (Fld.STR_BP_CTRL_ROLE k.val) then 4 else 1
  if s.bridgeLive k.val then ((s.bridgeDrop k st).bump (Fld.STR_BP_STAT_RETRAINS k.val)).raise Fld.STR_IRQ_STATUS_RETRAIN
  else if s.fld (Fld.STR_BP_STAT_STATE k.val) = 1 ∧ (s.link (.bridge k)).keep = true then s.bridgeDrop k st
  else s

/-- A port that stops, or starts over: its record is dropped (R432). -/
def State.bridgeStop (s : State) (k : Fin 8) (st : Nat) : State :=
  let s := s.bridgeDrop k st
  let s := (s.setReg (Reg.STR_BP_TXMAP k.val) 0).setReg (Reg.STR_BP_RXMAP k.val) 0
  ((s.setFld (Fld.STR_BP_STAT_TXHALF k.val) 0).setFld (Fld.STR_BP_STAT_RXHALF k.val) 0).setFld (Fld.STR_BP_STAT_FORCED k.val) 0

/-- After a write of EN to STR_BPk_CTRL: a hub end trains and a leaf end waits, a cleared EN stops the port (R434). A port that failed starts
over with the record that it has kept since EN was set (R432). -/
def State.bridgeEnable (s : State) (k : Fin 8) (was : Bool) : State :=
  let en := s.bit (Fld.STR_BP_CTRL_EN k.val)
  let st := s.fld (Fld.STR_BP_STAT_STATE k.val)
  if ¬en then (if was then s.bridgeStop k 0 else s)
  else
    let first := if s.bit (Fld.STR_BP_CTRL_ROLE k.val) then 4 else 1
    if ¬was then s.bridgeStop k first
    else if st = 3 then (s.bridgeDrop k first).setFld (Fld.STR_BP_STAT_FORCED k.val) 0
    else s

/-- A port sends an answer of its own on its link, once the link has credits for it (R333). -/
def State.bridgeSend (s : State) (k : Fin 8) (p : Packet) : Option State :=
  let l := s.link (.bridge k)
  if l.dn.fits p then some (s.setLink (.bridge k) { l with dn := l.dn.push p.finish }) else none

/-- The first packet that waits on a link. -/
def State.firstArrival (s : State) (l : LinkRef) : Option Packet := (s.arrivals.find? fun a => a.1 = l).map fun a => a.2

/-- The state without it; its flits are freed. -/
def State.dropArrival (s : State) (l : LinkRef) (p : Packet) : State :=
  let n := (s.arrivals.findIdx? fun a => a.1 = l).getD 0
  { s with arrivals := listDropAt s.arrivals n }.freeCredits l true p

/-- BRIDGE_PORT_ARRIVAL (R435, R436). A packet whose answer finds no credits on the link waits. -/
def State.bridgeArrival (s : State) (k : Fin 8) : State :=
  match s.firstArrival (.bridge k) with
  | none => s
  | some p0 =>
    let me := s.mkEp 4 k.val 3 1
    let s1 := s.dropArrival (.bridge k) p0
    if malformed p0 ∨ p0.cls = 2 then
      let t := s1.bump (Fld.STR_BP_STAT_MALFORMED k.val)
      if p0.cls = 0 ∨ p0.cmd.toNat < 0x30 then (t.bridgeSend k (rspErr p0 2)).getD s else t
    else
      let fwd := s.bit (Fld.STR_BP_CTRL_FWD_EN k.val)
      let toPort : Bool := s.localEp p0.dst && match portKind p0.dst with
        | .bridge _ => true
        | _ => false
      if ¬fwd ∧ toPort then
        let t := s1.bump (Fld.STR_BP_DROP_LOOP k.val)
        if p0.cls = 0 then (t.bridgeSend k (rspErr p0 6)).getD s else t
      else
        let dst := if fwd then epOfBits (s.fld (Fld.STR_BP_CTRL_FWD_DST k.val)) else p0.dst
        let p := { p0 with src := me, dst := dst, vc := 0 }.seal
        if s.hasRoom (.ingressPort k.val 3 1) p then s1.place (.ingressPort k.val 3 1) p else s

/-! ## Capture buffers (R439, R440) -/

/-- After a write to STR_BPk_CAPCTRL (R440): ARM = 1 starts a recording, SENDTRIG sends CAPTRIG. -/
def State.captureArm (s : State) (k : Fin 8) (v : Word) : State :=
  let s := if natBit v.toNat 31 then
      let s : State := { s.setReg (Reg.STR_BP_CAPSTAT k.val) 0 with cap := SMap.set s.cap k.val { ents := [], left := none, time := 0 } }
      if bits v 30 29 = 0 then (s.capTrigger k.val).setFld (Fld.STR_BP_CAPSTAT_TRIGIDX k.val) 0 else s
    else s
  s.setFld (Fld.STR_BP_CAPCTRL_SENDTRIG k.val) 0

/-- CAPTURE_SENDTRIG: CAPTRIG leaves on a LIVE port whose level has it (R421, R440). -/
def State.sendTrig (s : State) (k : Fin 8) : State :=
  if s.bridgeLive k.val ∧ 2 ≤ popCount 4 (s.fld (Fld.STR_BP_STAT_LEVEL k.val)) then
    s.sendMaint { link := .bridge k, leaf := s.bit (Fld.STR_BP_CTRL_ROLE k.val) }
      (mkPacket 0x55 3 0 (epOfBits 0) (epOfBits 0) 0 0 0 0 0 []).finish
  else s

/-- Word `w` of entry `e` of the capture buffer of port `k` (R439, R440). -/
def State.capWord (s : State) (k e w : Nat) : Word :=
  match SMap.find (s.capOf k).ents e with
  | none => 0
  | some c =>
    if w < 10 then BitVec.ofNat 32 ((c.slot.toNat / 2 ^ (32 * w)) % 2 ^ 32)
    else if w = 10 then BitVec.ofNat 32 c.time
    else if w = 11 then BitVec.ofNat 32 (c.time / 2 ^ 32)
    else if w = 12 then BitVec.ofNat 32 (b2n c.received * 2 ^ 31 + b2n c.rejected * 2 ^ 30)
    else 0

end Sys2Proof.Machine
end

