-- ==== Sys2Proof/Machine/Xcv.lean ====
section
/-! DEFINITION. User transceivers (R533 to R538) and the boundary-scan instructions of the test access port (R539, R540). -/

namespace Sys2Proof.Machine

/-! ## Transceivers -/

/-- A transceiver's hidden state before any word. -/
def XcvSt.fresh : XcvSt :=
  { txPos := 0, txCode := [], txSym := 0, gen := none, chk := none, prev := none, slip := 0, line := [], pos := 0, left := 0, rx := 0, rxErr := 0,
    cwStart := false, uncorr := false, valid := false }

/-- The hidden state of transceiver `t` of die `d`. -/
def State.xcvSt (s : State) (d t : Nat) : XcvSt := SMap.get XcvSt.fresh s.xcv (12 * d + t)

/-- Replace it. -/
def State.setXcv (s : State) (d t : Nat) (v : XcvSt) : State := { s with xcv := SMap.put XcvSt.fresh s.xcv (12 * d + t) v }

/-- Transceiver `t` of die `d` runs: its die is there, its domain is on and EN is 1. -/
def State.xcvOn (s : State) (d t : Nat) : Bool :=
  s.dieOk d && t < 12 && s.domOn (slateDom d 7) && s.bit (Fld.XCV_CTRL_EN d t)

/-- Its fabric interface is enabled as well (R535). -/
def State.xcvIface (s : State) (d t : Nat) : Bool := s.xcvOn d t && natBit (s.ifaceRec d (64 * t + 20) 757) 0

/-- The tap field that TAP_SEL names, and whether it is signed (R538, R542). -/
def tapField (d t sel : Nat) : Option (RField × Bool) :=
  match sel with
  | 0 => some (Fld.XCV_TXEQ_C_M3 d t, true)
  | 1 => some (Fld.XCV_TXEQ_C_M2 d t, true)
  | 2 => some (Fld.XCV_TXEQ_C_M1 d t, true)
  | 3 => some (Fld.XCV_TXEQ_C0 d t, false)
  | 4 => some (Fld.XCV_TXEQ_C1 d t, true)
  | _ => none

/-- TAP_INC and TAP_DEC: one step of a tap, unless it would leave the field's range (R538). -/
def State.tapStep (s : State) (d t sel : Nat) (up : Bool) : State :=
  if ¬s.xcvIface d t then s
  else
    match tapField d t sel with
    | none => s
    | some (f, sgn) =>
      let v : Int := if sgn then signed 6 (s.fld f) else (s.fld f : Int)
      let w : Int := if up then v + 1 else v - 1
      let ok : Bool := if sgn then -32 ≤ w && w ≤ 31 else 0 ≤ w && w ≤ 63
      if ok then s.setFld f (w % 64).toNat else s

/-- The word boundary one bit later: a word takes bits of the raw word after the one it starts in, which the first slip waits for (R537). -/
def XcvSt.slipped (x : XcvSt) : XcvSt :=
  { x with slip := (x.slip + 1) % 160, prev := if x.slip = 0 then none else x.prev }

/-- RX_SLIP: the word boundary moves one bit later (R537). -/
def State.rxSlip (s : State) (d t : Nat) : State :=
  if s.xcvIface d t then s.setXcv d t (s.xcvSt d t).slipped else s

/-- RX_CWSET: the word in presentation starts a code word, and alignment starts again (R537). -/
def State.rxCwset (s : State) (d t : Nat) : State :=
  if s.xcvIface d t ∧ s.bit (Fld.XCV_CTRL_FEC_EN d t) then
    let x := s.xcvSt d t
    (s.setXcv d t { x with line := [(x.rx, x.rxErr)], pos := 0, left := 67 }).setFld (Fld.XCV_STAT_FEC_LOCK d t) 0
  else s

/-- TX_CWSTART: the word sent last is word 0 of a code word and the count restarts (R537). -/
def State.txCwstart (s : State) (d t : Nat) : State :=
  if s.xcvIface d t then
    let x := s.xcvSt d t
    s.setXcv d t { x with txPos := 1, txCode := x.txCode.getLast?.toList }
  else s

/-! ### Patterns (R538, R542)

PRBS31, PRBS13 and PRBS7 by their usual polynomials, x^31 + x^28 + 1, x^13 + x^12 + x^2 + x + 1 and x^7 + x^6 + 1, not inverted (PRESUMED,
assumption 74). -/

/-- Bits that determine the next one. -/
def prbsLen (pat : Nat) : Nat := if pat = 1 then 13 else if pat = 2 then 7 else 31

/-- The bit after the last 31, the latest of which is bit 0. -/
def prbsBit (pat : Nat) (h : BitVec 31) : Bool :=
  if pat = 1 then ((h.getLsbD 12 != h.getLsbD 11) != h.getLsbD 1) != h.getLsbD 0
  else if pat = 2 then h.getLsbD 6 != h.getLsbD 5
  else h.getLsbD 30 != h.getLsbD 27

/-- The last 31 bits after bit `b`. -/
def prbsPush (h : BitVec 31) (b : Bool) : BitVec 31 := (h <<< 1) ||| (BitVec.ofBool b).setWidth 31

/-- The next `n` bits of a pattern, with the last 31 after them. -/
def prbsBits (pat : Nat) : Nat → BitVec 31 → List Bool × BitVec 31
  | 0, h => ([], h)
  | n + 1, h =>
    let b := prbsBit pat h
    let (l, g) := prbsBits pat n (prbsPush h b)
    (b :: l, g)

/-- The number that bits 0 to `n - 1` spell. -/
def bitsNum (n : Nat) (f : Nat → Bool) : Nat := (List.range n).foldl (fun v i => v + b2n (f i) * 2 ^ i) 0

/-- 160 bits, the first in bit 0. -/
def wordOf (l : List Bool) : BitVec 160 := BitVec.ofNat 160 (bitsNum 160 fun i => l.getD i false)

/-- The generator when it starts: a free place of the pattern, never all zeros. -/
def prbsStart (pat : Nat) (free : Nat) : BitVec 31 :=
  let w := (Config.freeWord free).toNat % 2 ^ prbsLen pat
  BitVec.ofNat 31 (if w = 0 then 1 else w)

/-- The next word of the pattern that PATTERN selects, and the transceiver after it; the generator starts when GEN is set or PATTERN changes. -/
def State.pattern (s : State) (d t : Nat) : State × BitVec 160 :=
  let x := s.xcvSt d t
  let pat := s.fld (Fld.XCV_PRBS_PATTERN d t)
  let (u, h) := match x.gen with
    | some (p, h) => if p = pat then (s, h) else (s.useFree, prbsStart pat s.free)
    | none => (s.useFree, prbsStart pat s.free)
  let (l, g) := prbsBits pat 160 h
  (u.setXcv d t { x with gen := some (pat, g) }, wordOf l)

/-- Bits of a raw word that differ from the pattern, and the checker after it. It takes its place in the pattern from the first bits
that it sees, and goes on from there on its own (DESIGN CHOICE, assumption 74). -/
def prbsCheck (pat : Nat) (chk : Option (Nat × BitVec 31)) (word : BitVec 160) : Nat × BitVec 31 :=
  let bit := fun i => word.getLsbD i
  let start : Nat × BitVec 31 := match chk with
    | some (p, h) => if p = pat then (0, h) else (prbsLen pat, (List.range (prbsLen pat)).foldl (fun h i => prbsPush h (bit i)) 0)
    | none => (prbsLen pat, (List.range (prbsLen pat)).foldl (fun h i => prbsPush h (bit i)) 0)
  let (l, g) := prbsBits pat (160 - start.1) start.2
  (((List.range (160 - start.1)).filter fun i => l.getD i false != bit (start.1 + i)).length, g)

/-! ### The line (R538, R542) -/

/-- The PAM4 symbol of two bits, the first sent first, by Gray code, and back (PRESUMED, assumption 74). -/
def grayOf (a b : Bool) : Nat := if a then (if b then 2 else 3) else if b then 1 else 0

/-- The precoded form of 80 symbols: each goes out less the one sent before it, modulo 4 (R542). -/
def precode : Nat → List Bool → List Bool × Nat
  | p, a :: b :: rest =>
    let q := (grayOf a b + 4 - p) % 4
    let (l, z) := precode q rest
    ((2 ≤ q : Bool) :: (q = 1 || q = 2 : Bool) :: l, z)
  | p, _ => ([], p)

/-- What stands on the line for 160 bits, and the last symbol: PRECODE acts in PAM4 only (R542). -/
def State.xcvLine (s : State) (d t : Nat) (bits : BitVec 160) : BitVec 160 × Nat :=
  let x := s.xcvSt d t
  if s.bit (Fld.XCV_CTRL_MOD d t) ∧ s.bit (Fld.XCV_CTRL_PRECODE d t) then
    let (l, p) := precode x.txSym ((List.range 160).map fun i => bits.getLsbD i)
    (wordOf l, p)
  else (bits, x.txSym)

/-- The taps C_M3, C_M2, C_M1, C0 and C1 as XCV_TXEQ holds them. -/
def State.xcvTaps (s : State) (d t : Nat) : List Int :=
  [signed 6 (s.fld (Fld.XCV_TXEQ_C_M3 d t)), signed 6 (s.fld (Fld.XCV_TXEQ_C_M2 d t)), signed 6 (s.fld (Fld.XCV_TXEQ_C_M1 d t)),
    (s.fld (Fld.XCV_TXEQ_C0 d t) : Int), signed 6 (s.fld (Fld.XCV_TXEQ_C1 d t))]

/-- The number that stands for full swing: 63, or the sum of the taps' magnitudes where that is above 63, which scales them to 63 (R542). -/
def State.xcvSwing (s : State) (d t : Nat) : Nat := max 63 ((s.xcvTaps d t).map Int.natAbs).sum

/-- 160 bits go out on the line. -/
def State.xcvEmit (s : State) (d t : Nat) (bits : BitVec 160) : State :=
  let (line, p) := s.xcvLine d t bits
  (s.setXcv d t { s.xcvSt d t with txSym := p }).emit (.xcvTx d t line (s.xcvTaps d t) (s.xcvSwing d t))

/-! ### Reception (R536 to R538) -/

/-- Symbols in error in the 34 words of a code word, from their channel errors (R537). -/
def symErrors (l : List (BitVec 160)) : Nat :=
  (l.map fun e => ((List.range 16).filter fun k => (e.extractLsb' (10 * k) 10) ≠ 0).length).sum

/-- The word presented: raw until FEC_LOCK, corrected after it (R537). -/
def State.present (s : State) (d t : Nat) (x : XcvSt) (word err : BitVec 160) (cw unc : Bool) : State :=
  s.setXcv d t { x with rx := word, rxErr := err, cwStart := cw, uncorr := unc, valid := true }

/-- The next word of the corrected stream: at word 0 the code word is judged and its counters move. -/
def State.presentFec (s : State) (d t : Nat) (x : XcvSt) : State :=
  match x.line with
  | [] => s
  | (w, e) :: rest =>
    let first := x.pos = 0
    let n := symErrors ((x.line.take 34).map fun p => p.2)
    let unc : Bool := if first then 15 < n else x.uncorr
    let s := if first then
        (if unc then s.bump (Fld.XCV_FECCNT_UNCORR d t) else s.bumpBy (Fld.XCV_FECCNT_CORRECTED d t) n)
      else s
    s.present d t { x with line := rest, pos := (x.pos + 1) % 34 } (if unc then w else w ^^^ e) (if unc then e else 0) first unc

/-- A word at the present word boundary comes in: it is presented raw, or joins the code words (R537). -/
def State.xcvAligned (s : State) (d t : Nat) (word err : BitVec 160) : State :=
  let x := s.xcvSt d t
  if ¬s.bit (Fld.XCV_CTRL_FEC_EN d t) ∨ (x.left = 0 ∧ ¬s.bit (Fld.XCV_STAT_FEC_LOCK d t)) then s.present d t x word err false false
  else
    let x := { x with line := x.line ++ [(word, err)] }
    if x.left = 0 then s.presentFec d t x
    else
      let x := { x with left := x.left - 1 }
      let s := if x.left = 0 then s.setFld (Fld.XCV_STAT_FEC_LOCK d t) 1 else s
      s.present d t x word err false false

/-- 160 bits from the word boundary `n` bits into `a`, which `b` follows. -/
def shifted (n : Nat) (a b : BitVec 160) : BitVec 160 := (a >>> n) ||| (b <<< (160 - n))

/-- A raw word goes past the checker while CHK is 1 (R538). -/
def State.xcvChecked (s : State) (d t : Nat) (word : BitVec 160) : State :=
  let x := s.xcvSt d t
  if s.bit (Fld.XCV_PRBS_CHK d t) then
    let pat := s.fld (Fld.XCV_PRBS_PATTERN d t)
    let (n, g) := prbsCheck pat x.chk word
    (s.setXcv d t { x with chk := some (pat, g) }).bumpBy (Fld.XCV_PRBS_ERRORS d t) n
  else s.setXcv d t { x with chk := none }

/-- A raw word arrives at the receiver, with the channel's errors in it. -/
def State.xcvTake (s : State) (d t : Nat) (word err : BitVec 160) : State :=
  if ¬s.bit (Fld.XCV_STAT_CDR_LOCK d t) then s
  else
    let s := s.xcvChecked d t word
    let x := s.xcvSt d t
    let s := s.setXcv d t { x with prev := some (word, err) }
    if x.slip = 0 then s.xcvAligned d t word err
    else
      match x.prev with
      | none => s
      | some (w, e) => s.xcvAligned d t (shifted x.slip w word) (shifted x.slip e err)

/-- XCV_RX_WORD: a word arrives on the line. LOOP 1 shuts the line's receiver out; LOOP 2 sends what it receives back (R536, R542). -/
def State.xcvWord (s : State) (d t : Nat) (word err : BitVec 160) : State :=
  let loop := s.fld (Fld.XCV_CTRL_LOOP d t)
  if ¬s.xcvOn d t ∨ ¬s.bit (Fld.XCV_STAT_CDR_LOCK d t) ∨ loop = 1 then s
  else
    let s := if loop = 2 ∧ ¬s.bit (Fld.XCV_CTRL_TXIDLE d t) then s.xcvEmit d t word else s
    s.xcvTake d t word err

/-! ### Transmission (R536 to R538, R542) -/

/-- A word leaves the transmitter: LOOP 1 gives it to the receiver as well, and with LOOP 2 the line carries received words in its place. -/
def State.xcvOut (s : State) (d t : Nat) (bits : BitVec 160) : State :=
  let loop := s.fld (Fld.XCV_CTRL_LOOP d t)
  if loop = 2 then s
  else
    let s := s.xcvEmit d t bits
    if loop = 1 then s.xcvTake d t bits 0 else s

/-- The TX code word with word `word` at place `pos`. -/
def XcvSt.code (x : XcvSt) (pos : Nat) (word : BitVec 160) : XcvSt :=
  { x with txPos := (pos + 1) % 34, txCode := (if pos = 0 then [] else x.txCode) ++ [word], gen := none }

/-- What the FEC block makes of the word at place `pos`: parity over bits 159 to 20 of word 32 and over word 33 (R537). -/
def XcvSt.fecWord (x : XcvSt) (pos : Nat) (word : BitVec 160) : BitVec 160 :=
  if pos = 32 then (Config.rsParity (x.txCode.take 32 ++ [word &&& 0xFFFFF#160])).extractLsb' 0 140 ++ (word.setWidth 20 : BitVec 20)
  else if pos = 33 then
    (Config.rsParity (x.txCode.take 32 ++ [x.txCode.getD 32 0 &&& 0xFFFFF#160])).extractLsb' 140 160
  else word

/-- TX_UNDERRUN: 160 zero bits go out and are counted, or the pattern in their place, or with LOOP 2 nothing of the transmitter's own (R536,
R538, R542). The zeros take a place of the code word and stay zeros there. -/
def State.txUnderrun (s : State) (d t : Nat) : State :=
  if ¬s.xcvOn d t ∨ s.bit (Fld.XCV_CTRL_TXIDLE d t) ∨ s.fld (Fld.XCV_CTRL_LOOP d t) = 2 then s
  else if s.bit (Fld.XCV_PRBS_GEN d t) then
    let (u, w) := s.pattern d t
    u.xcvOut d t w
  else
    let x := s.xcvSt d t
    ((s.setXcv d t (x.code x.txPos 0)).bump (Fld.XCV_STAT_UNDERRUN d t)).xcvOut d t 0

/-- A TX word goes out; `first` marks word 0 of a code word. With GEN the pattern goes out in its place, without FEC (R536 to R538). -/
def State.xcvSend (s : State) (d t : Nat) (word : BitVec 160) (first : Bool) : State :=
  if ¬s.xcvIface d t ∨ s.bit (Fld.XCV_CTRL_TXIDLE d t) then s
  else if s.bit (Fld.XCV_PRBS_GEN d t) then
    let (u, w) := s.pattern d t
    u.xcvOut d t w
  else
    let x := s.xcvSt d t
    let pos := if first then 0 else x.txPos
    (s.setXcv d t (x.code pos word)).xcvOut d t (if s.bit (Fld.XCV_CTRL_FEC_EN d t) then x.fecWord pos word else word)

/-! ### Lock and control -/

/-- CDR_LOCK (R534). -/
def State.cdrLock (s : State) (d t : Nat) : State := if s.xcvOn d t then s.setFld (Fld.XCV_STAT_CDR_LOCK d t) 1 else s

/-- The receiver loses lock (R537). -/
def State.cdrLose (s : State) (d t : Nat) : State :=
  let s := (s.setFld (Fld.XCV_STAT_CDR_LOCK d t) 0).setFld (Fld.XCV_STAT_FEC_LOCK d t) 0
  s.setXcv d t { s.xcvSt d t with line := [], pos := 0, left := 0, chk := none, prev := none }

/-- CDR_LOCK_LOSS. -/
def State.cdrLoss (s : State) (d t : Nat) : State := if s.xcvOn d t then s.cdrLose d t else s

/-- A write to XCV_CTRL: MOD, FEC_EN and BAUD change only while EN is 0 or with EN written 1 (R542); EN = 0 ends reception. -/
def State.xcvCtrl (s : State) (d t : Nat) (v : Word) : State :=
  let r := Reg.XCV_CTRL d t
  let old := s.reg r
  let open_ := ¬natBit old.toNat 31 ∨ natBit v.toNat 31
  let v := if open_ then v else (v &&& 0x9E000000#32) ||| (old &&& 0x6001FFFF#32)
  let s := s.setReg r (v &&& 0xFE01FFFF#32)
  if natBit v.toNat 31 then s else (s.cdrLose d t).setXcv d t XcvSt.fresh

/-! ## Boundary scan (R539, R540, R661) -/

/-- The port works while VAON is valid (R661): in every phase but power-off and hold. -/
def State.vaon (s : State) : Bool :=
  match s.phase with
  | .off => false
  | .hold => false
  | _ => true

/-- The boundary register of the part: its cells, the one next to TDO first. -/
def State.boundary (s : State) : List BCell := Config.boundary s.fuses.part.toNat

/-- A ball of a Slate die that is absent or excluded: its cells capture 0 and drive nothing (R539). -/
def State.ballDead (s : State) (b : Ball) : Bool :=
  match b.die with
  | some d => !s.dieOk d
  | none => false

/-- What the cell of a ball with a role holds, where it has one. -/
def State.cellHeld (s : State) (b : Ball) (r : CellRole) : Option Bool :=
  match s.boundary.findIdx? (fun c => c.ball = b && c.role = r) with
  | some i => some (s.jtag.cells.getD i false)
  | none => none

/-- What the boundary cells drive onto a ball: the value of its output cell, unless its enable cell holds 0. -/
def State.cellDrive (s : State) (b : Ball) : Option Bool :=
  if s.ballDead b ∨ s.cellHeld b .enable = some false then none else s.cellHeld b .output

/-- What the test access port makes of a ball, where the selected instruction takes it over: EXTEST, EXTEST_PULSE, EXTEST_TRAIN and CLAMP drive
it from its cells, HIGHZ floats it (R540). The changes that EXTEST_PULSE and EXTEST_TRAIN put on an AC-coupled lane are timing. -/
def State.jtagDrive (s : State) (b : Ball) : Option (Option Bool) :=
  if ¬s.vaon then none
  else
    match s.jtag.ir with
    | .extest => some (s.cellDrive b)
    | .pulse => some (s.cellDrive b)
    | .train => some (s.cellDrive b)
    | .clamp => some (s.cellDrive b)
    | .highz => some none
    | _ => none

end Sys2Proof.Machine
end

