-- ==== Sys2Proof/Machine/Fabric.lean ====
section
/-! DEFINITION. The fabric: what the configuration frames make of cells, clusters, wires and multiplexers, the values of its
signals, its flip-flops and memories at a clock edge, boundary latches and held pins (R84 to R140, R565, R664 to R667). Positions
are die-physical. -/

namespace Sys2Proof.Machine

/-! ## Places -/

/-- The key of the flip-flop of cell `c` of the cluster at a position. -/
def ffKey (d pc pr c : Nat) : Nat := ((d * 768 + pc) * 768 + pr) * 16 + c

/-- The key of the boundary latch of the L48 wire of direction `dir` and index `i` that starts at a position. -/
def latchKey (d pc pr dir i : Nat) : Nat := ((d * 768 + pc) * 768 + pr) * 16 + 4 * dir + i

/-- The die-logical sector of a position (R30, R52). -/
def State.posSector (s : State) (d pc pr : Nat) : Nat := 4 * (pr / 192) + s.physX d 4 (pc / 192)

/-- Two positions lie in one sector. -/
def sameSector (pc pr qc qr : Nat) : Bool := pc / 192 = qc / 192 && pr / 192 = qr / 192

/-- The position `m` points from one in a direction: 0 N, 1 E, 2 S, 3 W (R119). -/
def stepPos (pc pr dir m : Nat) : Option (Nat × Nat) :=
  match dir with
  | 0 => if pr + m < 768 then some (pc, pr + m) else none
  | 1 => if pc + m < 768 then some (pc + m, pr) else none
  | 2 => if m ≤ pr then some (pc, pr - m) else none
  | _ => if m ≤ pc then some (pc - m, pr) else none

/-- Span of a wire kind, 0 to 4 for L1 to L48 (R121). -/
def wireSpan (k : Nat) : Nat := [1, 2, 4, 12, 48].getD k 0

/-- Wires of a kind that start at a position in one direction (R121). -/
def wireCount (k : Nat) : Nat := [12, 16, 20, 8, 4].getD k 1

/-- Place of a kind among the drivers of one direction (R545). -/
def wireBase (k : Nat) : Nat := [0, 12, 28, 48, 56].getD k 0

/-- The direction to the left. -/
def leftOf (dir : Nat) : Nat := (dir + 3) % 4

/-- The direction to the right. -/
def rightOf (dir : Nat) : Nat := (dir + 1) % 4

/-- The driver of a wire that starts here exists (R123). -/
def driverExists (k dir pc pr : Nat) : Bool :=
  match stepPos pc pr dir (wireSpan k) with
  | none => false
  | some (qc, qr) => k = 4 || sameSector pc pr qc qr

/-- Where a wire starts that this position reads at its point `m` (R123, R124). -/
def wireStart (k dir m pc pr : Nat) : Option (Nat × Nat) :=
  match stepPos pc pr (rightOf (rightOf dir)) m with
  | none => none
  | some (qc, qr) => if driverExists k dir qc qr then some (qc, qr) else none

/-- What kind of strip a position belongs to (R137 to R139, R534, R665). -/
inductive Strip where
  | none
  | port
  | bundle
  | io
  | xcv
  deriving DecidableEq, Repr

/-- The strip of a position. -/
def stripOf (pc pr : Nat) : Strip :=
  if pc % 96 = 41 then .port
  else if pc % 48 = 40 ∧ pr < 32 then .bundle
  else if pc % 192 = 2 ∧ 94 ≤ pr % 192 ∧ pr % 192 ≤ 98 then .io
  else if pc % 64 = 20 ∧ 752 ≤ pr then .xcv
  else .none

/-! ## Records (R108, R546) -/

/-- The second frame of a position. -/
def State.posFrame (s : State) (d pc pr : Nat) : BitVec 4096 := s.frame (posKey d pc pr 1)

/-- Bits of the record of cell `c`. -/
def cellBits (f : BitVec 4096) (c hi lo : Nat) : Nat := frameBits f (1104 + 53 * c + lo) (hi + 1 - lo)

/-- Bits of the cluster record. -/
def clusterBits (f : BitVec 4096) (hi lo : Nat) : Nat := frameBits f (1952 + lo) (hi + 1 - lo)

/-- MODE of a cluster (R100). -/
def clusterMode (f : BitVec 4096) : Nat := clusterBits f 1 0

/-- Cell `c` lies in a LUT6 join (R91). LUTRAM mode uses no join of its own fields (R101). -/
def joined6 (f : BitVec 4096) (c : Nat) : Bool := clusterMode f ≠ 1 && natBit (clusterBits f 13 10) (c / 4)

/-- Cell `c` lies in a LUT5 join; every pair does in LUTRAM mode (R90, R101). -/
def joined5 (f : BitVec 4096) (c : Nat) : Bool :=
  clusterMode f = 1 || (!joined6 f c && natBit (clusterBits f 9 2) (c / 2))

/-- The cell whose input selects give A to D of cell `c` (R90 to R92, R101). -/
def lutBase (f : BitVec 4096) (c : Nat) : Nat :=
  if clusterMode f = 1 then 0
  else if joined6 f c then 4 * (c / 4)
  else if joined5 f c then 2 * (c / 2)
  else c

/-- The cell whose D select gives E (and, for `six`, F) of a join. -/
def eSource (f : BitVec 4096) (c : Nat) : Nat :=
  if clusterMode f = 1 then 1 else if joined6 f c then 4 * (c / 4) + 1 else 2 * (c / 2) + 1

/-- The cell's own D select is the D input that DSEL and SHIFT use: of a lone cell, the lowest of a join, and the sources of E
and F (R86, R92). -/
def ownD (f : BitVec 4096) (c : Nat) : Bool :=
  lutBase f c = c || eSource f c = c || (joined6 f c && c % 4 = 3)

/-! ## Sector state -/

/-- The state of the region of a position's sector as R563 codes it; 0 without a region. -/
def State.posState (s : State) (d pc pr : Nat) : Nat :=
  match s.regionOf d (s.posSector d pc pr) with
  | some r => s.fld (Fld.CFG_REG_STAT_STATE r)
  | none => 0

/-- The region of a position runs and is not frozen. -/
def State.posRuns (s : State) (d pc pr : Nat) : Bool := s.sectorRuns d (s.posSector d pc pr)

/-- The clocks of a position's region may run (R113, R566). -/
def State.posClocked (s : State) (d pc pr : Nat) : Bool := s.secClocked d (s.posSector d pc pr)

/-- The stored value of a flip-flop: INIT under the configuration hold, else the value it has taken (R98, R110, R113). -/
def State.ffValue (s : State) (d pc pr c : Nat) : Bool :=
  let init := cellBits (s.posFrame d pc pr) c 51 51 = 1
  if s.posState d pc pr = 3 ∨ s.posState d pc pr = 4 then (SMap.find s.ffs (ffKey d pc pr c)).getD init else init

/-! ## Signals -/

/-- A signal of the fabric. -/
inductive Sig where
  /-- Wire (kind, direction, index) as its driver gives it at its start. -/
  | wire (k dir i pc pr : Nat)
  /-- The same wire read at its point `m` by this position. -/
  | tap (k dir i m pc pr : Nat)
  | out (pc pr n : Nat)
  | strip (pc pr n : Nat)
  | inp (pc pr j : Nat)
  | att (pc pr j : Nat)
  /-- The source that cell `c` selects for input `l`: 0 A to 3 D. -/
  | sel (pc pr c l : Nat)
  | lut (pc pr c : Nat)
  | carry (pc pr c : Nat)
  | o (pc pr c : Nat)
  | q (pc pr c : Nat)
  deriving DecidableEq, Repr

/-- One-hot reading of a field: no bit, the slot of the one bit, or a field with more bits. -/
inductive Hot where
  | none
  | one (slot : Nat)
  | more
  deriving DecidableEq, Repr

/-- How many bits of a `w`-bit number are 1, and the highest of them. -/
def hotOf (w v : Nat) : Hot :=
  match (List.range w).filter (fun i => natBit v i) with
  | [] => .none
  | [i] => .one i
  | _ => .more

/-- The source of slot `slot` of input `j` (R126). -/
def inputSource (j slot pc pr : Nat) : Sig :=
  let dir := slot % 4
  match slot / 4 with
  | 0 => .tap 0 dir (j % 12) 1 pc pr
  | 1 => .tap 1 dir (j % 16) 2 pc pr
  | 2 => .tap 2 dir (j % 20) 4 pc pr
  | 3 => .tap 2 dir ((j + 10) % 20) 2 pc pr
  | 4 => .tap 3 dir (j % 8) (4 * (1 + j % 3)) pc pr
  | _ => .tap 4 dir (j % 4) (12 * (1 + j / 4 % 4)) pc pr

/-- The source of slot `slot` of the driver of wire (k, dir, i) at a position; none for a slot tied to 0 (R125). -/
def driverSource (k dir i slot pc pr : Nat) : Option Sig :=
  let ends := fun (kk dd ii : Nat) => Sig.tap kk dd ii (wireSpan kk) pc pr
  let strip := stripOf pc pr ≠ .none
  match slot with
  | 4 => some (ends k dir i)
  | 5 => some (ends k dir ((i + 1) % wireCount k))
  | 6 => some (ends k (leftOf dir) i)
  | 7 => some (ends k (rightOf dir) i)
  | 8 => if k = 0 then none else some (ends (k - 1) dir (i % wireCount (k - 1)))
  | 9 => if k = 0 then none else some (ends (k - 1) (leftOf dir) (i % wireCount (k - 1)))
  | 10 => if k = 0 then none else some (ends (k - 1) (rightOf dir) (i % wireCount (k - 1)))
  | 11 => if k = 4 then none else some (ends (k + 1) dir (i % wireCount (k + 1)))
  | 12 => if k = 4 then none else some (ends (k + 1) (leftOf dir) (i % wireCount (k + 1)))
  | 13 => if k = 4 then none else some (ends (k + 1) (rightOf dir) (i % wireCount (k + 1)))
  | 14 => some (if strip then .strip pc pr (2 * i % 32) else .out pc pr ((4 * i + 16) % 32))
  | 15 => some (if strip then .strip pc pr ((2 * i + 1) % 32) else .out pc pr ((4 * i + 17) % 32))
  | _ => some (.out pc pr ((4 * i + slot) % 32))

/-- Pin of a die behind strip position `r` of the I/O strip of a column and row (R664, R665). -/
def ioPin (pc pr j : Nat) : Nat := 36 * (4 * (pr / 192) + pc / 192) + j

/-- The standard that a user I/O pin follows: 0 off, 1 LVCMOS, 2 LVDS (R667). -/
def State.padStd (s : State) (d k : Nat) : Nat :=
  let std := s.fld (Fld.UIO_PAD_STD d k)
  if std = 1 ∧ s.fld (Fld.UIO_PAD_GEAR d k) = 0 then 1 else if std = 2 ∧ k % 2 = 0 then 2 else 0

/-- The odd pin of an LVDS pair, whose signals are ignored (R666). -/
def State.padMinor (s : State) (d k : Nat) : Bool := k % 2 = 1 && s.padStd d (k - 1) = 2

/-- A pin moves four bits in each pad clock (R666, R667). -/
def State.padGear (s : State) (d k : Nat) : Bool := s.padStd d k = 2 && s.fld (Fld.UIO_PAD_GEAR d k) = 1

/-- The die-logical sector of a user I/O pin (R664). -/
def State.padSector (s : State) (d k : Nat) : Nat := 4 * (k / 144) + s.physX d 4 (k / 36 % 4)

/-- The region of a pin's sector runs and is not frozen, so that the pin's settings act (R667). -/
def State.padRuns (s : State) (d k : Nat) : Bool := s.sectorRuns d (s.padSector d k)

/-- A pair on which nothing has moved. -/
def PadSt.idle : PadSt := { tx1 := 0, tx2 := 0, sent := 0, rx1 := 0, rx := 0 }

/-- The path of a pair with GEAR 1. -/
def State.pad (s : State) (d k : Nat) : PadSt := SMap.get PadSt.idle s.pads (576 * d + k)

/-- Replace it. -/
def State.setPad (s : State) (d k : Nat) (x : PadSt) : State := { s with pads := SMap.put PadSt.idle s.pads (576 * d + k) x }

/-! ## What interfaces show (R188, R253, R350, R424, R534)

Outputs that a rule does not list read 0. A data output that a rule gives no value for, because nothing is valid on it, is free: none
here. -/

/-- Bit `n` of a word that is valid, or a free value. -/
def validBit {w : Nat} (x : Option (BitVec w)) (n : Nat) : Option Bool := x.map fun v => v.getLsbD n

/-- The memory port of a position in a Mica-port column, and the port position (R184, R188). -/
def micaAt (pc pr : Nat) : Nat × Nat :=
  (64 * (12 * (pc / 192) + 3 * (pc % 192 / 48) + (pc % 48 - 45)) + 16 * (pr / 192) + pr % 192 / 12, pr % 12)

/-- The outputs of a Mica port (R188, R192, R193, R197, R217). -/
def State.micaOutput (s : State) (d pc pr n : Nat) : Option Bool :=
  let (port, r) := micaAt pc pr
  let x := s.micaShows d port
  let got := fun (f : MicaResp → Bool) => x.map f
  if r = 0 then
    match n with
    | 0 => some (s.micaReady d port)
    | 1 => some x.isSome
    | 2 => got fun v => v.poison
    | 3 => got fun v => natBit v.cause 0
    | 4 => got fun v => natBit v.cause 1
    | 5 => got fun v => natBit v.status 0
    | 6 => got fun v => natBit v.status 1
    | 7 => got fun v => v.corr
    | _ => some false
  else if r < 9 ∧ n < 8 then validBit (x.map fun v => v.data) (8 * (r - 1) + n)
  else some false

/-- The group and engine of a position in a signal-engine column, and the engine position (R221, R222). -/
def engAt (pc pr : Nat) : Nat × Nat × Nat :=
  (4 * (12 * (pc / 192) + 3 * (pc % 192 / 48) + (pc % 48 - 42)) + pr / 192, pr % 192 / 16, pr % 16)

/-- The engine of a position. -/
def State.engOf (s : State) (d pc pr : Nat) : EngSt :=
  let (g, e, _) := engAt pc pr
  s.eng (12 * (192 * d + g) + e)

/-- The outputs of an engine; those of a disabled group read 0 (R227, R253, R254, R264). RUNNING is 0 for a WAITING engine: R253 does not say
(DESIGN CHOICE, assumption 64). -/
def State.engOutput (s : State) (d pc pr n : Nat) : Option Bool :=
  let (g, _, r) := engAt pc pr
  let v := s.engOf d pc pr
  if ¬s.groupEnabled d g then some false
  else
    match r with
    | 0 => validBit v.sout0.head? n
    | 1 => validBit v.sout0.head? (32 + n)
    | 2 => validBit v.sout1.head? n
    | 3 => validBit v.sout1.head? (32 + n)
    | 4 => some (match n with
      | 0 => decide (v.sin0.length < 4)
      | 1 => decide (v.sin1.length < 4)
      | 2 => !v.sout0.isEmpty
      | 3 => !v.sout1.isEmpty
      | 4 => decide (v.run = .running)
      | 5 => decide (v.run = .faulted)
      | _ => false)
    | _ => some false

/-- The user fabric port of a strip position (R137, R309). -/
def State.stripPort (s : State) (d pc pr : Nat) : Ep := s.mkEp d (s.physX d 8 (pc / 96)) (pr / 96) (pr % 96 / 24)

/-- The flits that a port presents: whether they are of the response class, which comes first, and the one or two valid slots
(R352). -/
def UPort.shown (u : UPort) : Bool × List RxFlit := if u.rsp.isEmpty then (false, u.req.take 2) else (true, u.rsp.take 2)

/-- The packet whose header this flit is has the response class (R315, R351). -/
def headRsp (h : W256) : Bool := natBits h.toNat 17 16 = 1

/-- Flits that a port holds of a class. Data flits of a packet whose LEN no packet may have take no room. -/
def UPort.held (u : UPort) (rsp : Bool) : Nat :=
  let part := match u.tx with
    | [] => 0
    | h :: _ => if headRsp h.1 = rsp ∧ natBits h.1.toNat 15 8 ≤ 16 then u.tx.length else 0
  u.ready.foldl (fun n p => if decide (p.1.cls = 1) = rsp then n + p.1.flits else n) part

/-- TX_RDY of a class: the port is enabled and under no fence, and has room for two more flits; a draining port starts no new request
(R347, R351). The capacity is the implementation's (DESIGN CHOICE, assumption 66). -/
def State.txReady (s : State) (e : Ep) (rsp : Bool) : Bool :=
  let u := s.uport e
  let goesOn : Bool := match u.tx with
    | [] => false
    | h :: _ => u.begun && !headRsp h.1
  s.userEnabled e && !s.portFenced e && decide (u.held rsp + 2 ≤ Config.portRoom + 18) && (rsp || !s.drains.contains e || goesOn)

/-- The outputs of a user fabric port; an unused one reads 0 (R139, R350). -/
def State.portOutput (s : State) (d pc pr n : Nat) : Option Bool :=
  let e := s.stripPort d pc pr
  let r := pr % 24
  let (rsp, l) := (s.uport e).shown
  let slot := fun (i : Nat) => l[i]?
  if ¬s.userEnabled e then some false
  else if r < 16 then validBit ((slot (r / 8)).map fun f => f.data) (32 * r % 256 + n)
  else if r = 16 then
    match n with
    | 0 => some (s.txReady e false)
    | 1 => some (s.txReady e true)
    | 2 => some (slot 0).isSome
    | 3 => some (slot 1).isSome
    | 12 => (slot 0).map fun f => natBit f.kind 0
    | 13 => (slot 0).map fun f => natBit f.kind 1
    | 14 => (slot 1).map fun f => natBit f.kind 0
    | 15 => (slot 1).map fun f => natBit f.kind 1
    | 16 => if l.isEmpty then none else some rsp
    | 17 => some (s.portFenced e)
    | _ => if n < 12 then validBit ((slot ((n - 4) / 4)).map fun f => f.poison) ((n - 4) % 4) else some false
  else some false

/-- The bundle behind a position of a bundle strip, as 16 d + b (R30, R138). -/
def State.stripBundle (s : State) (d pc : Nat) : Nat := 16 * d + s.physX d 16 (pc / 48)

/-- A bundle carries wire-mode signals: its pair is CONNECTED or DOWN, or it has not yet returned to packet mode (R139, R426, R430). -/
def State.stripWire (s : State) (i : Nat) : Bool :=
  (List.range 16).any fun k => s.pairPhase k i = 2 || s.pairPhase k i = 4

/-- The outputs of a transceiver interface; a disabled one reads 0 (R534, R536). When the transmitter takes a word is the line's
business: TX_READY is free. -/
def State.xcvOutput (s : State) (d pc pr n : Nat) : Option Bool :=
  let t := pc / 64
  let x := s.xcvSt d t
  let r := pr - 752
  if ¬s.xcvIface d t then some false
  else if r < 5 then some (x.rx.getLsbD (32 * r + n))
  else if r = 5 then
    match n with
    | 0 => none
    | 1 => some x.valid
    | 2 => some x.cwStart
    | 3 => some x.uncorr
    | 4 => some (s.bit (Fld.XCV_STAT_CDR_LOCK d t))
    | 5 => some (s.bit (Fld.XCV_STAT_FEC_LOCK d t))
    | _ => some false
  else some false

/-- The number of a position of the device. -/
def posNum (d pc pr : Nat) : Nat := (d * 768 + pc) * 768 + pr

/-- A free value at output or strip output `n` of a position. -/
def State.freeOut (s : State) (d pc pr n : Nat) : Bool := Config.freeNet s.free (32 * posNum d pc pr + n)

/-- A free value for the selection point `n` of a position that is two-hot (R129). -/
def State.twoHot (s : State) (d pc pr n : Nat) : Bool := Config.freeTwoHot s.free (512 * posNum d pc pr + n)

/-- The pin and bit of RXD behind a strip output of an I/O strip (R665). -/
def ioRx (pc pr n : Nat) : Option (Nat × Nat) :=
  let r := pr % 192 - 94
  if r < 4 then some (ioPin pc pr n, r)
  else if n < 16 then some (ioPin pc pr (32 + n % 4), n / 4)
  else none

/-- The value of a signal. `fuel` bounds the length of a path: no path without a loop is as long as the fuel that `State.signal`
gives, and a combinational loop carries a free value. -/
def State.sig (s : State) (d : Nat) (fuel : Nat) (x : Sig) : Bool :=
  match fuel with
  | 0 => Config.freeNet s.free (2 ^ 40)
  | n + 1 =>
    let go := s.sig d n
    match x with
    | .wire k dir i pc pr =>
      match hotOf 16 (frameBits (s.frame (posKey d pc pr 0)) (16 * (60 * dir + wireBase k + i)) 16) with
      | .none => false
      | .one slot =>
        match driverSource k dir i slot pc pr with
        | none => false
        | some y => go y
      | .more => s.twoHot d pc pr (60 * dir + wireBase k + i)
    | .tap k dir i m pc pr =>
      match wireStart k dir m pc pr with
      | none => false
      | some (qc, qr) =>
        if sameSector pc pr qc qr ∨ s.posRuns d qc qr then go (.wire k dir i qc qr)
        else SMap.get false s.latches (latchKey d qc qr dir i)
    | .out pc pr m =>
      if isClusterCol pc then go (if m < 16 then .o pc pr m else .q pc pr (m - 16))
      else ((if pc % 48 < 45 then s.engOutput d pc pr m else s.micaOutput d pc pr m)).getD (s.freeOut d pc pr m)
    | .strip pc pr m =>
      match stripOf pc pr with
      | .none => false
      | .port => (s.portOutput d pc pr m).getD (s.freeOut d pc pr m)
      | .bundle => s.stripWire (s.stripBundle d pc) && (s.strip (s.stripBundle d pc)).rx.getLsbD (32 * pr + m)
      | .xcv => (s.xcvOutput d pc pr m).getD (s.freeOut d pc pr m)
      | .io =>
        match ioRx pc pr m with
        | none => false
        | some (k, b) =>
          let std := s.padStd d k
          if std = 0 ∨ s.padMinor d k then false
          else if (s.jtagDrive (.pad d k)).isSome then ((s.jtagDrive (.pad d k)).getD none).getD (s.freeOut d pc pr m) && b = 0
          else if s.padGear d k then (s.pad d k).rx.getLsbD b
          else if b ≠ 0 then false
          else if go (.att pc (pr / 192 * 192 + 98) (k % 36)) then go (.att pc (pr / 192 * 192 + 94) (k % 36))
          else s.freeOut d pc pr m
    | .inp pc pr j =>
      match hotOf 24 (frameBits (s.posFrame d pc pr) (24 * j) 24) with
      | .none => false
      | .one slot => go (inputSource j slot pc pr)
      | .more => s.twoHot d pc pr (256 + j)
    | .att pc pr j =>
      match hotOf 24 (frameBits (s.posFrame d pc pr) (2000 + 24 * j) 24) with
      | .none => false
      | .one slot => go (inputSource j slot pc pr)
      | .more => s.twoHot d pc pr (320 + j)
    | .sel pc pr c l =>
      let v := cellBits (s.posFrame d pc pr) c (16 + 6 * l + 5) (16 + 6 * l)
      if v < 20 then go (.inp pc pr (if l % 2 = 0 then v else 20 + v))
      else if v < 36 then go (.o pc pr (v - 20))
      else if v < 52 then go (.q pc pr (v - 36))
      else v = 53
    | .lut pc pr c =>
      let f := s.posFrame d pc pr
      let base := lutBase f c
      let adr := b2n (go (.sel pc pr base 0)) + 2 * b2n (go (.sel pc pr base 1)) + 4 * b2n (go (.sel pc pr base 2))
        + 8 * b2n (go (.sel pc pr base 3))
      natBit (cellBits f c 15 0) adr
    | .carry pc pr c =>
      let f := s.posFrame d pc pr
      match c with
      | 0 =>
        match clusterBits f 29 28 with
        | 0 =>
          if pr % 192 = 0 then false
          else
            let g := s.posFrame d pc (pr - 1)
            if go (.lut pc (pr - 1) 15) then go (.carry pc (pr - 1) 15)
            else cellBits g 15 43 43 = 0 && go (.sel pc (pr - 1) (lutBase g 15) 0)
        | 1 => false
        | 2 => true
        | _ => go (.inp pc pr 39)
      | b + 1 =>
        if go (.lut pc pr b) then go (.carry pc pr b)
        else cellBits f b 43 43 = 0 && go (.sel pc pr (lutBase f b) 0)
    | .o pc pr c =>
      let f := s.posFrame d pc pr
      match cellBits f c 41 40 with
      | 1 =>
        if c % 2 = 0 then false
        else
          let e := go (.sel pc pr (eSource f c) 3)
          if joined6 f c then
            let low := if e then go (.lut pc pr (4 * (c / 4) + 1)) else go (.lut pc pr (4 * (c / 4)))
            if c % 4 = 1 then low
            else if go (.sel pc pr c 3) then (if e then go (.lut pc pr c) else go (.lut pc pr (c - 1)))
            else low
          else if e then go (.lut pc pr c) else go (.lut pc pr (c - 1))
      | 2 => go (.lut pc pr c) != go (.carry pc pr c)
      | _ => go (.lut pc pr c)
    | .q pc pr c =>
      let f := s.posFrame d pc pr
      let sr := cellBits f c 49 48
      if s.posClocked d pc pr ∧ (sr = 1 ∨ sr = 2) ∧ clusterBits f (25 + sr) (25 + sr) = 1 ∧ go (.inp pc pr (43 + sr)) = true then
        cellBits f c 50 50 = 1
      else s.ffValue d pc pr c

/-- The value of a signal of a die, with fuel for every path without a loop. -/
def State.signal (s : State) (d : Nat) (x : Sig) : Bool := s.sig d (2 ^ 29) x

/-! ## Clock edges (R95 to R98, R102 to R104) -/

/-- The tree that line CLK0 or CLK1 of a cluster selects (R95). -/
def clkTree (f : BitVec 4096) (line : Nat) : Nat := clusterBits f (18 + 5 * line) (14 + 5 * line)

/-- Line CLK0 or CLK1 of the cluster has an active edge between `s` and `u` (R95). -/
def State.lineEdge (s u : State) (d pc pr line : Nat) : Bool :=
  let f := s.posFrame d pc pr
  s.treeEdge u d (s.posSector d pc pr) (clkTree f line) (clusterBits f (24 + line) (24 + line) = 1)

/-- The clock enable of a cell (R96). -/
def State.cellEnable (s : State) (d pc pr c : Nat) : Bool :=
  let ce := cellBits (s.posFrame d pc pr) c 47 45
  ce = 4 || (ce < 4 && s.signal d (.inp pc pr (40 + ce)))

/-- The D input of a cell (R86, R92, R104). -/
def State.cellD (s : State) (d pc pr c : Nat) : Bool :=
  let f := s.posFrame d pc pr
  s.signal d (.sel pc pr (if ownD f c then c else lutBase f c) 3)

/-- SR0 or SR1 sets or resets the cell and is asserted; `async` says of which kind (R97, R98). -/
def State.srActs (s : State) (d pc pr c : Nat) (async : Bool) : Bool :=
  let f := s.posFrame d pc pr
  let sr := cellBits f c 49 48
  (sr = 1 || sr = 2) && (clusterBits f (25 + sr) (25 + sr) = 1) = async && s.signal d (.inp pc pr (43 + sr))

/-- SRVAL of a cell. -/
def State.srVal (s : State) (d pc pr c : Nat) : Bool := cellBits (s.posFrame d pc pr) c 50 50 = 1

/-- Q of a cell after this tick, from the signals before it, under the priorities of R98. -/
def State.ffNext (s u : State) (d pc pr c : Nat) : Bool :=
  let f := s.posFrame d pc pr
  if s.posClocked d pc pr ∧ s.srActs d pc pr c true = true then s.srVal d pc pr c
  else if s.lineEdge u d pc pr (cellBits f c 44 44) then
    if s.srActs d pc pr c false then s.srVal d pc pr c
    else if s.cellEnable d pc pr c then
      (if cellBits f c 42 42 = 1 then s.cellD d pc pr c else s.signal d (.o pc pr c))
    else s.ffValue d pc pr c
  else s.ffValue d pc pr c

/-- The frame with the truth table of cell `c` replaced. -/
def setTT (f : BitVec 4096) (c tt : Nat) : BitVec 4096 :=
  let off := 1104 + 53 * c
  BitVec.ofNat 4096 (f.toNat / 2 ^ (off + 16) * 2 ^ (off + 16) + tt % 65536 * 2 ^ off + f.toNat % 2 ^ off)

/-- A number with bit `n` set to `b`. -/
def putNatBit (v n : Nat) (b : Bool) : Nat := if natBit v n = b then v else if b then v + 2 ^ n else v - 2 ^ n

/-- The truth tables of a LUTRAM or SHIFT cluster after this tick (R101 to R104). -/
def State.ttNext (s u : State) (d pc pr : Nat) : BitVec 4096 :=
  let f := s.posFrame d pc pr
  let inp := fun (j : Nat) => s.signal d (.inp pc pr j)
  match clusterMode f with
  | 1 =>
    if s.lineEdge u d pc pr 0 ∧ inp 33 = true ∧ inp 40 = true then
      let w := (List.range 5).foldl (fun a i => a + b2n (inp (20 + i)) * 2 ^ i) 0
      (List.range 8).foldl (fun g b =>
        let c := 2 * b + w / 16
        setTT g c (putNatBit (cellBits f c 15 0) (w % 16) (inp (25 + b)))) f
    else f
  | 2 =>
    (List.range 16).foldl (fun g c =>
      if s.lineEdge u d pc pr (cellBits f c 44 44) ∧ s.cellEnable d pc pr c = true then
        let first := if cellBits f c 52 52 = 1 then natBit (cellBits f (c - 1) 15 0) 15 else s.cellD d pc pr c
        setTT g c (2 * cellBits f c 15 0 + b2n first)
      else g) f
  | _ => f

/-- The column and row of a frame key of an odd frame in a cluster column, with its die. -/
def clusterOfKey (key : Nat) : Option (Nat × Nat × Nat) :=
  let fr := key % 384
  let col := key / 384 % 192
  let sec := key / (384 * 192) % 16
  if fr % 2 = 1 ∧ isClusterCol col then some (key / (384 * 192 * 16), 192 * (sec % 4) + col, 192 * (sec / 4) + fr / 2) else none

/-- The configured clusters of RUNNING regions: the others are under the configuration hold, or FAULTED (R110, R113). -/
def State.liveClusters (s : State) : List (Nat × Nat × Nat) :=
  (s.frames.filterMap fun e => clusterOfKey e.1).filter fun p => s.posState p.1 p.2.1 p.2.2 = 3

/-- Store the value of a flip-flop; INIT is not listed. -/
def State.setFF (s : State) (d pc pr c : Nat) (b : Bool) : State :=
  { s with ffs := SMap.put (decide (cellBits (s.posFrame d pc pr) c 51 51 = 1)) s.ffs (ffKey d pc pr c) b }

/-- The new contents of one cluster, from the signals before the tick (`s`) and the clocks after it (`u`). -/
def State.clockCluster (s u t : State) (p : Nat × Nat × Nat) : State :=
  let (d, pc, pr) := p
  let t := (List.range 16).foldl (fun (t : State) c => t.setFF d pc pr c (s.ffNext u d pc pr c)) t
  t.setFrame (posKey d pc pr 1) (s.ttNext u d pc pr)

/-- Every flip-flop and memory of the clusters after a tick. -/
def State.clustersTick (s u : State) : State := s.liveClusters.foldl (fun (t : State) p => State.clockCluster s u t p) u

/-- The clock of a user fabric port runs (R349). -/
def State.userClock (s : State) (e : Ep) : Bool :=
  let sec := logSector e.x.toNat e.y.toNat
  s.secClocked e.die.toNat sec && s.treeRuns e.die.toNat sec (natBits (s.upRec e.die.toNat e.x.toNat e.y.toNat e.p.toNat) 5 1)

/-- User logic can drive a port: its configuration record enables it, its clock runs, and its domains are up (R309, R349, R353). -/
def State.userMay (s : State) (e : Ep) : Bool :=
  let d := e.die.toNat
  s.localEp e && decide (portKind e = .user) && s.dieOk d && s.domLive (slateDom d 5) && s.domLive (s.portDomain e) && s.userEnabled e
    && s.userClock e

/-! ## Sectors that stop and start (R110 to R113, R132, R133, R565) -/

/-- TXD[r], or OE for `r = 4`, of user I/O pin `k` as the fabric gives it (R665). -/
def State.padSig (s : State) (d k r : Nat) : Bool :=
  let ps := k / 36
  s.signal d (.att (192 * (ps % 4) + 2) (192 * (ps / 4) + 94 + r) (k % 36))

/-- The level that the device itself gives a user I/O pin, none while it drives none (R136, R565, R602, R666, R667). The odd pin of a pair drives the opposite of
the even one. With GEAR 1 the level is that of the last bit sent in the present pad clock, and OE acts as with GEAR 0: R666 gives OE for
GEAR 0 only (DESIGN CHOICE, assumption 69). -/
def State.padCore (s : State) (d k : Nat) : Option Bool :=
  let low := s.padMinor d k
  let m := if low then k - 1 else k
  if ¬s.up ∨ ¬s.domLive (slateDom d 6) then none
  else if s.padRuns d k then
    if s.padStd d m = 0 ∨ ¬s.padSig d m 4 then none
    else some ((if s.padGear d m then (s.pad d m).sent.getLsbD 3 else s.padSig d m 0) != low)
  else
    let key := 2 * (576 * d + k)
    if SMap.get false s.padHold (key + 1) then some (SMap.get false s.padHold key) else none

/-- The level that a user I/O pin drives: boundary scan's where it takes the ball over (R540), else the device's own. -/
def State.padOut (s : State) (d k : Nat) : Option Bool := (s.jtagDrive (.pad d k)).getD (s.padCore d k)

/-- Bit `b` on the line of a pair with GEAR 1 in the present pad clock: what the pair sends, or what comes from outside (R666). -/
def State.padLine (s : State) (d k b : Nat) : Bool :=
  let free := Config.freeNet s.free (2 ^ 41 + 4 * (576 * d + k) + b)
  match s.jtagDrive (.pad d k) with
  | some v => v.getD free
  | none => if (s.padCore d k).isSome then (s.pad d k).sent.getLsbD b else free

/-- The L48 drivers of a listed even frame whose wires cross a sector edge: position, direction and index. -/
def edgeWires (key : Nat) : List (Nat × Nat × Nat × Nat) :=
  let fr := key % 384
  let sec := key / (384 * 192) % 16
  let pc := 192 * (sec % 4) + key / 384 % 192
  let pr := 192 * (sec / 4) + fr / 2
  if fr % 2 = 1 then []
  else
    ((List.range 16).filter fun n =>
      match stepPos pc pr (n / 4) 48 with
      | some (qc, qr) => !sameSector pc pr qc qr
      | none => false).map fun n => (pc, pr, n / 4, n % 4)

/-- A frame key lies in die-logical sector `sec` of die `d`. -/
def State.keyIn (s : State) (d sec key : Nat) : Bool :=
  keySector key = 16 * d + 4 * (sec / 4) + s.physX d 4 (sec % 4)

/-- The flip-flops of a sector keep what an asserted asynchronous set or reset gives them, before its clocks stop (R98, R113). -/
def State.storeAsync (s : State) (d sec : Nat) : State :=
  let here := s.liveClusters.filter fun p => p.1 = d && s.posSector d p.2.1 p.2.2 = sec && s.posClocked d p.2.1 p.2.2
  here.foldl (fun (t : State) (p : Nat × Nat × Nat) =>
    (List.range 16).foldl (fun (t : State) c =>
      if s.srActs d p.2.1 p.2.2 c true then t.setFF d p.2.1 p.2.2 c (s.srVal d p.2.1 p.2.2 c) else t) t) s

/-- Boundary latches and pins of a sector that stops hold their present values (R132, R565). -/
def State.holdSector (s : State) (d sec : Nat) : State :=
  let wires := (s.frames.filter fun e => s.keyIn d sec e.1).flatMap fun e => edgeWires e.1
  let ps := 4 * (sec / 4) + s.physX d 4 (sec % 4)
  let t := wires.foldl (fun (t : State) (w : Nat × Nat × Nat × Nat) =>
    let (pc, pr, dir, i) := w
    { t with latches := SMap.put false t.latches (latchKey d pc pr dir i) (s.signal d (.wire 4 dir i pc pr)) }) s
  (List.range 36).foldl (fun (t : State) j =>
    let k := 36 * ps + j
    let key := 2 * (576 * d + k)
    let out := s.padCore d k
    { t with padHold := SMap.put false (SMap.put false t.padHold key (out.getD false)) (key + 1) out.isSome }) t

/-- A position lies in a die-logical sector, by the number `(d * 768 + pc) * 768 + pr`. -/
def State.posIn (s : State) (d sec n : Nat) : Bool :=
  n / (768 * 768) = d && s.posSector d (n / 768 % 768) (n % 768) = sec

/-- Latches and held pins of a sector are gone, and its pins' paths and Mica ports start afresh: it runs again, or it is EMPTY (R133, R198,
R565). -/
def State.freeSector (s : State) (d sec : Nat) : State :=
  let ps := 4 * (sec / 4) + s.physX d 4 (sec % 4)
  { s with
    latches := SMap.dropIf s.latches (fun k => s.posIn d sec (k / 16))
    padHold := SMap.dropIf s.padHold (fun k => k / 1152 = d && k / 2 % 576 / 36 = ps)
    pads := SMap.dropIf s.pads (fun k => k / 576 = d && k % 576 / 36 = ps)
    mports := SMap.dropIf s.mports (fun k => k / 3072 = d && s.groupSector d (portGroup (k % 3072)) = sec) }

/-- Every flip-flop of a sector is at INIT (R110). -/
def State.initSector (s : State) (d sec : Nat) : State :=
  { s with ffs := SMap.dropIf s.ffs (fun k => s.posIn d sec (k / 16)) }

/-- Every frame of a sector holds an all-zero payload (R549, R568). -/
def State.zeroSector (s : State) (d sec : Nat) : State :=
  { s with frames := SMap.dropIf s.frames (fun k => s.keyIn d sec k), upsets := SMap.dropIf s.upsets (fun k => s.keyIn d sec k) }

/-- A sector's power-up state (R227, R549). -/
def State.clearSector (s : State) (d sec : Nat) : State := (((s.zeroSector d sec).resetDisabled d).initSector d sec).freeSector d sec

/-- Clusters of a sector in LUTRAM or SHIFT mode (R117). -/
def State.dynClusters (s : State) (d sec : Nat) : Nat :=
  (s.frames.filter fun e =>
    s.keyIn d sec e.1 && (clusterOfKey e.1).isSome && (clusterMode e.2 = 1 || clusterMode e.2 = 2)).length

/-- SEC_FABRICs as it reads (R117, R563). -/
def State.secFabric (s : State) (d sec : Nat) : Word :=
  let runs := s.secClocked d sec
  match s.regionOf d sec with
  | none => BitVec.ofNat 32 (3 * 2 ^ 21 + s.dynClusters d sec)
  | some r =>
    let st := s.fld (Fld.CFG_REG_STAT_STATE r)
    BitVec.ofNat 32 (2 ^ 31 + r * 2 ^ 23 + b2n (decide (st < 3)) * 2 ^ 22 + b2n (!runs) * 2 ^ 21 + s.dynClusters d sec)

end Sys2Proof.Machine
end

