-- ==== Sys2Proof/Machine/FrameCheck.lean ====
section
/-! DEFINITION. The loader's checks of a frame: encodings, driver conflicts, absent drivers and reserved bits, each with the bit
address that the loader reports and the reason (R92, R105, R109, R128, R189, R225, R349, R535, R545 to R548). -/

namespace Sys2Proof.Machine

/-- A fault: its bit address and its reason under R560. -/
abbrev FrameFault := Nat × Nat

/-- A fault at a place when a condition holds. -/
def faultIf (c : Bool) (bit reason : Nat) : List FrameFault := if c then [(bit, reason)] else []

/-- The lowest bit that is 1 among `w` bits from `off`, as a fault. -/
def reservedFault (f : BitVec 4096) (off w reason : Nat) : List FrameFault :=
  match (List.range w).find? (fun i => f.getLsbD (off + i)) with
  | some i => [(off + i, reason)]
  | none => []

/-- Two or more bits of a field are 1. -/
def twoHot (w v : Nat) : Bool := hotOf w v = .more

/-- The place of a frame: column and row of its position. -/
def framePos (key : Nat) : Nat × Nat :=
  let sec := key / (384 * 192) % 16
  (192 * (sec % 4) + key / 384 % 192, 192 * (sec / 4) + key % 384 / 2)

/-- Faults of the driver fields of frame `2r` (R128, R545). -/
def driverFaults (pc pr : Nat) (f : BitVec 4096) : List FrameFault :=
  (List.range 4).flatMap fun dir => (List.range 5).flatMap fun k => (List.range (wireCount k)).flatMap fun i =>
    let off := 16 * (60 * dir + wireBase k + i)
    let v := frameBits f off 16
    if !driverExists k dir pc pr then faultIf (decide (v ≠ 0)) off 15 else faultIf (twoHot 16 v) off 14

/-- OSEL of a cell holds an invalid value (R85, R92). -/
def oselBad (f : BitVec 4096) (c : Nat) : Bool :=
  let o := cellBits f c 41 40
  o = 3 || (o = 1 && (c % 2 = 0 || !(joined5 f c || joined6 f c)))

/-- CASC of a cell breaks R105. -/
def cascBad (f : BitVec 4096) (c : Nat) : Bool :=
  cellBits f c 52 52 = 1 &&
    (c = 0 || cellBits f c 44 44 ≠ cellBits f (c - 1) 44 44 || cellBits f c 47 45 ≠ cellBits f (c - 1) 47 45)

/-- Faults of one cell record (R89, R92, R96, R97, R105, R109). -/
def cellFaults (f : BitVec 4096) (c : Nat) : List FrameFault :=
  let off := 1104 + 53 * c
  (List.range 4).flatMap (fun l => faultIf (decide (54 ≤ cellBits f c (16 + 6 * l + 5) (16 + 6 * l))) (off + 16 + 6 * l) 13)
    ++ faultIf (oselBad f c) (off + 40) 13
    ++ faultIf (decide (5 ≤ cellBits f c 47 45)) (off + 45) 13
    ++ faultIf (decide (cellBits f c 49 48 = 3)) (off + 48) 13
    ++ faultIf (cascBad f c) (off + 52) 13

/-- Faults of the cluster record and its reserved bits (R95, R100, R108, R109). -/
def clusterFaults (f : BitVec 4096) : List FrameFault :=
  faultIf (decide (clusterMode f = 3)) 1952 13
    ++ faultIf (decide (24 ≤ clkTree f 0)) 1966 13
    ++ faultIf (decide (24 ≤ clkTree f 1)) 1971 13
    ++ reservedFault f 1982 18 13

/-- The interface record that a position holds, as its reason and its first reserved record bit (R547). -/
def ifaceKind (pc pr : Nat) : Option (Nat × Nat) :=
  if 45 ≤ pc % 48 ∧ pr % 12 = 0 then some (16, 8)
  else if 42 ≤ pc % 48 ∧ pc % 48 < 45 ∧ pr % 192 = 0 then some (17, 7)
  else if pc % 96 = 41 ∧ pr % 24 = 16 then some (18, 8)
  else if pc % 64 = 20 ∧ pr = 757 then some (19, 7)
  else none

/-- Faults of the interface record field. -/
def ifaceFaults (pc pr : Nat) (f : BitVec 4096) : List FrameFault :=
  match ifaceKind pc pr with
  | none => reservedFault f 3104 16 12
  | some (reason, first) =>
    faultIf (decide (24 ≤ frameBits f 3105 5)) 3105 reason ++ reservedFault f (3104 + first) (16 - first) reason

/-- Every fault of frame `2r + 1`. -/
def oddFaults (pc pr : Nat) (f : BitVec 4096) : List FrameFault :=
  (List.range 46).flatMap (fun j => faultIf (twoHot 24 (frameBits f (24 * j) 24)) (24 * j) 14)
    ++ (if isClusterCol pc then (List.range 16).flatMap (cellFaults f) ++ clusterFaults f else reservedFault f 1104 896 12)
    ++ (if stripOf pc pr ≠ .none then
          (List.range 46).flatMap (fun j => faultIf (twoHot 24 (frameBits f (2000 + 24 * j) 24)) (2000 + 24 * j) 14)
        else reservedFault f 2000 1104 12)
    ++ ifaceFaults pc pr f
    ++ reservedFault f 3120 976 12

/-- Every fault of a frame. -/
def frameFaults (key : Nat) (f : BitVec 4096) : List FrameFault :=
  let (pc, pr) := framePos key
  if key % 2 = 0 then driverFaults pc pr f ++ reservedFault f 3840 256 12 else oddFaults pc pr f

/-- The fault at the lowest bit address (R128). -/
def lowestFault (l : List FrameFault) : Option FrameFault :=
  l.foldl (fun m x => match m with
    | none => some x
    | some y => if x.1 < y.1 then some x else some y) none

/-- The fault that the loader reports for a frame, if it rejects it. -/
def frameCheck (key : Nat) (f : BitVec 4096) : Option FrameFault := lowestFault (frameFaults key f)

/-- A one-hot field of the frame is two-hot, be its driver there or not (R130). -/
def frameTwoHot (key : Nat) (f : BitVec 4096) : Bool :=
  if key % 2 = 0 then (List.range 240).any fun j => twoHot 16 (frameBits f (16 * j) 16) else (frameFaults key f).any fun x => x.2 = 14

end Sys2Proof.Machine
end

