-- ==== Sys2Proof/Machine/Lms.lean ====
section
/-! DEFINITION. Checking LMS signatures under SHA-256 with M = 32 (R552, R618, R632), by the algorithm of RFC 8554 that the manual
names (assumption 20). -/

namespace Sys2Proof.Machine

/-- Bytes `n` to `n + k - 1` of a list. -/
def slice (bs : List Byte) (n k : Nat) : List Byte := (bs.drop n).take k

/-- A 32-bit big-endian number at a place. -/
def be32 (bs : List Byte) (n : Nat) : Nat := natBE (slice bs n 4)

/-- The Winternitz width of an LMOTS type: only W4 (3) and W8 (4) are in use (R618). -/
def otsWidth (t : Nat) : Option Nat := if t = 3 then some 4 else if t = 4 then some 8 else none

/-- Number of chains of a width. -/
def otsChains (w : Nat) : Nat := if w = 4 then 67 else 34

/-- Height of an LMS type, 5 to 9 for 5, 10, 15, 20 and 25. -/
def lmsHeight (t : Nat) : Option Nat := if 5 ≤ t ∧ t ≤ 9 then some (5 * (t - 4)) else none

/-- Digit `i` of width `w` of a byte string, most significant first. -/
def digit (bs : List Byte) (w i : Nat) : Nat :=
  if w = 8 then (bs.getD i 0).toNat
  else natBits (bs.getD (i / 2) 0).toNat (if i % 2 = 0 then 7 else 3) (if i % 2 = 0 then 4 else 0)

/-- The hash with its checksum digits appended. -/
def withChecksum (h : List Byte) (w : Nat) : List Byte :=
  let n := 256 / w
  let sum := ((List.range n).map fun i => 2 ^ w - 1 - digit h w i).sum
  h ++ bytesBE 2 (if w = 4 then sum * 16 else sum)

/-- The rest of a hash chain: `n` more steps from step `j`. -/
def chain (pre : List Byte) (n j : Nat) (v : List Byte) : List Byte :=
  match n with
  | 0 => v
  | m + 1 => chain pre m (j + 1) (sha256 (pre ++ bytesBE 1 j ++ v))

/-- The candidate one-time key of a message. -/
def otsKey (ident : List Byte) (q w : Nat) (c y msg : List Byte) : List Byte :=
  let iq := ident ++ bytesBE 4 q
  let h := withChecksum (sha256 (iq ++ bytesBE 2 0x8181 ++ c ++ msg)) w
  let parts := (List.range (otsChains w)).flatMap fun i =>
    let a := digit h w i
    chain (iq ++ bytesBE 2 i) (2 ^ w - 1 - a) a (slice y (32 * i) 32)
  sha256 (iq ++ bytesBE 2 0x8080 ++ parts)

/-- Climb the tree from node `node`, whose value is `v`. -/
def lmsClimb (ident : List Byte) (path : List Byte) (n : Nat) (node : Nat) (v : List Byte) : List Byte :=
  match n with
  | 0 => v
  | m + 1 =>
    let sib := path.take 32
    let pre := ident ++ bytesBE 4 (node / 2) ++ bytesBE 2 0x8383
    lmsClimb ident (path.drop 32) m (node / 2) (sha256 (if node % 2 = 1 then pre ++ sib ++ v else pre ++ v ++ sib))

/-- Bytes of a signature of LMOTS width `w` and height `h`. -/
def lmsSigLen (w h : Nat) : Nat := 44 + 32 * otsChains w + 32 * h

/-- The width and height that the first fields of a signature name, if R618 allows them. -/
def lmsTypes (sig : List Byte) : Option (Nat × Nat) :=
  match otsWidth (be32 sig 4) with
  | none => none
  | some w =>
    match lmsHeight (be32 sig (40 + 32 * otsChains w)) with
    | none => none
    | some h => some (w, h)

/-- A string is as long as the signature it begins says. -/
def lmsSigOk (sig : List Byte) : Bool :=
  match lmsTypes sig with
  | none => false
  | some (w, h) => decide (sig.length = lmsSigLen w h)

/-- A signature by a 56-byte public key over a message checks. -/
def lmsVerify (pk msg sig : List Byte) : Bool :=
  match lmsTypes sig with
  | none => false
  | some (w, h) =>
    let q := be32 sig 0
    let lmsType := be32 sig (40 + 32 * otsChains w)
    let ident := slice pk 8 16
    if sig.length ≠ lmsSigLen w h ∨ pk.length ≠ 56 ∨ be32 pk 0 ≠ lmsType ∨ be32 pk 4 ≠ be32 sig 4 ∨ 2 ^ h ≤ q then false
    else
      let kc := otsKey ident q w (slice sig 8 32) (slice sig 40 (32 * otsChains w)) msg
      let leaf := sha256 (ident ++ bytesBE 4 (2 ^ h + q) ++ bytesBE 2 0x8282 ++ kc)
      lmsClimb ident (sig.drop (44 + 32 * otsChains w)) h (2 ^ h + q) leaf = slice pk 24 32

end Sys2Proof.Machine
end

