-- ==== Sys2Proof/Machine/Leases.lean ====
section
/-! DEFINITION. Leases: the resources an owner holds, declaring an owner faulted, and what its revocation does (R76 to R81). The
semaphores of FLN (R78). -/

namespace Sys2Proof.Machine

/-! ## Acquire and release (R78) -/

/-- A write of OP to a lease register pair: 1 takes a free resource, 0 frees one's own (R78, R555, R578, R644). -/
def State.leaseOp (s : State) (ownerReg : Nat) (op : Bool) (who : Word) : State :=
  let cur := s.reg ownerReg
  if op then (if cur = 0 then s.setReg ownerReg who else s)
  else if cur = who then s.setReg ownerReg 0
  else s

/-! ## Queue pairs as resources (R76, R493, R509) -/

/-- A pair that has never been enabled. -/
def Pair.fresh : Pair := { sqTail := 0, cqHead := 0, cqTail := 0, phase := true, descs := [], nextNum := 0 }

/-- A queue pair. -/
def State.pair (s : State) (q : Nat) : Pair := SMap.get Pair.fresh s.pairs q

/-- Replace a queue pair. -/
def State.setPair (s : State) (q : Nat) (p : Pair) : State :=
  let s : State := { s with pairs := SMap.put Pair.fresh s.pairs q p }
  s.setFld (Fld.QUE_Q_STAT_INFLIGHT q) p.descs.length

/-- Revocation reaches a pair: descriptors that are fetched stop (R76). -/
def State.pairStop (s : State) (q : Nat) : State :=
  let p := s.pair q
  s.setPair q { p with descs := p.descs.map fun x => { x with stop := true } }

/-! ## The resources of an owner (R76, R77) -/

/-- The owner ID behind local port `e` of a router: its region for a user fabric port, itself otherwise (R77). -/
def State.portOwner (s : State) (e : Ep) : Word :=
  if portKind e = .user then
    match s.portRegion e with
    | some r => ownerId 4 s.odx s.ody r
    | none => 0
  else epOwner e

/-- The router ports with reserved credits that an owner's endpoints hold, as (die, router, port, slots). -/
def State.resvOf (s : State) (w : Word) : List Lease :=
  s.regs.filterMap fun e =>
    match blockAt e.1 with
    | some b =>
      if b.desc.blk = .rtr ∧ 0x100 ≤ b.off ∧ b.off < 0x11C ∧ bits e.2 24 16 ≠ 0
        ∧ s.portOwner (s.mkEp b.die (b.inst % 8) (b.inst / 8) ((b.off - 0x100) / 4)) = w
      then some (.resv b.die b.inst ((b.off - 0x100) / 4) (bits e.2 24 16))
      else none
    | none => none

/-- Every lease that an owner holds. -/
def State.leasesOf (s : State) (w : Word) : List Lease :=
  ((List.range 64).filter fun k => s.reg (Reg.FLN_SEM k) = w).map .sem
    ++ (if ownerKind w = 2 ∧ ownerIndex w < 256 ∧ s.fld (Fld.QUE_Q_STAT_STATE (ownerIndex w)) ≠ 0 ∧ ownerId 2 s.odx s.ody (ownerIndex w) = w
        then [.pair (ownerIndex w)] else [])
    ++ (if s.reg Reg.CFG_LOCK = w then [.cfgLock] else [])
    ++ ((List.range 4).filter fun d => s.reg (Reg.PRB_OWNER d) = w).map .probe
    ++ ((List.range 64).filter fun k => s.reg (Reg.OBS_KEY_OWNER k) = w).map .key
    ++ ((List.range 4).filter fun k => s.reg (Reg.PIN_FT_OWNER k) = w).map .filter
    ++ s.resvOf w

/-- A resource is marked: it reads with KIND 15, and RESV reads 0 at once (R76, R80). -/
def State.markLease (s : State) (l : Lease) : State :=
  match l with
  | .sem k => s.setReg (Reg.FLN_SEM k) revokingId
  | .pair q => s.pairStop q
  | .cfgLock => s.setReg Reg.CFG_LOCK revokingId
  | .probe d => s.setReg (Reg.PRB_OWNER d) revokingId
  | .key k => s.setReg (Reg.OBS_KEY_OWNER k) revokingId
  | .filter k => s.setReg (Reg.PIN_FT_OWNER k) revokingId
  | .resv d r p _ => s.setFld (Fld.RTR_PORT_RESV d r p) 0

/-- The report of a completed revocation (R80). -/
def State.leaseReport (s : State) (w : Word) : State :=
  ((s.setReg Reg.FLN_LEASE_LOG w).bump Fld.FLN_LEASE_STAT_COUNT).raise Fld.FLN_IRQ_STATUS_LEASE

/-- KIND values that name an owner (R77, R79). -/
def kindDeclares (k : Nat) : Bool := [1, 2, 3, 4, 6, 7].contains k

/-- Declare an owner faulted (R79, R80). -/
def State.declare (s : State) (w : Word) : State :=
  if ¬kindDeclares (ownerKind w) then s
  else
    let held := s.leasesOf w
    let s := held.foldl (fun (t : State) l => t.markLease l) s
    if s.revs.any (fun r => r.owner = w) then
      { s with revs := s.revs.map fun r => if r.owner = w then { r with held := r.held ++ held } else r }
    else if held = [] then (if s.flintUp then s.leaseReport w else s)
    else
      let s : State := { s with revs := s.revs ++ [{ owner := w, held := held, restarted := false }] }
      s.setFld Fld.FLN_LEASE_STAT_BUSY 1

/-- A pair enters ERROR with a cause and is declared faulted (R509). -/
def State.pairError (s : State) (q cause : Nat) : State :=
  ((s.setFld (Fld.QUE_Q_STAT_STATE q) 2).setFld (Fld.QUE_Q_STAT_ERRCAUSE q) cause).declare (ownerId 2 s.odx s.ody q)

/-- A write to FLN_REVOKE (R79, R509). -/
def State.revokeWrite (s : State) (w : Word) : State :=
  let q := ownerIndex w
  let st := s.fld (Fld.QUE_Q_STAT_STATE q)
  if ownerKind w = 2 ∧ q < 256 ∧ w = ownerId 2 s.odx s.ody q ∧ st ≠ 0 then
    if st = 1 then s.pairError q 4 else (s.setFld (Fld.QUE_Q_STAT_ERRCAUSE q) 4).declare w
  else s.declare w

/-! ## Effects of a revocation (R76) -/

/-- A probe capture stops; its probe pins lose their drive. -/
def State.probeRevoke (s : State) (d : Nat) : State :=
  let s := (s.setFld (Fld.PRB_CTRL_ARM d) 0).setReg (Reg.PRB_OWNER d) 0
  (List.range 16).foldl (fun (t : State) j =>
    if t.fld (Fld.CFG_PPIN_DIE j) = d then t.setFld (Fld.CFG_PPIN_EN j) 0 else t) s

/-- A filter timer stops, and every pin with IRQMODE other than 0 that names it has IRQMODE set to 0 (R644). PIN_FT, PERIOD and COUNT
with it, reads 0 from then on: the rule says only that the timer stops (DESIGN CHOICE, assumption 59). -/
def State.filterRevoke (s : State) (k : Nat) : State :=
  let s := (s.setReg (Reg.PIN_FT k) 0).setReg (Reg.PIN_FT_OWNER k) 0
  (List.range 64).foldl (fun (t : State) p =>
    let t := if t.fld (Fld.PIN_CFG_FT p) = k then t.setFld (Fld.PIN_CFG_IRQMODE p) 0 else t
    match SMap.find t.shadow (Reg.PIN_CFG p) with
    | some v => if bits v 28 27 = k then { t with shadow := SMap.set t.shadow (Reg.PIN_CFG p) (setBits v 31 29 0) } else t
    | none => t) s

/-- A resource is ready to become free: a pair has no request outstanding. -/
def State.leaseQuiet (s : State) (w : Word) (l : Lease) : Bool :=
  match l with
  | .pair q => s.hostReads.all (fun h => match h.why with
      | .sq p => p ≠ q
      | .data p _ _ => p ≠ q
      | _ => true) && s.tags.all fun t => !t.live || match t.purpose with
      | .dma p _ _ => decide (p ≠ q)
      | _ => true
  | .resv _ _ _ _ => !(s.tags.any fun t => t.live && s.portOwner t.ep = w)
  | _ => true

end Sys2Proof.Machine
end

