-- ==== Sys2Proof/Machine/Regions.lean ====
section
/-! DEFINITION. Regions: their sectors and ports, the fences of their ports, freezing, faulting and releasing them (R347, R354,
R563 to R568, R572). -/

namespace Sys2Proof.Machine

/-! ## Sectors and ports -/

/-- STATE of a region (R563). -/
def State.regState (s : State) (r : Nat) : Nat := s.fld (Fld.CFG_REG_STAT_STATE r)

/-- FROZEN of a region. -/
def State.regFrozen (s : State) (r : Nat) : Bool := s.bit (Fld.CFG_REG_STAT_FROZEN r)

/-- The sectors of a region as a 64-bit set: bit 16d + s (R551). -/
def State.regSectors (s : State) (r : Nat) : Nat := (s.reg (Reg.CFG_REG_SECLO r)).toNat + 2 ^ 32 * (s.reg (Reg.CFG_REG_SECHI r)).toNat

/-- The sectors of a set, as (die, sector). -/
def sectorList (set : Nat) : List (Nat × Nat) := ((List.range 64).filter fun n => natBit set n).map fun n => (n / 16, n % 16)

/-- The user fabric and engine group ports of a region (R28, R347). -/
def State.regPorts (s : State) (r : Nat) : List Ep :=
  (sectorList (s.regSectors r)).flatMap fun (d, sec) =>
    (List.range 28).map fun n => s.mkEp d (2 * (sec % 4) + n / 7 % 2) (2 * (sec / 4) + n / 14) (n % 7)

/-- What the device keeps of a region that is EMPTY. -/
def RegionInfo.none : RegionInfo := { ranges := [], version := 0, meas := List.replicate 32 0, ran := false }

/-- What the device keeps of a region. -/
def State.regionInfo (s : State) (r : Nat) : RegionInfo := SMap.get RegionInfo.none s.regions r

/-- Replace it. -/
def State.setRegionInfo (s : State) (r : Nat) (v : RegionInfo) : State := { s with regions := SMap.put RegionInfo.none s.regions r v }

/-! ## Fences (R347, R565, R567) -/

/-- A port raises its fence: its entries expire without delivery, delivered requests are answered FENCED, what user logic has not
wholly handed over or taken is discarded, FENCED reads 1. Responses that have arrived there and not been delivered count in LATE
(R343). -/
def State.fencePort (s : State) (e : Ep) : State :=
  let answer := (s.inbox.filter fun x => x.ep = e && x.pkt.cls = 0) ++ (s.unanswered.filter fun x => x.ep = e)
  let dropped := s.inbox.filter fun x => x.ep = e && x.pkt.cls = 1
  let s : State := { s with
    tags := s.tags.map fun t => if t.ep = e then { t with live := false, slots := 0 } else t
    inbox := s.inbox.filter fun x => x.ep ≠ e
    unanswered := s.unanswered.filter fun x => x.ep ≠ e
    fences := s.fences.filter fun x => x.ep ≠ e
    drains := s.drains.filter fun x => x ≠ e }
  let s := if portKind e = .user then s.setUport e UPort.idle else s
  let s := s.setFld (Fld.RTR_PORT_FENCED e.die.toNat e.router e.p.toNat) 1
  let s := dropped.foldl (fun (t : State) x => t.late e x.pkt) s
  answer.foldl (fun (t : State) x => t.send e (rspErr x.pkt 4)) s

/-- Nothing of a draining port is outstanding (steps 1 to 3 of R347). -/
def State.portDrained (s : State) (e : Ep) : Bool :=
  let u := if portKind e = .user then s.uport e else UPort.idle
  !(s.tags.any fun t => t.ep = e && t.live) && !(s.unanswered.any fun x => x.ep = e) && !(s.inbox.any fun x => x.ep = e)
    && u.rsp.isEmpty && u.ready.all fun p => p.1.cls = 0 && !p.2

/-- The region of a port that is the last of it to drain (R347 step 5). -/
def State.lastDrain (s : State) (e : Ep) : Option Nat :=
  match s.portRegion e with
  | some r => if s.drains.any fun x => x ≠ e && s.portRegion x = some r then none else some r
  | none => none

/-- The clocks of a region are about to stop: asynchronous sets and resets are kept (R113, R566). -/
def State.storeRegion (s : State) (r : Nat) : State :=
  (sectorList (s.regSectors r)).foldl (fun (t : State) x => t.storeAsync x.1 x.2) s

/-- PORT_FENCE_RAISED: a draining port has drained, or `limit` says that the drain limit is reached (R347). -/
def State.fenceRaised (s : State) (e : Ep) (limit : Bool) : State :=
  if s.drains.contains e ∧ (s.portDrained e ∨ limit) then
    match s.lastDrain e with
    | some r => (s.storeRegion r).fencePort e
    | none => s.fencePort e
  else s

/-- What a port that starts to drain does at once: requests that wait to be delivered are answered FENCED (R347 step 1). -/
def State.drainPort (s : State) (e : Ep) : State :=
  let waits := fun (x : Delivered) => x.ep = e && x.pkt.cls = 0
  let t : State := { s with inbox := s.inbox.filter fun x => !waits x
                            drains := if s.drains.contains e then s.drains else s.drains ++ [e] }
  (s.inbox.filter waits).foldl (fun (t : State) x => t.send e (rspErr x.pkt 4)) t

/-! ## State changes -/

/-- Responses of Mica ports in a region's sectors that user logic has not taken are discarded (R198). -/
def State.dropMica (s : State) (r : Nat) : State :=
  let mine := fun (m : MicaResp) => decide (s.regionOf m.die (s.groupSector m.die (portGroup m.port)) = some r)
  { s with micaOut := s.micaOut.filter fun m => !mine m
           micaShown := s.micaShown.filter fun e => !mine e.2 }

/-- Boundary latches and pins of a region's sectors hold what they carry, and its Mica ports stop (R132, R198, R565). -/
def State.holdRegion (s : State) (r : Nat) : State :=
  ((sectorList (s.regSectors r)).foldl (fun (t : State) x => t.holdSector x.1 x.2) s).dropMica r

/-- A region that runs starts to freeze (R566 step 1). -/
def State.freezeRegion (s : State) (r : Nat) : State :=
  let s := s.holdRegion r
  let ports := (s.regPorts r).filter fun e => !s.portFenced e
  let s := if ports.isEmpty then s.storeRegion r else s
  ports.foldl (fun (t : State) e => t.drainPort e) (s.setFld (Fld.CFG_REG_STAT_FROZEN r) 1)

/-- Every port of a freezing region has fenced. -/
def State.regionFenced (s : State) (r : Nat) : Bool := !(s.regPorts r).any fun e => s.drains.contains e

/-- A region enters FAULTED (R113, R132, R567): its ports fence at once and its leases are revoked. Under the configuration hold its
flip-flops stand at INIT, and keep that. -/
def State.faultRegion (s : State) (r : Nat) : State :=
  if s.regState r = 0 ∨ s.regState r = 4 then s
  else
    let s := s.storeRegion r
    let s := if s.regState r = 3 ∧ ¬s.regFrozen r then s.holdRegion r else s
    let s := if s.regState r = 3 then s
      else (sectorList (s.regSectors r)).foldl (fun (t : State) x => t.initSector x.1 x.2) s
    let s := (s.setFld (Fld.CFG_REG_STAT_STATE r) 4).setFld (Fld.CFG_REG_STAT_FROZEN r) 0
    let s := (s.regPorts r).foldl (fun (t : State) e => t.fencePort e) s
    s.declare (ownerId 4 s.odx s.ody r)

/-- A region runs under what its frames hold now (R110 to R112, R228, R572 steps 3 to 6). -/
def State.releaseRegion (s : State) (r epoch : Nat) : State :=
  let secs := sectorList (s.regSectors r)
  let fresh := s.regState r ≠ 3
  let s := (s.setFld (Fld.CFG_REG_STAT_STATE r) 3).setFld (Fld.CFG_REG_STAT_FROZEN r) 0
  let s := s.setFld (Fld.CFG_REG_EPOCH_EPOCH r) epoch
  let s := secs.foldl (fun (t : State) x =>
    let t := t.treesReset x.1 x.2 (2 ^ 24 - 1)
    let t := if fresh then t.initSector x.1 x.2 else t
    let t := t.freeSector x.1 x.2
    (List.range 192).foldl (fun (u : State) g => if u.groupSector x.1 g = x.2 then u.groupReset x.1 g else u) t) s
  let s := (s.regPorts r).foldl (fun (t : State) e => t.setFld (Fld.RTR_PORT_FENCED e.die.toNat e.router e.p.toNat) 0) s
  (s.setRegionInfo r { s.regionInfo r with ran := true }).portsPump

/-- A region becomes EMPTY and frees its number and its sectors; the attach-input registers of its bundle strips hold 0 until the next
region's first release (R429, R549, R563, R568, R631). -/
def State.emptyRegion (s : State) (r : Nat) : State :=
  let secs := sectorList (s.regSectors r)
  let s := secs.foldl (fun (t : State) x => t.clearSector x.1 x.2) { s with
    strips := s.strips.map fun e =>
      let d := e.1 / 16
      if secs.contains (d, s.posSector d (48 * s.physX d 16 (e.1 % 16) + 40) 0) then (e.1, { e.2 with tx := 0 }) else e }
  let s := (((s.setReg (Reg.CFG_REG_STAT r) 0).setReg (Reg.CFG_REG_SECLO r) 0).setReg (Reg.CFG_REG_SECHI r) 0)
  s.setRegionInfo r RegionInfo.none

end Sys2Proof.Machine
end

