-- ==== Sys2Proof/Machine/Loader.lean ====
section
/-! DEFINITION. The configuration loader: bitstreams and their checks, the commands of R556, the loader queue, scheduling
commits, readback, and the scrubber (R549 to R577). Applying a commit needs register writes: see Commit. -/

namespace Sys2Proof.Machine

/-! ## Conditions -/

/-- An owner key for bitstreams is fused (R621). -/
def State.ownerPkFused (s : State) : Bool := s.fuses.ownerPk.any fun b => b ≠ 0

/-- The owner of a path (R77). -/
def State.pathOwner (s : State) (p : Path) : Word :=
  match p with
  | .flint => s.flintId
  | .mgmt => ownerId 3 s.odx s.ody 0
  | .pcie port => ownerId 1 s.odx s.ody (b2n port)
  | .ring e =>
    if s.localEp e then (if e.die.toNat < 4 then s.portOwner e else epOwner e) else epOwner e

/-! ## Host reads -/

/-- Read host memory through a port (R557, R502). -/
def State.hostRead (s : State) (port : Bool) (addr len : Nat) (why : HostWhy) : State :=
  let id := s.nextRead
  let rd : HostRd := { id := id, port := port, len := len, why := why }
  let s : State := { s with nextRead := id + 1, hostReads := s.hostReads ++ [rd] }
  s.emit (.memRead port id addr len)

/-- The link of a port is up. -/
def State.linkUp (s : State) (port : Bool) : Bool := s.bit (Fld.PCI_STAT_LINKUP (b2n port))

/-! ## The loader queue (R557) -/

/-- The queue's port. -/
def State.lqPort (s : State) : Bool := s.bit Fld.CFG_LQ_CTRL_PORT

/-- Host address of entry `i`. -/
def State.lqAddr (s : State) (i : Nat) : Nat :=
  ((s.reg Reg.CFG_LQ_BASE_LO).toNat + 2 ^ 32 * (s.reg Reg.CFG_LQ_BASE_HI).toNat) / 32 * 32 + 32 * i

/-- Entries of the queue. -/
def State.lqSize (s : State) : Nat := 2 ^ min 10 (max 4 (s.fld Fld.CFG_LQ_CTRL_SIZE))

/-- Read the next available entry, if none is in hand. -/
def State.lqFetch (s : State) : State :=
  let head := s.fld Fld.CFG_LQ_HEAD_INDEX
  let reading := s.hostReads.any fun h => h.why = .lqEntry || h.why = .lqData || h.why = .lqList
  if s.bit Fld.CFG_LQ_CTRL_EN ∧ s.loader.ent = none ∧ ¬reading ∧ head ≠ s.fld Fld.CFG_LQ_TAIL_INDEX % s.lqSize then
    s.hostRead s.lqPort (s.lqAddr head) 32 .lqEntry
  else s

/-- Dword `i` of the entry in hand. -/
def State.lqDw (s : State) (i : Nat) : Nat := ((s.loader.ent.getD []).getD i 0).toNat

/-- The entry in hand has started: write its DW6 and DW7 back and go on to the next one. -/
def State.lqDone (s : State) (reason far epoch : Nat) : State :=
  let head := s.fld Fld.CFG_LQ_HEAD_INDEX
  let dw7 := 2 ^ 31 + epoch * 256 + reason
  if s.loader.ent = none ∨ ¬s.loader.started then s
  else
  let s := if s.linkUp s.lqPort then
      s.emit (.memWrite s.lqPort (s.lqAddr head + 24) false (bytesLE 4 far ++ bytesLE 4 dw7)) else s
  let s := s.setFld Fld.CFG_LQ_HEAD_INDEX ((head + 1) % s.lqSize)
  { s with loader := { s.loader with ent := none, started := false } }.lqFetch

/-! ## Ends of commands (R557, R582) -/

/-- The record of a command's end: CFG_RESULT and the interrupts. -/
def State.cfgResult (s : State) (region op reason : Nat) : State :=
  let s := s.setReg Reg.CFG_RESULT (BitVec.ofNat 32 (2 ^ 31 + region % 256 * 2 ^ 16 + op * 2 ^ 8 + reason))
  let s := s.raise Fld.CFG_IRQ_STATUS_DONE
  if reason ≠ 0 then s.raise Fld.CFG_IRQ_STATUS_FAIL else s

/-- A command has ended: its record, and the queue's entry. -/
def State.cfgEnd (s : State) (src : LoadSrc) (region op reason far epoch : Nat) : State :=
  let s := s.cfgResult region op reason
  match src with
  | .queue => s.lqDone reason far epoch
  | _ => s

/-! ## Bitstreams (R550 to R554) -/

/-- Little-endian number at a place. -/
def leAt (bs : List Byte) (n k : Nat) : Nat := natLE (slice bs n k)

/-- Every byte is 0. -/
def zeros (bs : List Byte) : Bool := bs.all fun b => b = 0

/-- The header's own checks (R550). -/
def headerOk (h : List Byte) : Bool :=
  leAt h 0 4 = 0x5342524C && leAt h 4 2 = 1 && leAt h 6 2 < 2 && zeros (slice h 36 28)
    && 64 + leAt h 16 4 + leAt h 20 4 ≤ leAt h 8 8

/-- A region record (R551). -/
def parseReg (b : List Byte) : Option ManReg :=
  if leAt b 1 1 < 8 ∧ leAt b 2 2 = 0 ∧ zeros (slice b 44 20) then
    some { num := leAt b 0 1, perm := leAt b 1 1, sectors := BitVec.ofNat 64 (leAt b 4 8),
           ranges := (List.range 4).map fun i => (BitVec.ofNat 32 (leAt b (12 + 8 * i) 4), BitVec.ofNat 32 (leAt b (16 + 8 * i) 4)) }
  else none

/-- A block record: its FAR, its COUNT, and that it stays in its sector (R544, R551, R552). -/
def parseBlk (b : List Byte) : Option ManBlk :=
  match keyOfFar (leAt b 0 4) with
  | none => none
  | some k =>
    let n := leAt b 4 2
    if 1 ≤ n ∧ n ≤ 256 ∧ k % (384 * 192) + n ≤ 384 * 192 ∧ zeros (slice b 7 9) then
      some { far := leAt b 0 4, count := n, region := leAt b 6 1, head := slice b 0 16, hash := slice b 16 32 }
    else none

/-- All of a list of options. -/
def allSome {α : Type} (l : List (Option α)) : Option (List α) :=
  match l with
  | [] => some []
  | x :: rest =>
    match x, allSome rest with
    | some a, some as => some (a :: as)
    | _, _ => none

/-- Bytes of a block in the stream (R552). -/
def blkBytes (enc : Bool) (b : ManBlk) : Nat := 16 + 516 * b.count + (if enc then 16 else 0)

/-- Step 1 of R554 over header and manifest. -/
def parseManifest (h m : List Byte) : Option Manifest :=
  let nreg := leAt m 2 2
  let nblk := leAt m 12 4
  if ¬(1 ≤ nreg ∧ nreg ≤ 64 ∧ m.length = 16 + 64 * nreg + 48 * nblk) then none
  else
    let enc := leAt h 6 2 = 1
    match allSome ((List.range nreg).map fun i => parseReg (slice m (16 + 64 * i) 64)),
      allSome ((List.range nblk).map fun i => parseBlk (slice m (16 + 64 * nreg + 48 * i) 48)) with
    | some regs, some blks =>
      if leAt h 8 8 = 64 + leAt h 16 4 + leAt h 20 4 + (blks.map (blkBytes enc)).sum then
        some { enc := enc, iv := slice h 24 12, version := BitVec.ofNat 32 (leAt m 8 4), regs := regs, blks := blks }
      else none
    | _, _ => none

/-- Step 2 of R554: the key by the state of the device, and where an unsigned bitstream may pass (R622). -/
def State.bitstreamSigned (s : State) (msg sig : List Byte) : Bool :=
  let st := s.lcState
  let open_ := st = 0 || (st = 1 && !s.ownerPkFused)
  if sig = [] then open_
  else
    let key := if open_ || st = 3 then Config.oxtelvoBitstreamKey else s.fuses.ownerPk
    st ≠ 4 && lmsVerify key msg sig

/-- The region of a device sector set named by a record may be taken (R562). -/
def State.regRecordOk (s : State) (earlier : List ManReg) (r : ManReg) : Bool :=
  let set := r.sectors.toNat
  let secs := sectorList set
  let taken := earlier.any fun q => q.num = r.num || q.sectors.toNat &&& set ≠ 0
  let same := s.regState r.num ≠ 0 && s.regSectors r.num = set
  let fresh := s.regState r.num = 0 && secs.all fun x => s.dieOk x.1 && (s.regionOf x.1 x.2).isNone
  !taken && (same || fresh)

/-- A stream may name a region in its present state (R563, R570), and none in recovery mode, in which every region stays EMPTY
(R75; that the stream then fails with STATE is the model's choice, assumption 58). -/
def State.regNameable (s : State) (r : Nat) : Bool :=
  let st := s.regState r
  !s.bit Fld.FLN_STATUS_RECOVERY && (st = 0 || st = 2 || st = 4 || (st = 3 && s.regFrozen r)) && !(s.loader.commits.any fun c => c.region = r)

/-- A region that has been released, on a device without live reconfiguration: it changes only after the next start (R564). The spec gives no
reason for a load or a CLEAR of it once it has FAULTED; the model takes FEATURE, as for FREEZE (DESIGN CHOICE, assumption 58). -/
def State.regPinned (s : State) (r : Nat) : Bool := !s.feature 9 && (s.regionInfo r).ran

/-- Fold over the region records with those that went before. -/
def State.regRecordsOk (s : State) (earlier l : List ManReg) : Nat :=
  match l with
  | [] => 0
  | r :: rest =>
    if ¬s.regRecordOk earlier r then 6
    else if ¬s.regNameable r.num then 7
    else if s.regPinned r.num then 4
    else s.regRecordsOk (earlier ++ [r]) rest

/-- The FAR of a block lies in the sectors of its own region (R562). -/
def State.blkInside (s : State) (regs : List ManReg) (b : ManBlk) : Bool :=
  match keyOfFar b.far with
  | none => false
  | some k =>
    let ps := keySector k
    let sec := 16 * (ps / 16) + 4 * (ps % 16 / 4) + s.physX (ps / 16) 4 (ps % 4)
    regs.any fun (r : ManReg) => r.num = b.region && natBit r.sectors.toNat sec

/-- Steps 1 to 4 of R554 over header, manifest and signature: the manifest, or the reason. -/
def State.manifestCheck (s : State) (h m sig : List Byte) : Manifest ⊕ Nat :=
  match parseManifest h m with
  | none => .inr 1
  | some man =>
    let part := leAt m 0 2
    if ¬s.bitstreamSigned (h ++ m) sig then .inr 2
    else if man.enc ∧ s.fuses.ownerAes = 0 then .inr 5
    else if part ≠ 0 ∧ part ≠ s.fld Fld.HUB_IDENT_PART then .inr 3
    else if BitVec.ofNat 32 (leAt m 4 4) &&& ~~~(s.reg Reg.HUB_FEATURES) ≠ 0 then .inr 4
    else
      match s.regRecordsOk [] man.regs with
      | 0 => if man.blks.all (s.blkInside man.regs) then .inl man else .inr 11
      | n => .inr n

/-! ## Streams (R558, R559) -/

/-- Extend the measurement of a region (R631). -/
def State.extendMeas (s : State) (r : Nat) (v : List Byte) : State :=
  let i := s.regionInfo r
  s.setRegionInfo r { i with meas := sha256 (i.meas ++ v) }

/-- The open stream ends with a reason (R559): regions still LOADING become HELD, with COMPLETE if the reason is OK. -/
def State.closeStream (s : State) (reason : Nat) : State :=
  match s.loader.stream with
  | none => s
  | some st =>
    let s : State := { s with loader := { s.loader with stream := none } }
    let names : List Nat := match st.man with
      | some m => m.regs.map fun r => r.num
      | none => []
    let s := names.foldl (fun (t : State) r =>
      if t.regState r = 1 then (t.setFld (Fld.CFG_REG_STAT_STATE r) 2).setFld (Fld.CFG_REG_STAT_COMPLETE r) (b2n (decide (reason = 0)))
      else t) s
    s.cfgResult st.region st.op reason

/-- The open stream ends, and with it the queue entry whose LOAD it is. -/
def State.endStream (s : State) (reason far : Nat) : State :=
  let t := s.closeStream reason
  match s.loader.stream with
  | some st => if st.src = .queue then t.lqDone reason far 0 else t
  | none => t

/-- A stream starts to write its frames: a region that it names is LOADING, with the record's sectors, permissions and ranges (R551, R562,
R563). -/
def State.openRegion (s : State) (man : Manifest) (r : ManReg) : State :=
  let set := r.sectors.toNat
  let s := (s.setReg (Reg.CFG_REG_SECLO r.num) (BitVec.ofNat 32 set)).setReg (Reg.CFG_REG_SECHI r.num) (BitVec.ofNat 32 (set / 2 ^ 32))
  let s := s.setReg (Reg.CFG_REG_STAT r.num) (BitVec.ofNat 32 (2 ^ 29 + b2n man.enc * 2 ^ 26 + r.perm * 2 ^ 23))
  let s := (sectorList set).foldl (fun (t : State) x => t.initSector x.1 x.2) s
  s.setRegionInfo r.num { s.regionInfo r.num with ranges := r.ranges, version := man.version }

/-- Check the header and the manifest once they have arrived. -/
def State.streamCheck (s : State) : State :=
  match s.loader.stream with
  | none => s
  | some st =>
    if st.man.isSome ∨ st.bytes.length < 64 then s
    else
      let h := slice st.bytes 0 64
      if ¬headerOk h then s.endStream 1 0
      else
        let mlen := leAt h 16 4
        let slen := leAt h 20 4
        if st.bytes.length < 64 + mlen + slen then
          { s with loader := { s.loader with stream := some { st with total := leAt h 8 8 } } }
        else
          let m := slice st.bytes 64 mlen
          match s.manifestCheck h m (slice st.bytes (64 + mlen) slen) with
          | .inr reason => s.endStream reason 0
          | .inl man =>
            let s := man.regs.foldl (fun (t : State) r => t.extendMeas r.num (sha256 (h ++ m))) s
            let st := { st with man := some man, total := leAt h 8 8, bytes := st.bytes.drop (64 + mlen + slen) }
            let s : State := { s with loader := { s.loader with stream := some st } }
            if man.blks = [] then s.endStream 0 0 else s

/-- Bytes arrive for the open stream; what lies beyond TOTAL is not taken. -/
def State.feed (s : State) (bs : List Byte) : State :=
  match s.loader.stream with
  | none => s
  | some st =>
    let bs := if st.total = 0 then bs else bs.take (st.total - st.got)
    { s with loader := { s.loader with stream := some { st with bytes := st.bytes ++ bs, got := st.got + bs.length } } }.streamCheck

/-- The plaintext frames of a block, or the reason of step 5 of R554. -/
def State.blockPlain (s : State) (man : Manifest) (n : Nat) (b : ManBlk) (bs : List Byte) : List Byte ⊕ Nat :=
  let body := slice bs 16 (516 * b.count)
  if slice bs 0 16 ≠ b.head then .inr 1
  else
    let iv := slice man.iv 0 8 ++ bytesLE 4 (leAt man.iv 8 4 ^^^ n)
    let ivn := natBE iv
    if man.enc ∧ gcmTag s.fuses.ownerAes ivn b.head body ≠ natBE (slice bs (16 + 516 * b.count) 16) then .inr 9
    else
      let plain := if man.enc then gcmCrypt s.fuses.ownerAes ivn body else body
      if sha256 plain ≠ b.hash then .inr 8 else .inl plain

/-- A frame takes a new payload with its own check bits (R549, R554). -/
def State.loadFrame (s : State) (key : Nat) (f : BitVec 4096) : State := { s.setFrame key f with upsets := SMap.drop s.upsets key }

/-- Write the frames of a verified block in order (step 6 of R554, R559); a group that one of them
disables is reset (R227). -/
def State.writeFrames (s : State) (b : ManBlk) (key : Nat) (n : Nat) (bs : List Byte) : State × Option (Nat × Nat × Nat) :=
  match n with
  | 0 => (s, none)
  | k + 1 =>
    let payload := bs.take 512
    let f := BitVec.ofNat 4096 (natLE payload)
    if leAt bs 512 4 ≠ (crc32c payload).toNat then (s, some (10, key, 0))
    else
      match frameCheck key f with
      | some (bit, reason) => (s, some (reason, key, bit))
      | none =>
        let s := if n = b.count then s.extendMeas b.region b.hash else s
        ((s.loadFrame key f).resetDisabled (keySector key / 16)).writeFrames b (key + 1) k (bs.drop 516)

/-- LOADER_BLOCK: the next block of the stream, if it is buffered whole, is verified and its frames are written (R559). -/
def State.loaderBlock (s : State) : State :=
  match s.loader.stream with
  | none => s
  | some st =>
    match st.man with
    | none => s
    | some man =>
      match man.blks[st.blk]? with
      | none => s
      | some b =>
        let n := blkBytes man.enc b
        if st.bytes.length < n then s
        else
          match s.blockPlain man st.blk b (st.bytes.take n) with
          | .inr reason => s.endStream reason 0
          | .inl plain =>
            let s := if st.blk = 0 then man.regs.foldl (fun (t : State) r => t.openRegion man r) s else s
            let (s, bad) := s.writeFrames b ((keyOfFar b.far).getD 0) b.count plain
            match bad with
            | some (reason, key, bit) =>
              let far := farOfKey key
              ((s.setReg Reg.CFG_FAULTFAR (BitVec.ofNat 32 far)).setReg Reg.CFG_FAULTBIT (BitVec.ofNat 32 bit)).endStream reason far
            | none =>
              let s : State := { s with loader := { s.loader with stream := some { st with bytes := st.bytes.drop n, blk := st.blk + 1 } } }
              if st.blk + 1 = man.blks.length then s.endStream 0 0 else s

/-- A region enters FAULTED; a stream that names it ends (R567). -/
def State.regionFault (s : State) (r : Nat) : State :=
  let s := s.faultRegion r
  match s.loader.stream with
  | some st =>
    match st.man with
    | some m => if m.regs.any fun q => q.num = r then s.endStream 25 0 else s
    | none => s
  | none => s

/-! ## Commits (R569 to R571) -/

/-- A commit-group entry may stand (R571). -/
def State.entryOk (s : State) (src : LoadSrc) (e : Nat × Word) : Bool :=
  match regSel e.1 with
  | none => false
  | some (b, .reg r) =>
    let k := match src with
      | .reg p => s.kAvail p
      | .queue => s.kAvail (.pcie s.lqPort)
      | .flint => false
    (!b.desc.slate || s.dieOk b.die)
      && r.fields.any (fun f => f.acc ≠ .ro)
      && !(r.fields.any (fun f => f.guard = .lock) && s.locks.contains b.base)
      && (!(r.fields.any fun f => f.guard = .key) || k)
  | some (_, .pend) => false
  | some (b, _) => !b.desc.slate || s.dieOk b.die

/-- The first entry that fails a check. -/
def State.badEntry (s : State) (src : LoadSrc) (l : List (Nat × Word)) : Option Nat := l.findIdx? fun e => !s.entryOk src e

/-- The commit epoch of a COMMIT accepted now (R570). -/
def State.commitEpoch (s : State) (at_ : Nat) : Nat :=
  let e := s.fld Fld.CFG_EPOCH_EPOCH + 2
  let later := (at_ + 2 * 65536 - e) % 65536
  if 1 ≤ later ∧ later ≤ 32768 then at_ else e % 65536

/-- Reason why a COMMIT of a region is refused before its entries are looked at, or 0 (R556, R570, R571). -/
def State.commitRefused (s : State) (r count : Nat) : Nat :=
  let st := s.regState r
  if ¬(st = 2 ∨ (st = 3 ∧ s.regFrozen r)) ∨ s.loader.commits.any (fun c => c.region = r) then 7
  else if st = 2 ∧ ¬s.bit (Fld.CFG_REG_STAT_COMPLETE r) then 23
  else if s.fld Fld.CFG_STATUS_CGFREE < count then 21
  else 0

/-- A COMMIT with its entries (R570, R571). -/
def State.commitAccept (s : State) (src : LoadSrc) (r at_ : Nat) (ents : List (Nat × Word)) : State :=
  match s.commitRefused r ents.length with
  | 0 =>
    match s.badEntry src ents with
    | some i => (s.setReg Reg.CFG_FAULTFAR (BitVec.ofNat 32 i)).cfgEnd src r 4 22 0 0
    | none =>
      let c : CommitW := { region := r, epoch := s.commitEpoch at_, ents := ents, src := src }
      let s := s.setFld Fld.CFG_STATUS_CGFREE (s.fld Fld.CFG_STATUS_CGFREE - ents.length)
      { s with loader := { s.loader with commits := s.loader.commits ++ [c] } }
  | n => s.cfgEnd src r 4 n 0 0

/-- The commit group of the register path (R571). -/
def State.cgEntries (s : State) (n : Nat) : List (Nat × Word) :=
  (List.range (min n 257)).map fun k => ((s.reg (Reg.CFG_CG_ADDR k)).toNat, s.reg (Reg.CFG_CG_DATA k))

/-! ## Readback (R575 to R577) -/

/-- The region of a frame. -/
def State.frameRegion (s : State) (key : Nat) : Option Nat :=
  let ps := keySector key
  s.regionOf (ps / 16) (4 * (ps % 16 / 4) + s.physX (ps / 16) 4 (ps % 4))

/-- READ of a frame is permitted (R577). -/
def State.readPermitted (s : State) (view : Bool) (key : Nat) : Bool :=
  let st := s.lcState
  match s.frameRegion key with
  | none => st ≤ 2
  | some r =>
    let perm := s.fld (Fld.CFG_REG_STAT_PERM r)
    let open_ := if st ≤ 1 then true else if st = 2 then natBit perm (if view then 2 else 1) else false
    open_ && (view || !s.bit (Fld.CFG_REG_STAT_ENCRYPTED r))

/-- The state view of a frame is allowed (R576). -/
def State.viewAllowed (s : State) (key : Nat) : Bool :=
  match s.frameRegion key with
  | none => false
  | some r => (s.regState r = 3 && s.regFrozen r) || s.regState r = 4

/-- A frame as a view shows it (R575, R576). -/
def State.viewFrame (s : State) (view : Bool) (key : Nat) : BitVec 4096 :=
  let f := s.frame key
  match view, clusterOfKey key with
  | true, some (d, pc, pr) =>
    (List.range 16).foldl (fun g c =>
      let off := 1104 + 53 * c + 51
      let q := s.ffValue d pc pr c
      if f.getLsbD off = q then g else g ^^^ BitVec.ofNat 4096 (2 ^ off)) f
  | _, _ => f

/-- READ (R575 to R577). A frame of an absent or excluded die is treated as one that does not exist (R4, R41; the reason is the model's
choice, assumption 58). -/
def State.cfgRead (s : State) (src : LoadSrc) (far count : Nat) (view : Bool) (addr : Nat) : State :=
  match keyOfFar far with
  | none => s.cfgEnd src 0 7 7 0 0
  | some k =>
    let keys := (List.range count).map fun i => k + i
    if ¬(k % (384 * 192) + count ≤ 384 * 192) ∨ ¬s.dieOk (k / (16 * 192 * 384)) then s.cfgEnd src 0 7 7 0 0
    else if ¬keys.all (s.readPermitted view) then s.cfgEnd src 0 7 5 0 0
    else if view ∧ ¬keys.all s.viewAllowed then s.cfgEnd src 0 7 7 0 0
    else
      let bytes := keys.flatMap fun j => bytesLE 512 (s.viewFrame view j).toNat
      match src with
      | .queue => (if s.linkUp s.lqPort then s.emit (.memWrite s.lqPort addr false bytes) else s).cfgEnd src 0 7 0 0 0
      | _ =>
        let words := (List.range (128 * count)).map fun i => BitVec.ofNat 32 (leAt bytes (4 * i) 4)
        { s with loader := { s.loader with readBuf := words } }.cfgEnd src 0 7 0 0 0

/-! ## Commands (R555, R556, R558) -/

/-- LOADF: pins 0 to 5 hold FUNC 2, and the flash answers the read (R561, R648). -/
def State.loadFlash (s : State) (src : LoadSrc) (region : Nat) : State :=
  let claimed := (List.range 6).all fun p => s.fld (Fld.PIN_CFG_FUNC p) = 2
  match s.loader.flash with
  | none => s.cfgEnd src region 2 27 0 0
  | some img =>
    if ¬claimed then s.cfgEnd src region 2 27 0 0
    else
      let st : Stream := { src := src, region := region, op := 2, bytes := [], got := 0, total := 0, man := none, blk := 0 }
      let s := { s with loader := { s.loader with stream := some st, flash := none } }.feed (slice img 0 64)
      let s := s.feed (img.drop 64)
      match s.loader.stream with
      | none => s
      | some t => if t.total = 0 ∨ t.got < t.total then s.endStream 27 0 else s

/-- The bytes of a LOAD entry still to be read: read the next part of them, or end the entry. -/
def State.lqLoad (s : State) : State :=
  let n := s.lqDw 4
  if n = 0 then
    match s.loader.stream with
    | some st => if st.total ≠ 0 ∧ st.total ≤ st.got then s else s.cfgEnd .queue st.region 1 0 0 0
    | none => s
  else s.hostRead s.lqPort (s.lqDw 2 + 2 ^ 32 * s.lqDw 3) (min n 4096) .lqData

/-- The stream ends at a command of `src`: a queue entry that brought that command ends with `own` (R556, R558). -/
def State.cutStream (s : State) (src : LoadSrc) (reason own : Nat) : State :=
  match src with
  | .queue => (s.closeStream reason).lqDone own 0 0
  | _ => s.endStream reason 0

/-- One loader command (R556). `view`, `a0` and `a1` are its arguments, `ents` the commit group, `addr` the host address. ABORT is always
taken; another command while a FREEZE or CLEAR runs is refused with STATE (DESIGN CHOICE, assumption 58). A command that ends a stream
is not itself performed (DESIGN CHOICE, assumption 58). -/
def State.cfgCommand (s : State) (src : LoadSrc) (op region : Nat) (view : Bool) (a0 a1 addr : Nat) (ents : List (Nat × Word)) : State :=
  if s.loader.stream.isSome ∧ op ≠ 1 ∧ op ≠ 5 then s.cutStream src 7 7
  else if op ≠ 5 ∧ s.loader.busy.isSome then s.cfgEnd src region op 7 0 0
  else
    match op with
    | 1 =>
      let s : State := match s.loader.stream with
        | some st => if s.loader.ent.isSome ∧ s.loader.started ∧ src ≠ .queue then s
          else { s with loader := { s.loader with stream := some { st with src := src } } }
        | none =>
          { s with loader := { s.loader with
              stream := some { src := src, region := region, op := 1, bytes := [], got := 0, total := 0, man := none, blk := 0 } } }
      if src = .queue then s.lqLoad else s
    | 2 => s.loadFlash src region
    | 3 =>
      if ¬s.feature 9 then s.cfgEnd src region 3 4 0 0
      else if s.regState region = 3 ∧ ¬s.regFrozen region ∧ ¬s.loader.commits.any (fun c => c.region = region) then
        let s := s.freezeRegion region
        { s with loader := { s.loader with busy := some { clear := false, region := region, src := src } } }
      else s.cfgEnd src region 3 7 0 0
    | 4 => s.commitAccept src region (a0 % 65536) ents
    | 5 =>
      match s.loader.stream with
      | none => s.cfgEnd src region 5 0 0 0
      | some _ => s.cutStream src 25 0
    | 6 =>
      let st := s.regState region
      if (st = 2 ∨ st = 4 ∨ (st = 3 ∧ s.regFrozen region)) ∧ ¬s.loader.commits.any (fun c => c.region = region) then
        if s.regPinned region then s.cfgEnd src region 6 4 0 0
        else { s with loader := { s.loader with busy := some { clear := true, region := region, src := src } } }
      else s.cfgEnd src region 6 7 0 0
    | 7 => s.cfgRead src a0 a1 view addr
    | 0 => s
    | _ => s.cfgEnd src region op 7 0 0

/-- A write to CFG_CMD (R555, R556). -/
def State.cfgCmd (s : State) (path : Path) (v : Word) : State :=
  let op := bits v 31 28
  let region := bits v 23 16
  let n := (s.reg Reg.CFG_ARG1).toNat
  if op = 0 then s
  else if s.reg Reg.CFG_LOCK ≠ s.pathOwner path then s.cfgEnd (.reg path) region op 24 0 0
  else s.cfgCommand (.reg path) op region (natBit v.toNat 27) (s.reg Reg.CFG_ARG0).toNat n 0 (if op = 4 then s.cgEntries n else [])

/-- The command of the loader-queue entry in hand, where its OP is `op` (R557). -/
def State.cfgQueue (s : State) (op : Nat) : State :=
  match s.loader.ent with
  | none => s
  | some _ =>
    let d0 := s.lqDw 0
    let region := natBits d0 15 8
    if natBits d0 3 0 ≠ op ∨ s.loader.started ∨ s.loader.busy.isSome then s
    else
      let s : State := { s with loader := { s.loader with started := true } }
      let addr := s.lqDw 2 + 2 ^ 32 * s.lqDw 3
      if s.reg Reg.CFG_LOCK ≠ ownerId 1 s.odx s.ody (b2n s.lqPort) then s.cfgEnd .queue region op 24 0 0
      else if op = 4 ∧ s.loader.stream = none ∧ s.lqDw 4 ≠ 0 ∧ s.commitRefused region (s.lqDw 4) = 0 then
        s.hostRead s.lqPort addr (8 * s.lqDw 4) .lqList
      else if op = 4 ∧ s.loader.stream = none ∧ s.commitRefused region (s.lqDw 4) ≠ 0 then
        s.cfgEnd .queue region 4 (s.commitRefused region (s.lqDw 4)) 0 0
      else
        s.cfgCommand .queue op region (natBit (s.lqDw 1) 31) (s.lqDw 5) (s.lqDw 4) addr []

/-- A loader command from the register path, or the one of the queue's entry in hand. -/
def State.lqOps : List Nat := [1, 2, 3, 4, 5, 6, 7]

/-- A host read of the loader queue has ended (R557): its bytes, or `bad` with the reason. -/
def State.lqAnswer (s : State) (why : HostWhy) (bs : List Byte) (bad : Option Nat) : State :=
  let words := fun (n : Nat) => (List.range n).map fun i => BitVec.ofNat 32 (leAt bs (4 * i) 4)
  match why, bad with
  | .lqEntry, some reason =>
    { s with loader := { s.loader with ent := some (List.replicate 8 0), started := true } }.cfgEnd .queue 0 0 reason 0 0
  | .lqEntry, none =>
    let s : State := { s with loader := { s.loader with ent := some (words 8), started := false } }
    let op := natBits (s.lqDw 0) 3 0
    if State.lqOps.contains op then s
    else { s with loader := { s.loader with started := true } }.cfgEnd .queue (natBits (s.lqDw 0) 15 8) op 7 0 0
  | .lqList, some reason => s.cfgEnd .queue (natBits (s.lqDw 0) 15 8) 4 reason 0 0
  | .lqList, none =>
    let ents := (List.range (bs.length / 8)).map fun i => (leAt bs (8 * i) 4, BitVec.ofNat 32 (leAt bs (8 * i + 4) 4))
    s.commitAccept .queue (natBits (s.lqDw 0) 15 8) (s.lqDw 5 % 65536) ents
  | .lqData, some reason =>
    if s.loader.ent = none then s.lqFetch
    else
      match s.loader.stream with
      | some _ => s.endStream reason 0
      | none => s.lqDone reason 0 0
  | .lqData, none =>
    if s.loader.ent = none then s.lqFetch
    else
    let n := bs.length
    let adr := s.lqDw 2 + 2 ^ 32 * s.lqDw 3 + n
    let ent := (((s.loader.ent.getD []).set 2 (BitVec.ofNat 32 adr)).set 3 (BitVec.ofNat 32 (adr / 2 ^ 32))).set 4
      (BitVec.ofNat 32 (s.lqDw 4 - n))
    let s := { s with loader := { s.loader with ent := some ent } }.feed bs
    match s.loader.ent, s.loader.stream with
    | some _, some _ => if s.loader.started then s.lqLoad else s
    | _, _ => s
  | _, _ => s

/-- FREEZE_COMPLETE: every port of the region has fenced (R566 step 2). -/
def State.freezeComplete (s : State) : State :=
  match s.loader.busy with
  | some b =>
    if ¬b.clear ∧ s.regionFenced b.region then
      { s with loader := { s.loader with busy := none } }.cfgEnd b.src b.region 3 (if s.regState b.region = 3 then 0 else 7) 0 0
    else s
  | none => s

/-- CLEAR_COMPLETE (R568). -/
def State.clearComplete (s : State) : State :=
  match s.loader.busy with
  | some b =>
    if b.clear then
      ({ s with loader := { s.loader with busy := none } }.emptyRegion b.region).cfgEnd b.src b.region 6 0 0 0
    else s
  | none => s

/-- A write to CFG_DATA by the lock's owner (R558). -/
def State.cfgDataWrite (s : State) (path : Path) (v : Word) : State :=
  match s.loader.stream with
  | some st =>
    match st.src with
    | .reg _ => if s.reg Reg.CFG_LOCK = s.pathOwner path ∧ st.op = 1 then s.feed (bytesLE 4 v.toNat) else s
    | _ => s
  | none => s

/-- A read of CFG_DATA: the next word of READ; a free value where READ has left none (R575). -/
def State.cfgDataRead (s : State) : State × Word :=
  match s.loader.readBuf with
  | w :: rest => ({ s with loader := { s.loader with readBuf := rest } }, w)
  | [] => (s.useFree, Config.freeWord s.free)

/-- A write to CFG_LQ_CTRL: head and tail are 0 when EN is set (R582). -/
def State.lqCtrl (s : State) (v : Word) : State :=
  let was := s.bit Fld.CFG_LQ_CTRL_EN
  let s := s.setReg Reg.CFG_LQ_CTRL (v &&& 0xC000000F#32)
  if natBit v.toNat 31 ∧ ¬was then (s.setReg Reg.CFG_LQ_TAIL 0).setReg Reg.CFG_LQ_HEAD 0 else s

/-- A write to CFG_LQ_TAIL makes the entries up to the new tail available (R557); INDEX reads back as written, and counts modulo the
queue's size. -/
def State.lqTail (s : State) (v : Word) : State := (s.setFld Fld.CFG_LQ_TAIL_INDEX (bits v 9 0)).lqFetch

/-! ## The scrubber (R107, R114, R130, R574) -/

/-- The truth-table bits of a dynamic cluster, over which no check is kept (R107). -/
def uncheckedBit (key : Nat) (f : BitVec 4096) (bit : Nat) : Bool :=
  (clusterOfKey key).isSome && (clusterMode f = 1 || clusterMode f = 2) && 1104 ≤ bit && bit < 1952 && (bit - 1104) % 53 < 16

/-- Flips of bits of a frame. -/
def flipFrame (f : BitVec 4096) (l : List Nat) : BitVec 4096 := l.foldl (fun g b => g ^^^ BitVec.ofNat 4096 (2 ^ b)) f

/-- Words of the frame whose checked bits hold an error: (word, number of flipped code bits). A flip is (word, bit of the
72-bit code word). -/
def frameErrors (key : Nat) (f : BitVec 4096) (flips : List (Nat × Nat)) : List (Nat × Nat) :=
  (List.range 64).filterMap fun w =>
    let n := (flips.filter fun x => x.1 = w && !(x.2 < 64 && uncheckedBit key f (64 * w + x.2))).length
    if n = 0 then none else some (w, n)

/-- The stored flip-flops of a cluster, listed so that a change of INIT bits leaves their values alone (R114). Under the configuration hold
they follow their INIT bits (R110). -/
def State.pinFFs (old s : State) (key : Nat) : State :=
  match clusterOfKey key with
  | none => s
  | some (d, pc, pr) =>
    if s.posState d pc pr ≠ 3 ∧ s.posState d pc pr ≠ 4 then s
    else (List.range 16).foldl (fun (t : State) c => t.setFF d pc pr c (old.ffValue d pc pr c)) s

/-- Bits of a frame's payload among flips of its code words. -/
def dataFlips (l : List (Nat × Nat)) : List Nat := (l.filter fun x => x.2 < 64).map fun x => 64 * x.1 + x.2

/-- Flip payload bits of a frame; flip-flops keep their values (R114). -/
def State.flipBits (s : State) (key : Nat) (l : List Nat) : State :=
  State.pinFFs s (s.setFrame key (flipFrame (s.frame key) l)) key

/-- A frame suffers an upset: what it configures changes at once (R129 to R131). -/
def State.suffer (s : State) (key word bit : Nat) : State :=
  let old := SMap.get [] s.upsets key
  let now := if old.contains (word, bit) then old.filter fun x => x ≠ (word, bit) else old ++ [(word, bit)]
  { s.flipBits key (dataFlips [(word, bit)]) with upsets := SMap.put [] s.upsets key now }

/-- The scrubber reads a frame: a word with one error is corrected, and the frame's one-hot fields are checked again; a word with more
stays as it is (R114, R130, R574). -/
def State.scrubRead (s : State) (key : Nat) : State :=
  let region := s.frameRegion key
  let flips := SMap.get [] s.upsets key
  let errs := frameErrors key (flipFrame (s.frame key) (dataFlips flips)) flips
  let bad := errs.filter fun e => 2 ≤ e.2
  let good := errs.length - bad.length
  let fixed := fun (x : Nat × Nat) => errs.any fun e => e.1 = x.1 && e.2 = 1
  let mend := (dataFlips (flips.filter fixed)).filter fun b => !uncheckedBit key (flipFrame (s.frame key) (dataFlips flips)) b
  let s := s.flipBits key mend
  let s : State := { s with upsets := SMap.put [] s.upsets key (flips.filter fun x => bad.any fun e => e.1 = x.1) }
  let t := s.bumpBy Fld.CFG_SCRUBCNT_CORRECTED good
  let t := if good ≠ 0 then t.raise Fld.CFG_IRQ_STATUS_CORR else t
  let t := t.bumpBy Fld.CFG_SCRUBCNT_UNCORR bad.length
  let t := if bad ≠ [] then t.raise Fld.CFG_IRQ_STATUS_UNCORR else t
  if bad ≠ [] ∨ (good ≠ 0 ∧ frameTwoHot key (t.frame key)) then
    match region with
    | some r => t.regionFault r
    | none => t
  else t

/-- SCRUB_FRAME: the scrubber of a die reads its next frame (R574); then frames of the die suffer the upsets `flips`, each a frame, a word
and a bit of its 72-bit code word, which stand until the scrubber comes to them (R131). -/
def State.scrubFrame (s : State) (d : Nat) (flips : List (Nat × Nat × Nat)) : State :=
  if ¬s.bit Fld.CFG_SCRUB_EN ∨ ¬s.dieOk d then s
  else
    let base := d * (16 * 192 * 384)
    let i := SMap.get 0 s.scrub d
    let last := i + 1 = 16 * 192 * 384
    let s : State := { s with scrub := SMap.put 0 s.scrub d (if last then 0 else i + 1) }
    let s := if last ∧ d = 0 then s.setFld Fld.CFG_SCRUB_PASSES ((s.fld Fld.CFG_SCRUB_PASSES + 1) % 65536) else s
    let loading : Bool := match s.frameRegion (base + i) with
      | some r => decide (s.regState r = 1)
      | none => false
    let s := if loading then s else s.scrubRead (base + i)
    flips.foldl (fun (t : State) x => t.suffer (base + x.1) x.2.1 x.2.2) s

end Sys2Proof.Machine
end

