-- ==== Sys2Proof/Machine/Probes.lean ====
section
/-! DEFINITION. The probe multiplexers of the Slate dies (R578 to R580). -/

namespace Sys2Proof.Machine

/-- A write to a probe register of die `d` by `who` is performed (R39, R578). -/
def State.probeMay (s : State) (d : Nat) (who : Word) : Bool := s.feature 11 && s.dieOk d && s.reg (Reg.PRB_OWNER d) = who

/-- PRB_OWNER_OP (R39, R78, R578). -/
def State.probeOwnerOp (s : State) (d : Nat) (op : Bool) (who : Word) : State :=
  if s.feature 11 ∧ s.dieOk d then s.leaseOp (Reg.PRB_OWNER d) op who else s

/-- Probes are open at a position of die `d` (R579). -/
def State.probesOpen (s : State) (d pc pr : Nat) : Bool :=
  decide (pc < 768 ∧ pr < 768) &&
    (decide (s.lcState ≤ 1) ||
      (decide (s.lcState = 2) && match s.regionOf d (s.posSector d pc pr) with
        | some r => natBit (s.fld (Fld.CFG_REG_STAT_PERM r)) 0
        | none => false))

/-- A write to PRBd_SELk by the lease's owner (R579). -/
def State.probeSel (s : State) (d k : Nat) (v : Word) : State :=
  if s.probesOpen d (bits v 30 21) (bits v 20 11) then s.setReg (Reg.PRB_SEL d k) (v &&& 0xFFFFF81F#32)
  else s.setFld (Fld.PRB_STAT_REFUSED d) 1

/-- A write to PRBd_CTRL by the lease's owner: a rise of ARM starts a capture (R580). -/
def State.probeCtrl (s : State) (d : Nat) (v : Word) : State :=
  let rise := natBit v.toNat 31 && !s.bit (Fld.PRB_CTRL_ARM d)
  let s := s.setReg (Reg.PRB_CTRL d) (v &&& 0x8F003FFF#32)
  if rise then
    let s := s.setReg (Reg.PRB_STAT d) (s.reg (Reg.PRB_STAT d) &&& 0x20000000#32)
    { s with probeLeft := SMap.drop s.probeLeft d }
  else s

/-- A read of PRBd_RDDATA (R580). -/
def State.probeRead (s : State) (d : Nat) : State × Word :=
  let a := s.fld (Fld.PRB_RDADDR_ADDR d)
  let w := (SMap.get 0 s.probeBuf (16384 * d + a / 8)).extractLsb' (32 * (a % 8)) 32
  (s.setFld (Fld.PRB_RDADDR_ADDR d) ((a + 1) % 2 ^ 17), w)

/-- The live value of slot `k` (R579, R580). -/
def State.probeSlot (s : State) (d k : Nat) : Bool :=
  let pc := s.fld (Fld.PRB_SEL_COLUMN d k)
  let pr := s.fld (Fld.PRB_SEL_ROW d k)
  let st := s.posState d pc pr
  s.bit (Fld.PRB_SEL_EN d k) && st ≠ 0 && st ≠ 4 && s.signal d (.out pc pr (s.fld (Fld.PRB_SEL_OUTPUT d k)))

/-- One sample of the 256 slots. -/
def State.probeSlots (s : State) (d : Nat) : Nat :=
  (List.range 256).foldl (fun n k => if s.probeSlot d k then n + 2 ^ k else n) 0

/-- The capture of a multiplexer takes a sample with value `v` (R580). -/
def State.probeTake (s : State) (d v : Nat) : State :=
  let i := s.fld (Fld.PRB_STAT_NEXT d)
  let s : State := { s with probeBuf := SMap.put 0 s.probeBuf (16384 * d + i) (BitVec.ofNat 256 v) }
  let s := s.setFld (Fld.PRB_STAT_NEXT d) ((i + 1) % 16384)
  let s := if i = 16383 then s.setFld (Fld.PRB_STAT_WRAPPED d) 1 else s
  let low := BitVec.ofNat 32 v
  let after := if s.bit (Fld.PRB_STAT_TRIGGERED d) then some (SMap.get 0 s.probeLeft d - 1)
    else if low &&& s.reg (Reg.PRB_TRIGMASK d) = s.reg (Reg.PRB_TRIGVAL d) ∨ s.reg (Reg.PRB_TRIGMASK d) = 0 then
      some (s.fld (Fld.PRB_CTRL_POST d))
    else none
  let s := if after.isSome ∧ ¬s.bit (Fld.PRB_STAT_TRIGGERED d) then
      (s.setFld (Fld.PRB_STAT_TRIGGERED d) 1).setFld (Fld.PRB_STAT_TRIGIDX d) i else s
  match after with
  | none => s
  | some 0 => { s.setFld (Fld.PRB_CTRL_ARM d) 0 with probeLeft := SMap.drop s.probeLeft d }
  | some n => { s with probeLeft := SMap.set s.probeLeft d n }

/-- PROBE_SAMPLE: a rising edge of the sampling spine of die `d` (R580). -/
def State.probeSample (s : State) (d : Nat) : State :=
  if s.feature 11 ∧ s.bit (Fld.PRB_CTRL_ARM d) ∧ s.spineRuns d (s.fld (Fld.PRB_CTRL_SPINE d)) then s.probeTake d (s.probeSlots d)
  else s

/-- At a commit, slots that name a sector of the region lose EN if its PERM does not allow probes (R579). -/
def State.probesCommit (s : State) (r : Nat) : State :=
  (List.range 1024).foldl (fun (t : State) n =>
    let d := n / 256
    let k := n % 256
    let pc := t.fld (Fld.PRB_SEL_COLUMN d k)
    let pr := t.fld (Fld.PRB_SEL_ROW d k)
    if t.bit (Fld.PRB_SEL_EN d k) ∧ natBit (t.regSectors r) (16 * d + t.posSector d pc pr) ∧ ¬t.probesOpen d pc pr then
      t.setFld (Fld.PRB_SEL_EN d k) 0
    else t) s

/-- A write to CFG_PPINj that names a die with a multiplexer, by that multiplexer's owner (R578, R581). -/
def State.ppinWrite (s : State) (j : Nat) (v : Word) (who : Word) : State :=
  if s.probeMay (bits v 26 24) who then s.setReg (Reg.CFG_PPIN j) (v &&& 0x870000FF#32) else s

end Sys2Proof.Machine
end

