-- ==== Sys2Proof/Machine/Pins.lean ====
section
/-! DEFINITION. The system pins: claims, pin frames, GPIO, filter timers, and the controllers behind the functions (R636 to R651). -/

namespace Sys2Proof.Machine

/-! ## Bit sets of 64 pins -/

/-- The set with bit `p` as `b`. -/
def pinPut (v : BitVec 64) (p : Nat) (b : Bool) : BitVec 64 := BitVec.ofNat 64 (putNatBit v.toNat p b)

/-- The set of the pins that `f` names. -/
def pinSet (f : Nat → Bool) : BitVec 64 := (List.range 64).foldl (fun v p => if f p then v ||| BitVec.ofNat 64 (2 ^ p) else v) 0

/-! ## Functions (R637, R638) -/

/-- The PULL code that the PUDC_N strap gives a pin after a start (R565, R638): up when it is low, down when it is high.
PIN_CFG and UIO_PAD are stored with their PULL field XORed with it. -/
def State.strapPull (s : State) : Nat := if s.straps.pudcN then 2 else 1

/-- A PIN_CFG or UIO_PAD word between its stored and its visible form. -/
def State.pullXor (s : State) (v : Word) : Word := setBits v 4 3 (bits v 4 3 ^^^ s.strapPull)

/-- Applied FUNC of a pin. -/
def State.pinFunc (s : State) (p : Nat) : Nat := s.fld (Fld.PIN_CFG_FUNC p)

/-- The timer whose signal a pin carries with a FUNC (R637). -/
def pinTimer (p func : Nat) : Option Nat :=
  if 24 ≤ p ∧ p < 32 ∧ func = 2 then some (p - 24)
  else if 56 ≤ p ∧ func = 3 then some (p - 56)
  else none

/-- A FUNC that the pin does not offer (REASON 3 of R639). -/
def noFunc (p func : Nat) : Bool := (func = 3 && p < 56) || (func = 2 && 49 ≤ p && p ≤ 55)

/-- The pin is not in the hold of R641. -/
def State.pinFree (s : State) (p : Nat) : Bool := !s.pins.hold.getLsbD p

/-- The duty of fan `f` in 1/255 (R648): with AUTO 0x40 at or below LOW and 0xFF at or above HIGH, and on the line between them, rounded
down (DESIGN CHOICE, assumption 75). -/
def State.fanDuty (s : State) (f : Nat) : Nat :=
  let v := s.reg (Reg.FAN_CTRL f)
  if natBit v.toNat 31 then
    let t := signed 12 (s.fld Fld.THM_STAT_MAXTEMP)
    let low := 8 * signed 8 (bits v 15 8)
    let high := 8 * signed 8 (bits v 23 16)
    if high ≤ t then 255 else if t ≤ low then 64 else (64 + 191 * (t - low) / (high - low)).toNat
  else bits v 7 0

/-- The fan PWM is steadily 0 or 1, or a level that changes 25,000 times a second (R648). -/
def State.fanPwm (s : State) (f : Nat) : Option Bool :=
  if s.fanDuty f = 0 then some false else if s.fanDuty f = 255 then some true else none

/-- TX bytes of UART `u`; RX bytes are FIFO `2u + 1`. -/
def State.fifo (s : State) (n : Nat) : List Byte := SMap.get [] s.pins.fifo n

/-- What a function drives onto its pad: none, or a level. Levels that the manual does not fix are free. -/
def State.pinDrive (s : State) (p : Nat) : Option Bool :=
  let free := some (Config.freeNet s.free p)
  match s.pinFunc p with
  | 1 =>
    if natBit (s.reg (Reg.GPIO_OE_M (p / 16))).toNat (p % 16) then some (natBit (s.reg (Reg.GPIO_OUT_M (p / 16))).toNat (p % 16))
    else none
  | 0 => none
  | func =>
    match pinTimer p func with
    | some k =>
      let m := s.fld (Fld.PIN_TMR_CTRL_MODE k)
      if 4 ≤ m ∧ m ≤ 6 then some (s.pins.tmr.getLsbD k) else none
    | none =>
      if func ≠ 2 then none
      else if p = 1 then some true
      else if p < 6 then free
      else if p = 6 ∨ p = 7 then (if s.bit (Fld.I2C_CTRL_EN 0) then free else none)
      else if p = 9 ∨ p = 10 then (if s.bit (Fld.I2C_CTRL_EN 1) then free else none)
      else if p = 12 ∨ p = 14 then
        let u := (p - 12) / 2
        if s.bit (Fld.UART_CTRL_EN u) ∧ s.fifo (2 * u) ≠ [] then free else some true
      else if 16 ≤ p ∧ p < 24 ∧ p % 2 = 0 then
        match s.fanPwm ((p - 16) / 2) with
        | some b => some b
        | none => free
      else if 32 ≤ p ∧ p < 48 then
        let j := p - 32
        if s.bit (Fld.CFG_PPIN_EN j) ∧ s.fld (Fld.CFG_PPIN_DIE j) < 4 then
          some (s.probeSlot (s.fld (Fld.CFG_PPIN_DIE j)) (s.fld (Fld.CFG_PPIN_SLOT j)))
        else none
      else none

/-- What the device itself drives onto a pad: the halt safe state before everything else, nothing while it is unpowered or in reset, then a hold,
then the function (R641, R649, R660). -/
def State.pinCore (s : State) (p : Nat) : Option Bool :=
  if s.phase = .halted then (if p = 48 then some false else none)
  else if ¬s.up then none
  else if s.pinFree p then s.pinDrive p
  else if s.pins.heldOe.getLsbD p then some (s.pins.heldOut.getLsbD p)
  else none

/-- What drives a pad from inside: boundary scan where it takes the pad over, also in a halt (R539, R540), else the device. -/
def State.pinOut (s : State) (p : Nat) : Option Bool := (s.jtagDrive (.pin p)).getD (s.pinCore p)

/-- The level of a pad (R636, R643): the device's drive, the drive from outside, or the pull; a fight and a pad that nothing
holds are free. -/
def State.padLevel (s : State) (p : Nat) : Bool :=
  let ext := s.pins.level.getLsbD p
  match s.pinOut p with
  | some b => if s.pins.drive.getLsbD p ∧ ext ≠ b then Config.freeNet s.free (64 + p) else b
  | none =>
    if s.pins.drive.getLsbD p then ext
    else
      match bits (s.pullXor (s.reg (Reg.PIN_CFG p))) 4 3 with
      | 1 => true
      | 2 => false
      | 3 => ext
      | _ => Config.freeNet s.free (128 + p)

/-- The level that a function's input sees (R637, R641, R648): `masked` where the function has no pin or the pin is held. -/
def State.funcIn (s : State) (p func : Nat) (masked : Bool) : Bool :=
  if s.pinFunc p = func ∧ s.pinFree p then s.pins.sync2.getLsbD p else masked

/-- The pin that carries the signal of timer `k`, if one does. -/
def State.timerPin (s : State) (k : Nat) : Option Nat :=
  if s.pinFunc (24 + k) = 2 then some (24 + k) else if s.pinFunc (56 + k) = 3 then some (56 + k) else none

/-! ## Claims (R639, R640) -/

/-- The current FUNC of a pin. -/
def State.curFunc (s : State) (p : Nat) : Nat :=
  match SMap.find s.shadow (Reg.PIN_CFG p) with
  | some v => bits v 1 0
  | none => s.pinFunc p

/-- The lowest REASON that refuses a claim, or 0 (R639). -/
def State.claimReason (s : State) (p : Nat) (v : Word) (who : Word) : Nat :=
  let func := bits v 1 0
  let cur := s.curFunc p
  let other := if p < 56 then p + 32 else p - 32
  let taken : Bool := match pinTimer p func with
    | some _ => decide (pinTimer other (s.curFunc other) ≠ none)
    | none => false
  if func ≠ 0 ∧ cur ≠ 0 ∧ cur ≠ func then 1
  else if func ≠ 0 ∧ cur ≠ func ∧ taken then 2
  else if noFunc p func then 3
  else if bits v 31 29 ≠ 0 ∧ s.reg (Reg.PIN_FT_OWNER (bits v 28 27)) ≠ who then 4
  else 0

/-- A write to PIN_CFGp: the claim waits for the next pin frame, or is refused (R639 to R641). The answer says whether it was
accepted. -/
def State.pinClaim (s : State) (p : Nat) (v : Word) (who : Word) : State × Bool :=
  match s.claimReason p v who with
  | 0 => ({ s with shadow := SMap.set s.shadow (Reg.PIN_CFG p) (s.pullXor v &&& 0xF800003B#32) }, true)
  | n =>
    let s := s.bump Fld.PIN_CLAIMERR_COUNT
    (s.logOnce Fld.PIN_CLAIMERR_VALID fun t => (t.setFld Fld.PIN_CLAIMERR_REASON n).setFld Fld.PIN_CLAIMERR_PIN p, false)

/-! ## Pin frames (R641 to R647) -/

/-- Masked GPIO writes that wait (R642): `n` is 0 to 3 for GPIO_OUT_M and 4 to 7 for GPIO_OE_M. -/
def State.gpioWrite (s : State) (n : Nat) (v : Word) : State :=
  let old := SMap.get 0 s.pins.gpio n
  let m := bits v 31 16
  let om := old / 65536
  let data := (old % 65536 &&& (65535 - m)) + (v.toNat % 65536 &&& m)
  { s with pins := { s.pins with gpio := SMap.put 0 s.pins.gpio n ((om ||| m) * 65536 + data) } }

/-- Apply one masked write. -/
def State.gpioApply (s : State) (e : Nat × Nat) : State :=
  let a := if e.1 < 4 then Reg.GPIO_OUT_M e.1 else Reg.GPIO_OE_M (e.1 % 4)
  let m := e.2 / 65536
  s.setReg a (BitVec.ofNat 32 (((s.reg a).toNat % 65536 &&& (65535 - m)) + (e.2 % 65536 &&& m)))

/-- A filter restarts (R646). -/
def State.filterRestart (s : State) (p : Nat) : State :=
  { s with pins := { s.pins with filt := pinPut s.pins.filt p (s.pins.sync2.getLsbD p), cnt := SMap.drop s.pins.cnt p } }

/-- Set the status bits of a set of pins (R647). -/
def State.pinIrq (s : State) (v : BitVec 64) : State :=
  if v = 0 then s
  else withEvents (fun t => (t.setReg Reg.PIN_IRQ_STATUS_LO (t.reg Reg.PIN_IRQ_STATUS_LO ||| v.setWidth 32)).setReg
    Reg.PIN_IRQ_STATUS_HI (t.reg Reg.PIN_IRQ_STATUS_HI ||| (v >>> 32).setWidth 32)) s

/-- A boundary of a pin frame applies the waiting claim of a pin, which holds `out` if its FUNC changes (R641, R646). -/
def State.pinApplyFrom (s : State) (p : Nat) (out : Option Bool) : State :=
  match SMap.find s.shadow (Reg.PIN_CFG p) with
  | none => s
  | some v =>
    let old := s.reg (Reg.PIN_CFG p)
    let s := s.applyShadow (Reg.PIN_CFG p)
    if bits v 1 0 ≠ bits old 1 0 then
      { s with pins := { s.pins with
          hold := pinPut s.pins.hold p true
          heldOe := pinPut s.pins.heldOe p out.isSome
          heldOut := pinPut s.pins.heldOut p (out = some true) } }
    else if bits v 31 27 ≠ bits old 31 27 then s.filterRestart p
    else s

/-- A boundary for one pin, which holds what it drives now. -/
def State.pinApply (s : State) (p : Nat) : State := s.pinApplyFrom p (s.pinCore p)

/-- The TACH input of fan `f`. -/
def State.tachIn (s : State) (f : Nat) : Bool := s.funcIn (17 + 2 * f) 2 false

/-- PIN_FRAME: one AON tick with what the world outside drives onto the pins from now on (R585, R591, R641 to R648). -/
def State.pinFrame (s : State) (drive level : BitVec 64) : State :=
  if ¬s.clk.aonClocked then s
  else
    let s0 := s
    let keep := s.padLevel
    let s : State := { s with pins := { s.pins with
      drive := drive
      level := pinSet fun p => if drive.getLsbD p then level.getLsbD p else keep p } }
    let pad := s.padLevel
    let held := s.pins.hold
    let s : State := { s with pins := { s.pins with
      level := pinSet fun p => if drive.getLsbD p then level.getLsbD p else pad p
      sync1 := pinSet pad
      sync2 := s.pins.sync1
      tmrHit := 0 } }
    let s := s.setReg Reg.PIN_TICKS (s.reg Reg.PIN_TICKS + 1)
    let s := s.pins.gpio.foldl (fun (t : State) e => t.gpioApply e) s
    let s : State := { s with pins := { s.pins with gpio := [], hold := 0 } }
    let s := (List.range 64).foldl (fun (t : State) p =>
      let t := if held.getLsbD p then t.filterRestart p else t
      t.pinApplyFrom p (s0.pinCore p)) s
    let s : State := { s with pins := { s.pins with
      strobe := (List.range 4).foldl (fun m k =>
        if s.fld (Fld.PIN_FT_PERIOD k) = 0 then SMap.drop m k else SMap.set m k (SMap.get 0 m k + 1)) s.pins.strobe
      tach := (List.range 4).foldl (fun m f =>
        if s0.tachIn f ∧ ¬s.tachIn f then SMap.set m f (SMap.get 0 m f + 1) else m) s.pins.tach } }
    (s.pinIrq (pinSet fun p =>
      let mode := s.fld (Fld.PIN_CFG_IRQMODE p)
      (mode = 4 && s.pins.filt.getLsbD p) || (mode = 5 && !s.pins.filt.getLsbD p))).useFree

/-- FILTER_STROBE: a running timer strobes when its period has passed (R645 to R647). -/
def State.filterStrobe (s : State) (k : Nat) : State :=
  let period := s.fld (Fld.PIN_FT_PERIOD k)
  let ticks := SMap.get 0 s.pins.strobe k
  if period = 0 ∨ ticks < period then s
  else
    let need := max 1 (s.fld (Fld.PIN_FT_COUNT k))
    let s : State := { s with pins := { s.pins with strobe := SMap.put 0 s.pins.strobe k (ticks - period) } }
    (List.range 64).foldl (fun (t : State) p =>
      if t.fld (Fld.PIN_CFG_FT p) ≠ k ∨ ¬t.pinFree p then t
      else
        let x := t.pins.sync2.getLsbD p
        if x = t.pins.filt.getLsbD p then { t with pins := { t.pins with cnt := SMap.drop t.pins.cnt p } }
        else
          let n := SMap.get 0 t.pins.cnt p + 1
          if n < need then { t with pins := { t.pins with cnt := SMap.set t.pins.cnt p n } }
          else
            let u : State := { t with pins := { t.pins with cnt := SMap.drop t.pins.cnt p, filt := pinPut t.pins.filt p x } }
            let mode := u.fld (Fld.PIN_CFG_IRQMODE p)
            if mode = 3 ∨ (mode = 1 ∧ x) ∨ (mode = 2 ∧ ¬x) then u.pinIrq (pinSet fun q => q = p) else u) s

/-- A write to PIN_FTk by its owner: its period starts again (R644). -/
def State.ftWrite (s : State) (k : Nat) (v : Word) (who : Word) : State :=
  if s.reg (Reg.PIN_FT_OWNER k) = who then
    { s.setReg (Reg.PIN_FT k) (v &&& 0xF00FFFFF#32) with pins := { s.pins with strobe := SMap.drop s.pins.strobe k } }
  else s

/-- A clock-loss reset restarts every filter; the AON tick count restarts (R590, R646). -/
def State.pinsClockLoss (s : State) : State :=
  let s := (List.range 64).foldl (fun (t : State) p => t.filterRestart p) s
  let s : State := { s with pins := { s.pins with strobe := [], cnt := [] } }
  s.setReg Reg.PIN_TICKS 0

/-! ## Controllers (R648) -/

/-- Replace a FIFO. -/
def State.setFifo (s : State) (n : Nat) (l : List Byte) : State :=
  { s with pins := { s.pins with fifo := SMap.put [] s.pins.fifo n l } }

/-- A write to UART_DATA. -/
def State.uartPush (s : State) (u : Nat) (v : Word) : State :=
  if (s.fifo (2 * u)).length < 16 then s.setFifo (2 * u) (s.fifo (2 * u) ++ [v.setWidth 8]) else s

/-- A read of UART_DATA: BYTE is free where no byte was popped. -/
def State.uartPop (s : State) (u : Nat) : State × Word :=
  match s.fifo (2 * u + 1) with
  | b :: rest => (s.setFifo (2 * u + 1) rest, BitVec.ofNat 32 (256 + b.toNat))
  | [] => (s.useFree, Config.freeWord s.free &&& 0xFF#32)

/-- The level fields of UART_STAT. -/
def State.uartLevels (s : State) (u : Nat) : Nat := (s.fifo (2 * u)).length * 256 + (s.fifo (2 * u + 1)).length

/-- UART_RX_BYTE: a byte arrives on the RX pin. -/
def State.uartRx (s : State) (u : Nat) (b : Byte) (stopOk : Bool) : State :=
  let pin := 13 + 2 * u
  if ¬s.bit (Fld.UART_CTRL_EN u) ∨ s.pinFunc pin ≠ 2 ∨ ¬s.pinFree pin then s
  else if ¬stopOk then s.setFld (Fld.UART_STAT_FRAMING u) 1
  else if (s.fifo (2 * u + 1)).length < 16 then s.setFifo (2 * u + 1) (s.fifo (2 * u + 1) ++ [b])
  else s.setFld (Fld.UART_STAT_OVERRUN u) 1

/-- UART_TX_BYTE_SENT: a byte leaves the TX FIFO; it reaches the board only through a claimed TX pin. -/
def State.uartTx (s : State) (u : Nat) : State :=
  match s.fifo (2 * u) with
  | [] => s
  | b :: rest =>
    if ¬s.bit (Fld.UART_CTRL_EN u) then s
    else
      let s := s.setFifo (2 * u) rest
      if s.pinFunc (12 + 2 * u) = 2 ∧ s.pinFree (12 + 2 * u) then s.emit (.uart u b) else s

/-- The SCL and SDA pins of I2C controller `i` are claimed. -/
def State.i2cClaimed (s : State) (i : Nat) : Bool := s.pinFunc (6 + 3 * i) = 2 && s.pinFunc (7 + 3 * i) = 2

/-- A write to I2C_CMD: one byte starts, unless the controller is busy or not enabled or the OP is 3. -/
def State.i2cCmd (s : State) (i : Nat) (v : Word) : State :=
  if s.bit (Fld.I2C_STAT_BUSY i) ∨ ¬s.bit (Fld.I2C_CTRL_EN i) ∨ bits v 9 8 = 3 then s
  else
    let s : State := { s with pins := { s.pins with i2c := SMap.set s.pins.i2c i (v &&& 0xFFF#32) } }
    let s := s.setFld (Fld.I2C_STAT_BUSY i) 1
    if s.i2cClaimed i then s.emit (.i2c i (v &&& 0xFFF#32)) else s

/-- I2C_BYTE_DONE: the byte in progress ends with an acknowledge bit, the byte read, or lost arbitration; without its pins the
controller sees the masked levels. -/
def State.i2cDone (s : State) (i : Nat) (nack arbLost : Bool) (data : Byte) : State :=
  match SMap.find s.pins.i2c i with
  | none => s
  | some v =>
    let ok := s.i2cClaimed i
    let s : State := { s with pins := { s.pins with i2c := SMap.drop s.pins.i2c i } }
    let s := s.setFld (Fld.I2C_STAT_BUSY i) 0
    if ok ∧ arbLost then s.setFld (Fld.I2C_STAT_ARBLOST i) 1
    else if bits v 9 8 = 0 then (if nack ∨ ¬ok then s.setFld (Fld.I2C_STAT_NACK i) 1 else s)
    else s.setFld (Fld.I2C_STAT_RXDATA i) (if ok then data.toNat else 255)

/-- ALERT of I2C_STAT: ALERT_N is low, synchronised. -/
def State.i2cAlert (s : State) (i : Nat) : Bool := !s.funcIn (8 + 3 * i) 2 true

/-- TIMER_CAPTURE: a synchronised edge on the pin of a timer in a capture mode for that edge. -/
def State.timerCapture (s : State) (k : Nat) (rising : Bool) : State :=
  let m := s.fld (Fld.PIN_TMR_CTRL_MODE k)
  let on : Bool := match s.timerPin k with
    | some p => s.pinFree p
    | none => false
  if on ∧ (m = 3 ∨ (m = 1 ∧ rising) ∨ (m = 2 ∧ ¬rising)) then
    (s.setReg (Reg.PIN_TMR_VAL k) (s.reg Reg.PIN_TICKS)).setFld (Fld.PIN_TMR_CTRL_HIT k) 1
  else s

/-- TIMER_MATCH: PIN_TICKS equals VAL of a timer in a compare mode. -/
def State.timerMatch (s : State) (k : Nat) : State :=
  let m := s.fld (Fld.PIN_TMR_CTRL_MODE k)
  if 4 ≤ m ∧ m ≤ 6 ∧ s.reg Reg.PIN_TICKS = s.reg (Reg.PIN_TMR_VAL k) ∧ ¬s.pins.tmrHit.getLsbD k then
    let b := if m = 4 then true else if m = 5 then false else !s.pins.tmr.getLsbD k
    let s : State := { s with pins := { s.pins with
      tmr := BitVec.ofNat 8 (putNatBit s.pins.tmr.toNat k b)
      tmrHit := BitVec.ofNat 8 (putNatBit s.pins.tmrHit.toNat k true) } }
    s.setFld (Fld.PIN_TMR_CTRL_HIT k) 1
  else s

/-- TACH_WINDOW: the counts of falling edges are latched. -/
def State.tachWindow (s : State) : State :=
  let s := (List.range 4).foldl (fun (t : State) f => t.setFld (Fld.FAN_STAT_TACH f) (SMap.get 0 t.pins.tach f)) s
  { s with pins := { s.pins with tach := [] } }

/-- What GPIO_IN and GPIO_IN_SYNC read for pins `32h` on (R643). -/
def State.gpioIn (s : State) (sync : Bool) (h : Nat) : Word :=
  let v := if sync then s.pins.sync2 else pinSet s.padLevel
  (v >>> (32 * h)).setWidth 32

/-- The PIN block right after a start (R638): pins 0 to 5 and 48 hold their functions. -/
def State.pinsReset (s : State) : State :=
  ([0, 1, 2, 3, 4, 5, 48]).foldl (fun (t : State) p => t.setReg (Reg.PIN_CFG p) 2) s

end Sys2Proof.Machine
end

