-- ==== Sys2Proof/Machine/Aon.lean ====
section
/-! DEFINITION. The always-on domain: the clock manager with its monitor and clock-loss resets, requests to the power
sequencer, and the thermal manager (R583 to R607, R686). -/

namespace Sys2Proof.Machine

/-! ## References: 1 REFA, 2 REFB (R583, R584) -/

/-- The state field of a reference. -/
def refField (ref : Nat) : RField := if ref = 1 then Fld.CLK_STATUS_REFA_STATE else Fld.CLK_STATUS_REFB_STATE

/-- A reference is present. -/
def State.refPresent (s : State) (ref : Nat) : Bool := s.fld (refField ref) = 2

/-- The other reference. -/
def otherRef (ref : Nat) : Nat := 3 - ref

/-- An input that the monitor may count against: present, or REFA within a start delay that has begun (R587). -/
def State.refRuns (s : State) (ref : Nat) : Bool := s.refPresent ref || (ref = 1 && s.fld Fld.CLK_STATUS_REFA_STATE = 1 && s.clk.counting)

/-- The start delay of REFA in cycles (R584). -/
def State.xaDelay (s : State) : Nat :=
  let c := s.fld Fld.AON_XA_DELAY_CYCLES
  if s.bit Fld.AON_XA_DELAY_OVR ∧ c ≠ 0 then c else 12500 * 2 ^ s.straps.xadly.toNat

/-! ## Clock-loss resets (R588 to R590) -/

/-- A clock-loss reset onto a source; cause 0 is the move of step 3, which is not reported. The AON logic that it resets is what counts
AON clocks: the register blocks run on DREF (R591), and keep what they hold (DEDUCED, assumption 75). -/
def State.clockLoss (s : State) (cause goal : Nat) : State :=
  let frm := s.fld Fld.CLK_STATUS_AONSRC
  let s : State := { s with
    clk := { s.clk with aonClocked := true, deferred := false, lossOnMclk := decide (goal = 0) }
    arms := []
    heldAcc := s.heldAcc.filter fun a => a.path ≠ .mgmt }
  let s := (s.setFld Fld.CLK_STATUS_AONSRC goal).pinsClockLoss
  if cause = 0 then s
  else
    let s := ((s.bump Fld.CLK_LOSS_COUNT).setFld Fld.CLK_LOSS_CAUSE cause).setFld Fld.CLK_LOSS_FROM frm
    (s.setFld Fld.CLK_LOSS_TO goal).raise Fld.CLK_IRQ_STATUS_LOSS

/-- The AON clock has lost its reference: it moves, waits for REFA, or stops (R588). -/
def State.moveAon (s : State) : State :=
  let other := otherRef (s.fld Fld.CLK_STATUS_AONSRC)
  if s.refPresent other then s.clockLoss 1 other
  else if s.fld Fld.CLK_STATUS_REFA_STATE = 1 then { s with clk := { s.clk with aonClocked := false, deferred := true } }
  else if s.clk.mclk then s.clockLoss 5 0
  else { s with clk := { s.clk with aonClocked := false, deferred := false } }

/-! ## DREF (R592, R593) -/

/-- Every link with a Strata layer. -/
def allLinks : List LinkRef :=
  (List.finRange 64).map .bundle ++ (List.finRange 8).map .bridge ++ (List.finRange 4).map .lode

/-- DREF has a source again: out of holdover without a step, or restarted with a retrain of every link. -/
def State.drefFrom (s : State) (ref : Nat) : State :=
  let lost := s.bit Fld.CLK_STATUS_DREFLOST
  let s := ((s.setFld Fld.CLK_STATUS_DREFSRC ref).setFld Fld.CLK_STATUS_HOLDOVER 0).setFld Fld.CLK_STATUS_DREFLOST 0
  if lost then allLinks.foldl (fun (t : State) l => if t.linkState l = 2 then t.retrain l else t) s else s

/-- DREF has lost its source: holdover, and the move to the other reference if it is present (R593). -/
def State.drefLose (s : State) : State :=
  let other := otherRef (s.fld Fld.CLK_STATUS_DREFSRC)
  let s := ((s.setFld Fld.CLK_STATUS_DREFSRC 0).setFld Fld.CLK_STATUS_HOLDOVER 1).raise Fld.CLK_IRQ_STATUS_HOLDOVER
  if s.refPresent other then s.drefFrom other else s

/-- HOLDOVER_EXPIRY: 10 ms of holdover with no reference present (R143, R593). -/
def State.holdoverExpiry (s : State) : State :=
  if s.bit Fld.CLK_STATUS_HOLDOVER ∧ ¬s.refPresent 1 ∧ ¬s.refPresent 2 then
    let s := ((s.setFld Fld.CLK_STATUS_HOLDOVER 0).setFld Fld.CLK_STATUS_DREFLOST 1).raise Fld.CLK_IRQ_STATUS_DREFLOST
    s.pllsLose
  else s

/-! ## References come and go -/

/-- Step 2 of R594: Flint enables both references; in END it never comes to that (R617). -/
def State.enterStep2 (s : State) : State :=
  if s.phase = .start 1 ∧ s.fld Fld.LCS_STATUS_STATE ≠ 4 then
    let s := ((s.setFld Fld.CLK_CTRL_REFA_EN 1).setFld Fld.CLK_CTRL_REFB_EN 1).setFld Fld.CLK_STATUS_REFA_STATE 1
    { s.setFld Fld.CLK_STATUS_REFB_STATE 1 with phase := .start 2, clk := { s.clk with counting := false, delay := s.xaDelay } }
  else s

/-- A reference becomes present (R588, R589, R593). -/
def State.refArrives (s : State) (ref : Nat) : State :=
  let s := s.setFld (refField ref) 2
  let s : State := if ref = 1 then { s with clk := { s.clk with counting := false } } else s
  let s := if s.clk.deferred then (if ref = 1 then s.clockLoss 2 1 else s)
    else if ¬s.clk.aonClocked then s.clockLoss 6 ref
    else if s.clk.lossOnMclk then s.clockLoss 4 ref
    else s
  if s.bit Fld.CLK_STATUS_HOLDOVER ∨ s.bit Fld.CLK_STATUS_DREFLOST then s.drefFrom ref else s

/-- REFA_OSCILLATION_START: the first cycle over the threshold (R584, R587). -/
def State.refaOscillates (s : State) : State :=
  let s := s.enterStep2
  let st := s.fld Fld.CLK_STATUS_REFA_STATE
  if ¬s.bit Fld.CLK_CTRL_REFA_EN then s
  else if st = 3 then { s.setFld Fld.CLK_STATUS_REFA_STATE 1 with clk := { s.clk with counting := true, delay := s.xaDelay } }
  else if st = 1 then { s with clk := { s.clk with counting := true } }
  else s

/-- START_DELAY_COMPLETE (R584, R589). -/
def State.startDelayDone (s : State) : State :=
  if s.fld Fld.CLK_STATUS_REFA_STATE = 1 ∧ s.clk.counting then s.refArrives 1 else s

/-- REFB_QUALIFIED: 4,096 good cycles against MCLK or a present REFA (R583, R587). -/
def State.refbQualified (s : State) (mclk : Bool) : State :=
  let s := s.enterStep2
  let st := s.fld Fld.CLK_STATUS_REFB_STATE
  let s : State := { s with clk := { s.clk with mclk := mclk } }
  if s.bit Fld.CLK_CTRL_REFB_EN ∧ (st = 1 ∨ st = 3) ∧ (mclk ∨ s.refPresent 1) then s.refArrives 2 else s

/-- What the loss of an input does to the AON clock and to DREF (R587, R588, R593, R686). -/
def State.refGone (s : State) (ref : Nat) : State :=
  let s : State := if ref = 1 then { s with clk := { s.clk with counting := false } } else s
  let s := if s.clk.aonClocked ∧ s.fld Fld.CLK_STATUS_AONSRC = ref then s.moveAon else s
  if s.fld Fld.CLK_STATUS_DREFSRC = ref then s.drefLose else s

/-- REFERENCE_TRIP: the monitor finds a running reference wrong against another running input (R587). -/
def State.refTrip (s : State) (ref : Nat) (mclk : Bool) : State :=
  if (ref = 1 ∨ ref = 2) ∧ s.refRuns ref ∧ (mclk ∨ s.refRuns (otherRef ref)) then
    let s : State := { s with clk := { s.clk with mclk := mclk } }
    ((s.setFld (refField ref) 3).raise Fld.CLK_IRQ_STATUS_REFLOST).refGone ref
  else s

/-- The reference onto which an AON clock that has fallen back to MCLK returns at once: a present one, the one named in AONPREF first, but
not the one that has just given no edge (R589). -/
def State.mclkReturn (s : State) (dead : Nat) : Nat :=
  let r := if s.bit Fld.CLK_BOOT_AONPREF then 2 else 1
  if s.refPresent r ∧ r ≠ dead then r else if s.refPresent (otherRef r) ∧ otherRef r ≠ dead then otherRef r else 0

/-- MCLK_WATCH: no AON edge during 64 edges of MCLK (R589). -/
def State.mclkWatch (s : State) : State :=
  let s : State := { s with clk := { s.clk with mclk := true } }
  if ¬s.clk.aonClocked ∨ s.fld Fld.CLK_STATUS_AONSRC ≠ 0 then
    match s.mclkReturn (if s.clk.aonClocked then s.fld Fld.CLK_STATUS_AONSRC else 0) with
    | 0 => s.clockLoss 3 0
    | r => (s.clockLoss 3 0).clockLoss 4 r
  else s

/-! ## CLK_CTRL (R584, R586, R686) -/

/-- A change of REFA_EN or REFB_EN. -/
def State.refEnable (s : State) (ref : Nat) (en : Bool) : State :=
  let f := if ref = 1 then Fld.CLK_CTRL_REFA_EN else Fld.CLK_CTRL_REFB_EN
  if s.bit f = en then s
  else if en then
    let s := (s.setFld f 1).setFld (refField ref) 1
    if ref = 1 then { s with clk := { s.clk with counting := false, delay := s.xaDelay } } else s
  else
    let waits := decide (ref = 1) && s.clk.deferred
    let s := ((s.setFld f 0).setFld (refField ref) 0).refGone ref
    if waits then State.moveAon { s with clk := { s.clk with deferred := false } } else s

/-- A write of AONSEL. -/
def State.aonSel (s : State) (sel : Nat) : State :=
  if (sel ≠ 1 ∧ sel ≠ 2) ∨ ¬s.stepDone 3 then s
  else if s.refPresent sel then
    { s.setFld Fld.CLK_STATUS_AONSRC sel with clk := { s.clk with lossOnMclk := false } }
  else s.setFld Fld.CLK_STATUS_SELREFUSED 1

/-- A write to CLK_CTRL. -/
def State.clkCtrl (s : State) (v : Word) : State :=
  ((s.refEnable 1 (natBit v.toNat 31)).refEnable 2 (natBit v.toNat 30)).aonSel (bits v 1 0)

/-! ## Requests to the power sequencer (R599 to R601, R603) -/

/-- Die-logical sectors of fabric quadrant `q` (R30, R599). -/
def State.quadSectors (s : State) (d q : Nat) : List Nat :=
  (List.range 4).map fun i => 4 * (2 * (q / 2) + i / 2) + s.physX d 4 (2 * (q % 2) + i % 2)

/-- The cause that refuses REQ = 0 for a domain, or 0 (R601). -/
def State.offCause (s : State) (d : Nat) : Nat :=
  let n := (d - 16) / 10
  let k := (d - 16) % 10
  if d < 5 ∨ d = 9 then 1
  else if 16 ≤ d ∧ k < 4 ∧ (s.quadSectors n k).any (fun sec => (s.regionOf n sec).isSome) then 2
  else if 16 ≤ d ∧ k = 4 ∧ s.engines.any (fun e => e.1 / 2304 = n && (e.2.run = .running || e.2.run = .waiting)) then 3
  else if 16 ≤ d ∧ k = 9 ∧ (s.domOn (slateDom n 5) ∨ (List.range 6).any (fun w => s.reg (Reg.MCA_EXPORT n w) ≠ 0)) then 4
  else if ¬s.domExists d then 5
  else if 10 ≤ d ∧ d ≤ 13 ∧ s.bit (Fld.LOD_CTRL_EN (d - 10)) then 6
  else if d = 14 ∧ (List.range 8).any (fun i => s.bit (Fld.STR_BP_CTRL_EN i)) then 6
  else if 16 ≤ d ∧ (k = 5 ∨ k = 8) ∧ ([0, 1, 2, 3, 4, 7]).any (fun j => s.fld (Fld.PWR_DOM_STATE (slateDom n j)) ≠ 0) then 7
  else 0

/-- A write to PWR_DOMd (R600, R601). -/
def State.domWrite (s : State) (d : Nat) (v : Word) : State :=
  let s := if natBit v.toNat 28 then s.setFld (Fld.PWR_DOM_REFUSED d) 0 else s
  if natBit v.toNat 29 then s.wakeDomain d
  else
    match s.offCause d with
    | 0 =>
      let s := s.setFld (Fld.PWR_DOM_REQ d) 0
      if s.domOn d then s.setFld (Fld.PWR_DOM_STATE d) 3 else s
    | c => s.domRefuse d c

/-! ## Temperature (R216, R604 to R607) -/

/-- A throttle level from a temperature in units of 0.125 °C (R216). -/
def throttle (enter leave : List Int) (level : Nat) (t : Int) : Nat :=
  let count := fun (l : List Int) => (l.filter fun x => 8 * x ≤ t).length
  max (count enter) (min level (count leave))

/-- A sensor is sampled: Bedrock's, or those of a die of the device (R604). -/
def State.sensed (s : State) (i : Nat) : Bool := (64 ≤ i && i < 72) || (i < 64 && s.dieOk (i / 16))

/-- A sensor is sampled and has not failed. -/
def State.sensorOk (s : State) (i : Nat) : Bool := s.sensed i && !s.bit (Fld.THM_SENS_FAILED i)

/-- The latest sample of a sensor. -/
def State.temp (s : State) (i : Nat) : Int := signed 12 (s.fld (Fld.THM_SENS_TEMP i))

/-- The hottest of a list of sensors, the first among equals. -/
def State.hottest (s : State) (l : List Nat) : Option Nat :=
  l.foldl (fun b i => match b with
    | none => some i
    | some j => if s.temp j < s.temp i then some i else some j) none

/-- Take the readings; a sensor without one has failed its self-check. -/
def State.readSensors (s : State) (l : List (Option (BitVec 12))) : State :=
  (List.range 72).foldl (fun (t : State) i =>
    if ¬t.sensorOk i then t
    else
      match l.getD i none with
      | some x => t.setFld (Fld.THM_SENS_TEMP i) x.toNat
      | none => (t.setFld (Fld.THM_SENS_FAILED i) 1).raise Fld.THM_IRQ_STATUS_FAILED) s

/-- The levels of a Slate die's engines and Mica layer. -/
def State.dieLevels (s : State) (d : Nat) : State :=
  let ok := ((List.range 16).map fun k => 16 * d + k).filter s.sensorOk
  let top := s.hottest ok
  let s := (List.range 16).foldl (fun (t : State) k =>
    let i := 16 * d + k
    let src := if t.sensorOk i then some i else top
    let old := t.fld (Fld.THM_SENS_SELEVEL i)
    let new := match src with
      | some j => throttle [100, 108, 115] [95, 103, 110] old (t.temp j)
      | none => 3
    if new = old then t else (t.setFld (Fld.THM_SENS_SELEVEL i) new).raise Fld.THM_IRQ_STATUS_ENGINE) s
  let old := s.fld (Fld.MCA_STATUS_THROTTLE d)
  let new := match top with
    | some j => throttle [95, 105, 112] [90, 100, 107] old (s.temp j)
    | none => 3
  if new = old then s else (s.setFld (Fld.MCA_STATUS_THROTTLE d) new).raise (Fld.MCA_IRQ_STATUS_THROTTLE d)

/-- THERMAL_SAMPLE. -/
def State.thermalSample (s : State) (l : List (Option (BitVec 12))) : State :=
  let s := s.readSensors l
  let valid := (List.range 72).filter s.sensorOk
  let blind := fun (lo n : Nat) => !((List.range n).any fun k => s.sensorOk (lo + k))
  let dark := blind 64 8 || (List.range 4).any fun d => s.dieOk d && blind (16 * d) 16
  let s := s.setFld Fld.THM_STAT_BLIND (b2n dark)
  let s := match s.hottest valid with
    | some i => (s.setFld Fld.THM_STAT_MAXIDX i).setFld Fld.THM_STAT_MAXTEMP (s.fld (Fld.THM_SENS_TEMP i))
    | none => s
  let s := (List.range 4).foldl (fun (t : State) d => if t.dieOk d then t.dieLevels d else t) s
  let warn := signed 8 (s.fld Fld.THM_CTRL_WARN)
  let s := if valid.any (fun i => 8 * warn ≤ s.temp i) then
      (if s.warned then s else State.raise { s with warned := true } Fld.THM_IRQ_STATUS_WARN)
    else if valid.all (fun i => s.temp i < 8 * (warn - 5)) then { s with warned := false }
    else s
  match s.hottest valid with
  | some i => if 1000 ≤ s.temp i then s.halt 2 0 0 i (s.fld (Fld.THM_SENS_TEMP i)) else s
  | none => s

end Sys2Proof.Machine
end

