-- ==== Sys2Proof/Machine/Flint.lean ====
section
/-! DEFINITION. Flint's watchdog and its firmware fault records (R48, R49, R676). -/

namespace Sys2Proof.Machine

/-- A firmware fault record (R49, R676): FLN_FWLOG keeps its first one. -/
def State.fwRecord (s : State) (kind busKind hi lo : Nat) : State :=
  if ¬s.flintUp then s
  else
    let s := s.logOnce Fld.FLN_FWLOG_A_VALID fun t =>
      (t.setReg Reg.FLN_FWLOG_A (BitVec.ofNat 32 (kind * 2 ^ 28 + busKind * 2 ^ 10 + hi))).setReg Reg.FLN_FWLOG_B (BitVec.ofNat 32 lo)
    s.raise Fld.FLN_IRQ_STATUS_FWFAULT

/-- FLINT_POISON_READ: poisoned data at a memory address, or an SRAM word of Flint's own (R49, R671, R676). -/
def State.flintPoison (s : State) (sram : Bool) (addr : BitVec 48) : State :=
  if sram then s.fwRecord 1 0 0 addr.toNat
  else s.fwRecord 0 0 (addr.toNat / 2 ^ 38) (addr.toNat / 64)

/-- Flint restarts: the revocations that run are completed in the order of their declaration (R80). -/
def State.flintRestart (s : State) : State := { s with revs := s.revs.map fun r => { r with restarted := true } }

/-- FLINT_WATCHDOG_EXPIRY at a time in ms since the start (R48). -/
def State.watchdog (s : State) (ms : Nat) : State :=
  if ¬s.flintUp then s
  else
    let s := s.raise Fld.FLN_IRQ_STATUS_WDOG
    if 2 ≤ (s.wdog.filter fun t => ms < t + 1000).length then
      { s.setFld Fld.FLN_STATUS_FLINT_DOWN 1 with flintUp := false }
    else State.flintRestart { s.bump Fld.FLN_STATUS_WDOG_COUNT with wdog := s.wdog ++ [ms] }

end Sys2Proof.Machine
end

