-- ==== Sys2Proof/Machine/LifeCycle.lean ====
section
/-! DEFINITION. Life cycle, owner keys, leaf state, attestation and Flint patches (R611 to R635). -/

namespace Sys2Proof.Machine

/-! ## States (R611, R612, R616) -/

/-- The state that a set of state bits names (R611). -/
def Fuses.state (f : Fuses) : Nat :=
  if f.end_ ≠ 0 then 4 else if f.ret ≠ 0 then 3 else if f.field ≠ 0 then 2 else if f.dev ≠ 0 then 1 else 0

/-- Steps 3 to 5 of R616 but for the key slots: the owner fields are blown, then RETURN. -/
def Fuses.erase (f : Fuses) : Fuses :=
  { f with ownerPk := List.replicate 56 255, ownerAes := BitVec.allOnes 256, ret := 255 }

/-- Every fuse of a state bit that has one blown (R612). -/
def wholeBit (b : Byte) : Byte := if b = 0 then 0 else 255

/-- What Flint completes at step 1 of start-up (R612, R616). -/
def Fuses.complete (f : Fuses) : Fuses :=
  let f : Fuses := { f with dev := wholeBit f.dev, field := wholeBit f.field, ret := wholeBit f.ret, end_ := wholeBit f.end_ }
  if f.void ≠ 0 then f.erase else f

/-- EPOCHS (R625). -/
def Fuses.epochCount (f : Fuses) : Nat := ((List.range 256).filter fun e => f.epochs.getLsbD e).foldl (fun _ e => e + 1) 0

/-- What LCS_STATUS, LCS_SIGN and LCS_PATCH_STAT show of the fuses. -/
def State.fuseShow (s : State) : State :=
  let s := s.setFld Fld.LCS_STATUS_FUSED s.fuses.state
  let s := s.setFld Fld.LCS_STATUS_OWNERPK (b2n s.ownerPkFused)
  let s := s.setFld Fld.LCS_STATUS_OWNERAES (b2n (decide (s.fuses.ownerAes ≠ 0)))
  let s := s.setFld Fld.LCS_STATUS_VOID (b2n (decide (s.fuses.void ≠ 0)))
  let s := s.setFld Fld.LCS_SIGN_EPOCHS s.fuses.epochCount
  s.setFld Fld.LCS_PATCH_STAT_MINVER s.fuses.rollback

/-- A new token nonce from the DRBG (R619). -/
def State.drawNonce (s : State) : State :=
  let v := (Config.freeW256 s.free).toNat
  (List.range 4).foldl (fun (t : State) w => t.setReg (Reg.LCS_NONCE w) (BitVec.ofNat 32 (v / 2 ^ (32 * w)))) s.useFree

/-- Every key slot is zeroed (R616 step 3). -/
def State.keysErase (s : State) : State :=
  let s : State := { s with keys := [] }
  (List.range 64).foldl (fun (t : State) k => (t.setFld (Fld.OBS_KEY_CTRL_STATE k) 0).setReg (Reg.OBS_KEY_OWNER k) 0) s

/-! ## Tokens and commands (R613 to R620) -/

/-- Bytes of a token window. -/
def windowBytes (w : SMap Word) : List Byte := (List.range 1024).flatMap fun i => bytesLE 4 (SMap.get 0 w i).toNat

/-- A token that a command needs: its bytes, KIND and SIGNER. -/
structure TokenNeed where
  bytes : List Byte
  kind : Nat
  signer : Nat

/-- The signature of a token: its own type codes say how long it is. -/
def tokenSig (b : List Byte) : Option (List Byte) :=
  (lmsTypes (b.drop 32)).map fun (w, h) => slice b 32 (lmsSigLen w h)

/-- Check 2 of R620 for one token; while OWNER_PK is unfused, SIGNER 1 fails its signature instead (R614). -/
def State.tokenFormat (s : State) (n : TokenNeed) : Bool :=
  let signer := leAt n.bytes 5 1
  let nonce := (List.range 4).flatMap fun w => bytesLE 4 (s.reg (Reg.LCS_NONCE w)).toNat
  leAt n.bytes 0 4 = 0x4E4B544C && leAt n.bytes 4 1 = n.kind && leAt n.bytes 6 2 = 0
    && (signer = n.signer || (signer = 1 && !s.ownerPkFused))
    && leAt n.bytes 8 8 = s.fuses.serial.toNat && slice n.bytes 16 16 = nonce && (tokenSig n.bytes).isSome

/-- Check 3 of R620 for one token. -/
def State.tokenSigned (s : State) (n : TokenNeed) : Bool :=
  let key := if n.signer = 1 then s.fuses.ownerPk else Config.oxtelvoTokenKey
  leAt n.bytes 5 1 = n.signer && lmsVerify key (slice n.bytes 0 32) ((tokenSig n.bytes).getD [])

/-- The tokens of an OP in a fused state (R613, R614). -/
def State.tokensOf (s : State) (op : Nat) : List TokenNeed :=
  let a := windowBytes s.lcs.tokA
  let own := b2n s.ownerPkFused
  let st := s.fuses.state
  match op with
  | 1 => [⟨a, 1, 0⟩]
  | 2 => [⟨a, 2, 1⟩]
  | 3 => [⟨a, 3, own⟩, ⟨windowBytes s.lcs.tokB, 4, 0⟩]
  | 4 => [⟨a, 5, if st = 1 ∨ st = 2 then own else 0⟩]
  | 5 => [⟨a, 6, 0⟩]
  | _ => []

/-- OP is allowed from a fused state (R613). -/
def opAllowed (op st : Nat) : Bool :=
  match op with
  | 1 => st = 0
  | 2 => st = 1
  | 3 => st = 1 || st = 2
  | 4 => st ≠ 4
  | 5 => st = 3
  | _ => false

/-- RESULT of a life-cycle command (R620). -/
def State.lcResult (s : State) (op : Nat) : Nat :=
  if ¬opAllowed op s.fuses.state then 3
  else if (op = 2 ∧ ¬s.ownerPkFused) ∨ (op = 5 ∧ s.lcState ≠ 3) then 4
  else if ¬(s.tokensOf op).all s.tokenFormat then 1
  else if ¬(s.tokensOf op).all s.tokenSigned then 2
  else 0

/-- What a successful command blows or opens (R613 to R617). -/
def State.lcEffect (s : State) (op : Nat) : State :=
  match op with
  | 1 => { s with fuses := { s.fuses with dev := 255 } }
  | 2 => { s with fuses := { s.fuses with field := 255 } }
  | 3 =>
    let s : State := { s with fuses := { s.fuses with void := 255 } }
    let s := s.keysErase
    { s with fuses := s.fuses.erase }
  | 4 => { s with fuses := { s.fuses with end_ := 255 } }
  | 5 => s.setFld Fld.LCS_STATUS_DIAG 1
  | _ => s

/-- A write to LCS_LC_CMD (R620). -/
def State.lcCommand (s : State) (op : Nat) : State :=
  if s.lcs.op.isSome then
    ((s.setFld Fld.LCS_LC_RESULT_VALID 1).setFld Fld.LCS_LC_RESULT_RESULT 5).drawNonce
  else { s.setFld Fld.LCS_LC_RESULT_BUSY 1 with lcs := { s.lcs with op := some op } }

/-- LC_COMMAND_DONE (R613 to R620): the checks, the fuses, RESULT and a new nonce; OP 4 halts the device. -/
def State.lcDone (s : State) : State :=
  match s.lcs.op with
  | none => s
  | some op =>
    let r := s.lcResult op
    let s := if r = 0 then (s.lcEffect op).fuseShow else s
    let s : State := { s with lcs := { s.lcs with op := none } }
    let s := ((s.setFld Fld.LCS_LC_RESULT_BUSY 0).setFld Fld.LCS_LC_RESULT_VALID 1).setFld Fld.LCS_LC_RESULT_RESULT r
    let s := s.drawNonce
    if r = 0 ∧ op = 4 then s.halt 3 0 0 0 0 else s

/-! ## Owner keys (R621) -/

/-- A write to LCS_FUSE_CMD that its guard accepts. -/
def State.fuseCommand (s : State) (field : Nat) : State :=
  if field ≠ 1 ∧ field ≠ 2 then s
  else
    let bytes := fun (n : Nat) => (List.range n).flatMap fun w => bytesLE 4 (SMap.get 0 s.lcs.fuseData w).toNat
    let blown := if field = 1 then s.ownerPkFused else s.fuses.ownerAes ≠ 0
    let refused := decide (s.lcState ≠ 1) || blown || decide (s.fuses.void ≠ 0)
    let s := if refused then s.setFld Fld.LCS_STATUS_FUSEREFUSED 1
      else if field = 1 then { s with fuses := { s.fuses with ownerPk := bytes 14 } }
      else { s with fuses := { s.fuses with ownerAes := BitVec.ofNat 256 (natLE (bytes 8)) } }
    State.fuseShow { s with lcs := { s.lcs with fuseData := [] } }

/-! ## Attestation (R625 to R631) -/

/-- GO in LCS_ATT_CMD (R629). -/
def State.attGo (s : State) : State :=
  if s.bit Fld.LCS_ATT_STAT_BUSY then (s.setFld Fld.LCS_ATT_STAT_VALID 1).setFld Fld.LCS_ATT_STAT_STATUS 9
  else if s.lcState = 4 then (s.setFld Fld.LCS_ATT_STAT_VALID 1).setFld Fld.LCS_ATT_STAT_STATUS 6
  else { s.setFld Fld.LCS_ATT_STAT_BUSY 1 with lcs := { s.lcs with attWait := true } }

/-- A region record (R630). -/
def State.regionRecord (s : State) (r : Nat) : List Byte :=
  let i := s.regionInfo r
  let f := b2n (s.bit (Fld.CFG_REG_STAT_COMPLETE r)) + 2 * b2n (s.bit (Fld.CFG_REG_STAT_ENCRYPTED r)) + 4 * b2n (s.regFrozen r)
  bytesLE 1 r ++ bytesLE 1 (s.regState r) ++ bytesLE 1 f ++ bytesLE 1 (s.fld (Fld.CFG_REG_STAT_PERM r)) ++ bytesLE 4 i.version.toNat
    ++ bytesLE 8 (s.regSectors r) ++ i.meas

/-- The report without its signature, as of now, with a leaf field of 0 (R629, R630). -/
def State.attReport (s : State) : List Byte :=
  let regs := (List.range 256).filter fun r => s.regState r ≠ 0
  let patch := s.lcs.patch.getD (0, List.replicate 32 0)
  let flags := b2n (s.bit Fld.FLN_STATUS_RECOVERY) + 2 * b2n (s.bit Fld.HUB_ASSEMBLY_DEGRADED) + 4 * b2n (s.bit Fld.LCS_STATUS_DIAG)
  let die := fun (n : Nat) =>
    if natBit s.fuses.present.toNat n then
      bytesLE 4 (s.reg (Reg.HUB_DIE_STATUS n)).toNat
        ++ bytesLE 4 (if s.dieOk n then (s.fuses.dieFeat.getD n 0).toNat else 0) ++ List.replicate 8 0
    else List.replicate 16 0
  bytesLE 4 0x5441524C ++ bytesLE 2 1 ++ bytesLE 2 regs.length ++ bytesLE 4 (192 + 48 * regs.length + 2828)
    ++ bytesLE 1 s.lcState ++ bytesLE 1 flags ++ bytesLE 2 (s.fld Fld.HUB_IDENT_PART) ++ bytesLE 8 s.fuses.serial.toNat
    ++ bytesLE 4 0 ++ bytesLE 4 (s.reg Reg.HUB_FEATURES).toNat
    ++ ((List.range 8).flatMap fun w => bytesLE 4 (s.reg (Reg.LCS_ATT_NONCE w)).toNat)
    ++ patch.2 ++ bytesLE 2 patch.1 ++ bytesLE 2 (s.fld Fld.HUB_STEP_STEP) ++ bytesLE 4 (s.reg Reg.HUB_FEATWORD).toNat
    ++ bytesLE 2 (s.fld Fld.CFG_EPOCH_EPOCH) ++ List.replicate 22 0
    ++ ((List.range 4).flatMap die) ++ regs.flatMap s.regionRecord

/-- The snapshot of a requested report, at a loader epoch boundary. -/
def State.attSnap (s : State) : State :=
  if s.lcs.attWait then { s with lcs := { s.lcs with attWait := false, snap := some s.attReport } } else s

/-- The leaf that a signature takes (R626): `bad` names the epochs whose fuse does not read back as blown. -/
def State.takeLeaf (s : State) (bad : List Nat) (fuel q : Nat) : State × Option Nat :=
  match fuel with
  | 0 => (s, none)
  | n + 1 =>
    if 2 ^ 20 ≤ q then (s, none)
    else
      let e := q / 4096
      if s.fuses.epochs.getLsbD e then ((s.setFld Fld.LCS_SIGN_NEXTLEAF (q + 1)), some q)
      else if bad.contains e then s.takeLeaf bad n (4096 * (e + 1))
      else
        let s := State.fuseShow { s with fuses := { s.fuses with epochs := s.fuses.epochs ||| BitVec.ofNat 256 (2 ^ e) } }
        (s.setFld Fld.LCS_SIGN_NEXTLEAF (q + 1), some q)

/-- An LMS signature of the identity key with leaf `q`: its type codes and leaf are known, the hash values are free. -/
def identitySig (free q : Nat) : List Byte :=
  let v := (List.range 2816).map (Config.freeByte free)
  bytesBE 4 q ++ bytesBE 4 3 ++ slice v 0 2176 ++ bytesBE 4 8 ++ slice v 2176 640

/-- ATTESTATION_DONE (R626, R629, R630). -/
def State.attDone (s : State) (bad : List Nat) : State :=
  match s.lcs.snap with
  | none => s
  | some rep =>
    let (s, q) := s.takeLeaf bad 258 (s.fld Fld.LCS_SIGN_NEXTLEAF)
    let s := (s.setFld Fld.LCS_ATT_STAT_BUSY 0).setFld Fld.LCS_ATT_STAT_VALID 1
    match q with
    | none => { s.setFld Fld.LCS_ATT_STAT_STATUS 8 with lcs := { s.lcs with snap := none } }
    | some q =>
      let rep := rep.take 24 ++ bytesLE 4 q ++ rep.drop 28 ++ identitySig s.free q
      let s := (s.setFld Fld.LCS_ATT_STAT_STATUS 0).setFld Fld.LCS_ATT_STAT_LENGTH rep.length
      State.useFree { s with lcs := { s.lcs with snap := none, report := rep } }

/-- A word of the report window (R629, R635). -/
def State.reportWord (s : State) (w : Nat) : Word := BitVec.ofNat 32 (leAt s.lcs.report (4 * w) 4)

/-! ## Patches (R632 to R634) -/

/-- Flint accepts a patch (R632, R633): its VERSION, ROLL and measurement. -/
def State.patchAccept (s : State) (b : List Byte) : Option (Nat × Nat × List Byte) :=
  let len := leAt b 12 4
  let roll := leAt b 8 4
  let body := slice b 0 (32 + len)
  let sig := b.drop (32 + len)
  if leAt b 0 4 = 0x4854504C ∧ leAt b 6 2 = 0 ∧ roll ≤ 64 ∧ len % 4 = 0 ∧ len ≤ 65536 ∧ zeros (slice b 16 16)
      ∧ 32 + len ≤ b.length ∧ lmsSigOk sig ∧ lmsVerify Config.oxtelvoPatchKey body sig ∧ s.fuses.rollback ≤ leAt b 4 2
      ∧ s.lcState ≠ 4 then
    some (leAt b 4 2, roll, sha256 body)
  else none

/-- The patch at the beginning of what the flash holds: its own fields say where it ends (R632, R634). -/
def patchPart (b : List Byte) : List Byte :=
  let n := 32 + leAt b 12 4
  match lmsTypes (b.drop n) with
  | some (w, h) => b.take (n + lmsSigLen w h)
  | none => b

/-- Flint runs an accepted patch. -/
def State.patchRun (s : State) (p : Nat × Nat × List Byte) : State :=
  let s : State := { s with
    lcs := { s.lcs with patch := some (p.1, p.2.2) }
    fuses := { s.fuses with rollback := max s.fuses.rollback p.2.1 } }
  ((s.setFld Fld.LCS_PATCH_STAT_VERSION p.1).setFld Fld.LCS_PATCH_STAT_ACTIVE 1).fuseShow

/-- GO in LCS_PATCH_CMD: Flint restarts with the staged patch, or REFUSED is set; the staging area empties. -/
def State.patchGo (s : State) : State :=
  if ¬s.flintUp then s
  else
    let b := s.lcs.staging.flatMap fun w => bytesLE 4 w.toNat
    let s : State := { s with lcs := { s.lcs with staging := [] } }
    match s.patchAccept b with
    | some p => (s.patchRun p).flintRestart
    | none => s.setFld Fld.LCS_PATCH_STAT_REFUSED 1

/-- A write to LCS_PATCH_DATA. -/
def State.patchData (s : State) (v : Word) : State := { s with lcs := { s.lcs with staging := s.lcs.staging ++ [v] } }

end Sys2Proof.Machine
end

