-- ==== Sys2Proof/Machine/Coherence.lean ====
section
/-! DEFINITION. Coherent memory: addresses and home copies, the home agents with their directories and transactions, the vein
slices, atomics, uncached access, flushes and the failures of R390 to R396 (R358 to R399). A home agent's access to its memory
happens inside the home agent's own step. -/

namespace Sys2Proof.Machine

/-! ## Addresses (R359 to R362) -/

/-- What line number K names. -/
inductive MemPlace where
  | ddr
  | win (d g port word : Nat)
  | bad
  | absent
  deriving DecidableEq, Repr

/-- The die whose export window holds line K (R359). -/
def winDie (k : Nat) : Option Nat :=
  let t := k / 2 ^ 22
  if 0x80000 ≤ t ∧ t < 0x80004 then some (t - 0x80000) else none

/-- The place of line K (R359, R360, R362). A group whose Mica controller lies in an isolated column is reachable from its own die
only, so that no home agent has a path to it (R329). -/
def State.memPlace (s : State) (k : Nat) : MemPlace :=
  if k < 2 ^ 35 then if k < s.fld Fld.HRG_DDRTOP_GIB * 2 ^ 24 then .ddr else .bad
  else
    match winDie k with
    | none => .bad
    | some d =>
      let o := 64 * (k % 2 ^ 22)
      if 0x6000000 ≤ o then .bad
      else if ¬s.dieOk d ∨ s.liveCols d = 0 then .absent
      else if ¬natBit (s.liveCols d) (s.groupEp d (o / 0x80000)).x.toNat then .absent
      else .win d (o / 0x80000) (16 * (o / 0x80000) + o % 0x80000 / 0x8000) (o % 0x8000 / 8)

/-- Directory set of a line (R361). -/
def dirSet (k : Nat) : Nat := k / 16 % 5120

/-- Set of a line in its slice (R366). -/
def veinSet (k : Nat) : Nat := natBits k 7 0 ^^^ natBits k 15 8

/-! ## The home copy (R361, R362, R385, R388, R390) -/

/-- What the device tracks a request of a PCIe port or of the debug port for (R455). -/
def State.purposeOf (s : State) (p : Packet) : Option Purpose :=
  (s.tags.find? fun t => t.ep = p.src && t.tag = p.tag).map fun t => t.purpose

/-- The class of a request's source; none is Flint, which is always denied (R455). -/
def State.masterOf (s : State) (p : Packet) : Option Master :=
  if ¬s.localEp p.src then some .remote
  else
    match portKind p.src with
    | .vein => some .fabric
    | .user => some .fabric
    | .group => some .fabric
    | .pcie _ =>
      match s.purposeOf p with
      | some (.dma q _ _) => some (.dma (s.fld (Fld.QUE_Q_CTRL_DOMAIN q)))
      | _ => some .host
    | .hubReg => if s.purposeOf p = some .debug then some .debug else none
    | _ => some .remote

/-- Words `w` on of a Mica port, with their events. -/
def State.winRead (s : State) (d port w n : Nat) : State × List (W64 × Bool) :=
  match n with
  | 0 => (s, [])
  | k + 1 =>
    let (s, r) := s.micaRead d port w
    let (s, l) := s.winRead d port (w + 1) k
    (s, (r.data, r.poison) :: l)

/-- The eight words of the home copy of line K; `raw` reads the ciphertext (R454). -/
def State.homeRead (s : State) (k : Nat) (raw : Bool) : State × List (W64 × Bool) :=
  match s.memPlace k with
  | .ddr => if raw then s.rawRead k else s.lineRead k
  | .win d _ port w => s.winRead d port w 8
  | _ => (s, List.replicate 8 (0, true))

/-- Store the words that `mask` names in a Mica port. -/
def State.winWrite (s : State) (d port w mask cause : Nat) (ws : List (W64 × Bool)) : State :=
  match ws with
  | [] => s
  | x :: rest =>
    let s := if natBit mask 0 then s.setMica d port w (if x.2 then Cell.poisoned cause else Cell.of x.1) else s
    s.winWrite d port (w + 1) (mask / 2) cause rest

/-- Store words of line K in its home copy; poison is stored with `cause`. A DDR5 line is stored whole. -/
def State.homeWrite (s : State) (k : Nat) (ws : List (W64 × Bool)) (mask cause : Nat) : State :=
  match s.memPlace k with
  | .ddr => s.lineWrite k ws cause
  | .win d _ port w => s.winWrite d port w mask cause ws
  | _ => s

/-- The window of line K belongs to a die in reset (R396). -/
def State.winDown (s : State) (k : Nat) : Bool :=
  match winDie k with
  | some d => s.dieDown.contains d
  | none => false

/-- The domain that must wake before the home copy of line K can be stored (R454). -/
def State.storeNeeds (s : State) (k : Nat) : Option Nat :=
  match s.memPlace k with
  | .ddr => let d := if chanOf k < 4 then 7 else 8; if s.domLive d then none else some d
  | .win d _ _ _ => if s.domLive (slateDom d 9) then none else some (slateDom d 9)
  | _ => none

/-- The domain that must wake before home agent data for line K can be stored; data for a die in reset is held and needs none (R396,
R454). -/
def State.saveNeeds (s : State) (k : Nat) : Option Nat := if s.winDown k then none else s.storeNeeds k

/-- The answer of a home agent's checks before it serves a request. -/
inductive Gate where
  | go
  | refuse (status : Nat)
  | exhausted
  | wait
  | wake (e : Ep)
  | hold (d : Nat)
  deriving DecidableEq, Repr

/-- A domain that is off under the policy of an endpoint: the request is held there while it wakes, or answered FENCED (R345, R454). -/
def State.gateDomain (s : State) (d : Nat) (e : Ep) : Gate :=
  if s.domLive d then .go else if s.meetsFence e then .refuse 4 else .wake e

/-- The Mica controller of a group (R224, R362). -/
def State.micaEp (s : State) (d g : Nat) : Ep := { s.groupEp d g with p := 7 }

/-- The domain of the home copy of line K, under the policy of its endpoint (R345, R454). -/
def State.copyGate (s : State) (k : Nat) : Gate :=
  match s.memPlace k with
  | .ddr => s.gateDomain (if chanOf k < 4 then 7 else 8) (s.mkEp 4 (chanOf k) 3 0)
  | .win d g _ _ => s.gateDomain (slateDom d 9) (s.micaEp d g)
  | _ => .go

/-- Checks of R360, R363, R365, R396, R454 and R455; `known` says that the line has a directory entry. -/
def State.gate (s : State) (k : Nat) (m : Option Master) (u : Use) (known : Bool) : Gate :=
  match s.memPlace k with
  | .bad => .refuse 2
  | .absent => .refuse 7
  | .win d g _ _ =>
    if m = none then .refuse 6
    else if ¬s.exported d g ∧ ¬known then .refuse 6
    else if s.dieDown.contains d then .hold d
    else if s.domLive (slateDom d 9) ∧ ¬s.bit (Fld.MCA_STATUS_INIT_DONE d) then .wait
    else s.copyGate k
  | .ddr =>
    match m with
    | none => .refuse 6
    | some m =>
      match s.rangeCheck m u k with
      | .refuse st => .refuse st
      | .wait => .wait
      | _ =>
        match s.copyGate k with
        | .go => if u = .write ∧ s.exhausted k then .exhausted else .go
        | g => g

/-- RDNC under right CIPHER is a raw read (R456). -/
def State.rawUse (s : State) (k : Nat) (m : Option Master) : Bool :=
  match s.memPlace k, m with
  | .ddr, some m => s.rangeCheck m .readNc k = .raw
  | _, _ => false

/-! ## Home agents: directory and transactions (R370 to R373) -/

/-- A home agent that holds nothing. -/
def Home.empty : Home := { dir := [], txns := [], failed := [], winWait := [], winData := [], walking := [] }

/-- Home agent `h`. -/
def State.home (s : State) (h : Nat) : Home := SMap.get Home.empty s.homes h

/-- Replace home agent `h`. -/
def State.setHome (s : State) (h : Nat) (v : Home) : State := { s with homes := SMap.put Home.empty s.homes h v }

/-- Home agent `h` stores the words of a write-back, of snoop data or of a lost line; for the window of a die in reset it holds them
(R396). -/
def State.saveLine (s : State) (h k : Nat) (ws : List (W64 × Bool)) (cause : Nat) : State :=
  if s.winDown k then s.setHome h { s.home h with winData := (s.home h).winData ++ [{ line := k, words := ws, cause := cause }] }
  else s.homeWrite k ws 0xFF cause

/-- Eight words of poison. -/
def deadLine : List (W64 × Bool) := List.replicate 8 (0, true)

/-- Lines whose requests wait on a window: the first request of each is a transaction, and the others wait for it (R372, R396). -/
def Home.waitLines (h : Home) : List Nat := (h.winWait.map fun q => q.addr.toNat / 64).eraseDups

/-- Transactions of a home agent with those that wait on a window (R372, R396, R398). -/
def Home.used (h : Home) : Nat := h.txns.length + h.waitLines.length

/-- Transactions of a home agent that wait on the window of die `d` (R396). -/
def Home.waitingOn (h : Home) (d : Nat) : Nat :=
  (h.waitLines.filter fun k => winDie k = some d).length
    + (h.txns.filter fun t => t.snoops.isEmpty && t.ackWait.isNone && winDie t.line = some d).length

/-- The directory entry of a line. -/
def Home.ent (h : Home) (k : Nat) : Option DirEnt := h.dir.find? fun e => e.line = k

/-- Replace the entry of a line in place, or allocate one. -/
def Home.setEnt (h : Home) (e : DirEnt) : Home :=
  if h.dir.any (fun f => f.line = e.line) then { h with dir := h.dir.map fun f => if f.line = e.line then e else f }
  else { h with dir := h.dir ++ [e] }

/-- Free the entry of a line. -/
def Home.delEnt (h : Home) (k : Nat) : Home := { h with dir := h.dir.filter fun e => e.line ≠ k }

/-- The dies that an entry records. -/
def DirEnt.holders (e : DirEnt) : List Nat :=
  match e.owner with
  | some o => [o]
  | none => (List.range 4).filter fun d => e.sharers.getLsbD d

/-- The entry without die `d`. -/
def DirEnt.without (e : DirEnt) (d : Nat) : DirEnt :=
  match e.owner with
  | some o => if o = d then { e with owner := none, sharers := 0 } else e
  | none => { e with sharers := e.sharers &&& ~~~(BitVec.ofNat 4 (2 ^ d)) }

/-- The line is in a transaction. -/
def Home.busy (h : Home) (k : Nat) : Bool := h.txns.any fun t => t.line = k

/-- The lowest TAG that no snoop of the agent uses, from `from_` on. -/
def Home.snoopTag (h : Home) : BitVec 12 :=
  let used := h.txns.flatMap fun t => t.snoops.map fun x => x.2
  BitVec.ofNat 12 (((List.range 4096).find? fun t => !used.contains (BitVec.ofNat 12 t)).getD 0)

/-- The slice of a line on die `d`. -/
def State.sliceEp (s : State) (d k : Nat) : Ep :=
  match s.slicePlace d k with
  | some (x, y) => s.mkEp d x y 8
  | none => s.mkEp d 0 0 8

/-- Home agent `h` sends snoop `cmd` for line `k` to each die of the list, for its transaction on the line. -/
def State.sendSnoops (s : State) (h k cmd : Nat) (dies : List Nat) : State :=
  match dies with
  | [] => s
  | d :: rest =>
    let hm := s.home h
    let tag := hm.snoopTag
    let hm := { hm with txns := hm.txns.map fun t => if t.line = k then { t with snoops := t.snoops ++ [(d, tag)] } else t }
    ((s.setHome h hm).send (s.homeEp h)
      (mkPacket cmd 2 0 (s.sliceEp d k) (s.homeEp h) tag (BitVec.ofNat 48 (64 * k)) 0 0xFF 0 [])).sendSnoops h k cmd rest

/-- Open a transaction and send its snoops. -/
def State.openTxn (s : State) (h k cmd : Nat) (kind : TxnKind) (dies : List Nat) : State :=
  let hm := s.home h
  (s.setHome h { hm with txns := hm.txns ++ [{ line := k, kind := kind, snoops := [], ackWait := none }] }).sendSnoops h k cmd dies

/-- Close the transaction on a line. -/
def State.closeTxn (s : State) (h k : Nat) : State :=
  let hm := s.home h
  s.setHome h { hm with txns := hm.txns.filter fun t => t.line ≠ k }

/-- Record a line that a home agent has lost (R390 to R394). -/
def State.haLog (s : State) (h kind die k : Nat) : State :=
  s.logOnce (Fld.HRG_HA_ERRLOG_A_VALID h) fun s =>
    (((s.setFld (Fld.HRG_HA_ERRLOG_A_KIND h) kind).setFld (Fld.HRG_HA_ERRLOG_A_DIE h) die).setFld
      (Fld.HRG_HA_ERRLOG_A_ADDRHI h) (k / 2 ^ 32)).setFld (Fld.HRG_HA_ERRLOG_B_ADDRLO h) k

/-! ## Serving a request at home (R371, R378, R385 to R388) -/

/-- The operation ATOP of an atomic (R301, R385). -/
def atomOp (op : Nat) (old a cmp : W64) : W64 :=
  match op with
  | 0 => old + a
  | 1 => a
  | 2 => if old = cmp then a else old
  | 3 => old &&& a
  | 4 => old ||| a
  | 5 => if old.toInt < a.toInt then a else old
  | _ => if a.toInt < old.toInt then a else old

/-- The vein caches are on (R37, R39). -/
def State.veinOn (s : State) : Bool := s.feature 13

/-- A request of a slice that its home agent serves as an uncached access: one for the slice's own die's window (R369), and every one
while MICA_VEIN is off (R39, assumption 60). -/
def State.passThrough (s : State) (d k : Nat) : Bool := !s.veinOn || decide (winDie k = some d)

/-- The command a home agent serves. -/
def State.homeCmd (s : State) (p : Packet) : Nat :=
  let own := s.localEp p.src && portKind p.src = .vein && s.passThrough p.src.die.toNat (p.addr.toNat / 64)
  match p.cmd.toNat with
  | 1 => if own then 8 else 1
  | 2 => if own then 8 else 2
  | 3 => if own then 9 else 3
  | c => c

/-- Wait for the ACKG of die `d` for a line that has been granted (R372). -/
def State.awaitAck (s : State) (h k d : Nat) (p : Packet) : State :=
  let hm := s.home h
  s.setHome h { hm with txns := hm.txns ++ [{ line := k, kind := .request p, snoops := [], ackWait := some d }] }

/-- Home agent `h` answers a request, unless its requester was lost in a die reset (R391). -/
def State.homeAnswer (s : State) (h : Nat) (quiet : Bool) (r : Packet) : State := if quiet then s else s.send (s.homeEp h) r

/-- Serve a request whose snoops have all been answered; `quiet` says that nobody takes the response. R386 speaks of a poisoned word of
the home copy only: an atomic that stores a poisoned operand, or compares with one, stores poison with cause STORED and answers the
old value (DESIGN CHOICE, assumption 67). -/
def State.perform (s : State) (h : Nat) (p : Packet) (quiet : Bool) : State :=
  let k := p.addr.toNat / 64
  let hm := s.home h
  let sd := p.src.die.toNat
  match s.homeCmd p with
  | 1 =>
    let (s, ws) := s.homeRead k false
    let old := match hm.ent k with
      | some x => x.sharers
      | none => 0
    let s := s.setHome h (hm.setEnt { line := k, owner := none, sharers := old ||| BitVec.ofNat 4 (2 ^ sd) })
    (s.awaitAck h k sd p).homeAnswer h quiet (rspData p (mkFlits ws))
  | 2 =>
    let (s, ws) := s.homeRead k false
    let s := s.setHome h (hm.setEnt { line := k, owner := some sd, sharers := 0 })
    (s.awaitAck h k sd p).homeAnswer h quiet (rspData p (mkFlits ws))
  | 8 =>
    let (s, ws) := s.homeRead k (s.rawUse k (s.masterOf p))
    let drop := match hm.ent k with
      | some x => x.holders.isEmpty
      | none => false
    (if drop then s.setHome h (hm.delEnt k) else s).homeAnswer h quiet (rspData p (mkFlits ws))
  | 5 =>
    let (s, ws) := s.homeRead k false
    let i := natBits p.addr.toNat 5 3
    let w := ws.getD i (0, true)
    let d := flitWords p.data
    let a := d.getD 0 (0, false)
    let c := d.getD 1 (0, false)
    let s := s.setHome h (hm.delEnt k)
    if w.2 then s.homeAnswer h quiet (rspData p (mkFlits [(0, true)]))
    else
      let op := p.spec.toNat % 8
      let bad := if op = 2 then c.2 || (a.2 && w.1 = c.1) else a.2
      let v := (atomOp op w.1 a.1 c.1, bad)
      (s.homeWrite k (ws.set i v) (2 ^ i) 2).homeAnswer h quiet (rspData p (mkFlits [(w.1, false)]))
  | _ =>
    let s := s.setHome h (hm.delEnt k)
    (s.homeWrite k (flitWords p.data) (if p.cmd = 4 then p.gran.toNat else 0xFF) 2).homeAnswer h quiet (rspAck p)

/-- Free the entry of a line that no die holds any more. -/
def Home.sweepEnt (h : Home) (k : Nat) : Home :=
  if (h.ent k).any (fun e => e.holders.isEmpty) then h.delEnt k else h

/-- The use of memory that a request makes (R363, R365). -/
def State.useOf (s : State) (p : Packet) : Use :=
  match s.homeCmd p with
  | 1 => .read
  | 8 => .readNc
  | _ => .write

/-- Free the entry of a line that no die holds any more. -/
def State.sweepLine (s : State) (h k : Nat) : State := s.setHome h ((s.home h).sweepEnt k)

/-- A request whose snoops have been answered is served, unless it must wait: for the window of a die in reset (R396), or for the domain
of its home copy (R345, R454). What its snoops have stored may have exhausted the line (R471). -/
def State.resume (s : State) (h k : Nat) (p : Packet) (quiet : Bool) : State :=
  let u := s.closeTxn h k
  if s.winDown k then s
  else
    match s.copyGate k with
    | .wake e => s.holdFor e
    | .refuse st => (u.sweepLine h k).homeAnswer h quiet (rspErr p st)
    | _ =>
      if s.useOf p = .write ∧ s.memPlace k = .ddr ∧ s.exhausted k then
        ((u.sweepLine h k).noteExhausted k).homeAnswer h quiet (rspErr p 8)
      else u.perform h p quiet

/-- Finish a transaction whose last snoop has been answered. A request whose requester was lost grants nothing, and its response is
discarded (R391). -/
def State.finishTxn (s : State) (h : Nat) (t : Txn) : State :=
  let u := s.closeTxn h t.line
  match t.kind with
  | .request p => s.resume h t.line p false
  | .dropped p => if s.homeCmd p ≤ 2 then u.sweepLine h t.line else s.resume h t.line p true
  | .backInv => u.setHome h ((u.home h).delEnt t.line)
  | .flush _ => u.setHome h ((u.home h).delEnt t.line)

/-- A transaction whose snoops have all been answered, and that has granted nothing yet. -/
def Txn.answered (t : Txn) : Bool := t.snoops.isEmpty && t.ackWait.isNone

/-- Requests that waited for the domain of their home copy go on (R345, R454). -/
def State.resumeTxns (s : State) : State :=
  (List.range 16).foldl (fun (u : State) h =>
    ((u.home h).txns.filter fun t => t.answered).foldl (fun (u : State) t => u.finishTxn h t) u) s

/-- Back-invalidate a victim of a full set, if none of the set is under way (R373). -/
def State.backInvalidate (s : State) (h set : Nat) : State :=
  let hm := s.home h
  if hm.txns.any (fun t => dirSet t.line = set && t.kind = .backInv) then s
  else
    match hm.dir.find? (fun e => dirSet e.line = set && !hm.busy e.line && !(e.holders.any fun d => s.dieDown.contains d)) with
    | none => s
    | some v => (s.openTxn h v.line 0x31 .backInv v.holders).bump (Fld.HRG_HA_CNT_BINV h)

/-- A write-back at its home agent (R378, R395, R396): its data is stored only if its die is the recorded owner. -/
def State.writeBack (s : State) (h n k : Nat) (p : Packet) : State :=
  let hm := s.home h
  let mine : Bool := match hm.ent k with
    | some x => x.owner = some p.src.die.toNat
    | none => false
  let done := fun (s : State) => (s.take n).send (s.homeEp h) (rspAck p)
  if ¬mine then done s
  else
    match s.saveNeeds k with
    | some x => s.wakeDomain x
    | none => done ((s.setHome h (hm.delEnt k)).saveLine h k (flitWords p.data) 2)

/-- Delivered packet `n` is the first of its endpoint and line: requests for a line are served in arrival order. -/
def State.firstOfLine (s : State) (n : Nat) (d : Delivered) : Bool :=
  (s.inbox.take n).all fun g => !(g.ep = d.ep && g.pkt.cls = 0 && g.pkt.addr.toNat / 64 = d.pkt.addr.toNat / 64)

/-- The snoop that a request needs and the dies that it goes to (R380, R385, R388, R393). -/
def snoopsFor (cmd sd : Nat) (e : Option DirEnt) : Nat × List Nat :=
  match e with
  | none => (0x31, [])
  | some e =>
    match cmd, e.owner with
    | 1, some o => if o = sd then (0x31, [o]) else (0x30, [o])
    | 1, none => (0x30, [])
    | 2, some o => (0x31, [o])
    | 2, none => (0x31, e.holders.filter fun d => d ≠ sd)
    | 8, some o => (0x30, [o])
    | 8, none => (0x30, [])
    | _, _ => (0x31, e.holders)

/-- A request at home agent `h`: the checks, the snoops it needs, and its effect once they are answered (R360 to R396). -/
def State.serveHome (s : State) (h n : Nat) (d : Delivered) : State :=
  let p := d.pkt
  let k := p.addr.toNat / 64
  let c := p.cmd.toNat
  let sd := p.src.die.toNat
  let fromSlice := s.localEp p.src && portKind p.src = .vein
  let reply := fun (s : State) (st : Nat) => (s.take n).send (s.homeEp h) (rspErr p st)
  if fromSlice ∧ s.dieDown.contains sd then s.take n
  else if (c ≤ 3 ∧ ¬fromSlice) ∨ homeOf k ≠ h then reply s 2
  else if (c ≠ 5 ∧ p.addr.toNat % 64 ≠ 0) ∨ (c = 5 ∧ p.addr.toNat % 8 ≠ 0) then reply s 2
  else if (c = 8 ∧ p.spec ≠ 2) ∨ (c = 9 ∧ p.len ≠ 2) then reply s 2
  else
    let hm := s.home h
    if hm.busy k ∨ ¬s.firstOfLine n d then s
    else if 512 ≤ hm.used then s
    else if s.homeCmd p = 3 then s.writeBack h n k p
    else if hm.failed.contains (dirSet k) then s
    else
      let ent := hm.ent k
      let held : List Nat := match ent with
        | some x => x.holders
        | none => []
      if held.any (fun d => s.dieDown.contains d) then s
      else if c = 4 ∧ s.memPlace k = .ddr ∧ p.gran ≠ 0xFF then reply s 3
      else
        match s.gate k (s.masterOf p) (s.useOf p) ent.isSome with
        | .refuse st => reply (if st = 7 then s.bump Fld.HRG_UNREACH_COUNT else s) st
        | .exhausted => reply (s.noteExhausted k) 8
        | .wait => s
        | .wake e => s.holdFor e
        | .hold x =>
          if hm.waitingOn x < 64 then (s.take n).setHome h { hm with winWait := hm.winWait ++ [p] }
          else reply (s.bump Fld.HRG_UNREACH_COUNT) 7
        | .go =>
          let full := 16 ≤ (hm.dir.filter fun e => dirSet e.line = dirSet k).length
          if (s.homeCmd p = 1 ∨ s.homeCmd p = 2) ∧ ent = none ∧ full then s.backInvalidate h (dirSet k)
          else
            let (sn, dies) := snoopsFor (s.homeCmd p) sd ent
            if dies = [] then (s.take n).perform h p false
            else (s.take n).openTxn h k sn (.request p) dies

/-! ## Snoop answers and ACKG (R372, R374, R388, R393, R396) -/

/-- The entry after a snoop answer of die `d` to a transaction. -/
def State.entAfter (s : State) (t : Txn) (e : DirEnt) (d : Nat) : DirEnt :=
  let after := fun (p : Packet) =>
    let c := s.homeCmd p
    if (c = 1 ∧ e.owner = some d ∧ p.src.die.toNat ≠ d) ∨ c = 8 then
      { e with owner := none, sharers := BitVec.ofNat 4 (2 ^ d) }
    else e.without d
  match t.kind with
  | .request p => after p
  | .dropped p => after p
  | _ => e.without d

/-- An answer to a snoop of home agent `h`: returned data is stored, and the last answer lets the transaction go on. -/
def State.snoopAnswer (s : State) (h n : Nat) (p : Packet) : State :=
  let hm := s.home h
  let sd := p.src.die.toNat
  match hm.txns.find? (fun t => t.snoops.contains (sd, p.tag)) with
  | none => s.take n
  | some t =>
    let k := t.line
    let hasData : Bool := p.cmd = 0x40
    let lost : Bool := hasData && p.spec.getLsbD 0
    match (if hasData then s.saveNeeds k else none) with
    | some x => s.wakeDomain x
    | none =>
      let s := s.take n
      let s := if hasData then s.saveLine h k (flitWords p.data) (if lost then 3 else 2) else s
      let s := if lost then (s.bump (Fld.HRG_HA_CNT_LOST h)).haLog h 2 sd k else s
      let hm := s.home h
      let t' := { t with snoops := t.snoops.filter fun x => x ≠ (sd, p.tag) }
      let hm := match hm.ent k with
        | some e => hm.setEnt (s.entAfter t e sd)
        | none => hm
      let s := s.setHome h { hm with txns := hm.txns.map fun u => if u.line = k then t' else u }
      if t'.snoops = [] then s.finishTxn h t' else s

/-- ACKG at its home agent ends the transaction that granted the line (R372, R376). -/
def State.serveAck (s : State) (h n : Nat) (p : Packet) : State :=
  let hm := s.home h
  (s.take n).setHome h { hm with txns := hm.txns.filter fun t =>
    !(t.line = p.addr.toNat / 64 && t.ackWait = some p.src.die.toNat) }

/-! ## Vein slices (R366 to R369, R374 to R379, R393, R394) -/

/-- A slice that holds nothing. -/
def Slice.empty : Slice := { lines := [], plru := [], wb := [], reqs := [], fwd := [], late := [], lostSets := [], gone := [], vlost := [] }

/-- Slice `r` of die `d`. -/
def State.slice (s : State) (d r : Nat) : Slice := SMap.get Slice.empty s.slices (64 * d + r)

/-- Replace slice `r` of die `d`. -/
def State.setSlice (s : State) (d r : Nat) (v : Slice) : State := { s with slices := SMap.put Slice.empty s.slices (64 * d + r) v }

/-- The endpoint of slice `r` of die `d`. -/
def State.sliceAt (s : State) (d r : Nat) : Ep := s.mkEp d (r % 8) (r / 8) 8

/-- The way that holds line K. -/
def Slice.wayOf (v : Slice) (k : Nat) : Option Nat :=
  (List.range 16).find? fun w => (SMap.find v.lines (16 * veinSet k + w)).any fun l => l.line = k

/-- The line of a set and way. -/
def Slice.at_ (v : Slice) (set w : Nat) : Option VLine := SMap.find v.lines (16 * set + w)

/-- The state of a line; none is I. -/
def Slice.stOf (v : Slice) (k : Nat) : Option VSt :=
  match v.wayOf k with
  | some w => (v.at_ (veinSet k) w).map fun l => l.st
  | none => none

/-- Replace the record of a line in its way. -/
def Slice.setLine (v : Slice) (w : Nat) (l : VLine) : Slice := { v with lines := SMap.set v.lines (16 * veinSet l.line + w) l }

/-- Forget a line. -/
def Slice.dropLine (v : Slice) (k : Nat) : Slice :=
  match v.wayOf k with
  | some w => { v with lines := SMap.drop v.lines (16 * veinSet k + w) }
  | none => v

/-- Point the tree of a set away from way `w`: bit `n` of the 15 is tree node `n + 1` (R366). -/
def plruTouch (t w : Nat) : Nat :=
  (List.range 4).foldl (fun (t : Nat) i =>
    let node := 2 ^ i + w / 2 ^ (4 - i) - 1
    let away := natBit w (3 - i) = false
    if natBit t node = away then t else t ^^^ 2 ^ node) t

/-- The way that the tree of a set points to. -/
def plruVictim (t : Nat) : Nat :=
  (List.range 4).foldl (fun (w : Nat) i => 2 * w + b2n (natBit t (2 ^ i + w - 1))) 0

/-- A hit or fill of way `w` (R366). -/
def Slice.touch (v : Slice) (set w : Nat) : Slice := { v with plru := SMap.put 0 v.plru set (plruTouch (SMap.get 0 v.plru set) w) }

/-- Vein array word index of word 0 of a way (R367). -/
def veinWord (r set w : Nat) : Nat := 8 * (4096 * r + 16 * set + w)

/-- Read words from a vein array, with their events. -/
def State.veinWords (s : State) (d idx n : Nat) : State × List (W64 × Bool) :=
  match n with
  | 0 => (s, [])
  | k + 1 =>
    let (s, r) := s.veinRead d idx
    let (s, l) := s.veinWords d (idx + 1) k
    (s, (r.data, r.poison) :: l)

/-- Poison bits of a list of words. -/
def poisonMask (ws : List (W64 × Bool)) : Nat :=
  match ws with
  | [] => 0
  | w :: rest => b2n w.2 + 2 * poisonMask rest

/-- The words of line K in its way; an uncorrectable word of an M line keeps its poison bit (R368, R390). -/
def State.sliceRead (s : State) (d r k w : Nat) : State × List (W64 × Bool) :=
  match (s.slice d r).at_ (veinSet k) w with
  | none => (s, List.replicate 8 (0, true))
  | some l =>
    let (s, ws) := s.veinWords d (veinWord r (veinSet k) w) 8
    let ws := ws.mapIdx fun i x => (x.1, x.2 || l.poison.getLsbD i)
    let l' := { l with poison := BitVec.ofNat 8 (poisonMask ws) }
    (s.setSlice d r ((s.slice d r).setLine w l'), ws)

/-- Write words into a vein array under a mask. -/
def State.veinStore (s : State) (d idx mask : Nat) (ws : List (W64 × Bool)) : State :=
  match ws with
  | [] => s
  | x :: rest =>
    let s := if natBit mask 0 then s.setVein d idx (Cell.of x.1) else s
    s.veinStore d (idx + 1) (mask / 2) rest

/-- Write words of line K under a mask into its way, with state `st` (R368). -/
def State.sliceWrite (s : State) (d r k w mask : Nat) (ws : List (W64 × Bool)) (st : VSt) : State :=
  let v : Slice := s.slice d r
  let old := match v.at_ (veinSet k) w with
    | some l => l.poison.toNat
    | none => 0
  let pm := (poisonMask ws &&& mask) ||| (old &&& (255 - mask))
  let v := (v.setLine w { line := k, st := st, poison := BitVec.ofNat 8 pm }).touch (veinSet k) w
  (s.setSlice d r v).veinStore d (veinWord r (veinSet k) w) mask ws

/-- The lowest TAG that a slice does not use. -/
def Slice.freeTag (v : Slice) : BitVec 12 :=
  let used := v.reqs.map (fun q => q.tag) ++ v.fwd.map (fun q => q.tag) ++ v.wb.map (fun q => q.tag) ++ v.late.map (fun q => q.1)
  BitVec.ofNat 12 (((List.range 4096).find? fun t => !used.contains (BitVec.ofNat 12 t)).getD 0)

/-- A slice sends a request for line K to its home agent. -/
def State.toHome (s : State) (d r cmd k : Nat) (tag : BitVec 12) (ws : List (W64 × Bool)) : State :=
  s.send (s.sliceAt d r) (mkPacket cmd 0 0 (s.homeEp (homeOf k)) (s.sliceAt d r) tag (BitVec.ofNat 48 (64 * k)) 0 0xFF 0 (mkFlits ws))

/-- A slice acknowledges a fill (R376). -/
def State.ackFill (s : State) (d r k : Nat) (tag : BitVec 12) : State :=
  s.send (s.sliceAt d r) (mkPacket 0x33 2 0 (s.homeEp (homeOf k)) (s.sliceAt d r) tag (BitVec.ofNat 48 (64 * k)) 0 0xFF 0 [])

/-- Write back line K, held M in way `w`, and forget it in the set (R377). -/
def State.evictM (s : State) (d r k w : Nat) : State :=
  let (s, ws) := s.sliceRead d r k w
  let v : Slice := s.slice d r
  let tag := v.freeTag
  let e : WbEnt := { line := k, data := ws.map (fun x => x.1), poison := BitVec.ofNat 8 (poisonMask ws), sends := 1, lost := false,
                     tag := tag }
  (s.setSlice d r { v.dropLine k with wb := v.wb ++ [e] }).toHome d r 3 k tag ws

/-- The words of a write-back entry. -/
def WbEnt.words (e : WbEnt) : List (W64 × Bool) := e.data.mapIdx fun i w => (w, e.poison.getLsbD i)

/-- A way of a set is kept for a request that is outstanding (R366). -/
def Slice.reserved (v : Slice) (set w : Nat) : Bool := v.reqs.any fun q => veinSet q.line = set && q.way = w

/-- The line of a way can be evicted (R366). -/
def Slice.evictable (v : Slice) (set w : Nat) : Bool :=
  match v.at_ set w with
  | none => false
  | some l =>
    !v.reserved set w && !v.reqs.any (fun q => q.line = l.line) && !v.fwd.any (fun f => f.req.addr.toNat / 64 = l.line)
      && (l.st ≠ .m || v.wb.length < 16)

/-- The way that a new line of a set takes (R366). -/
def Slice.victim (v : Slice) (set : Nat) : Option Nat :=
  match (List.range 16).find? fun w => (v.at_ set w).isNone && !v.reserved set w with
  | some w => some w
  | none =>
    let t := plruVictim (SMap.get 0 v.plru set)
    if v.evictable set t then some t else (List.range 16).find? fun w => v.evictable set w

/-- What the slice did with a request. -/
inductive Served where
  | done (s : State)
  | issue (rdx : Bool)
  | forward
  deriving Repr

/-- A request that the slice's own copy can serve; other requests go home (R379). -/
def State.hitOrMiss (s : State) (d r : Nat) (p : Packet) : Served :=
  let k := p.addr.toNat / 64
  let v : Slice := s.slice d r
  let me := s.sliceAt d r
  let c := p.cmd.toNat
  if c = 5 then .forward
  else
    match v.wayOf k, v.stOf k with
    | some w, some st =>
      let own := st = .e || st = .m
      if c = 1 ∨ (c = 2 ∧ own) then
        let (s, ws) := s.sliceRead d r k w
        .done ((s.setSlice d r ((s.slice d r).touch (veinSet k) w)).send me (rspData p (mkFlits ws)))
      else if c = 2 then .issue true
      else if own then
        .done ((s.sliceWrite d r k w (if c = 4 then p.gran.toNat else 0xFF) (flitWords p.data) .m).send me (rspAck p))
      else .issue true
    | _, _ => .issue (c ≠ 1)

/-- Forward a request to home (R369, R379). -/
def State.forwardHome (s : State) (d r : Nat) (p : Packet) : State :=
  let v : Slice := s.slice d r
  let tag := v.freeTag
  let q := { p with src := s.sliceAt d r, dst := s.homeEp (homeOf (p.addr.toNat / 64)), tag := tag }
  (s.setSlice d r { v with fwd := v.fwd ++ [{ tag := tag, req := p }] }).send (s.sliceAt d r) q

/-- Issue RD or RDX for a line into way `w`, evicting what is there (R366, R377, R379). -/
def State.issueFill (s : State) (d r w : Nat) (rdx : Bool) (waiting : List Packet) (k : Nat) : State :=
  let v : Slice := s.slice d r
  let s := match v.at_ (veinSet k) w with
    | none => s
    | some l => if l.line = k then s else if l.st = VSt.m then s.evictM d r l.line w else s.setSlice d r (v.dropLine l.line)
  let v : Slice := s.slice d r
  let tag := v.freeTag
  (s.setSlice d r { v with reqs := v.reqs ++ [{ line := k, rdx := rdx, way := w, tag := tag, waiting := waiting }] }).toHome
    d r (if rdx then 2 else 1) k tag []

/-- Perform the requests that waited for a line, in order, until one has to go home again (R379); what follows one that is forwarded
waits at the slice again, ahead of later requests (R383). `way` is the line's way. -/
def State.drainWaiting (s : State) (d r way : Nat) (l : List Packet) : State :=
  match l with
  | [] => s
  | p :: rest =>
    match s.hitOrMiss d r p with
    | .done s => s.drainWaiting d r way rest
    | .forward =>
      let t := s.forwardHome d r p
      { t with inbox := rest.map (fun q => { ep := t.sliceAt d r, pkt := q }) ++ t.inbox }
    | .issue rdx => s.issueFill d r way rdx (p :: rest) (p.addr.toNat / 64)

/-- A request from a port at slice `r` of die `d` (R203, R218, R320, R364, R369, R377, R379). -/
def State.serveSlice (s : State) (d r n : Nat) (x : Delivered) : State :=
  let p := x.pkt
  let k := p.addr.toNat / 64
  let v : Slice := s.slice d r
  let k0 := portKind p.src
  let fromPort := s.localEp p.src && p.src.die.toNat = d && (k0 = .user || k0 = .group)
  if ¬fromPort ∨ ¬coherentCmd p.cmd.toNat then (s.take n).send x.ep (rspErr p 2)
  else if p.cmd ≠ 5 ∧ p.addr.toNat % 64 ≠ 0 then (s.take n).send x.ep (rspErr p 2)
  else if s.fld (Fld.MCA_STATUS_THROTTLE d) = 3 ∨ ¬s.bit (Fld.MCA_STATUS_INIT_DONE d) ∨ ¬s.firstOfLine n x
      ∨ v.lostSets.contains (veinSet k) ∨ v.vlost.any (fun x => x.1 = veinSet k) then s
  else
    let room := v.reqs.length + v.fwd.length < 32
    let writing := v.wb.any (fun e => e.line = k && !e.lost)
    if s.passThrough d k then if room then (s.take n).forwardHome d r p else s
    else if v.fwd.any (fun f => f.req.addr.toNat / 64 = k) then s
    else
      match v.reqs.findIdx? (fun q => q.line = k) with
      | some i =>
        (s.take n).setSlice d r
          { v with reqs := v.reqs.modify i fun q => { q with waiting := q.waiting ++ [p] } }
      | none =>
        match s.hitOrMiss d r p with
        | .done t => t.take n
        | .forward => if room ∧ ¬writing then (s.take n).forwardHome d r p else s
        | .issue rdx =>
          if ¬room ∨ writing then s
          else
            match (match v.wayOf k with
              | some w => some w
              | none => v.victim (veinSet k)) with
            | none => s
            | some w => (s.take n).issueFill d r w rdx [p] k

/-- Take entry `e` out of the write-back buffer; `n` of its sendings may still be answered, and keep its TAG (R377, R393). -/
def Slice.freeWb (v : Slice) (e : WbEnt) (n : Nat) : Slice :=
  { v with wb := v.wb.filter (fun f => f.tag ≠ e.tag), late := v.late ++ List.replicate n (e.tag, 0) }

/-- A snoop at slice `r` of die `d`: 0x30 SNPS, 0x31 SNPI, 0x32 SNPD (R374, R375, R393). One that meets a line whose way was M and lost its
tag, before VLOST has told its home agent, is answered with poison, which R358 asks for (DESIGN CHOICE, assumption 68). -/
def State.serveSnoop (s : State) (d r n : Nat) (x : Delivered) : State :=
  let p := x.pkt
  let k := p.addr.toNat / 64
  let v : Slice := s.slice d r
  let s0 := s.take n
  let ack := fun (s : State) => s.send x.ep (rspAck p)
  match v.wayOf k with
  | some w =>
    let st := v.stOf k
    if p.cmd = 0x32 then ack (s0.setSlice d r (v.dropLine k))
    else
      let after := fun (s : State) =>
        let v : Slice := s.slice d r
        if p.cmd = 0x31 then s.setSlice d r (v.dropLine k)
        else
          match v.at_ (veinSet k) w with
          | some l =>
            s.setSlice d r (v.setLine w { l with st := if l.st = VSt.m ∨ l.st = .e then .s else l.st })
          | none => s
      if st = some .m then
        let (s, ws) := s0.sliceRead d r k w
        (after s).send x.ep (rspData p (mkFlits ws))
      else ack (after s0)
  | none =>
    match v.wb.find? (fun e => e.line = k) with
    | none =>
      let u := s0.setSlice d r { v with gone := v.gone.filter fun x => x ≠ k }
      if v.gone.contains k ∧ p.cmd ≠ 0x32 then u.send x.ep (rspData p (mkFlits deadLine)) else ack u
    | some e =>
      let gone : Slice := v.freeWb e e.sends
      if p.cmd = 0x32 then ack (if e.lost then s0.setSlice d r gone else s0)
      else if e.lost then
        (s0.setSlice d r gone).send x.ep
          { rspData p (mkFlits (List.replicate 8 (0, true))) with spec := 1 }
      else s0.send x.ep (rspData p (mkFlits e.words))

/-- A sending of a lost write-back is answered after all: it has one answer less to come. -/
def Slice.lostAnswer (v : Slice) (tag : BitVec 12) : Slice :=
  { v with wb := v.wb.map fun e => if e.tag = tag then { e with sends := e.sends - 1 } else e }

/-- A response at slice `r` of die `d`: a fill, the answer to a write-back or to a forwarded request, or a late one, which counts in LATE
(R343, R371, R376, R377, R393). -/
def State.sliceResponse (s : State) (d r n : Nat) (x : Delivered) : State :=
  let p := x.pkt
  let v : Slice := s.slice d r
  let s := s.take n
  match v.reqs.find? (fun q => q.tag = p.tag) with
  | some q =>
    let k := q.line
    let v := { v with reqs := v.reqs.filter fun u => u.tag ≠ p.tag }
    if p.cmd = 0x40 then
      let ws := flitWords p.data
      let pm := poisonMask ws
      let st : VSt := if q.rdx then .e else if pm ≠ 0 then .p else .s
      let s := (s.setSlice d r v).sliceWrite d r k q.way 0xFF ws st
      let s := s.setSlice d r ((s.slice d r).setLine q.way { line := k, st := st, poison := BitVec.ofNat 8 pm })
      (s.ackFill d r k p.tag).drainWaiting d r q.way q.waiting
    else
      let s := s.setSlice d r v
      match q.waiting with
      | [] => s
      | w :: rest => (s.send x.ep (rspErr w p.status.toNat)).drainWaiting d r q.way rest
  | none =>
    match v.wb.find? (fun e => e.tag = p.tag && !e.lost) with
    | some e => if p.cmd = 0x41 then s.setSlice d r (v.freeWb e (e.sends - 1)) else s
    | none =>
      match v.fwd.find? (fun f => f.tag = p.tag) with
      | some f =>
        (s.setSlice d r { v with fwd := v.fwd.filter fun g => g.tag ≠ p.tag }).send x.ep
          { p with dst := f.req.src, src := x.ep, tag := f.req.tag }
      | none =>
        match v.late.find? (fun l => l.1 = p.tag) with
        | some l =>
          let s := (s.setSlice d r { v with late := v.late.erase l }).late x.ep p
          if p.cmd = 0x40 ∧ l.2 ≠ 0 then s.ackFill d r (l.2 - 1) p.tag else s
        | none =>
          let s := (s.setSlice d r (v.lostAnswer p.tag)).late x.ep p
          if p.cmd = 0x40 ∧ p.len = 2 then s.ackFill d r (p.addr.toNat / 64) p.tag else s

/-- SLICE_REQUEST_TIMEOUT: no response within VEN_CTRL.TIMEOUT (R393). `late` keeps line + 1 of a fill, 0 of another request. -/
def State.sliceTimeout (s : State) (d r : Nat) (tag : BitVec 12) : State :=
  let v : Slice := s.slice d r
  let note := fun (s : State) => (s.bump (Fld.VEN_CNT_TIMEOUTS d)).raise (Fld.VEN_IRQ_STATUS_TIMEOUT d)
  let me := s.sliceAt d r
  match v.reqs.find? (fun q => q.tag = tag) with
  | some q =>
    let v := { v.dropLine q.line with reqs := v.reqs.filter fun u => u.tag ≠ tag, late := v.late ++ [(tag, q.line + 1)] }
    note (q.waiting.foldl (fun (t : State) w => t.send me (rspErr w 5)) (s.setSlice d r v))
  | none =>
    match v.fwd.find? (fun f => f.tag = tag) with
    | some f =>
      note ((s.setSlice d r { v with fwd := v.fwd.filter fun g => g.tag ≠ tag, late := v.late ++ [(tag, 0)] }).send me
        (rspErr f.req 5))
    | none =>
      match v.wb.find? (fun e => e.tag = tag && !e.lost) with
      | none => s
      | some e =>
        let upd := fun (f : WbEnt → WbEnt) => { v with wb := v.wb.map fun x => if x.tag = tag then f x else x }
        if e.sends < 3 then
          (note (s.setSlice d r (upd fun x => { x with sends := x.sends + 1 }))).toHome d r 3 e.line tag e.words
        else
          ((note (s.setSlice d r (upd fun x => { x with lost := true }))).bump (Fld.VEN_CNT_LOSTWB d)).raise
            (Fld.VEN_IRQ_STATUS_LOSTWB d)

/-! ## VLOST (R394) -/

/-- The ways of a set that hold a line. -/
def Slice.waysOf (v : Slice) (set : Nat) : List Nat := (List.range 16).filter fun w => (v.at_ set w).isSome

/-- Write back the M lines among `ways` of a set while the write-back buffer has room. -/
def State.evictWays (s : State) (d r set : Nat) (ways : List Nat) : State :=
  match ways with
  | [] => s
  | w :: rest =>
    let v : Slice := s.slice d r
    let s := match v.at_ set w with
      | some l => if l.st = VSt.m ∧ v.wb.length < 16 then s.evictM d r l.line w else s
      | none => s
    s.evictWays d r set rest

/-- Lines of the ways `bad` of a set that were M. -/
def Slice.lostM (v : Slice) (set : Nat) (bad : List Nat) : List Nat :=
  bad.filterMap fun w => (v.at_ set w).bind fun l => if l.st = VSt.m then some l.line else none

/-- An uncorrectable tag or state error in a set: its intact M lines are written back; once none is left, their RSP_ACKs are in and the
fills that the set still expects have come (R381), the set is invalidated and every home agent is told (R394). The set takes requests
again once every home agent has taken its VLOST, which no rule says: otherwise a VLOST could free the entry of a line that was granted
after it was sent (DESIGN CHOICE, assumption 68). -/
def State.setLost (s : State) (d r set : Nat) (bad : List Nat) : State :=
  let v : Slice := s.slice d r
  let v : Slice := { v with lostSets := (if v.lostSets.contains set then v.lostSets else v.lostSets ++ [set]),
                            gone := v.gone ++ v.lostM set bad,
                            lines := SMap.dropIf v.lines (fun a => a / 16 = set && bad.contains (a % 16)) }
  let s := (s.setSlice d r v).evictWays d r set (v.waysOf set)
  let v : Slice := s.slice d r
  let busy := (v.waysOf set).any (fun w => (v.at_ set w).any fun (l : VLine) => l.st = VSt.m) || v.wb.any (fun e => veinSet e.line = set && !e.lost)
    || v.reqs.any (fun q => veinSet q.line = set) || v.vlost.any (fun x => x.1 = set)
  if busy then s
  else
    let v : Slice := { v with lostSets := v.lostSets.filter (fun x => x ≠ set), gone := v.gone.filter (fun k => veinSet k ≠ set),
                              vlost := v.vlost ++ [(set, 16)], lines := SMap.dropIf v.lines (fun a => a / 16 = set) }
    let s := s.setSlice d r v
    ((List.range 16).foldl (fun (t : State) h =>
      t.send (t.sliceAt d r) (mkPacket 0x34 2 0 (t.homeEp h) (t.sliceAt d r) 0 0 0 0 (set + 256 * r) [])) s).raise
      (Fld.VEN_IRQ_STATUS_VLOST d)

/-- Lines of a home agent that die `d` holds and that `p` names: an owned line is poisoned with cause LOST and freed, a shared
one loses the die (R391, R394). The number of lost lines and the first of them come back. -/
def State.loseLines (s : State) (h d : Nat) (l : List DirEnt) : State × List Nat :=
  match l with
  | [] => (s, [])
  | e :: rest =>
    let hm := s.home h
    if e.owner = some d then
      let s := (s.setHome h (hm.delEnt e.line)).saveLine h e.line deadLine 3
      let (s, n) := s.loseLines h d rest
      (s, e.line :: n)
    else
      let e' := e.without d
      let hm := if e'.holders = [] then hm.delEnt e.line else hm.setEnt e'
      (s.setHome h hm).loseLines h d rest

/-- The domains that must wake before these lines can be stored. -/
def State.linesNeed (s : State) (d : Nat) (l : List DirEnt) : List Nat :=
  (l.filter fun e => e.owner = some d).filterMap fun e => s.saveNeeds e.line

/-- Count and log the lost lines of a home agent. -/
def State.countLost (s : State) (h kind d : Nat) (l : List Nat) : State :=
  match l with
  | [] => s
  | k :: _ => (s.bumpBy (Fld.HRG_HA_CNT_LOST h) l.length).haLog h kind d k

/-- A home agent has taken the VLOST of a set. -/
def Slice.vlostTaken (v : Slice) (set : Nat) : Slice :=
  { v with vlost := (v.vlost.map fun x => if x.1 = set then (set, x.2 - 1) else x).filter fun x => x.2 ≠ 0 }

/-- VLOST at a home agent (R394). -/
def State.serveVlost (s : State) (h n : Nat) (p : Packet) : State :=
  let d := p.src.die.toNat
  let set := p.spec.toNat % 256
  let r := p.spec.toNat / 256 % 64
  let l := (s.home h).dir.filter fun e =>
    e.holders.contains d && veinSet e.line = set && s.slicePlace d e.line = some (r % 8, r / 8)
  match s.linesNeed d l with
  | x :: _ => s.wakeDomain x
  | [] =>
    let s := (s.take n).setSlice d r ((s.slice d r).vlostTaken set)
    let (s, lost) := s.loseLines h d l
    s.countLost h 3 d lost

/-! ## Directory set errors (R395) -/

/-- Every slice writes back and invalidates its lines of a failed set, as far as the write-back buffers have room. -/
def State.sweepSlices (s : State) (h set : Nat) (keys : List Nat) : State :=
  match keys with
  | [] => s
  | key :: rest =>
    let d := key / 64
    let r := key % 64
    let v : Slice := s.slice d r
    let mine := v.lines.filter fun e => homeOf e.2.line = h && dirSet e.2.line = set
    let s := mine.foldl (fun (t : State) e =>
      let v := t.slice d r
      if e.2.st = VSt.m then if v.wb.length < 16 then t.evictM d r e.2.line (e.1 % 16) else t
      else t.setSlice d r (v.dropLine e.2.line)) s
    s.sweepSlices h set rest

/-- DIRECTORY_SET_ERROR (R395). -/
def State.dirSetError (s : State) (h set k d : Nat) : State :=
  let hm := s.home h
  let s := s.setHome h { hm with failed := if hm.failed.contains set then hm.failed else hm.failed ++ [set] }
  (s.haLog h 4 d k).sweepSlices h set (s.slices.map fun e => e.1)

/-- The lost write-backs of a failed set, with their slices (R393). -/
def State.lostOf (s : State) (h set : Nat) : List (Nat × Nat) :=
  s.slices.flatMap fun e =>
    (e.2.wb.filter fun w => homeOf w.line = h && dirSet w.line = set && w.lost).map fun w => (e.1, w.line)

/-- A lost write-back of a failed set ends as at an SNPI: poison with cause LOST is stored, counted and recorded (R393, R395). -/
def State.loseWb (s : State) (h : Nat) (x : Nat × Nat) : State :=
  let v : Slice := s.slice (x.1 / 64) (x.1 % 64)
  let v := match v.wb.find? fun w => w.lost && w.line = x.2 with
    | some e => v.freeWb e e.sends
    | none => v
  let s := s.setSlice (x.1 / 64) (x.1 % 64) v
  ((s.saveLine h x.2 deadLine 3).bump (Fld.HRG_HA_CNT_LOST h)).haLog h 2 (x.1 / 64) x.2

/-- DIRECTORY_SET_RESTART: when no slice has anything left of the set, it restarts empty (R395). -/
def State.dirSetRestart (s : State) (h set : Nat) : State :=
  if ¬(s.home h).failed.contains set then s
  else
    let s := s.sweepSlices h set (s.slices.map fun e => e.1)
    let hm := s.home h
    let busy := hm.txns.any (fun t => dirSet t.line = set) || s.slices.any (fun e =>
      e.2.lines.any (fun l => homeOf l.2.line = h && dirSet l.2.line = set)
        || e.2.wb.any (fun w => homeOf w.line = h && dirSet w.line = set && !w.lost))
      || hm.dir.any (fun e => dirSet e.line = set && e.holders.any fun d => hm.walking.contains d)
    if busy then s
    else
      let lost := s.lostOf h set
      match (lost.filterMap fun x => s.saveNeeds x.2).head? with
      | some d => s.wakeDomain d
      | none =>
        let s := lost.foldl (fun (t : State) x => t.loseWb h x) s
        let hm := s.home h
        s.setHome h { hm with failed := hm.failed.filter (fun x => x ≠ set), dir := hm.dir.filter fun e => dirSet e.line ≠ set }

/-! ## Flush (R389) -/

/-- Start the flush of every line of the list whose entry is in no transaction; the rest stays to do. -/
def State.flushLines (s : State) (discard : Bool) (l : List Nat) : State × List Nat :=
  match l with
  | [] => (s, [])
  | k :: rest =>
    let h := homeOf k
    let hm := s.home h
    match hm.ent k with
    | none => s.flushLines discard rest
    | some e =>
      if hm.busy k ∨ hm.failed.contains (dirSet k) ∨ 512 ≤ hm.used ∨ e.holders.any (fun d => s.dieDown.contains d) then
        let (s, todo) := s.flushLines discard rest
        (s, k :: todo)
      else
        (s.openTxn h k (if discard then 0x32 else 0x31) (.flush discard) e.holders).flushLines discard rest

/-- Every cached line of a span. -/
def State.cachedIn (s : State) (base n : Nat) : List Nat :=
  s.homes.flatMap fun h => (h.2.dir.filter fun e => base ≤ e.line && e.line < base + n).map fun e => e.line

/-- The flush of a span begins. -/
def State.flushBegin (s : State) (base n : Nat) (discard : Bool) : State × FlushSt :=
  let (s, todo) := s.flushLines discard (s.cachedIn base n)
  (s, { todo := todo, discard := discard })

/-- A flush transaction is under way. -/
def State.flushing (s : State) : Bool :=
  s.homes.any fun h => h.2.txns.any fun t => match t.kind with
    | .flush _ => true
    | _ => false

/-- A write of HRG_FLUSH_CTRL: GO starts a flush, or is refused while one runs (R389). -/
def State.flushStart (s : State) : State :=
  if s.bit Fld.HRG_FLUSH_CTRL_BUSY then s.setFld Fld.HRG_FLUSH_CTRL_REFUSED 1
  else
    let base := ((s.reg Reg.HRG_FLUSH_BASE_LO).toNat + (s.fld Fld.HRG_FLUSH_BASE_HI_VALUE % 2 ^ 16) * 2 ^ 32) / 64
    let n := (s.reg Reg.HRG_FLUSH_LINES).toNat
    let s := s.setFld Fld.HRG_FLUSH_CTRL_BUSY 1
    let (s, f) := s.flushBegin base n (s.fld Fld.HRG_FLUSH_CTRL_MODE = 1)
    { s with flush := some f }

/-- FLUSH_DONE: the walk ends once every line of it has been flushed; until then the lines still to do are started (R389). -/
def State.flushDone (s : State) : State :=
  match s.flush with
  | none => s
  | some f =>
    let (s, todo) := s.flushLines f.discard f.todo
    if todo = [] ∧ ¬s.flushing then
      { (s.setFld Fld.HRG_FLUSH_CTRL_BUSY 0).setFld Fld.HRG_FLUSH_CTRL_DONE 1 with flush := none }
    else { s with flush := some { f with todo := todo } }

/-! ## Die resets and snoop timeouts (R391, R392, R396) -/

/-- The packet comes from a vein slice of die `d`. -/
def State.fromDie (s : State) (d : Nat) (p : Packet) : Bool :=
  s.localEp p.src && portKind p.src = .vein && p.src.die.toNat = d

/-- A request of a slice of die `d` has nobody left to answer (R391). -/
def State.orphan (s : State) (d : Nat) (t : Txn) : Txn :=
  match t.kind with
  | .request p => if s.fromDie d p then { t with kind := .dropped p } else t
  | _ => t

/-- The snoop of a transaction to die `d`, which is down, counts as answered: poisoned data from an owner, RSP_ACK from a sharer (R391
step 1). The data waits for the domain that must store it (R454): the snoop then stays until the walk, which needs that domain too. -/
def State.snoopDown (s : State) (d h : Nat) (t : Txn) : State :=
  let k := t.line
  let owned := ((s.home h).ent k).any fun e => e.owner = some d
  let t' := { t with snoops := t.snoops.filter fun x => x.1 ≠ d }
  let drop : Bool := match t.kind with
    | .flush true => true
    | _ => false
  match (if owned && !drop then s.saveNeeds k else none) with
  | some x => s.wakeDomain x
  | none =>
    let s : State := if owned && !drop then (s.saveLine h k deadLine 3).countLost h 0 d [k] else s
    let hm := s.home h
    let hm := match hm.ent k with
      | some e => hm.setEnt (e.without d)
      | none => hm
    let s := s.setHome h { hm with txns := hm.txns.map fun u => if u.line = k then t' else u }
    if t'.snoops = [] then s.finishTxn h t' else s

/-- Every outstanding snoop of a home agent to a die that is down. R391 gives the poison of step 1 no cause and no count: it is stored with
cause LOST, and counted and recorded with KIND 0 when it is stored, as the lines of the walk are (DESIGN CHOICE, assumption 67). -/
def State.snoopsDown (s : State) (d h : Nat) : State :=
  ((s.home h).txns.filter fun t => t.snoops.any fun x => x.1 = d).foldl (fun (s : State) t => s.snoopDown d h t) s

/-- The outstanding snoops of one home agent to a die that is down count as answered, and what waited for it ends (R391). -/
def State.homeDieDown (s : State) (d h : Nat) : State :=
  let hm := s.home h
  let hm := { hm with
    walking := if hm.walking.contains d then hm.walking else hm.walking ++ [d]
    txns := (hm.txns.filter fun t => t.ackWait ≠ some d).map (s.orphan d)
    winWait := hm.winWait.filter fun p => !s.fromDie d p }
  (s.setHome h hm).snoopsDown d h

/-- Every home agent marks die `d` down (R391 step 1). -/
def State.homesDieDown (s : State) (d : Nat) : State :=
  let s : State := { s with
    dieDown := if s.dieDown.contains d then s.dieDown else s.dieDown ++ [d]
    inbox := s.inbox.filter fun x => !(x.ep.die = 4 && s.fromDie d x.pkt) }
  (List.range 16).foldl (fun (t : State) h => t.homeDieDown d h) s

/-- Requests and writes that waited for a die's window go on (R396). -/
def State.releaseWindow (s : State) (d h : Nat) : State :=
  let hm := s.home h
  let mine := fun (k : Nat) => winDie k = some d
  let back := hm.winWait.filter fun p => mine (p.addr.toNat / 64)
  let s : State := { s.setHome h { hm with winWait := hm.winWait.filter (fun p => !mine (p.addr.toNat / 64)),
                                            winData := hm.winData.filter fun w => !mine w.line } with
    inbox := back.map (fun p => { ep := s.homeEp h, pkt := p }) ++ s.inbox }
  let s := (hm.winData.filter fun w => mine w.line).foldl (fun (t : State) w => t.homeWrite w.line w.words 0xFF w.cause) s
  (hm.txns.filter fun t => t.answered && mine t.line).foldl (fun (u : State) t => u.finishTxn h t) s

/-- A die comes back once its walk has ended, a bundle of it is usable and its reset domains are ON (R391 step 4, R396). -/
def State.dieBack (s : State) (d : Nat) : State :=
  if s.dieDown.contains d ∧ (List.range 16).all (fun h => !(s.home h).walking.contains d)
      ∧ (List.range 16).any (fun i => s.usable (16 * d + i)) ∧ s.domOn (slateDom d 5) ∧ s.domOn (slateDom d 8) then
    (List.range 16).foldl (fun (t : State) h => t.releaseWindow d h) { s with dieDown := s.dieDown.filter fun x => x ≠ d }
  else s

/-- The walk of one home agent (R391 steps 2 and 3). -/
def State.walkHome (s : State) (d h : Nat) : State :=
  let hm := s.home h
  if ¬hm.walking.contains d then s
  else
    let s := s.snoopsDown d h
    let hm := s.home h
    let s := s.setHome h { hm with walking := hm.walking.filter fun x => x ≠ d }
    let (s, lost) := s.loseLines h d (hm.dir.filter fun e => e.holders.contains d)
    s.countLost h 0 d lost

/-- DIE_RESET_WALK_DONE: every home agent's walk ends; a DDR5 domain that it must write to is woken first (R391, R454). -/
def State.walkDone (s : State) (d : Nat) : State :=
  let need := (List.range 16).flatMap fun h => s.linesNeed d ((s.home h).dir.filter fun e => e.holders.contains d)
  match need with
  | x :: _ => s.wakeDomain x
  | [] => ((List.range 16).foldl (fun (t : State) h => t.walkHome d h) s).dieBack d

/-- The transaction of a home agent with a snoop outstanding to die `d` under `tag`. -/
def State.snoopTxn (s : State) (h d : Nat) (tag : BitVec 12) : Option Txn :=
  (s.home h).txns.find? fun t => t.snoops.contains (d, tag)

/-! ## VEN_REWRITE (R399) -/

/-- Read a word with correction and write it back; an uncorrectable or poisoned word stays as it is. -/
def State.veinFix (s : State) (d idx n : Nat) : State :=
  match n with
  | 0 => s
  | k + 1 =>
    let (s, r) := s.veinRead d idx
    let s := if r.corrected.isSome then s.setVein d idx (Cell.of r.data) else s
    s.veinFix d (idx + 1) k

/-- VEN_REWRITE: GO reads a line with correction and writes it back. -/
def State.veinRewrite (s : State) (d index : Nat) : State := s.veinFix d (index / 8 * 8) 8

/-- An upset of bits of a vein array. -/
def State.veinUpset (s : State) (d idx : Nat) (flips : List (Fin 72)) : State :=
  s.setVein d idx (flips.foldl (fun c n => c.flip n.val) (s.veinCell d idx))

end Sys2Proof.Machine
end

