-- ==== Sys2Proof/Machine/Host.lean ====
section
/-! DEFINITION. The host interface: the memory window, queue pairs, doorbells, the DMA engine, resets and losses of a PCIe port
(R483 to R513). -/

namespace Sys2Proof.Machine

/-! ## Ports -/

/-- The endpoint of a PCIe port (R313). -/
def State.pcieEp (s : State) (port : Bool) : Ep := s.mkEp 4 (if port then 4 else 0) 7 0

/-- The hub has been handed to the host (R55, R486). -/
def State.handed (s : State) : Bool := s.bit Fld.FLN_STATUS_HANDED

/-- A PCIe port sends a request of its own (R341, R342): the state after it, an immediate answer, or none while it must wait. -/
def State.portRequest (s : State) (port : Bool) (cmd : Nat) (dst : Ep) (addr gran spec : Nat) (data : List Flit) (why : Purpose) :
    Option (State × BitVec 12 × Option Packet) :=
  let e := s.pcieEp port
  match s.freeTag e 2048 with
  | none => none
  | some t =>
    match s.inject e (mkPacket cmd 0 0 dst e t (BitVec.ofNat 48 addr) 0 gran spec data) why with
    | .done s => some (s, t, none)
    | .answer s r => some (s, t, some r)
    | .wait => none

/-- The home agent of line `k` as a destination. -/
def State.homeDst (s : State) (k : Nat) : Ep := s.homeEp (homeOf k)

/-- Bytes of words with their poison. -/
def wordBytes (ws : List (W64 × Bool)) : PBytes := ws.flatMap fun w => (bytesLE 8 w.1.toNat).map fun b => (b, w.2)

/-- Words of bytes; a word with a poisoned byte is poisoned. -/
def byteWords (n : Nat) (bs : PBytes) : List (W64 × Bool) :=
  match n with
  | 0 => []
  | k + 1 =>
    let w := bs.take 8
    (BitVec.ofNat 64 (natLE (w.map fun b => b.1)), w.any fun b => b.2) :: byteWords k (bs.drop 8)

/-- A byte of a list of bytes is poisoned. -/
def poisoned (bs : PBytes) : Bool := bs.any fun b => b.2

/-! ## The memory window (R488 to R492) -/

/-- A window failure is counted, and recorded if it is the first (R63, R491). -/
def State.winError (s : State) (port write : Bool) (status addr : Nat) : State :=
  let n := b2n port
  let s := s.bump (Fld.PCI_WINERRCNT_COUNT n)
  s.logOnce (Fld.PCI_WINERR_A_VALID n) fun t =>
    (t.setReg (Reg.PCI_WINERR_A n) (BitVec.ofNat 32 (b2n write * 2 ^ 30 + status * 2 ^ 26 + addr / 2 ^ 38 % 1024))).setReg
      (Reg.PCI_WINERR_B n) (BitVec.ofNat 32 (addr / 64))

/-- Bytes of a window access that lie in a line, as 64 places. -/
def Win.lineBytes (w : Win) (k : Nat) : List (Option Byte) :=
  (List.range 64).map fun i =>
    let a := 64 * k + i
    if w.addr ≤ a then (w.bytes.getD (a - w.addr) none) else none

/-- Address of WINBASE. -/
def State.winBase (s : State) (port : Bool) : Nat := s.fld (Fld.PCI_WIN_WINBASE (b2n port)) * 2 ^ 30

/-- The lines from address `a` on over `n` bytes. -/
def linesOf (a n : Nat) : List Nat := if n = 0 then [] else (List.range ((a + n - 1) / 64 - a / 64 + 1)).map fun i => a / 64 + i

/-- A line of a window write waits for an earlier write of the port to the same line (R492). -/
def State.winBlocked (s : State) (w : Win) (k : Nat) : Bool :=
  w.write && (s.wins.takeWhile fun v => v.id ≠ w.id).any fun v => v.write && v.port = w.port && (v.todo.contains k || v.sent.any fun x => x.1 = k)

/-- Send the request for one line of a window access. -/
def State.winLine (s : State) (w : Win) (k : Nat) : Option (State × BitVec 12 × Option Packet) :=
  let dst := s.homeDst k
  if ¬w.write then s.portRequest w.port 8 dst (64 * k) 255 2 [] (.window w.id)
  else
    let bs := w.lineBytes k
    let ws := byteWords 8 (bs.map fun b => (b.getD 0, w.ep))
    let gran := (List.range 8).foldl (fun m i => if (bs.getD (8 * i) none).isSome then m + 2 ^ i else m) 0
    s.portRequest w.port (if gran = 255 then 9 else 4) dst (64 * k) gran 0 (mkFlits ws) (.window w.id)

/-- Replace a window access. -/
def State.setWin (s : State) (w : Win) : State := { s with wins := s.wins.map fun v => if v.id = w.id ∧ v.port = w.port then w else v }

/-- The completions of a window read of bytes from address `a`: each carries at most the 512 bytes of the maximum payload, and all but
the last end at a multiple of 512 (R484, R489; where they are cut is a DESIGN CHOICE, assumption 70). -/
def cplPieces (n a : Nat) (bs : PBytes) : List PBytes :=
  match n with
  | 0 => []
  | k + 1 =>
    let m := 512 - a % 512
    if bs.length ≤ m then [bs] else bs.take m :: cplPieces k (a + m) (bs.drop m)

/-- A window access whose lines have all been answered ends (R489, R491). -/
def State.winEnd (s : State) (w : Win) : State :=
  if w.todo ≠ [] ∨ w.sent ≠ [] then s
  else
    let s : State := { s with wins := s.wins.filter fun v => !(v.id = w.id && v.port = w.port) }
    if w.write then s
    else
      match w.fail with
      | some (status, k) => (s.winError w.port false status (64 * k)).emit (.cpl w.port (w.id / 2) false false [])
      | none =>
        let bs := (linesOf w.addr w.bytes.length).flatMap fun k => SMap.get [] w.got k
        let mine := (bs.drop (w.addr % 64)).take w.bytes.length
        (cplPieces (mine.length / 512 + 2) w.addr mine).foldl (fun (t : State) p =>
          t.emit (.cpl w.port (w.id / 2) true (poisoned p) (p.map fun b => b.1))) s

/-- The answer to a line of a window access. -/
def State.winAnswer (s : State) (w : Win) (k : Nat) (r : Packet) : State :=
  let w := { w with sent := w.sent.filter fun x => x.1 ≠ k }
  let bad := r.cmd = 0x42
  let w := if bad then { w with fail := some (w.fail.getD (r.status.toNat, k)) }
    else { w with got := SMap.set w.got k (wordBytes (flitWords r.data)) }
  let s := if bad ∧ w.write then s.winError w.port true r.status.toNat (64 * k) else s
  (s.setWin w).winEnd w

/-- Send as many lines of the window accesses of a port as it takes now. -/
def State.winSend (s : State) (port : Bool) (n : Nat) : State :=
  match n with
  | 0 => s
  | m + 1 =>
    let next := (s.wins.filter fun w => w.port = port).findSome? fun w => (w.todo.find? fun k => !s.winBlocked w k).map fun k => (w, k)
    match next with
    | none => s
    | some (w, k) =>
      match s.winLine w k with
      | none => s
      | some (s, t, r) =>
        let w := { w with todo := w.todo.filter fun x => x ≠ k, sent := w.sent ++ [(k, t)] }
        let s := s.setWin w
        (match r with
          | some r => s.winAnswer w k r
          | none => s).winSend port m

/-- Lines that one pump may send. -/
def pumpLimit : Nat := 4096

/-- Each port sends the lines that it takes now: one whose entries are all in use holds back its own requests only (R341). -/
def State.winPump (s : State) (n : Nat) : State := (s.winSend false n).winSend true n

/-- A response to a window request has arrived. -/
def State.winResponse (s : State) (port : Bool) (id : Nat) (r : Packet) : State :=
  match s.wins.find? (fun w => w.id = id && w.port = port) with
  | none => s
  | some w =>
    match w.sent.find? (fun x => x.2 = r.tag) with
    | none => s
    | some (k, _) => (s.winAnswer w k r).winPump pumpLimit

/-- Earlier window writes of the port are still unanswered (R492). -/
def State.winBusy (s : State) (port : Bool) : Bool := s.wins.any fun w => w.write && w.port = port

/-- A window read of ADDR `a` that need not wait. -/
def State.hostWinRead (s : State) (port : Bool) (id a len : Nat) : State :=
  let w : Win := { id := 2 * id, port := port, write := false, addr := a, bytes := List.replicate len none, ep := false,
                   todo := linesOf a len, sent := [], got := [], fail := none }
  let s : State := { s with wins := s.wins ++ [w] }
  (s.winEnd w).winPump pumpLimit

/-- Window writes of a port that are under way. -/
def State.winWrites (s : State) (port : Bool) : List Nat := (s.wins.filter fun w => w.write && w.port = port).map fun w => w.id

/-- An access of a port waits behind what has arrived before it. -/
def State.hostHold (s : State) (port : Bool) (op : HostOp) : State :=
  { s with hostHeld := s.hostHeld ++ [{ port := port, after := s.winWrites port, op := op }] }

/-- The access is a BAR0 write or a doorbell write, which apply in the order received (R497). -/
def HostOp.ordered (op : HostOp) : Bool :=
  match op with
  | .read _ _ _ => false
  | _ => true

/-- A register write of a port, or a doorbell write, waits: a later one waits behind it (R497). -/
def State.orderBusy (s : State) (port : Bool) : Bool :=
  s.hostHeld.any (fun h => h.port = port && h.op.ordered) || s.heldAcc.any fun a => a.path = Path.pcie port && a.value.isSome

/-- Bytes of BAR4 of a port (R485). -/
def State.bar4Size (s : State) (port : Bool) : Nat := 2 ^ (30 + (s.pcieCfg port).bar4.val)

/-- Vendor ID, device ID and class code that a port's function reports (R484). -/
def State.pcieIdent (s : State) : Nat × Nat × Nat := (0x1F7C, s.fld Fld.HUB_IDENT_PART, 0x120000)

/-- WINDOW_READ (R485, R486, R489, R492). An offset beyond BAR4 reaches no part of the device. The ADDR is that of the WINBASE in force
when the request arrives (R513). -/
def State.windowRead (s : State) (port : Bool) (id off len : Nat) : State :=
  if ¬s.linkUp port ∨ s.bar4Size port < off + len ∨ s.wins.any (fun w => w.id = 2 * id && w.port = port) then s
  else if ¬s.handed then s.emit (.cpl port id false false [])
  else if s.winBusy port then s.hostHold port (.read id (s.winBase port + off) len)
  else s.hostWinRead port id (s.winBase port + off) len

/-- Some granule of a write is enabled only in part (R490). -/
def partialGranule (a : Nat) (bytes : List (Option Byte)) : Bool :=
  let all := List.replicate (a % 8) none ++ bytes
  (List.range ((all.length + 7) / 8)).any fun i =>
    let g := (all.drop (8 * i)).take 8
    let n := (g.filter fun b => b.isSome).length
    n ≠ 0 && n ≠ 8

/-- WINDOW_WRITE: the bytes of one write TLP, with those it does not enable left out (R486, R490, R491). -/
def State.windowWrite (s : State) (port : Bool) (off : Nat) (bytes : List (Option Byte)) (ep : Bool) : State :=
  if ¬s.linkUp port ∨ ¬s.handed ∨ s.bar4Size port < off + bytes.length then s
  else
    let a := s.winBase port + off
    if partialGranule a bytes then s.winError port true 3 a
    else
      let w : Win := { id := 2 * s.winNext + 1, port := port, write := true, addr := a, bytes := bytes, ep := ep, todo := [], sent := [], got := [],
                       fail := none }
      let w : Win := { w with todo := (linesOf a bytes.length).filter fun k => (w.lineBytes k).any fun b => b.isSome }
      if w.todo = [] then s else State.winPump { s with wins := s.wins ++ [w], winNext := s.winNext + 1 } pumpLimit

/-! ## Queue pairs (R493 to R499) -/

/-- Port of a pair. -/
def State.qPort (s : State) (q : Nat) : Bool := s.bit (Fld.QUE_Q_CTRL_PORT q)

/-- Entries of the SQ. -/
def State.sqSize (s : State) (q : Nat) : Nat := 2 ^ s.fld (Fld.QUE_Q_CTRL_SQSIZE q)

/-- Entries of the CQ. -/
def State.cqSize (s : State) (q : Nat) : Nat := 2 ^ s.fld (Fld.QUE_Q_CTRL_CQSIZE q)

/-- STATE of a pair. -/
def State.qState (s : State) (q : Nat) : Nat := s.fld (Fld.QUE_Q_STAT_STATE q)

/-- A 64-bit host address held in two registers, low bits cleared. -/
def State.hostAddr (s : State) (lo hi align : Nat) : Nat :=
  ((s.reg lo).toNat + 2 ^ 32 * (s.reg hi).toNat) / align * align

/-- Write the host-doorbell word (R495, R508). -/
def State.writeHdb (s : State) (q head tail : Nat) : State :=
  s.emit (.memWrite (s.qPort q) (s.hostAddr (Reg.QUE_Q_HDB_LO q) (Reg.QUE_Q_HDB_HI q) 8) false (bytesLE 8 (head + 65536 * tail)))

/-- The ID of a pair as a lease owner. -/
def State.qId (s : State) (q : Nat) : Word := ownerId 2 s.odx s.ody q

/-- A pair that is enabled anew: its descriptors are numbered on, so that no answer to an old one meets a new one. -/
def Pair.again (p : Pair) : Pair := { Pair.fresh with nextNum := p.nextNum }

/-- A write to QUE_Qq_CTRL (R494, R495). -/
def State.queCtrl (s : State) (q : Nat) (v : Word) : State :=
  let r := Reg.QUE_Q_CTRL q
  let was := s.bit (Fld.QUE_Q_CTRL_EN q)
  if natBit v.toNat 31 then
    let refuse := s.setFld (Fld.QUE_Q_STAT_ERRCAUSE q) 5
    if s.qState q = 1 then s
    else if s.qState q ≠ 0 ∨ ¬(4 ≤ bits v 23 20) ∨ ¬(4 ≤ bits v 19 16) ∨ ¬s.linkUp (natBit v.toNat 30) ∨ s.revs.any (fun x => x.owner = s.qId q) then
      refuse
    else
      let s := s.setReg r (v &&& 0xFCFF01FF#32)
      let s := s.setReg (Reg.QUE_Q_STAT q) 0x20000000#32
      (s.setPair q (s.pair q).again).writeHdb q 0 0
  else if was then
    let s := (s.setFld (Fld.QUE_Q_CTRL_EN q) 0).declare (s.qId q)
    s.setFld (Fld.QUE_Q_STAT_STATE q) 3
  else s.setReg r (v &&& 0x7CFF01FF#32)

/-- A write to a base register of a pair: ignored while EN is 1 (R494). -/
def State.queBase (s : State) (q addr : Nat) (v : Word) : State := if s.bit (Fld.QUE_Q_CTRL_EN q) then s else s.setReg addr v

/-- A BAR2 write (R486, R496 to R498). -/
def State.doorbell (s : State) (port : Bool) (q off : Nat) (v : Word) : State :=
  if ¬s.handed then s
  else if (off ≠ 0 ∧ off ≠ 4) ∨ bits v 31 16 ≠ 0 ∨ s.qPort q ≠ port ∨ s.qState q ≠ 1 then s.bump Fld.QUE_DBERR_COUNT
  else
    let p := s.pair q
    let t := v.toNat
    if (if off = 0 then s.sqSize q else s.cqSize q) ≤ t then s.pairError q 2
    else if off = 0 then s.setPair q { p with sqTail := t }
    else s.setPair q { p with cqHead := t }

/-- A doorbell write waits for earlier window writes of its port, and for its register and doorbell writes that wait (R492, R497); a write
of another shape than one aligned doubleword counts as one to no register. -/
def State.bar2Write (s : State) (port : Bool) (q off : Nat) (shapeOk : Bool) (v : Word) : State :=
  let off := if shapeOk then off else 0xFFF
  if ¬s.linkUp port ∨ 256 ≤ q then s
  else if s.handed ∧ (s.winBusy port ∨ s.orderBusy port) then s.hostHold port (.bell q off v)
  else s.doorbell port q off v

/-- SQ_TAIL and CQ_HEAD: an access of a doorbell page. A read returns 0 (R496). -/
def State.bar2Access (s : State) (port : Bool) (q off : Nat) (shapeOk : Bool) (x : BellOp) : State :=
  match x with
  | .write v => s.bar2Write port q off shapeOk v
  | .read id => if s.linkUp port then s.emit (.cpl port id true false (bytesLE 4 0)) else s

/-! ## Descriptors (R500 to R506) -/

/-- Dword `i` of a descriptor. -/
def Desc.dw (x : Desc) (i : Nat) : Nat := (x.dws.getD i 0).toNat
/-- OPCODE. -/
def Desc.op (x : Desc) : Nat := x.dw 0 % 256
/-- ORDER. -/
def Desc.order (x : Desc) : Bool := natBit (x.dw 0) 8
/-- LENGTH. -/
def Desc.len (x : Desc) : Nat := x.dw 1
/-- SRC. -/
def Desc.src (x : Desc) : Nat := x.dw 2 + 2 ^ 32 * x.dw 3
/-- DST. -/
def Desc.dst (x : Desc) : Nat := x.dw 4 + 2 ^ 32 * x.dw 5
/-- EP. -/
def Desc.ep (x : Desc) : Ep := epOfBits (x.dw 6)

/-- Status of one line of a range (R359, R360, R502): 0, BUSERR, or UNREACH in the window of an absent or excluded die. -/
def State.lineStatus (s : State) (k : Nat) : Nat :=
  if k < 2 ^ 35 then if k < s.fld Fld.HRG_DDRTOP_GIB * 2 ^ 24 then 0 else 2
  else
    match winDie k with
    | none => 2
    | some d => if 0x6000000 ≤ 64 * (k % 2 ^ 22) then 2 else if s.dieOk d then 0 else 7

/-- Status of a device range over its whole length (R502). Every interval that answers alike is longer than the longest
transfer, so its ends decide. -/
def State.rangeStatus (s : State) (a n : Nat) : Nat :=
  if 2 ^ 48 < a + n then 2
  else if s.lineStatus (a / 64) = 2 ∨ s.lineStatus ((a + n - 1) / 64) = 2 then 2
  else if s.lineStatus (a / 64) = 7 ∨ s.lineStatus ((a + n - 1) / 64) = 7 then 7
  else 0

/-- The check of an entry (R500 to R502): STATUS and WHERE of a failure. -/
def State.descCheck (s : State) (x : Desc) : Option (Nat × Nat) :=
  let op := x.op
  let bad := bits (x.dws.getD 0 0) 15 10 ≠ 0 || 2 ^ 27 ≤ x.dw 6 || x.dw 7 ≠ 0 || op = 0 || 7 < op
    || (if 6 ≤ op then x.len ≠ 0 else x.len = 0 || 2 ^ 24 < x.len)
  if bad then some (2, 0)
  else
    let srcDev := op = 2 || op = 3
    let dstDev := op = 1 || op = 3
    let a := if srcDev then s.rangeStatus x.src x.len else 0
    let b := if dstDev then s.rangeStatus x.dst x.len else 0
    let step := if x.dst < 2 ^ 41 then 64 else 8
    let ep := if op = 4 then x.dst else x.src
    if a ≠ 0 then some (a, 2)
    else if b ≠ 0 then some (b, 2)
    else if dstDev ∧ ¬(x.dst % step = 0 ∧ x.len % step = 0) then some (3, 2)
    else if (op = 4 ∨ op = 5) ∧ 2 ^ 48 < ep + x.len then some (2, 3)
    else if (op = 4 ∨ op = 5) ∧ ¬(ep % 32 = 0 ∧ x.len % 32 = 0) then some (3, 2)
    else none

/-- Bytes of the chunk at an offset: up to the end of the destination line, of the source line for D2H, 512 bytes for endpoints. -/
def Desc.chunkLen (x : Desc) (off : Nat) : Nat :=
  let room := match x.op with
    | 1 => 64 - (x.dst + off) % 64
    | 2 => 64 - (x.src + off) % 64
    | 3 => 64 - (x.dst + off) % 64
    | _ => 512
  min room (x.len - off)

/-- Offset that BYTES takes from a failed unit whose first byte is `off` bytes from the start (R506). -/
def Desc.failOff (x : Desc) (off : Int) (chunk : Nat) : Nat :=
  match x.op with
  | 1 | 3 =>
    let start := (x.dst + off.toNat) / 64 * 64
    if off < 0 ∨ start < x.dst then 0 else start - x.dst
  | 4 => chunk
  | _ => off.toNat

/-- Note a failure; the earliest in transfer order stands. -/
def Desc.note (x : Desc) (off status where_ : Nat) : Desc :=
  match x.fail with
  | some (o, _, _) => if off < o then { x with fail := some (off, status, where_) } else x
  | none => { x with fail := some (off, status, where_) }

/-- Replace a descriptor of a pair. -/
def State.setDesc (s : State) (q : Nat) (x : Desc) : State :=
  let p := s.pair q
  s.setPair q { p with descs := p.descs.map fun y => if y.num = x.num then x else y }

/-- Replace or drop a chunk. -/
def Desc.setChunk (x : Desc) (c : Chunk) : Desc := { x with chunks := x.chunks.map fun d => if d.off = c.off then c else d }
def Desc.dropChunk (x : Desc) (off : Nat) : Desc := { x with chunks := x.chunks.filter fun d => d.off ≠ off }

/-- Where the transfer of a descriptor ends: a DB sends one packet. -/
def Desc.last (x : Desc) : Nat := if x.op = 6 then 1 else x.len

/-- The transfer of a descriptor has ended (R503). -/
def Desc.done (x : Desc) : Bool :=
  x.started && x.chunks.isEmpty && (x.last ≤ x.next || x.fail.isSome || x.stop)

/-- The purpose tag of a ring request of a chunk: 0 and 1 source pieces, 2 the write. -/
def unitOf (off kind : Nat) : Nat := 4 * off + kind

/-- The bytes of a chunk that has all its pieces. -/
def Desc.chunkBytes (x : Desc) (c : Chunk) : PBytes :=
  let all := (SMap.get [] c.got 0) ++ (SMap.get [] c.got 1)
  let skip := if x.op = 2 ∨ x.op = 3 then (x.src + c.off) % 64 else 0
  (all.drop skip).take c.len

/-- A chunk has all its pieces and has not begun its write. -/
def Chunk.ready (c : Chunk) : Bool := c.reads = 0 && c.writes = 0

/-- Write a chunk that is ready; it stays so while the port takes no request. -/
def State.chunkWrite (s : State) (q : Nat) (x : Desc) (c : Chunk) : State :=
  let bs := x.chunkBytes c
  let x := if poisoned bs then { x with poison := true } else x
  let port := s.qPort q
  match x.op with
  | 2 | 5 =>
    (s.setDesc q (x.dropChunk c.off)).emit (.memWrite port (x.dst + c.off) (poisoned bs) (bs.map fun b => b.1))
  | op =>
    let a := x.dst + c.off
    let why : Purpose := .dma q x.num (unitOf c.off 2)
    let sent := if op = 4 then
        s.portRequest port 9 x.ep a 255 0 (mkFlits (byteWords (c.len / 8) bs)) why
      else
        let lead := a % 64
        let line : PBytes := List.replicate lead (0, false) ++ bs ++ List.replicate (64 - lead - c.len) (0, false)
        let gran := (List.range 8).foldl (fun m i => if lead ≤ 8 * i ∧ 8 * i < lead + c.len then m + 2 ^ i else m) 0
        s.portRequest port (if gran = 255 then 9 else 4) (s.homeDst (a / 64)) (a / 64 * 64) gran 0 (mkFlits (byteWords 8 line)) why
    match sent with
    | none => s
    | some (s, _, r) =>
      let x := x.setChunk { c with writes := 1 }
      match r with
      | none => s.setDesc q x
      | some r => s.setDesc q ((x.dropChunk c.off).note (x.failOff c.off c.off) r.status.toNat (if op = 4 then 3 else 2))

/-- A ring request of a chunk has been answered. -/
def State.dmaAnswer (s : State) (q num unit_ : Nat) (r : Packet) : State :=
  match (s.pair q).descs.find? (fun x => x.num = num) with
  | none => s
  | some x =>
    let off := unit_ / 4
    let kind := unit_ % 4
    match x.chunks.find? (fun c => c.off = off) with
    | none => if x.op = 6 ∧ r.cmd = 0x42 then s.setDesc q (x.note 0 r.status.toNat 3) else s
    | some c =>
      let bad := r.cmd = 0x42
      if x.op = 6 then
        s.setDesc q (if bad then (x.dropChunk off).note 0 r.status.toNat 3 else x.dropChunk off)
      else if kind = 2 then
        s.setDesc q (if bad then (x.dropChunk off).note (x.failOff off off) r.status.toNat (if x.op = 4 then 3 else 2) else x.dropChunk off)
      else
        let c := { c with reads := c.reads - 1, got := SMap.set c.got kind (wordBytes (flitWords r.data)) }
        let first : Int := if x.op = 5 then off else ((x.src + off) / 64 * 64 + 64 * kind : Nat) - (x.src : Int)
        let x := if bad then x.note (x.failOff first off) r.status.toNat (if x.op = 5 then 3 else 2) else x
        let x := if c.reads = 0 ∧ x.fail.any (fun f => f.1 ≤ x.failOff off off) then x.dropChunk off else x.setChunk c
        let s := s.setDesc q x
        if c.reads = 0 ∧ x.chunks.any (fun d => d.off = off) then s.chunkWrite q x c else s

/-- A host read of a chunk has ended (R505, R507). -/
def State.dmaHostData (s : State) (q num off : Nat) (got : Option PBytes) : State :=
  match (s.pair q).descs.find? (fun x => x.num = num) with
  | none => s
  | some x =>
    match x.chunks.find? (fun c => c.off = off) with
    | none => s
    | some c =>
      match got with
      | none => s.setDesc q ((x.dropChunk off).note (x.failOff off off) 10 1)
      | some bs =>
        let c := { c with reads := 0, got := SMap.set c.got 0 bs }
        let x := x.setChunk c
        (s.setDesc q x).chunkWrite q x c

/-- Issue the reads of the next chunk, or the one request of a DB. -/
def State.chunkStart (s : State) (q : Nat) (x : Desc) : State :=
  let off := x.next
  let n := x.chunkLen off
  let port := s.qPort q
  let c : Chunk := { off := off, len := n, got := [], reads := 1, writes := 0 }
  let read := fun (t : State) (k kind : Nat) => t.portRequest port 8 (t.homeDst k) (64 * k) 255 2 [] (.dma q x.num (unitOf off kind))
  let go := fun (t : State) (c : Chunk) => t.setDesc q { x with next := off + n, chunks := x.chunks ++ [c] }
  let answered := fun (t : State) (kind : Nat) (r : Option Packet) => match r with
    | some r => t.dmaAnswer q x.num (unitOf off kind) r
    | none => t
  match x.op with
  | 1 | 4 => (go s c).hostRead port (x.src + off) n (.data q x.num off)
  | 5 =>
    match s.portRequest port 8 x.ep (x.src + off) 255 (n / 32) [] (.dma q x.num (unitOf off 0)) with
    | none => s
    | some (t, _, r) => answered (go t c) 0 r
  | 6 =>
    match s.portRequest port 0x10 x.ep x.dst 0 (x.dw 2) [] (.dma q x.num (unitOf 0 2)) with
    | none => s
    | some (t, _, r) => answered (t.setDesc q { x with next := 1, chunks := [{ c with reads := 0, writes := 1 }] }) 2 r
  | 7 => s
  | _ =>
    let k := (x.src + off) / 64
    let two := (x.src + off) % 64 + n > 64
    match read s k 0 with
    | none => s
    | some (t, _, r) =>
      if two then
        match read t (k + 1) 1 with
        | none => s
        | some (u, _, r') => answered (answered (go u { c with reads := 2 }) 0 r) 1 r'
      else answered (go t c) 0 r

/-- A descriptor may start: entries start in ring order, ORDER waits for the transfers before it, a full CQ with a finished entry
holds later ones back (R499, R503). -/
def State.mayStart (s : State) (q : Nat) (x : Desc) : Bool :=
  let p := s.pair q
  let before := p.descs.takeWhile fun y => y.num ≠ x.num
  let full := (p.cqTail + 1) % s.cqSize q = p.cqHead
  before.all (fun y => y.started) && (!x.order || before.all fun y => y.done) && !(full && before.any fun y => y.done)

/-- H2D, D2H, D2D, H2P, P2H, DMA_DB and DMA_NOP: descriptor `num` of pair `q`, if it has that OPCODE, starts or goes on by one
chunk. -/
def State.dmaRun (s : State) (op q num : Nat) : State :=
  match (s.pair q).descs.find? (fun x => x.num = num) with
  | none => s
  | some x =>
    if x.op ≠ op ∨ x.done ∨ ¬s.domOn (5 + b2n (s.qPort q)) then s
    else
      match x.chunks.find? Chunk.ready with
      | some c => s.chunkWrite q x c
      | none =>
        if x.stop then
          (if x.started then s else s.setDesc q { x with started := true, fail := some (0, 4, 0) })
        else if ¬x.started ∧ ¬s.mayStart q x then s
        else
          let x := { x with started := true }
          let s := s.setDesc q x
          if x.fail.isSome ∨ x.last ≤ x.next then s else s.chunkStart q x

/-! ## Fetching and finishing (R499, R502 to R504, R508) -/

/-- Entries of the SQ that are available and not fetched. -/
def State.sqAvailable (s : State) (q : Nat) : Bool := s.fld (Fld.QUE_Q_STAT_SQHEAD q) ≠ (s.pair q).sqTail

/-- Pair `q` has an entry that waits and may take one more descriptor (R503). -/
def State.sqReady (s : State) (q : Nat) : Bool :=
  decide (q < 256) && decide (s.qState q = 1) && s.sqAvailable q && !(s.hostReads.any fun h => h.why = .sq q)
    && decide ((s.pair q).descs.length < 8) && s.linkUp (s.qPort q) && s.domOn (5 + b2n (s.qPort q))

/-- Descriptors in progress, with the entries that are being read (R503). -/
def State.descTotal (s : State) : Nat :=
  s.pairs.foldl (fun n p => n + p.2.descs.length) 0 + (s.hostReads.filter fun h => match h.why with
    | .sq _ => true
    | _ => false).length

/-- No other pair with a waiting entry comes before `q` in the round (R503). -/
def State.sqTurnOf (s : State) (q : Nat) : Bool :=
  let place := fun (p : Nat) => (p + 256 - s.sqTurn) % 256
  s.pairs.all fun p => !s.sqReady p.1 || place q ≤ place p.1

/-- SQ_ENTRY_FETCH: read the next available entry of a pair whose turn it is (R502, R503). -/
def State.sqFetch (s : State) (q : Nat) : State :=
  if s.sqReady q ∧ s.descTotal < 64 ∧ s.sqTurnOf q then
    let head := s.fld (Fld.QUE_Q_STAT_SQHEAD q)
    State.hostRead { s with sqTurn := (q + 1) % 256 } (s.qPort q) (s.hostAddr (Reg.QUE_Q_SQBASE_LO q) (Reg.QUE_Q_SQBASE_HI q) 64 + 32 * head) 32 (.sq q)
  else s

/-- An SQ entry has arrived; one that fails its check is finished without starting. -/
def State.sqEntry (s : State) (q : Nat) (bs : List Byte) : State :=
  let head := (s.fld (Fld.QUE_Q_STAT_SQHEAD q) + 1) % s.sqSize q
  let p := s.pair q
  let x : Desc := { num := p.nextNum, dws := (List.range 8).map fun i => BitVec.ofNat 32 (leAt bs (4 * i) 4), sqHead := head,
                    started := false, next := 0, chunks := [], fail := none, poison := false, stop := false }
  let x := match s.descCheck x with
    | some (st, wh) => { x with started := true, fail := some (0, st, wh) }
    | none => x
  (s.setFld (Fld.QUE_Q_STAT_SQHEAD q) head).setPair q { p with descs := p.descs ++ [x], nextNum := p.nextNum + 1 }

/-- Bytes from the start of a transfer that have all been performed: up to the first chunk that has not (R506). -/
def Desc.performed (x : Desc) : Nat := x.chunks.foldl (fun n c => min n c.off) (min x.next x.len)

/-- STATUS, WHERE and BYTES of a finished descriptor; one that revocation ends before its transfer has ended is FENCED (R76, R505, R506). -/
def Desc.result (x : Desc) : Nat × Nat × Nat :=
  match x.fail with
  | some (off, st, wh) => (st, wh, min off x.performed)
  | none =>
    if x.stop ∧ ¬(x.started ∧ x.chunks.isEmpty ∧ x.last ≤ x.next) then (4, 0, x.performed)
    else (if x.poison then 1 else 0, 0, x.len)

/-- The completion of a descriptor is written, with the host-doorbell word and the message, or is lost. -/
def State.complete (s : State) (q : Nat) (x : Desc) : State :=
  let p := s.pair q
  let s := s.setPair q { p with descs := p.descs.filter fun y => y.num ≠ x.num }
  let p := s.pair q
  let size := s.cqSize q
  if ¬s.linkUp (s.qPort q) ∨ (p.cqTail + 1) % size = p.cqHead then s.bump Fld.QUE_DBERR_LOSTCPL
  else
    let (st, wh, n) := x.result
    let cqe := bytesLE 4 (x.sqHead * 65536 + x.dw 0 / 65536) ++ bytesLE 4 (wh * 16 + st) ++ bytesLE 4 n ++ List.replicate 16 0
      ++ bytesLE 4 (b2n p.phase * 2 ^ 31)
    let s := s.emit (.memWrite (s.qPort q) (s.hostAddr (Reg.QUE_Q_CQBASE_LO q) (Reg.QUE_Q_CQBASE_HI q) 64 + 32 * p.cqTail) false cqe)
    let tail := (p.cqTail + 1) % size
    let s := s.setPair q { p with cqTail := tail, phase := if tail = 0 then !p.phase else p.phase }
    let s := s.writeHdb q (s.fld (Fld.QUE_Q_STAT_SQHEAD q)) tail
    if natBit (x.dw 0) 9 ∧ ¬s.bit (Fld.QUE_Q_CTRL_NOIRQ q) then s.msix (s.qPort q) (s.fld (Fld.QUE_Q_CTRL_VECTOR q)) else s

/-- DESCRIPTOR_FINISH: a finished descriptor completes while the CQ has room (R499, R508, R509). -/
def State.descFinish (s : State) (q num : Nat) : State :=
  let p := s.pair q
  match p.descs.find? (fun x => x.num = num) with
  | none => s
  | some x =>
    if ¬x.done ∨ (s.linkUp (s.qPort q) ∧ (p.cqTail + 1) % s.cqSize q = p.cqHead) then s else s.complete q x

/-! ## Host reads (R502, R505, R509) -/

/-- HOST_READ_COMPLETION and HOST_READ_TIMEOUT: a read of host memory ends. -/
def State.hostReadEnd (s : State) (id : Nat) (r : HostRead) : State :=
  match s.hostReads.find? (fun h => h.id = id) with
  | none => s
  | some h =>
    let fits : Bool := match r with
      | .data bs => bs.length = h.len
      | .poisoned bs => bs.length = h.len
      | _ => true
    if ¬fits then s
    else
      let s : State := { s with hostReads := s.hostReads.filter fun g => g.id ≠ id }
      match h.why with
      | .sq q =>
        if s.qState q ≠ 1 then s
        else
          match r with
          | .data bs => s.sqEntry q bs
          | _ => s.pairError q 1
      | .data q num off =>
        match r with
        | .data bs => s.dmaHostData q num off (some (bs.map fun b => (b, false)))
        | .poisoned bs => s.dmaHostData q num off (some (bs.map fun b => (b, true)))
        | _ => s.dmaHostData q num off none
      | why =>
        match r with
        | .data bs => s.lqAnswer why bs none
        | .poisoned _ => s.lqAnswer why [] (some 20)
        | _ => s.lqAnswer why [] (some 26)

/-! ## Revocation, resets and losses (R76, R487, R495, R509) -/

/-- The effect of a completed revocation on a pair: what it has fetched completes or is lost, and a deleted pair is OFF. -/
def State.pairRevoked (s : State) (q : Nat) : State :=
  let p := s.pair q
  let s := p.descs.foldl (fun (t : State) x => t.complete q x) s
  if s.qState q = 3 then s.setFld (Fld.QUE_Q_STAT_STATE q) 0 else s

/-- The pairs of a port that are not OFF. -/
def State.pairsOf (s : State) (port : Bool) : List Nat :=
  (List.range 256).filter fun q => s.qState q ≠ 0 && s.qPort q = port

/-- Accesses of a port that wait or read are forgotten with its link or its function. -/
def State.portForget (s : State) (port : Bool) : State :=
  { s with
    wins := s.wins.filter fun w => w.write || w.port ≠ port
    hostHeld := s.hostHeld.filter fun h => h.port ≠ port }

/-- FUNCTION_LEVEL_RESET (R487). -/
def State.flr (s : State) (port : Bool) : State :=
  let n := b2n port
  let s := s.declare (ownerId 1 s.odx s.ody n)
  let s := (s.pairsOf port).foldl (fun (t : State) q =>
    let lost := (t.pair q).descs.length
    let t := (t.declare (t.qId q)).bumpBy Fld.QUE_DBERR_LOSTCPL lost
    let t := (t.setPair q (t.pair q).again).setFld (Fld.QUE_Q_CTRL_EN q) 0
    t.setFld (Fld.QUE_Q_STAT_STATE q) 0) s
  let lo := msixAddr port 0 0
  let s : State := { s with regs := SMap.dropIf s.regs (fun a => (lo ≤ a && a < lo + 0x3000) || a = Reg.PCI_WIN n)
                            pcie := SMap.drop s.pcie n }
  s.portForget port

/-- PCIE_LINK_DOWN (R79, R509). -/
def State.pcieDown (s : State) (port : Bool) : State :=
  let n := b2n port
  if ¬s.linkUp port then s
  else
    let s := (s.setReg (Reg.PCI_STAT n) (s.reg (Reg.PCI_STAT n) &&& 0xFFFF#32)).bump (Fld.PCI_STAT_LINKDOWNS n)
    let s := (s.pairsOf port).foldl (fun (t : State) q =>
      if t.qState q = 1 then t.pairError q 3 else t.declare (t.qId q)) s
    (s.declare (ownerId 1 s.odx s.ody n)).portForget port

/-- PCIE_LINK_UP with the rate code and width of PCI_STAT, and what the host then sets in the configuration space (R483 to R485). -/
def State.pcieUp (s : State) (port : Bool) (rate width : Nat) (cfg : PcieCfg) : State :=
  let n := b2n port
  if s.domOn (5 + n) ∧ 1 ≤ rate ∧ rate ≤ 6 ∧ [1, 4, 8, 16].contains width then
    let s : State := { s with pcie := SMap.put PcieCfg.fresh s.pcie n cfg }
    ((s.setFld (Fld.PCI_STAT_LINKUP n) 1).setFld (Fld.PCI_STAT_RATE n) rate).setFld (Fld.PCI_STAT_WIDTH n) width
  else s

end Sys2Proof.Machine
end

