-- ==== Sys2Proof/Machine/Lode.lean ====
section
/-! DEFINITION. Lode links: enabling, training, keys, groups and tags, arrivals, turns and loss (R514 to R530). -/

namespace Sys2Proof.Machine

/-! ## Ports -/

/-- A Lode port's hidden state before any training. -/
def LodeSt.fresh : LodeSt :=
  { nonce := 0, peer := 0, txKey := 0, rxKey := 0, txSlot := 0, rxSlot := 0, txGroup := [], rxGroup := [], tagFails := 0,
    tagRetrained := false, tagSeq := none, rekey := false, level := 1, transit := 0 }

/-- The hidden state of port `k`. -/
def State.lodeSt (s : State) (k : Nat) : LodeSt := SMap.get LodeSt.fresh s.lode k

/-- Replace it. -/
def State.setLode (s : State) (k : Nat) (v : LodeSt) : State := { s with lode := SMap.put LodeSt.fresh s.lode k v }

/-- Ports E and N are hub ends (R515). -/
def lodeHub (k : Nat) : Bool := k % 2 = 0

/-- STATE of a port. -/
def State.lodeState (s : State) (k : Nat) : Nat := s.fld (Fld.LOD_STAT_STATE k)

/-- A usable port: LIVE or in a retrain with its state kept (R528). -/
def State.lodeUsable (s : State) (k : Nat) : Bool := s.lodeState k = 2 || s.lodeState k = 7

/-- NX and NY. -/
def State.nx (s : State) : Nat := s.fld (Fld.LOD_SYS_NXM1 0) + 1
def State.ny (s : State) : Nat := s.fld (Fld.LOD_SYS_NYM1 0) + 1

/-- The stop of port `k` on ring `x`, as the place of its packets at the ingress switch. -/
def lodeLoc (x k : Nat) : Loc := .ingressPort x 7 (1 + k)

/-! ## Loss of a link (R528, R529) -/

/-- Registers that name a lease owner. -/
def leaseOwnerRegs : List Nat :=
  (List.range 64).map Reg.FLN_SEM ++ [Reg.CFG_LOCK] ++ (List.range 4).map Reg.PRB_OWNER ++ (List.range 64).map Reg.OBS_KEY_OWNER
    ++ (List.range 4).map Reg.PIN_FT_OWNER

/-- Lease owners in devices whose path leaves by port `k` (R529). -/
def State.ownersBeyond (s : State) (k : Nat) : List Word :=
  (leaseOwnerRegs.map s.reg).filter fun w =>
    let e : Ep := { dx := BitVec.ofNat 7 (bits w 27 21), dy := BitVec.ofNat 7 (bits w 20 14), die := 0, x := 0, y := 0, p := 0 }
    w ≠ 0 && ownerKind w ≠ 15 && !s.localEp e && s.lodePort e = k

/-- Port `k` takes a state in which it is not usable. If it was usable, packets not started are answered or discarded, a packet
in reception completes with poison, and owners beyond the port are declared faulted. -/
def State.lodeDown (s : State) (k : Fin 4) (st : Nat) : State :=
  let was := s.lodeUsable k.val
  let s := s.setFld (Fld.LOD_STAT_STATE k.val) st
  if ¬was then s
  else
    let l := s.link (.lode k)
    let waiting := l.dn.queue
    let s : State := match l.up.completePart.2 with
      | none => s
      | some p => { s.linkPoisoned (.lode k) with arrivals := s.arrivals ++ [(LinkRef.lode k, p)] }
    let s := (s.clearLink (.lode k)).raise (Fld.LOD_IRQ_STATUS_DOWN k.val)
    let s := waiting.foldl (fun (t : State) p => if p.cls = 3 then t else t.noPath (lodeLoc (fold3 p.key) k.val) p) s
    (s.ownersBeyond k.val).foldl (fun (t : State) w => t.declare w) s

/-! ## Enabling (R516, R526, R527) -/

/-- A slot that is LOADED and of class T. -/
def State.classT (s : State) (slot : Nat) : Bool := s.keyLoaded slot && s.fld (Fld.OBS_KEY_CTRL_CLASS slot) = 0

/-- LOD_SYS (R516): a write while a port has EN = 1, or of coordinates outside the system, is ignored as a whole and sets REFUSED. -/
def State.lodSys (s : State) (v : Word) : State :=
  if (List.range 4).any (fun k => s.bit (Fld.LOD_CTRL_EN k)) ∨ bits v 31 25 < bits v 13 7 ∨ bits v 24 18 < bits v 6 0 then
    s.setFld (Fld.LOD_SYS_REFUSED 0) 1
  else s.setReg (Reg.LOD_SYS 0) (v &&& 0xFFFC3FFF#32 ||| s.reg (Reg.LOD_SYS 0) &&& 0x00020000#32 &&& ~~~v)

/-- A write of EN = 1 is refused (R516, R526): `v` is the value written. -/
def State.lodeRefused (s : State) (k : Nat) (v : Word) : Bool :=
  (if k < 2 then s.nx else s.ny) = 1
    || (if natBit v.toNat 30 then !s.classT (bits v 13 8) else s.fld Fld.LCS_STATUS_STATE = 2)

/-- A write to LOD_CTRL of port `k`: EN, the fields fixed while EN is 1, and REKEY at a hub end (R526, R527). -/
def State.lodCtrl (s : State) (k : Fin 4) (v : Word) : State :=
  let r := Reg.LOD_CTRL k.val
  let old := s.reg r
  let was := s.bit (Fld.LOD_CTRL_EN k.val)
  let en := natBit v.toNat 31
  let st := s.lodeState k.val
  let free := v &&& 0xE03F3F0F#32
  let fixed := (v &&& 0x803F000F#32) ||| (old &&& 0x60003F00#32)
  let start := if lodeHub k.val then 1 else 6
  if ¬en then
    let s := s.setReg r (if was then fixed else free)
    if was then (s.lodeDown k 0).setLode k.val LodeSt.fresh else s
  else if ¬was then
    if s.lodeRefused k.val v then s.setFld (Fld.LOD_STAT_REFUSED k.val) 1
    else (((s.setReg r free).setReg (Reg.LOD_LANES k.val) 0).clearLink (.lode k)).setFld (Fld.LOD_STAT_STATE k.val) start
  else
    let s := s.setReg r fixed
    if 3 ≤ st ∧ st ≤ 5 ∧ s.lodeRefused k.val fixed then s.setFld (Fld.LOD_STAT_REFUSED k.val) 1
    else if 3 ≤ st ∧ st ≤ 5 then (s.clearLink (.lode k)).setFld (Fld.LOD_STAT_STATE k.val) start
    else if natBit v.toNat 28 ∧ lodeHub k.val ∧ st = 2 ∧ s.bit (Fld.LOD_CTRL_ENC k.val) ∧ s.classT (s.fld (Fld.LOD_CTRL_NEXTKEY k.val)) then
      (s.setLode k.val { s.lodeSt k.val with rekey := true }).retrain (.lode k)
    else s

/-! ## Keys (R523, R524) -/

/-- KCHK under a key. -/
def kchk (key : W256) : Nat := aes256 key (0x4B * 2 ^ 120) / 2 ^ 64

/-- The slot whose key a port's KCHK is under: NEXTKEY in a change of key, if the port has one. -/
def State.chkSlot (s : State) (k : Nat) : Nat :=
  let n := s.fld (Fld.LOD_CTRL_NEXTKEY k)
  if (s.lodeSt k).rekey ∧ s.classT n then n else s.fld (Fld.LOD_CTRL_KEY k)

/-- The session key of a direction. -/
def sessionKey (key : W256) (fromLeaf axisY : Bool) (dx dy : Nat) (nonces : W64) : W256 :=
  let b := fun (j : Nat) => 0x53 * 2 ^ 120 + b2n fromLeaf * 2 ^ 119 + j * 2 ^ 118 + b2n axisY * 2 ^ 117 + dx * 2 ^ 110 + dy * 2 ^ 103
    + nonces.toNat
  BitVec.ofNat 256 (aes256 key (b 0) * 2 ^ 128 + aes256 key (b 1))

/-- The first 288 bits of keystream of slot `n`, as a number whose byte i goes onto flit byte i. -/
def lodeStream (key : W256) (n : Nat) : Nat :=
  natLE (((List.range 3).flatMap fun b => bytesBE 16 (aes256 key (n % 2 ^ 64 * 2 ^ 64 + b))).take 36)

/-- A slot with its flit bits encrypted or decrypted. -/
def lodeCrypt (key : W256) (n : Nat) (x : Slot) : Slot := x ^^^ BitVec.ofNat 320 (lodeStream key n)

/-- The tag in tag slot `t` of the slots of its group as sent. -/
def lodeTag (key : W256) (t : Nat) (l : List Slot) : Nat :=
  let h := aes256 key ((2 ^ 64 - 1) * 2 ^ 64 + 3)
  (ghash h (toBlocks (l.flatMap fun x => bytesLE 40 x.toNat)) ^^^ aes256 key (t % 2 ^ 64 * 2 ^ 64 + 3)) / 2 ^ 64

/-! ## Training (R522, R523, R527) -/

/-- The training set that port `k` sends. -/
def State.trainSetOf (s : State) (k : Nat) : BitVec 256 :=
  let enc := s.bit (Fld.LOD_CTRL_ENC k)
  let body := (if lodeHub k then 0x4C else 0x6C) * 2 ^ 248 + natBits (s.fld Fld.HUB_FEATURES_COMMON) 7 4 * 2 ^ 244 + s.odx * 2 ^ 237
    + s.ody * 2 ^ 230 + (s.nx - 1) * 2 ^ 223 + (s.ny - 1) * 2 ^ 216 + b2n enc * 2 ^ 215 + (s.lodeSt k).nonce.toNat * 2 ^ 144
    + (if enc then kchk (s.slotKey (s.chkSlot k)) else 0) * 2 ^ 80 + s.fld (Fld.LOD_LANES_RXFAIL k) * 2 ^ 64
  BitVec.ofNat 256 (body + trainSetCrc body)

/-- An attempt of port `k` begins with the lanes that fail at its receiver; a leaf end learns from outside whether the hub end
changes the key (R522, R527). A LIVE leaf end follows a retrain that the hub end starts, with its state kept (R409, R527). -/
def State.attemptLode (s : State) (k : Fin 4) (rxFail : Nat) (rekey : Bool) : State :=
  let s := if s.lodeState k.val = 2 ∧ lodeHub k.val = false then s.retrain (.lode k) else s
  let st := s.lodeState k.val
  if st = 1 ∨ st = 6 ∨ st = 7 then
    let s := if st = 6 then s.setFld (Fld.LOD_STAT_STATE k.val) 1 else s
    let s := s.setFld (Fld.LOD_LANES_RXFAIL k.val) (s.fld (Fld.LOD_LANES_RXFAIL k.val) ||| rxFail % 2 ^ 16)
    let l := s.lodeSt k.val
    let rk := if lodeHub k.val then l.rekey else rekey && st = 7
    let s := { s with free := s.free + 1 }.setLode k.val { l with nonce := Config.freeW64 s.free, rekey := rk }
    s.emit (.trainSet (.lode k) (s.trainSetOf k.val))
  else s

/-- Lanes left give a WIDTH code; 3 is none (R514). -/
def lodeWidth (fails : Nat) : Nat :=
  let good := 16 - popCount 16 fails
  if good = 16 then 0 else if 8 ≤ good then 1 else if 4 ≤ good then 2 else 3

/-- The coordinates that R515 requires of the partner at port `k`. -/
def State.lodePartner (s : State) (k : Nat) : Nat × Nat :=
  match k with
  | 0 => ((s.odx + 1) % s.nx, s.ody)
  | 1 => ((s.odx + s.nx - 1) % s.nx, s.ody)
  | 2 => (s.odx, (s.ody + 1) % s.ny)
  | _ => (s.odx, (s.ody + s.ny - 1) % s.ny)

/-- The link layer of port `k` starts or resumes under a session key of the slot KEY. -/
def State.lodeStart (s : State) (k : Fin 4) (px py : Nat) (peer : W64) : State :=
  let l := s.lodeSt k.val
  let hub := lodeHub k.val
  let (dx, dy) := if hub then (s.odx, s.ody) else (px, py)
  let key := s.slotKey (s.fld (Fld.LOD_CTRL_KEY k.val))
  let dir := fun (leaf : Bool) => sessionKey key leaf (2 ≤ k.val) dx dy (l.nonce ^^^ peer)
  let keep := s.lodeState k.val = 7
  let l := { l with peer := peer, txKey := dir (!hub), rxKey := dir hub, txSlot := 0, rxSlot := 0, txGroup := [], rxGroup := [],
                    rekey := false }
  (s.setLode k.val l).startLayer (.lode k) keep hub

/-- What a Lode receiver takes from a copy of a set, if its CRC is correct and it is the other end's (R407, R522). -/
def readLodeSet (type : Nat) (b : BitVec 256) : Option Nat :=
  if trainSetCrc b.toNat = b.toNat % 2 ^ 32 ∧ natBits b.toNat 255 248 = type then some b.toNat else none

/-- LODE_TRAINING_SET: the partner's set arrives at a port that trains, in copies of which some may be altered (R407, R522, R523, R527). -/
def State.trainingSet (s : State) (k : Fin 4) (b : BitVec 256) (errs : List SetErr) : State :=
  let st := s.lodeState k.val
  if ¬(st = 1 ∨ st = 7) then s
  else
  match firstCopy (readLodeSet (if lodeHub k.val then 0x6C else 0x4C)) b errs (!lodeHub k.val) 16 (s.fld (Fld.LOD_LANES_RXFAIL k.val)) with
  | none => s
  | some v =>
    let px := natBits v 243 237
    let py := natBits v 236 230
    let enc := s.bit (Fld.LOD_CTRL_ENC k.val)
    let s := (s.setFld (Fld.LOD_STAT_PEERDX k.val) px).setFld (Fld.LOD_STAT_PEERDY k.val) py
    let keyFail := fun (t : State) => (t.lodeDown k 5).raise (Fld.LOD_IRQ_STATUS_KEY k.val)
    if natBits v 229 223 + 1 ≠ s.nx ∨ natBits v 222 216 + 1 ≠ s.ny ∨ (px, py) ≠ s.lodePartner k.val then s.lodeDown k 4
    else if natBit v 215 ≠ enc then keyFail s
    else
      let rk := (s.lodeSt k.val).rekey
      let mine := if enc then kchk (s.slotKey (s.chkSlot k.val)) else 0
      let match_ : Bool := !enc || natBits v 143 80 = mine
      if ¬match_ ∧ ¬rk then keyFail s
      else
        let s := if rk then
            (if match_ ∧ s.classT (s.fld (Fld.LOD_CTRL_NEXTKEY k.val)) then s.setFld (Fld.LOD_CTRL_KEY k.val) (s.fld (Fld.LOD_CTRL_NEXTKEY k.val))
             else (s.setFld (Fld.LOD_STAT_KEYMISMATCH k.val) 1).raise (Fld.LOD_IRQ_STATUS_KEY k.val))
          else s
        let tx := s.fld (Fld.LOD_LANES_TXFAIL k.val) ||| natBits v 79 64
        let s := s.setFld (Fld.LOD_LANES_TXFAIL k.val) tx
        let w := max (lodeWidth tx) (lodeWidth (s.fld (Fld.LOD_LANES_RXFAIL k.val)))
        let w := if 3 ≤ (s.link (.lode k)).fails then max 1 w else w
        if w = 3 then s.lodeDown k 3
        else
          let fell := s.fld (Fld.LOD_STAT_WIDTH k.val) < w
          let s := s.setFld (Fld.LOD_STAT_WIDTH k.val) w
          let s := if fell then s.raise (Fld.LOD_IRQ_STATUS_WIDTH k.val) else s
          let own := popCount 4 (natBits (s.fld Fld.HUB_FEATURES_COMMON) 7 4)
          let s := s.setLode k.val { s.lodeSt k.val with level := min own (popCount 4 (natBits v 247 244)) }
          s.lodeStart k px py (BitVec.ofNat 64 (natBits v 207 144))

/-- A failed attempt: width is forced below full after three in a row, the port is disabled after three more (R408, R523). -/
def State.lodeFails (s : State) (k : Fin 4) : State :=
  let st := s.lodeState k.val
  if ¬(st = 1 ∨ st = 7) then s
  else
    let l := s.link (.lode k)
    let s := s.setLink (.lode k) { l with fails := l.fails + 1, training := false, echoOk := false, echoSent := none }
    if 6 ≤ l.fails + 1 then s.lodeDown k 3 else s

/-! ## Slots (R518, R521, R524, R525) -/

/-- The packet that starts next on a Lode port: traffic in transit before packets of this device, but one of these after three flits of
transit while it waits (R520). -/
def State.lodeNext (s : State) (k : Nat) (h : Half) : Option Nat :=
  let own := fun (p : Packet) => p.cls ≠ 3 && p.src.dx.toNat = s.odx && p.src.dy.toNat = s.ody
  let mine := h.nextOf own
  let other := h.nextOf fun p => !own p
  if 3 ≤ (s.lodeSt k).transit then mine.orElse fun _ => other else other.orElse fun _ => mine

/-- Port `k` starts its next packet if none is being sent and the replay buffer has room. -/
def State.lodeLoad (s : State) (k : Fin 4) : State :=
  let lk := s.link (.lode k)
  let h := lk.dn
  if h.cur ≠ [] ∨ h.resend.isSome ∨ 511 ≤ h.replay.length then s
  else
    match s.lodeNext k.val h with
    | none => s
    | some i =>
      match h.queue[i]? with
      | none => s
      | some p =>
        let own := p.src.dx.toNat = s.odx ∧ p.src.dy.toNat = s.ody
        let waits := h.queue.any fun q => q.cls ≠ 3 && q.src.dx.toNat = s.odx && q.src.dy.toNat = s.ody
        let l := s.lodeSt k.val
        (s.setLink (.lode k) { lk with dn := h.loadBy (some i) }).setLode k.val
          { l with transit := if own ∨ ¬waits then 0 else l.transit + p.flits }

/-- The slot that port `k` sends now. -/
def State.lodeSend (s : State) (k : Fin 4) : State :=
  let s := if (s.lodeSt k.val).txSlot % 16 = 15 then s else s.lodeLoad k
  let g := s.lodeTxGeom k.val
  let l := s.lodeSt k.val
  let enc := s.bit (Fld.LOD_CTRL_ENC k.val)
  let lk := s.link (.lode k)
  if l.txSlot % 16 = 15 then
    let tag := if enc then lodeTag l.txKey l.txSlot l.txGroup else 0
    let w := linkWord 0 lk.up.lastSeq lk.up.nak false (lk.up.freed.getD (lk.dn.slot % 8) 0)
    let s := s.setLode k.val { l with txSlot := l.txSlot + 1, txGroup := [] }
    (s.setLink (.lode k) { lk with dn := { lk.dn with slot := lk.dn.slot + 1 } }).emit
      (.slot (.lode k) (g.stripe (BitVec.ofNat 320 (tag + w * 2 ^ 288))))
  else
    let (h, plain) := lk.dn.send lk.up 511
    let x := if enc then lodeCrypt l.txKey l.txSlot plain else plain
    let s := s.setLode k.val { l with txSlot := l.txSlot + 1, txGroup := l.txGroup ++ [x] }
    (s.setLink (.lode k) { lk with dn := h }).emit (.slot (.lode k) (g.stripe x))

/-- One slot of a group whose tag has checked. -/
def State.lodeFlit (s : State) (k : Fin 4) (enc : Bool) (key : W256) (n : Nat) (x : Slot × Bool) : State :=
  let plain := if enc then lodeCrypt key n x.1 else x.1
  let lk := s.link (.lode k)
  let w := (plain.extractLsb' 288 32).toNat
  if lwCrc w ≠ w % 64 then s
  else
    let r := lk.up.receive plain (s.replayLimit (.lode k)) x.2 (!enc)
    let s := s.setLink (.lode k) { lk with up := r.half }
    let s := if r.rejected then s.linkCrcErr (.lode k) else s
    let s := if r.poisoned then s.linkPoisoned (.lode k) else s
    let s := match r.done with
      | .nothing => s
      | .packet p => s.linkDeliver (.lode k) true p
    if r.retrain then s.endRetrain { link := .lode k, leaf := false } else s

/-- A group whose tag fails: nothing of it is delivered and its first flit is asked for again; failures count while the same flit is still
to come (R525). -/
def State.tagFailed (s : State) (k : Fin 4) : State :=
  let l := s.lodeSt k.val
  let lk := s.link (.lode k)
  let seq := (lk.up.lastSeq + 1) % 512
  let same := l.tagSeq = some seq
  let n := if same then l.tagFails + 1 else 1
  let l := { l with tagSeq := some seq, tagRetrained := same && l.tagRetrained }
  let s := ((s.bump (Fld.LOD_CNT1_TAGERR k.val)).raise (Fld.LOD_IRQ_STATUS_TAG k.val)).linkCrcErr (.lode k)
  let s := s.setLink (.lode k) { lk with up := { lk.up with nak := true } }
  if n < s.replayLimit (.lode k) then s.setLode k.val { l with tagFails := n }
  else if l.tagRetrained then (s.setLode k.val { l with tagFails := 0, tagRetrained := false, tagSeq := none }).lodeDown k 3
  else (s.setLode k.val { l with tagFails := 0, tagRetrained := true }).endRetrain { link := .lode k, leaf := false }

/-- The slot that port `k` receives now; `ok` says that no uncorrectable code word touches it. Flits wait for their group's tag. -/
def State.lodeReceive (s : State) (k : Fin 4) (x : Slot) (ok : Bool) : State :=
  let l := s.lodeSt k.val
  let enc := s.bit (Fld.LOD_CTRL_ENC k.val)
  let lk := s.link (.lode k)
  let w := (x.extractLsb' 288 32).toNat
  let lk := if lwCrc w = w % 64 then { lk with dn := lk.dn.takeWord w lk.up.slot } else lk
  let s := s.setLink (.lode k) { lk with up := { lk.up with slot := lk.up.slot + 1 } }
  let l' := { l with rxSlot := l.rxSlot + 1 }
  if l.rxSlot % 16 = 15 then
    let s := s.setLode k.val { l' with rxGroup := [] }
    let tagOk : Bool := !enc || (ok && (x.extractLsb' 0 64).toNat = lodeTag l.rxKey l.rxSlot (l.rxGroup.map fun g => g.1))
    if tagOk then
      let s := s.setLode k.val { l' with rxGroup := [] }
      let s := l.rxGroup.zipIdx.foldl (fun (t : State) g => t.lodeFlit k enc l.rxKey (l.rxSlot - 15 + g.2) g.1) s
      let u := s.lodeSt k.val
      if u.tagSeq = some (((s.link (.lode k)).up.lastSeq + 1) % 512) then s
      else s.setLode k.val { u with tagFails := 0, tagRetrained := false, tagSeq := none }
    else s.tagFailed k
  else s.setLode k.val { l' with rxGroup := l.rxGroup ++ [(x, !ok)] }

/-- One slot time of port `k`. -/
def State.lodeSlot (s : State) (k : Fin 4) (x : Slot) (ok : Bool) : State := (s.lodeSend k).lodeReceive k x ok

/-- LINK_SLOT_RECEIVE (R418): of an internal bundle `x` inverts physical lanes of the slot that the end `leaf` sends; of a bridge
port it is what the partner's lanes carry; of a Lode port it is the slot that its lanes carry after the code of R518 has corrected it, and
`ok` says that no uncorrectable code word touches it. A bundle in wire mode carries no slots (R424). -/
def State.linkSlot (s : State) (l : LinkRef) (leaf : Bool) (x : Lanes) (ok : Bool) : State :=
  let st := s.linkState l
  let k := s.link l
  match l with
  | .bundle i =>
    if st = 2 ∨ (st = 4 ∧ s.draining i.val ∧ (k.keep → k.training)) ∨ ((st = 1 ∨ st = 5) ∧ k.training) then
      s.innerSlot (.bundle i) leaf x
    else s
  | .bridge i => if st = 2 ∨ (st = 1 ∧ k.training) then s.outerSlot i x else s
  | .lode i => if st = 2 ∨ ((st = 1 ∨ st = 7) ∧ k.training) then s.lodeSlot i ((s.halfGeom l true).unstripe x) ok else s

/-! ## Arrivals and turns (R517, R519, R520, R528) -/

/-- Crossing from port `j` is the wrap link of its dimension (R519). -/
def State.wrapPort (s : State) (j : Nat) : Bool :=
  match j with
  | 0 => s.odx + 1 = s.nx
  | 1 => s.odx = 0
  | 2 => s.ody + 1 = s.ny
  | _ => s.ody = 0

/-- A packet leaves by port `j`, from a hub ring or from port `from_`, with the torus VC of R519; none while the link has no credits
for it (R333). -/
def State.lodeQueue (s : State) (j : Fin 4) (from_ : Option Nat) (p : Packet) : Option State :=
  let base : Nat := match from_ with
    | some i => if i / 2 = j.val / 2 then p.vc.toNat else 0
    | none => 0
  let vc : Nat := if s.wrapPort j.val then 1 else base
  let q := { p with vc := BitVec.ofNat 1 vc }
  let l := s.link (.lode j)
  if l.dn.fits q then some (s.setLink (.lode j) { l with dn := l.dn.push q }) else none

/-- A packet delivered to a Lode port from its hub ring; none while its link has no credits for it. A packet for the port itself has
no endpoint behind it. -/
def State.lodeOut (s : State) (e : Ep) (p : Packet) : Option State :=
  let k := e.p.toNat - 1
  if s.localEp p.dst then
    let s := s.noEpEvent e p
    some (if p.cls = 0 then s.place (lodeLoc e.x.toNat k) (rspErr p 2).finish else s)
  else if h : k < 4 then
    if s.lodeUsable k then s.lodeQueue ⟨k, h⟩ none p else some (s.noPath (lodeLoc e.x.toNat k) p)
  else some s

/-- What port `k` does with arrival `n`, the packet `p`; none while it must wait in its buffer (R517, R520). A port to which it turns may be
asleep: it is held there while its domain wakes, or answered FENCED (R345, R530). -/
def State.lodeTake (s : State) (k : Fin 4) (n : Nat) (p : Packet) : Option State :=
    let s1 := { s with arrivals := listDropAt s.arrivals n }.freeCredits (.lode k) true p
    let here := p.src.dx.toNat = s.odx ∧ p.src.dy.toNat = s.ody
    if malformed p ∨ p.cls = 2 ∨ here then some (s1.bump (Fld.LOD_CNT1_DROP k.val))
    else
      let x := fold3 p.key
      if s.localEp p.dst then
        let q := { p with vc := 0 }
        if s.hasRoom (lodeLoc x k.val) q then some (s1.place (lodeLoc x k.val) q) else none
      else
        let j := s.lodePort p.dst
        let e := s.mkEp 4 x 7 (1 + j)
        if h : j < 4 then
          if ¬s.domLive (s.portDomain e) then
            if s.meetsFence e then some (s1.fenceOut (lodeLoc x k.val) e p)
            else if s.waking.contains e then none
            else some (s.holdFor e)
          else if s.lodeUsable j then s1.lodeQueue ⟨j, h⟩ (some k.val) p
          else some (s1.noPath (lodeLoc x k.val) p)
        else some s1

/-- LODE_PORT_ARRIVAL (R517): the first packet that can go on, in the order of arrival; a packet that waits holds back those behind it in its
own buffer only (R520). -/
def State.lodeArrival (s : State) (k : Fin 4) : State :=
  let l := s.arrivals
  let first := (List.range l.length).findSome? fun n =>
    match l[n]? with
    | some a =>
      if a.1 = .lode k ∧ (l.take n).all (fun b => !(b.1 = .lode k && bufOf b.2 = bufOf a.2)) then s.lodeTake k n a.2 else none
    | none => none
  first.getD s

/-- LODE_PORT_DOWN: the link of a usable port is lost, and the port trains or waits again with its state cleared (R528). -/
def State.lodePortDown (s : State) (k : Fin 4) : State :=
  if s.lodeUsable k.val then s.lodeDown k (if lodeHub k.val then 1 else 6) else s

/-- The power domain of port `k` goes off, or comes on with EN = 1 (R530). -/
def State.lodeDomain (s : State) (k : Fin 4) (on : Bool) : State :=
  if ¬on then (s.lodeDown k 0).setLode k.val LodeSt.fresh
  else if s.bit (Fld.LOD_CTRL_EN k.val) then
    (s.clearLink (.lode k)).setFld (Fld.LOD_STAT_STATE k.val) (if lodeHub k.val then 1 else 6)
  else s

/-! ## Rows that serve every kind of link -/

/-- TRAINING_ATTEMPT (R406): the lanes that fail BIST in the half toward Bedrock (or at this end's receiver) and in the other
half of a bundle, the training set that a bridge port receives, and `rekey`: a Lode leaf end is in a change of key, or the partner
of a bridge hub end has been reset. -/
def State.trainingAttempt (s : State) (l : LinkRef) (failRx failTx : Nat) (set : BitVec 256) (rekey : Bool) (errs : List SetErr) : State :=
  match l with
  | .bundle i => s.attemptBundle i failRx failTx errs
  | .bridge k => (if rekey then s.partnerReset k else s).attemptBridge k failRx set errs
  | .lode k => s.attemptLode k failRx rekey

/-- TRAINING_STEP_TIMEOUT (R408). -/
def State.trainingTimeout (s : State) (l : LinkRef) : State :=
  match l with
  | .lode k => s.lodeFails k
  | _ => s.attemptFails l

end Sys2Proof.Machine
end

