-- ==== Sys2Proof/Machine/RangeOps.lean ====
section
/-! DEFINITION. Operations on protected ranges and writes to range records and key slots (R460, R461, R472 to R476). -/

namespace Sys2Proof.Machine

/-! ## Conditions (R472) -/

/-- First line and number of lines of a range. -/
def State.rngLine (s : State) (r : Nat) : Nat := s.fld (Fld.OBS_RNG_BASE_BASE r) * 2 ^ 14
def State.rngLines (s : State) (r : Nat) : Nat := s.fld (Fld.OBS_RNG_SIZE_MIB r) * 2 ^ 14

/-- Two ranges share a line. -/
def State.rngOverlap (s : State) (r q : Nat) : Bool :=
  s.rngLine r < s.rngLine q + s.rngLines q && s.rngLine q < s.rngLine r + s.rngLines r

/-- The tree-area runs in use, as (start, length). -/
def State.treeRuns_ (s : State) : List (Nat × Nat) :=
  ((List.range 64).filter fun q => s.rngState q ≠ 0).map fun q => (s.fld (Fld.OBS_RNG_TREE_TREEBASE q), treeNodes (s.rngPages q))

/-- The lowest free run of `n` lines of the tree area (R465). -/
def State.treeRoom (s : State) (n : Nat) : Option Nat :=
  let lo := s.treeStart 0
  let hi := s.chanLines 0
  let used := s.treeRuns_
  let fits := fun (a : Nat) => a + n ≤ hi && used.all fun u => !(a < u.1 + u.2 && u.1 < a + n)
  let starts := (lo :: used.map fun u => u.1 + u.2).filter fits
  starts.foldl (fun (best : Option Nat) a => match best with
    | none => some a
    | some b => some (min a b)) none

/-- INIT's conditions; the place of the tree if they hold. -/
def State.initRoom (s : State) (r : Nat) : Option Nat :=
  let key := s.fld (Fld.OBS_RNG_KEYS_KEY r)
  if s.rngLines r ≠ 0 ∧ s.rngLine r + s.rngLines r ≤ s.fld Fld.HRG_DDRTOP_GIB * 2 ^ 24
      ∧ (List.range 64).all (fun q => q = r || s.rngState q = 0 || !s.rngOverlap r q)
      ∧ s.keyLoaded key ∧ s.fld (Fld.OBS_KEY_CTRL_CLASS key) = s.fld (Fld.OBS_RNG_KEYS_CLASS r) then
    s.treeRoom (treeNodes (s.rngPages r))
  else none

/-- NEXTKEY is LOADED, of a class and not KEY. -/
def State.nextKeyOk (s : State) (r cls : Nat) : Bool :=
  let n := s.fld (Fld.OBS_RNG_KEYS_NEXTKEY r)
  s.fld (Fld.OBS_RNG_KEYS_CLASS r) = cls && s.keyLoaded n && s.fld (Fld.OBS_KEY_CTRL_CLASS n) = cls && n ≠ s.fld (Fld.OBS_RNG_KEYS_KEY r)

/-! ## The operations (R472 to R476) -/

/-- A refused operation or record write. -/
def State.rngRefuse (s : State) (r : Nat) : State := s.setFld (Fld.OBS_RNG_STAT_REFUSED r) 1

/-- The DISCARD flush of a range begins under a new state. -/
def State.rngFlush (s : State) (r st : Nat) : State :=
  let s := (s.setFld (Fld.OBS_RNG_STAT_STATE r) st).setFld (Fld.OBS_RNG_STAT_BOUNDARY r) 0
  let (s, f) := s.flushBegin (s.rngLine r) (s.rngLines r) true
  { s with rangeFlush := SMap.set s.rangeFlush r f }

/-- INIT. -/
def State.rngInit (s : State) (r : Nat) : State :=
  match (if s.rngState r = 0 then s.initRoom r else none) with
  | none => s.rngRefuse r
  | some t => (s.setFld (Fld.OBS_RNG_TREE_TREEBASE r) t).rngFlush r 1

/-- REKEY: the sweep starts at block 0. -/
def State.rngRekey (s : State) (r : Nat) : State :=
  if s.rngState r = 2 ∧ s.nextKeyOk r 1 then (s.setFld (Fld.OBS_RNG_STAT_STATE r) 3).setFld (Fld.OBS_RNG_STAT_BOUNDARY r) 0
  else s.rngRefuse r

/-- RETIRE. -/
def State.rngRetire (s : State) (r : Nat) : State :=
  if (s.rngState r = 2 ∨ s.rngState r = 6) ∧ s.nextKeyOk r 0 then s.rngFlush r 4 else s.rngRefuse r

/-- DISABLE. -/
def State.rngDisable (s : State) (r : Nat) : State :=
  if s.rngState r = 2 ∨ s.rngState r = 3 ∨ s.rngState r = 6 then s.rngFlush r 5 else s.rngRefuse r

/-- A write to OBS_RNGr_CMD; other codes are ignored. -/
def State.rngCmd (s : State) (r op : Nat) : State :=
  match op with
  | 1 => s.rngInit r
  | 2 => s.rngRekey r
  | 3 => s.rngRetire r
  | 4 => s.rngDisable r
  | _ => s

/-- Metadata lines of range `r` in channel `ch`: its counter blocks and tree nodes. -/
def State.rngMeta (s : State) (r ch j : Nat) : Bool :=
  let c0 := s.ctrLine ch (s.rngPage0 r)
  let t0 := s.fld (Fld.OBS_RNG_TREE_TREEBASE r)
  (c0 ≤ j && j < c0 + s.rngPages r) || (t0 ≤ j && j < t0 + treeNodes (s.rngPages r))

/-- The hashes and cached blocks of range `r` are given up. -/
def State.rngTreeDrop (s : State) (r : Nat) : State :=
  { s with
    otree := SMap.dropIf s.otree fun a => a / 2 ^ 39 = r
    ocache := s.ocache.filter fun e => e.2.range ≠ r }

/-- Steps 3 and 4 of R473: counters zeroed, the tree key drawn, every node and root as computed from these (`freshHash`), MAXMAJOR 0;
nothing of the range is broken. -/
def State.rngFresh (s : State) (r : Nat) : State :=
  let p0 := s.rngPage0 r
  let n := s.rngPages r
  { s.rngTreeDrop r with
    ctr := SMap.dropIf s.ctr fun a => p0 ≤ a / 8 && a / 8 < p0 + n
    metaErr := SMap.dropIf s.metaErr fun a => s.rngMeta r (a / 2 ^ 32) (a % 2 ^ 32)
    broken := s.broken.filter fun b => b.range ≠ r
    treeKey := SMap.put 0 s.treeKey r (Config.freeW256 s.free)
    maxMajor := SMap.put 0 s.maxMajor r 0
    free := s.free + 1 }

/-- A flush transaction of the range is under way. -/
def State.rngFlushing (s : State) (r : Nat) : Bool :=
  s.homes.any fun h => h.2.txns.any fun t => (match t.kind with
    | .flush _ => true
    | _ => false) && s.rngCovers r t.line

/-- RANGE_OPERATION_DONE: once its flush has ended, INIT, RETIRE or DISABLE ends in its state and raises OPDONE. -/
def State.rngDone (s : State) (r : Nat) : State :=
  match SMap.find s.rangeFlush r with
  | none => s
  | some f =>
    let (s, todo) := s.flushLines f.discard f.todo
    if todo ≠ [] ∨ s.rngFlushing r then { s with rangeFlush := SMap.set s.rangeFlush r { f with todo := todo } }
    else
      let st := s.rngState r
      let s : State := { s with rangeFlush := SMap.drop s.rangeFlush r }
      let s := if st = 5 then
          let s : State := { s.rngTreeDrop r with
            broken := s.broken.filter (fun b => b.range ≠ r)
            treeKey := SMap.drop s.treeKey r
            maxMajor := SMap.drop s.maxMajor r }
          (s.setFld (Fld.OBS_RNG_STAT_STATE r) 0).setFld (Fld.OBS_RNG_TREE_TREEBASE r) 0
        else
          let s := if st = 4 then s.setFld (Fld.OBS_RNG_KEYS_KEY r) (s.fld (Fld.OBS_RNG_KEYS_NEXTKEY r)) else s
          (s.rngFresh r).setFld (Fld.OBS_RNG_STAT_STATE r) 2
      s.raise Fld.OBS_IRQ_STATUS_OPDONE

/-- REKEY_BLOCK_DONE: the boundary block is under NEXTKEY, and the last block ends the sweep (R476). -/
def State.rekeyBlock (s : State) (r : Nat) : State :=
  if s.rngState r ≠ 3 then s
  else
    let b := s.fld (Fld.OBS_RNG_STAT_BOUNDARY r)
    let key := s.slotKey (s.fld (Fld.OBS_RNG_KEYS_KEY r))
    let next := s.slotKey (s.fld (Fld.OBS_RNG_KEYS_NEXTKEY r))
    let p := s.rngPage0 r + b
    let s := (List.range 8).foldl (fun (t : State) ch =>
      let t := t.verifyPath r ch p
      if t.phase = .halted then t else t.reencrypt r ch p next key 0) s
    if s.phase = .halted ∨ s.rngState r ≠ 3 then s
    else if b + 1 < s.rngPages r then s.setFld (Fld.OBS_RNG_STAT_BOUNDARY r) (b + 1)
    else
      let s : State := { s with maxMajor := SMap.put 0 s.maxMajor r 0 }
      let s := (s.setFld (Fld.OBS_RNG_KEYS_KEY r) (s.fld (Fld.OBS_RNG_KEYS_NEXTKEY r))).setFld (Fld.OBS_RNG_STAT_BOUNDARY r) 0
      (s.setFld (Fld.OBS_RNG_STAT_STATE r) 2).raise Fld.OBS_IRQ_STATUS_OPDONE

/-! ## Records and key slots (R460, R461, R472) -/

/-- A write to OBS_RNGr_BASE, SIZE or KEYS: fields fixed in the range's state keep their values. A write of a register whose every field
is fixed sets REFUSED; one of KEYS, which must carry CLASS and KEY to write NEXTKEY, sets it where it would change a fixed field
(DEDUCED, assumption 71). -/
def State.rngRecord (s : State) (r addr : Nat) (v mask : Word) : State :=
  let old := s.reg addr
  let st := s.rngState r
  let keys := addr = Reg.OBS_RNG_KEYS r
  let fixed : Word := (if st ≠ 0 then (if keys then 0x8000003F#32 else 0xFFFFFFFF#32) else 0)
    ||| (if keys ∧ (st = 3 ∨ st = 4) then 0x00003F00#32 else 0)
  let want := v &&& mask
  let now := (want &&& ~~~fixed) ||| (old &&& fixed)
  let s := s.setReg addr now
  let whole := st ≠ 0 ∧ (¬keys ∨ st = 3 ∨ st = 4)
  if whole ∨ (want ^^^ old) &&& fixed ≠ 0 then s.rngRefuse r else s

/-- The key that OBS_KEYDATA0 to 7 hold. -/
def State.keyData (s : State) : W256 :=
  BitVec.ofNat 256 ((List.range 8).foldl (fun n w => n + (s.reg (Reg.OBS_KEYDATA w)).toNat * 2 ^ (32 * w)) 0)

/-- A write to OBS_KEYk_CTRL: GEN, LOAD or ZERO by an owner. LOAD is available only over a path where K is granted, and is refused
elsewhere (R460); one that is performed clears the key words. -/
def State.keyCtrl (s : State) (path : Path) (k : Nat) (v : Word) (owner : Word) : State :=
  let cls := bits v 29 29
  match bits v 31 30 with
  | 1 => s.keyGen k cls owner
  | 2 =>
    if ¬s.kAvail path then s.keyRefuse
    else
    let refused := s.keyLoaded k || s.reg (Reg.OBS_KEY_OWNER k) = revokingId
    let s := s.keyLoad k cls owner s.keyData
    if refused then s else (List.range 8).foldl (fun (t : State) w => t.setReg (Reg.OBS_KEYDATA w) 0) s
  | 3 => s.keyZero k owner
  | _ => s

end Sys2Proof.Machine
end

