-- ==== Sys2Proof/Machine/Serve.lean ====
section
/-! DEFINITION. What endpoints do with delivered packets, responses and timeouts (R265, R311, R320, R342, R343, R353, R354, R362,
R372, R374, R387, R454), the end of a revocation (R76, R80) and the reset of a Slate die (R684). -/

namespace Sys2Proof.Machine

/-! ## Delivery to user logic (R353, R354) -/

/-- The region of a user port's sector enters FAULTED because a poisoned flit met its trap. -/
def State.trapped (s : State) (e : Ep) (p : Packet) : Bool :=
  natBit (s.upRec e.die.toNat e.x.toNat e.y.toNat e.p.toNat) 7 && s.feature 12 && anyPoison p.data

/-- A packet reaches user logic, or its poison trap discards it; a request then waits for its answer (R340). `pooled` says that its flits
hold slots of the response pool until user logic takes them (R336). -/
def State.userDeliver (s : State) (e : Ep) (pooled : Bool) (p : Packet) : State :=
  if s.trapped e p then
    match s.portRegion e with
    | some r => s.regionFault r
    | none => s
  else
    let s := s.presentTo e pooled p
    if p.cls = 0 then { s with unanswered := s.unanswered ++ [{ ep := e, pkt := p }] } else s

/-! ## Requests, snoops and acknowledgements -/

/-- An endpoint answers with a status. -/
def State.replyErr (s : State) (n : Nat) (x : Delivered) (st : Nat) : State :=
  if x.pkt.cls = 0 then (s.take n).send x.ep (rspErr x.pkt st) else s.take n

/-- A home agent serves delivered packet `n`. -/
def State.homeServe (s : State) (h n : Nat) (x : Delivered) : State :=
  let c := x.pkt.cmd.toNat
  if c = 0x33 then s.serveAck h n x.pkt
  else if c = 0x34 then s.serveVlost h n x.pkt
  else if c = 8 ∨ c = 9 ∨ coherentCmd c then s.serveHome h n x
  else s.replyErr n x 2

/-- A vein slice serves delivered packet `n`. -/
def State.sliceServe (s : State) (n : Nat) (x : Delivered) : State :=
  if x.pkt.cls = 2 then s.serveSnoop x.ep.die.toNat x.ep.router n x else s.serveSlice x.ep.die.toNat x.ep.router n x

/-- A user fabric port presents responses first (R352). -/
def State.responseWaits (s : State) (e : Ep) : Bool := s.inbox.any fun d => d.ep = e && d.pkt.cls = 1

/-- Delivered packet `n`, if it carries command `cmd`, is served by its endpoint. Mica controllers and DDR5 channels take their
requests from home agents only (R362, R454), which the model performs in the home agent's own step. -/
def State.serve (s : State) (n cmd : Nat) : State :=
  match s.delivered n cmd with
  | none => s
  | some x =>
    match portKind x.ep with
    | .home h => s.homeServe h n x
    | .vein => s.sliceServe n x
    | .group => s.groupServe n x
    | .user => if s.responseWaits x.ep ∨ ¬s.userClock x.ep then s else (s.take n).userDeliver x.ep false x.pkt
    | _ => s.replyErr n x 2

/-! ## Responses and timeouts (R342, R343) -/

/-- The response of a tracked request goes to what asked; `pooled` says that it has the request's slots of the response pool. -/
def State.settle (s : State) (e : Ep) (why : Purpose) (pooled : Bool) (r : Packet) : State :=
  match why with
  | .user => (s.userDeliver e pooled r).releaseFence e
  | .engine k => { s with engRsp := s.engRsp ++ [(k, r)] }
  | .window id =>
    match portKind e with
    | .pcie port => s.winResponse port id r
    | _ => s
  | .dma q num u => s.dmaAnswer q num u r
  | .debug => s.emit (.deliver e r)

/-- An entry or slots of the port at `e` have been freed: what waited for them goes on (R270, R341). -/
def State.roomFreed (s : State) (e : Ep) : State :=
  let s := s.routerPump e
  match portKind e with
  | .pcie _ => s.winPump pumpLimit
  | _ => s

/-- A response at a port with a tag table: matched to its live entry, or discarded and counted in LATE. -/
def State.portResponse (s : State) (n : Nat) (x : Delivered) : State :=
  let s := s.take n
  match s.liveEntry x.ep x.pkt.tag with
  | none => s.late x.ep x.pkt
  | some i =>
    match s.tags[i]? with
    | none => s
    | some t => ({ s with tags := listDropAt s.tags i }.settle x.ep t.purpose true x.pkt).roomFreed x.ep

/-- RSP_DATA, RSP_ACK and RSP_ERR: delivered response `n`, if it carries command `cmd`. User logic takes what it is given at edges of
its port's clock (R349, R352). -/
def State.response (s : State) (n cmd : Nat) : State :=
  match s.delivered n cmd with
  | none => s
  | some x =>
    match portKind x.ep with
    | .home h => s.snoopAnswer h n x.pkt
    | .vein => s.sliceResponse x.ep.die.toNat x.ep.router n x
    | .user => if s.userClock x.ep then s.portResponse n x else s
    | _ => s.portResponse n x

/-- REQUEST_TIMEOUT: a live entry without a response delivers RSP_ERR TIMEOUT, gives its slots back and expires (R342). A response
that has arrived wins (R343). -/
def State.requestTimeout (s : State) (e : Ep) (tag : BitVec 12) : State :=
  match s.liveEntry e tag with
  | none => s
  | some i =>
    match s.tags[i]? with
    | none => s
    | some t =>
      if ¬t.timed ∨ s.inbox.any (fun d => d.ep = e && d.pkt.cls = 1 && d.pkt.tag = tag) then s
      else
        let r := mkPacket 0x42 1 0 e t.dst tag t.addr 5 0 0 []
        let u : State := { s with tags := s.tags.set i { t with live := false, slots := 0 } }
        let q := mkPacket t.cmd.toNat 0 0 t.dst e tag t.addr 0 0 0 []
        ((u.rtrEvent e Fld.RTR_ERRCNT1_TIMEOUTS Fld.RTR_IRQ_STATUS_TIMEOUT 4 q).settle e t.purpose false r).roomFreed e

/-- EXPIRED_ENTRY_FREE: what waited for an entry goes on (R341, R342). -/
def State.expiredFree (s : State) (e : Ep) (tag : BitVec 12) : State :=
  { s with tags := s.tags.filter fun t => !(t.ep = e && t.tag = tag && !t.live) }.roomFreed e

/-! ## The end of a revocation (R76, R80) -/

/-- The effect of R76 on one resource of a revoked owner. -/
def State.leaseFreed (s : State) (l : Lease) : State :=
  match l with
  | .sem k => if s.reg (Reg.FLN_SEM k) = revokingId then s.setReg (Reg.FLN_SEM k) 0 else s
  | .pair q => s.pairRevoked q
  | .cfgLock =>
    let s := s.endStream 25 0
    if s.reg Reg.CFG_LOCK = revokingId then s.setReg Reg.CFG_LOCK 0 else s
  | .probe d => s.probeRevoke d
  | .key k => if s.reg (Reg.OBS_KEY_OWNER k) = revokingId then s.setReg (Reg.OBS_KEY_OWNER k) 0 else s
  | .filter k => s.filterRevoke k
  | .resv _ _ _ _ => s

/-- Flint may complete a revocation: the resources are quiet, and one that began before Flint's latest restart is the oldest (R80). -/
def State.mayComplete (s : State) (r : Revocation) : Bool :=
  s.flintUp && r.held.all (fun l => s.leaseQuiet r.owner l) && (!r.restarted || (s.revs.head?.map fun x => x.owner) = some r.owner)

/-- REVOCATION_COMPLETE: Flint has done what R76 asks for every resource of an owner and reports it (R80). -/
def State.revocationDone (s : State) (w : Word) : State :=
  match s.revs.find? (fun r => r.owner = w) with
  | none => s
  | some r =>
    if ¬s.mayComplete r then s
    else
      let s := r.held.foldl (fun (t : State) l => t.leaseFreed l) s
      let s : State := { s with revs := s.revs.filter fun x => x.owner ≠ w }
      let s := if s.revs = [] then s.setFld Fld.FLN_LEASE_STAT_BUSY 0 else s
      (s.leaseReport w).portsPump

/-! ## The reset of a Slate die (R79, R391, R684) -/

/-- Every register of the blocks that `p` chooses, with its buffered writes, locks and arms (R53, R66, R70). -/
def State.resetWhere (s : State) (p : BlockAt → Bool) : State :=
  let here := fun (a : Nat) => match blockAt a with
    | some b => p b
    | none => false
  { s with
    regs := SMap.dropIf s.regs here
    shadow := SMap.dropIf s.shadow here
    locks := s.locks.filter fun b => !here b
    arms := s.arms.filter fun b => !here b.block }

/-- A block in domain 5 or 8 of Slate die `d`: RTR, VEN, SPL, SEP. -/
def ringBlock (d : Nat) (b : BlockAt) : Bool :=
  b.desc.slate && b.die = d && (b.desc.blk = .rtr || b.desc.blk = .ven || b.desc.blk = .spl || b.desc.blk = .sep)

/-- The place lies on Slate die `d`. -/
def Loc.onDie (l : Loc) (d : Nat) : Bool :=
  match l with
  | .router n _ _ _ => n = d
  | .edge n _ => n = d
  | .edgeIn b => b / 16 = d
  | _ => false

/-- Bundles of a die, by logical number. -/
def bundlesOf (d : Nat) : List (Fin 64) := (List.finRange 64).filter fun i => i.val / 16 = d

/-- The bundles of a die drop: each trains again, or is untrained (R409, R405), and gives its packets back (R412). -/
def State.dropBundles (s : State) (d : Nat) : State :=
  let s := (bundlesOf d).foldl (fun (t : State) i => t.dropBundle i) s
  (bundlesOf d).foldl (fun (t : State) i => t.unuse i) s

/-- The link-layer state of a die's bundles is cleared (R409); the die holds no map (R410), and its strip registers are 0 (R430). -/
def State.clearBundles (s : State) (d : Nat) : State :=
  let s := (bundlesOf d).foldl (fun (t : State) i =>
    let t := t.clearLink (.bundle i)
    t.setLink (.bundle i) { t.link (.bundle i) with mapSet := none }) s
  { s with strips := SMap.dropIf s.strips fun i => i / 16 = d }

/-- What a die held in the ring network, its tag tables and its slices is lost. -/
def State.forgetDie (s : State) (d : Nat) : State :=
  let mine := fun (e : Ep) => e.die.toNat = d && s.localEp e
  { s with
    net := s.net.filter fun f => !f.loc.onDie d
    inbox := s.inbox.filter fun x => !mine x.ep
    tags := s.tags.filter fun t => !mine t.ep
    unanswered := s.unanswered.filter fun x => !mine x.ep
    fences := s.fences.filter fun x => !mine x.ep
    drains := s.drains.filter fun e => !mine e
    waking := s.waking.filter fun e => !mine e
    wakeFail := s.wakeFail.filter fun e => !mine e
    uports := SMap.dropIf s.uports fun k => k / 256 = d
    slices := SMap.dropIf s.slices fun k => k / 64 = d
    minbox := s.minbox.filter fun m => match m.at_.link with
      | .bundle i => !(m.at_.leaf && i.val / 16 = d)
      | _ => true }

/-- Owners on a die: regions with a sector on it, and its ring endpoints that hold leases (R77, R79). R79 does not say whether an endpoint
of the die that holds no lease is declared: it is not, so that no revocation of it is reported (DESIGN CHOICE, assumption 67). -/
def State.ownersOn (s : State) (d : Nat) : List Word :=
  ((List.range 256).filter fun r => s.regState r ≠ 0 && (s.regSectors r) / 2 ^ (16 * d) % 2 ^ 16 ≠ 0).map (ownerId 4 s.odx s.ody)
    ++ (((leaseOwnerRegs.map s.reg) ++ (s.regs.filterMap fun e => match blockAt e.1 with
          | some b => if b.desc.blk = .rtr ∧ b.die = d ∧ 0x100 ≤ b.off ∧ b.off < 0x11C ∧ bits e.2 24 16 ≠ 0 then
              some (s.portOwner (s.mkEp b.die (b.inst % 8) (b.inst / 8) ((b.off - 0x100) / 4))) else none
          | none => none)).filter fun w =>
        ownerKind w = 6 && ownerIndex w / 1024 = d && bits w 27 21 = s.odx && bits w 20 14 = s.ody).eraseDups

/-- Ports of frozen regions on a die are under fence again: their regions keep their state. -/
def State.refence (s : State) (d : Nat) : State :=
  ((List.range 256).filter fun r => s.regFrozen r).foldl (fun (t : State) r =>
    (t.regPorts r).foldl (fun (u : State) e =>
      if e.die.toNat = d then u.setFld (Fld.RTR_PORT_FENCED d e.router e.p.toNat) 1 else u) t) s

/-- The spines of a die shut with their registers (R684). -/
def State.shutSpines (s : State) (d : Nat) : State := { s with spines := SMap.dropIf s.spines fun k => k / 16 = d }

/-- A reset of Slate die `d` (R684). -/
def State.dieReset (s : State) (d : Nat) : State :=
  let owners := s.ownersOn d
  let s := s.dropBundles d
  let s := (((s.forgetDie d).clearBundles d).resetWhere (ringBlock d)).shutSpines d
  let s := s.refence d
  let s := s.homesDieDown d
  owners.foldl (fun (t : State) w => t.declare w) s

/-- DIE_RESET: Flint resets a Slate die (R392, R684). -/
def State.flintDieReset (s : State) (d : Nat) : State := if s.dieOk d ∧ s.flintUp then s.dieReset d else s

/-- SNOOP_TIMEOUT of a snoop of home agent `h` to die `d`: KIND 1 is recorded and Flint resets the die (R392). -/
def State.snoopTimeout (s : State) (h d : Nat) (tag : BitVec 12) : State :=
  match s.snoopTxn h d tag with
  | none => s
  | some t => (s.haLog h 1 d t.line).flintDieReset d

end Sys2Proof.Machine
end

