-- ==== Sys2Proof/Machine/Access.lean ====
section
/-! DEFINITION. Register accesses on every path: bus errors, wake and fence, guards, what a write does to each register and what
a read returns (R39, R50 to R74, R82, R83, and the register tables of every chapter). -/

namespace Sys2Proof.Machine

/-! ## Answers (R61, R62) -/

/-- How an access ends: the value read (0 for a write), a bus error of a KIND, DENIED or CONFLICT for a ring master, or a wait
for a power domain. -/
inductive Ans where
  | ok (v : Word)
  | bus (kind : Nat)
  | denied
  | conflict
  | held (domain : Nat)
  deriving DecidableEq, Repr

/-! ## What an address meets (R61, R67) -/

/-- The power domains that the registers of a block need, each with the policy that applies while it is off: true is fence. -/
def State.blockDomains (s : State) (b : BlockAt) : List (Nat × Bool) :=
  let d := b.die
  let i := b.inst
  let pol := s.bit (Fld.RTR_PORT_POLICY d 0 9)
  let whole := natBit (s.fld Fld.HRG_DIEPOL_FENCE) d
  let die := [(slateDom d 5, whole), (slateDom d 8, whole)]
  match b.desc.blk with
  | .slt => die
  | .spl => die
  | .rtr => die
  | .ven => die
  | .sep => die
  | .xcv => die ++ [(slateDom d 7, pol)]
  | .uio => die ++ [(slateDom d 6, pol)]
  | .sec => die ++ [(slateDom d (s.physX d 4 (i % 4) / 2 + 2 * (i / 8)), pol)]
  | .seg => die ++ [(slateDom d 4, pol)]
  | .mca => die ++ [(slateDom d 9, pol)]
  | .pci => [(5 + i, s.portFencePolicy (s.mkEp 4 (4 * i) 7 0))]
  | .ddr => [((if i < 4 then 7 else 8), s.portFencePolicy (s.mkEp 4 i 3 0))]
  | .lod => if b.off = 0xF00 then [] else [(10 + i, s.portFencePolicy (s.mkEp 4 0 7 (1 + i)))]
  | .hrg => [(2, false)]
  | .str => [(4, false)]
  | .obs => [(9, false)]
  | _ => []

/-- The first domain of a block that is off, with its policy; a draining domain still serves. -/
def State.blockOff (s : State) (b : BlockAt) : Option (Nat × Bool) :=
  (s.blockDomains b).find? fun x => !(s.domOn x.1 || s.fld (Fld.PWR_DOM_STATE x.1) = 3)

/-- What a halted device answers over the management port (R679), and one in END (R617). -/
def State.dark (s : State) (path : Path) (addr : Nat) (write : Bool) : Bool :=
  match s.phase with
  | .halted => path ≠ .mgmt || write
      || !([Reg.PWR_HALT_A, Reg.PWR_HALT_B, Reg.PWR_RAILLOG, Reg.PWR_SUPPLY, Reg.CLK_LOSS, Reg.LCS_STATUS].contains addr)
  | _ => decide (s.lcState = 4) && (path ≠ .mgmt || write || addr / 0x10000 ≠ 6)

/-- The block and register that an access reaches, or how it ends before any guard is asked (R54, R55, R61, R67). A Slate die that its
strap holds in reset (R33) still answers between step 4, which powers it, and step 5, which excludes it: the spec does not say
(DESIGN CHOICE, assumption 58). -/
def State.reach (s : State) (path : Path) (addr : Nat) (shapeOk write : Bool) : (BlockAt × RegSel) ⊕ Ans :=
  let pcie : Bool := match path with
    | .pcie _ => true
    | _ => false
  if s.dark path addr write then .inr (.bus 0)
  else if pcie ∧ ¬s.handed then .inr (.bus 5)
  else if ¬shapeOk ∨ addr % 4 ≠ 0 then .inr (.bus 3)
  else
    let win := addr / 0x1000000
    if 1 ≤ win ∧ win ≤ 4 ∧ ¬s.dieOk (win - 1) then .inr (.bus 1)
    else
      match regSel addr with
      | none => .inr (.bus 0)
      | some (b, r) =>
        match s.blockOff b with
        | some (_, true) => .inr (.bus 4)
        | some (d, false) => .inr (.held d)
        | none => .inl (b, r)

/-- The register controls a feature that is off (R39): it reads as zero and ignores writes. -/
def State.featureOff (s : State) (b : BlockAt) : Bool :=
  match b.desc.blk with
  | .str => (decide (0x2000 ≤ b.off ∧ b.off < 0x2080) && !s.feature 8)
      || (decide ((0x3000 ≤ b.off ∧ b.off < 0x3200) ∨ 0x40000 ≤ b.off) && !s.feature 15)
  | .cfg => decide ((0x4000 ≤ b.off ∧ b.off < 0x8000) ∨ (0x8000 ≤ b.off ∧ b.off < 0x8040)) && !s.feature 11
  | .ven => decide (b.off = 0 ∨ b.off = 0x10) && !s.feature 13
  | .spl => decide (0x180 ≤ b.off ∧ b.off < 0x1C0) && !s.feature 8
  | _ => false

/-! ## Guards (R70 to R74) -/

/-- A write would change an L field (R70). -/
def State.changesL (s : State) (r : RegDesc) (addr : Nat) (v : Word) : Bool :=
  let cur := s.current r addr
  r.fields.any fun f => f.guard = .lock &&
    (if f.acc = .wo then bits v f.hi f.lo ≠ 0 else bits v f.hi f.lo ≠ bits cur f.hi f.lo)

/-- The register holds a K field (R72). -/
def RegDesc.keyed (r : RegDesc) : Bool := r.fields.any fun f => f.guard = .key

/-- The block's guard is armed for a path. -/
def State.armedFor (s : State) (base : Nat) (path : Path) : Bool := s.arms.contains { block := base, path := path }

/-- The block's guard is no longer armed. -/
def State.disarm (s : State) (base : Nat) : State := { s with arms := s.arms.filter fun a => a.block ≠ base }

/-- `<BLK>_UNLOCK` is written (R72, R73). -/
def State.unlockWrite (s : State) (base : Nat) (path : Path) (v : Word) : State × Ans :=
  let t := s.disarm base
  if v = 0xA5C30F17#32 ∧ s.kAvail path then ({ t with arms := t.arms ++ [{ block := base, path := path }] }, .ok 0)
  else (t, .bus 2)

/-- A written word in the form in which the register keeps it: UIO_PAD keeps PULL XORed with the strap pull (R565, R667). -/
def State.kept (s : State) (b : BlockAt) (v : Word) : Word :=
  if b.desc.blk = .uio ∧ b.off < 0x900 then setBits v 28 27 (bits v 28 27 ^^^ s.strapPull) else v

/-! ## Writes to single registers -/

/-- A write to RTR_PORT (R337, R356); a lower RESV leaves more of the pool to the ports whose commands wait (R336). -/
def State.rtrPortWrite (s : State) (r : RegDesc) (b : BlockAt) (addr : Nat) (v : Word) : State :=
  let p := (b.off - 0x100) / 4
  let at_ := fun (q : Nat) => addr - 4 * p + 4 * q
  let resv := fun (q : Nat) => bits (s.current r (at_ q)) 24 16
  if p < 7 then
    let others := ((List.range 7).filter fun q => q ≠ p).foldl (fun n q => n + resv q) 0
    if 512 < others + bits v 24 16 then
      (s.setFld (Fld.RTR_POOL_RESV_REFUSED b.die b.inst) 1).plainWrite r addr (setBits v 24 16 (resv p))
    else (s.plainWrite r addr v).portsPump
  else s.plainWrite r addr (setBits v 24 16 0)

/-- A write to STR_BPk_CTRL: ROLE changes only while EN is 0 (R434). -/
def State.bpCtrlWrite (s : State) (r : RegDesc) (k : Fin 8) (addr : Nat) (v : Word) : State :=
  let was := s.bit (Fld.STR_BP_CTRL_EN k.val)
  let v := if was then setBits v 30 30 (s.fld (Fld.STR_BP_CTRL_ROLE k.val)) else v
  (s.plainWrite r addr v).bridgeEnable k was

/-- A write to STR_BPk_CAPCTRL (R440). -/
def State.capCtrlWrite (s : State) (r : RegDesc) (k : Fin 8) (addr : Nat) (v : Word) : State :=
  let t := (s.plainWrite r addr v).captureArm k v
  if natBit v.toNat 28 then t.sendTrig k else t

/-- A write to an MSI-X table entry: a vector that is unmasked while pending is sent (R511). -/
def State.msixWrite (s : State) (r : RegDesc) (b : BlockAt) (addr : Nat) (v : Word) : State :=
  let port := decide (b.inst = 1)
  let n := (b.off - 0x8000) / 16
  let t := s.plainWrite r addr v
  let pba := pbaAddr port (n / 32)
  if (s.pcieCfg port).msix ∧ b.off % 16 = 12 ∧ bits v 0 0 = 0 ∧ natBit (t.reg pba).toNat (n % 32) then
    (t.setReg pba (t.reg pba &&& ~~~(BitVec.ofNat 32 (2 ^ (n % 32))))).emit (.msix port n)
  else t

/-- A write to a register of the FLN block (R78, R79). -/
def State.writeFln (s : State) (r : RegDesc) (b : BlockAt) (addr : Nat) (v who : Word) : State :=
  if b.off = 0x14 then s.revokeWrite v
  else if 0x200 ≤ b.off ∧ b.off < 0x300 then s.leaseOp (Reg.FLN_SEM ((b.off - 0x200) / 4)) (natBit v.toNat 0) who
  else s.plainWrite r addr v

/-- A write to a register of the SEG block (R258, R269, R272); the engines of a disabled group hold their reset state (R227). -/
def State.writeSeg (s : State) (r : RegDesc) (b : BlockAt) (addr : Nat) (v : Word) : State :=
  let e := (b.off - 0x100) / 0x80
  let eng : EngRef := { die := ⟨b.die % 4, Nat.mod_lt _ (by decide)⟩, grp := ⟨b.inst % 192, Nat.mod_lt _ (by decide)⟩,
                        eng := ⟨e % 12, Nat.mod_lt _ (by decide)⟩ }
  if b.off = 0x10 then (if natBit v.toNat 31 then s.setReg addr 0 else s)
  else if b.off < 0x100 then s.plainWrite r addr v
  else if (b.off - 0x100) % 0x80 = 0 then s.ectl eng v
  else if (b.off - 0x100) % 0x80 = 0xC then (if s.groupEnabled b.die b.inst then s.ring eng.key v else s)
  else s

/-- A write to a register of the MCA block (R187, R205, R211). -/
def State.writeMca (s : State) (r : RegDesc) (b : BlockAt) (addr : Nat) (v : Word) : State :=
  if b.off = 0x20 then (if natBit v.toNat 31 then s.eraseStart b.die (bits v 7 0) else s)
  else if 0x100 ≤ b.off then (if b.off % 8 = 0 ∧ natBit v.toNat 31 then s.logClear b.die ((b.off - 0x100) / 8) else s)
  else if 0x40 ≤ b.off ∧ b.off < 0x58 then
    let w := (b.off - 0x40) / 4
    (s.plainWrite r addr v).exportApply b.die w (s.exportMask b.die w none)
  else s.plainWrite r addr v

/-- A write to a register of the STR block (R434, R440, R442). -/
def State.writeStr (s : State) (r : RegDesc) (b : BlockAt) (addr : Nat) (v : Word) : State :=
  let k : Fin 8 := ⟨(b.off - 0x3000) / 64 % 8, Nat.mod_lt _ (by decide)⟩
  if 0x3000 ≤ b.off ∧ b.off < 0x3200 ∧ b.off % 64 = 0 then s.bpCtrlWrite r k addr v
  else if 0x3000 ≤ b.off ∧ b.off < 0x3200 ∧ b.off % 64 = 0x20 then s.capCtrlWrite r k addr v
  else s.plainWrite r addr v

/-- A write to a register of the OBS block (R460, R472, R482). -/
def State.writeObs (s : State) (r : RegDesc) (b : BlockAt) (addr : Nat) (v who : Word) (path : Path) : State :=
  let n := (b.off - 0x2000) / 32
  if 0x100 ≤ b.off ∧ b.off < 0x120 then s.setReg addr v
  else if 0x1000 ≤ b.off ∧ b.off < 0x1200 ∧ b.off % 8 = 0 then s.keyCtrl path ((b.off - 0x1000) / 8) v who
  else if b.off < 0x2000 then s.plainWrite r addr v
  else
    match b.off % 32 with
    | 0 => s.rngRecord n addr v 0x0FFFFFFF#32
    | 4 => s.rngRecord n addr v 0x003FFFFF#32
    | 8 => s.rngRecord n addr v 0x80003F3F#32
    | 16 => s.rngCmd n (bits v 2 0)
    | _ => s.plainWrite r addr v

/-- A write to a probe register of die `d`: only the lease's owner writes (R578). -/
def State.writeProbe (s : State) (r : RegDesc) (b : BlockAt) (addr : Nat) (v who : Word) : State :=
  let d := (b.off - 0x4000) / 0x1000
  let o := b.off % 0x1000
  if o = 0xC then s.probeOwnerOp d (natBit v.toNat 0) who
  else if ¬s.probeMay d who then s
  else if o = 0 then s.probeCtrl d v
  else if 0x400 ≤ o then s.probeSel d ((o - 0x400) / 4) v
  else s.plainWrite r addr v

/-- A write to a register of the CFG block (R555 to R558, R578 to R582). -/
def State.writeCfg (s : State) (r : RegDesc) (b : BlockAt) (addr : Nat) (v who : Word) (path : Path) : State :=
  if b.off = 8 then s.leaseOp Reg.CFG_LOCK (natBit v.toNat 0) who
  else if b.off = 0xC then s.cfgCmd path v
  else if b.off = 0x18 then s.cfgDataWrite path v
  else if b.off = 0x48 then s.lqCtrl v
  else if b.off = 0x4C then s.lqTail v
  else if 0x4000 ≤ b.off ∧ b.off < 0x8000 then s.writeProbe r b addr v who
  else if 0x8000 ≤ b.off then s.ppinWrite ((b.off - 0x8000) / 4) v who
  else s.plainWrite r addr v

/-- A write to a register of the LCS block (R618 to R621, R629, R634, R635). -/
def State.writeLcs (s : State) (r : RegDesc) (b : BlockAt) (addr : Nat) (v : Word) : State :=
  if b.off = 0x20 then s.lcCommand (bits v 3 0)
  else if b.off = 0x40 then (if natBit v.toNat 31 then s.attGo else s)
  else if 0x100 ≤ b.off ∧ b.off < 0x138 then
    { s with lcs := { s.lcs with fuseData := SMap.put 0 s.lcs.fuseData ((b.off - 0x100) / 4) v } }
  else if b.off = 0x140 then s.fuseCommand (bits v 1 0)
  else if b.off = 0x154 then s.patchData v
  else if b.off = 0x158 then (if natBit v.toNat 31 then s.patchGo else s)
  else if 0x4000 ≤ b.off ∧ b.off < 0x5000 then
    { s with lcs := { s.lcs with tokA := SMap.put 0 s.lcs.tokA ((b.off - 0x4000) / 4) v } }
  else if 0x5000 ≤ b.off ∧ b.off < 0x6000 then
    { s with lcs := { s.lcs with tokB := SMap.put 0 s.lcs.tokB ((b.off - 0x5000) / 4) v } }
  else s.plainWrite r addr v

/-- A write to a register of the PIN block (R639 to R651); the answer says whether a claim was refused. -/
def State.writePin (s : State) (r : RegDesc) (b : BlockAt) (addr : Nat) (v who : Word) : State × Bool :=
  let o := b.off
  if o < 0x100 then
    let (t, ok) := s.pinClaim (o / 4) v who
    (t, !ok)
  else if 0x110 ≤ o ∧ o < 0x120 then (s.gpioWrite ((o - 0x110) / 4) v, false)
  else if 0x120 ≤ o ∧ o < 0x130 then (s.gpioWrite (4 + (o - 0x120) / 4) v, false)
  else if 0x200 ≤ o ∧ o < 0x240 ∧ o % 16 = 0 then (s.ftWrite ((o - 0x200) / 16) v who, false)
  else if 0x200 ≤ o ∧ o < 0x240 ∧ o % 16 = 8 then (s.leaseOp (Reg.PIN_FT_OWNER ((o - 0x200) / 16)) (natBit v.toNat 0) who, false)
  else if 0x400 ≤ o ∧ o < 0x440 ∧ o % 32 = 4 then (s.uartPush ((o - 0x400) / 32) v, false)
  else if 0x500 ≤ o ∧ o < 0x540 ∧ o % 32 = 4 then (s.i2cCmd ((o - 0x500) / 32) v, false)
  else (s.plainWrite r addr v, false)

/-- A write to a register of the SPL block (R147, R154, R178). -/
def State.writeSpl (s : State) (r : RegDesc) (b : BlockAt) (addr : Nat) (v : Word) : State :=
  if b.off < 0x100 ∧ b.off % 32 ≠ 12 then s.pllWrite r addr b.die (b.off / 32) v
  else if 0x100 ≤ b.off ∧ b.off < 0x140 then s.spineWrite addr b.die ((b.off - 0x100) / 4) v
  else s.plainWrite r addr v

/-- A write to a register of the QUE block (R494, R495). -/
def State.writeQue (s : State) (r : RegDesc) (b : BlockAt) (addr : Nat) (v : Word) : State :=
  let q := b.off / 32
  if 0x2000 ≤ b.off then s.plainWrite r addr v
  else if b.off % 32 < 0x18 then s.queBase q addr v
  else if b.off % 32 = 0x18 then s.queCtrl q v
  else s

/-- A write to a register of the SEC block: a tree, SEC_RCLK_RST, or the read-only SEC_FABRIC (R117, R161, R168). -/
def State.writeSec (s : State) (r : RegDesc) (b : BlockAt) (addr : Nat) (v : Word) : State :=
  if b.off < 0x60 then s.treeWrite r addr b.die b.inst (b.off / 4) v
  else if b.off = 0x60 then s.treesReset b.die b.inst (bits v 23 0)
  else s

/-- What an accepted write does to the register it names; the answer says whether a pin claim was refused. -/
def State.doWrite (s : State) (path : Path) (b : BlockAt) (r : RegDesc) (addr : Nat) (v : Word) : State × Bool :=
  let who := s.pathOwner path
  let lk : Fin 4 := ⟨b.inst % 4, Nat.mod_lt _ (by decide)⟩
  match b.desc.blk with
  | .fln => (s.writeFln r b addr v who, false)
  | .cfg => (s.writeCfg r b addr v who path, false)
  | .clk => (if b.off = 4 then s.clkCtrl v else s.plainWrite r addr v, false)
  | .pwr => (if b.off < 0x100 then s.domWrite (b.off / 4) v else s.plainWrite r addr v, false)
  | .lcs => (s.writeLcs r b addr v, false)
  | .pin => s.writePin r b addr v who
  | .que => (s.writeQue r b addr v, false)
  | .pci => (if 0x8000 ≤ b.off ∧ b.off < 0xA000 then s.msixWrite r b addr v else s.plainWrite r addr v, false)
  | .hrg =>
    let t := s.plainWrite r addr v
    (if b.off = 0x2C ∧ natBit v.toNat 31 then t.flushStart else t, false)
  | .str => (s.writeStr r b addr v, false)
  | .obs => (s.writeObs r b addr v who path, false)
  | .lod => (if b.off = 0xF00 then s.lodSys v else if b.off = 0 then s.lodCtrl lk v else s.plainWrite r addr v, false)
  | .spl => (s.writeSpl r b addr v, false)
  | .xcv => (if b.off = 0 then s.xcvCtrl b.die b.inst v else s.plainWrite r addr v, false)
  | .sec => (s.writeSec r b addr v, false)
  | .rtr => (if 0x100 ≤ b.off then s.rtrPortWrite r b addr v else s.plainWrite r addr v, false)
  | .seg => (s.writeSeg r b addr v, false)
  | .mca => (s.writeMca r b addr v, false)
  | .ven =>
    (if b.off = 0x10 then (if natBit v.toNat 31 then s.veinRewrite b.die (bits v 20 0) else s) else s.plainWrite r addr v, false)
  | .hub => (s.plainWrite r addr v, false)
  | .thm => (s.plainWrite r addr v, false)
  | .ddr => (s.plainWrite r addr v, false)
  | .slt => (s.plainWrite r addr v, false)
  | .uio => (s.plainWrite r addr v, false)
  | .sep => (s.plainWrite r addr v, false)

/-- Registers that the ring path may not write (R79, R82, R620, R634). -/
def ringBarred (addr : Nat) : Bool :=
  addr = Reg.FLN_REVOKE || addr = Reg.LCS_LC_CMD || addr = Reg.LCS_PATCH_DATA || addr = Reg.LCS_PATCH_CMD
    || decide (0x64000 ≤ addr ∧ addr < 0x66000)

/-- A path may not write an address. -/
def Path.barred (path : Path) (addr : Nat) : Bool :=
  match path with
  | .ring _ => ringBarred addr
  | _ => false

/-- A write that reaches its register: the guards, then the write (R70 to R74). -/
def State.guardedWrite (s : State) (path : Path) (b : BlockAt) (r : RegDesc) (addr : Nat) (v : Word) : State × Ans :=
  let v := s.kept b v
  if s.featureOff b then (s, .ok 0)
  else if s.locks.contains b.base ∧ s.changesL r addr v then (s, .bus 2)
  else if r.keyed then
    if s.armedFor b.base path then ((((s.disarm b.base).doWrite path b r addr v).1), .ok 0)
    else (s.disarm b.base, .bus 2)
  else
    let (t, refused) := s.doWrite path b r addr v
    (t, if refused then .conflict else .ok 0)

/-- A write to a block control register (R66, R70, R72, R83). -/
def State.controlWrite (s : State) (path : Path) (b : BlockAt) (r : RegSel) (addr : Nat) (v : Word) : State × Ans :=
  match r with
  | .reg d => s.guardedWrite path b d addr v
  | .pend =>
    (if natBit v.toNat 1 then { s with shadow := SMap.dropIf s.shadow fun a => b.base ≤ a && a < b.base + b.desc.size } else s, .ok 0)
  | .guard => (if natBit v.toNat 0 ∧ ¬s.locks.contains b.base then { s with locks := s.locks ++ [b.base] } else s, .ok 0)
  | .unlock => s.unlockWrite b.base path v

/-! ## Reads -/

/-- The bits of a register that a read returns: WO fields read as zero (R19). -/
def RegDesc.readMask (r : RegDesc) : Word :=
  r.fields.foldl (fun m f => if f.acc = .wo then m else setBits m f.hi f.lo (2 ^ (f.hi + 1 - f.lo) - 1)) 0

/-- RTR_POOL and RTR_PORT as they read (R356). -/
def State.readRtr (s : State) (b : BlockAt) (addr : Nat) : Word :=
  let ep := fun (p : Nat) => s.mkEp b.die (b.inst % 8) (b.inst / 8) p
  let w := s.reg addr
  if b.off = 4 then setBits (setBits w 25 16 (s.poolFree (ep 0))) 9 0 (s.resvSum (ep 0))
  else if 0x100 ≤ b.off then
    let e := ep ((b.off - 0x100) / 4)
    let live := (s.tags.filter fun t => t.ep = e && t.live).length
    let user := portKind e = .user ∨ portKind e = .group
    let w := setBits (setBits w 31 31 (b2n (decide (portKind e ≠ .none)))) 6 0 live
    if user then setBits w 30 30 (b2n (s.portFenced e)) else w
  else w

/-- An engine's code in SEG_ESTAT (R272). -/
def RunSt.code (r : RunSt) : Nat :=
  match r with
  | .halted => 0
  | .running => 1
  | .waiting => 2
  | .faulted => 3

/-- A register of the SEG block as it reads (R272). -/
def State.readSeg (s : State) (b : BlockAt) (addr : Nat) : Word :=
  let eng := fun (e : Nat) => s.eng (12 * (192 * b.die + b.inst) + e)
  let set := fun (p : EngSt → Bool) => (List.range 12).foldl (fun n e => if p (eng e) then n + 2 ^ e else n) 0
  let e := eng ((b.off - 0x100) / 0x80)
  if b.off = 0 then
    BitVec.ofNat 32 (set (fun v => v.run = .running || v.run = .waiting) * 2 ^ 16 + set (fun v => v.run = .faulted))
  else if b.off < 0x100 then s.reg addr
  else if (b.off - 0x100) % 0x80 = 4 then
    BitVec.ofNat 32 (e.run.code * 2 ^ 30 + e.stall % 16 * 2 ^ 26 + e.pc.toNat * 2 ^ 16 + e.rptLeft % 2 ^ 13)
  else if (b.off - 0x100) % 0x80 = 8 then BitVec.ofNat 32 (e.fcause % 256 * 2 ^ 24 + e.faddr.toNat % 65536)
  else if (b.off - 0x100) % 0x80 = 0xC then e.dbell
  else 0

/-- CFG_STATUS as it reads (R582). -/
def State.cfgStatus (s : State) : Word :=
  let running := s.loader.busy.isSome || s.loader.started || (match s.loader.stream with
    | some st => st.op = 2
    | none => false)
  let open_ : Bool := match s.loader.stream with
    | some st => st.op = 1
    | none => false
  setBits (setBits (s.reg Reg.CFG_STATUS) 31 31 (b2n running)) 30 30 (b2n open_)

/-- A read of a register of the PIN block, which may take a byte or a free value (R643, R648). -/
def State.readPin (s : State) (b : BlockAt) (addr : Nat) : State × Word :=
  let o := b.off
  if o < 0x100 then (s, s.pullXor (s.reg addr))
  else if o = 0x100 ∨ o = 0x104 then (s.useFree, s.gpioIn false ((o - 0x100) / 4))
  else if o = 0x108 ∨ o = 0x10C then (s, s.gpioIn true ((o - 0x108) / 4))
  else if 0x400 ≤ o ∧ o < 0x440 ∧ o % 32 = 4 then s.uartPop ((o - 0x400) / 32)
  else if 0x400 ≤ o ∧ o < 0x440 ∧ o % 32 = 8 then (s, (s.reg addr &&& 0xC0000000#32) ||| BitVec.ofNat 32 (s.uartLevels ((o - 0x400) / 32)))
  else if 0x500 ≤ o ∧ o < 0x540 ∧ o % 32 = 8 then (s, setBits (s.reg addr) 28 28 (b2n (s.i2cAlert ((o - 0x500) / 32))))
  else (s, s.reg addr)

/-- The value that a register reads as, before WO fields are masked; a read of CFG_DATA, PRBd_RDDATA or UART_DATA moves on. -/
def State.readRaw (s : State) (b : BlockAt) (addr : Nat) : State × Word :=
  let o := b.off
  let w := s.reg addr
  match b.desc.blk with
  | .fln => (s, if o = 0x300 then BitVec.ofNat 32 s.errSum else w)
  | .cfg =>
    if o = 0 then (s, s.cfgStatus)
    else if o = 0x18 then s.cfgDataRead
    else if 0x4000 ≤ o ∧ o < 0x8000 ∧ o % 0x1000 = 0x1C then s.probeRead ((o - 0x4000) / 0x1000)
    else (s, w)
  | .lcs => (s, if 0x8000 ≤ o then s.reportWord ((o - 0x8000) / 4) else w)
  | .pin => s.readPin b addr
  | .hrg =>
    if 0x200 ≤ o ∧ o % 16 = 0 then
      let h := s.home ((o - 0x200) / 16)
      (s, BitVec.ofNat 32 (h.used % 1024 * 2 ^ 22 + h.dir.length % 2 ^ 17))
    else (s, w)
  | .str =>
    if 0x40000 ≤ o then (s, s.capWord ((o - 0x40000) / 0x10000) ((o - 0x40000) % 0x10000 / 64) (o % 64 / 4)) else (s, w)
  | .obs =>
    if o = 0 then (s, setBits w 20 16 s.broken.length)
    else if 0x1000 ≤ o ∧ o < 0x1200 ∧ o % 8 = 0 then (s, setBits w 7 0 (s.keyRefs ((o - 0x1000) / 8)))
    else (s, w)
  | .spl =>
    if o = 0x200 then
      (s, setBits w 31 16 ((List.range 16).foldl (fun n k => if s.spineRuns b.die k then n + 2 ^ k else n) 0))
    else (s, w)
  | .sec => (s, if o = 0x800 then s.secFabric b.die b.inst else w)
  | .uio => (s, s.kept b w)
  | .ven =>
    if (o = 4 ∨ o = 8) ∧ s.stepDone 5 then
      (s, BitVec.ofNat 32 ((List.range 32).foldl (fun n i => if natBit (s.liveCols b.die) (i % 8) then n else n + 2 ^ i) 0))
    else (s, w)
  | .rtr => (s, s.readRtr b addr)
  | .seg => (s, s.readSeg b addr)
  | _ => (s, w)

/-- A read that reaches its register. -/
def State.selRead (s : State) (b : BlockAt) (r : RegSel) (addr : Nat) : State × Word :=
  match r with
  | .reg d =>
    if s.featureOff b then (s, 0)
    else
      let (t, w) := s.readRaw b addr
      (t, w &&& d.readMask)
  | .pend => (s, BitVec.ofNat 32 (b2n (s.shadow.any fun e => b.base ≤ e.1 && e.1 < b.base + b.desc.size)))
  | .guard =>
    (s, BitVec.ofNat 32 (b2n (s.locks.contains b.base) + 2 * b2n (s.arms.any fun a => a.block = b.base)))
  | .unlock => (s, 0)

/-! ## Accesses -/

/-- PATH of FLN_BUSERR_LOG; none for Flint (R49, R63). -/
def Path.code (p : Path) : Option Nat :=
  match p with
  | .flint => none
  | .pcie port => some (b2n port)
  | .mgmt => some 2
  | .ring _ => some 3

/-- A bus error is logged, or becomes a firmware fault record (R49, R63). -/
def State.busErr (s : State) (path : Path) (addr kind : Nat) (write : Bool) : State :=
  if s.phase = .halted ∨ s.lcState = 4 then s
  else
    match path.code with
    | none => s.fwRecord 2 kind 0 addr
    | some p =>
      let s := s.logOnce Fld.FLN_BUSERR_LOG_VALID fun t =>
        t.setReg Reg.FLN_BUSERR_LOG (BitVec.ofNat 32
          (b2n write * 2 ^ 30 + p * 2 ^ 28 + kind * 2 ^ 25 + natBits addr 26 2))
      (s.bump Fld.FLN_BUSERR_COUNT_COUNT).raise Fld.FLN_IRQ_STATUS_BUSERR

/-- One access: `value` is what a write carries. An access that waits changes nothing but the request to wake its domain. -/
def State.access (s : State) (path : Path) (addr : Nat) (shapeOk : Bool) (value : Option Word) : State × Ans :=
  match s.reach path addr shapeOk value.isSome with
  | .inr (.bus k) => (s.busErr path addr k value.isSome, .bus k)
  | .inr (.held d) => (s.wakeDomain d, .held d)
  | .inr a => (s, a)
  | .inl (b, r) =>
    match value with
    | none =>
      let (t, w) := s.selRead b r addr
      (t, .ok w)
    | some v =>
      if path.barred addr then (s, .denied)
      else
        let (t, a) := s.controlWrite path b r addr v
        match a with
        | .bus k => (t.busErr path addr k true, a)
        | _ => (t, a)

/-- The management port's status byte (R58). -/
def State.mgmtStatus (s : State) (result : Nat) : Byte :=
  BitVec.ofNat 8 (128 * b2n (decide (s.phase = .halted)) + 64 * b2n (s.kAvail .mgmt) + result)

/-- The result code of an answer over the management port (R58, R62). -/
def Ans.mgmtCode (a : Ans) : Nat :=
  match a with
  | .bus 4 => 4
  | .bus _ => 2
  | .denied => 2
  | _ => 0

/-- The value that an answer carries. -/
def Ans.value (a : Ans) : Word :=
  match a with
  | .ok v => v
  | _ => 0

/-- An access of a path outside the ring, with its answer on that path; one that waits is kept (R57, R62, R67). -/
def State.request (s : State) (path : Path) (addr : Nat) (shapeOk : Bool) (value : Option Word) (id : Nat) : State :=
  let (t, a) := s.access path addr shapeOk value
  match a with
  | .held _ => { t with heldAcc := t.heldAcc ++ [{ path := path, addr := addr, value := value, id := id }] }
  | _ =>
    match path with
    | .mgmt => t.emit (.mgmt (t.mgmtStatus a.mgmtCode) (if value.isSome then none else some a.value))
    | .pcie port =>
      if value.isSome then t
      else
        match a with
        | .ok v => t.emit (.cpl port id true false (bytesLE 4 v.toNat))
        | _ => t.emit (.cpl port id false false [])
    | _ => t

/-- A path can carry an access now: the device is powered and out of reset, and a PCIe port's link is up (R55, R56, R617). -/
def State.pathUp (s : State) (path : Path) : Bool :=
  match path with
  | .pcie port => s.up && s.linkUp port
  | .mgmt => s.up || s.phase = .halted
  | .flint => s.up && s.flintUp
  | .ring _ => s.up

/-! ## The management serial port (R56 to R58) -/

/-- A request of the port (R56). -/
inductive MgmtReq where
  | read (addr : Word)
  | write (addr v : Word)
  | status
  deriving DecidableEq, Repr

/-- The four bytes of a word, most significant first. -/
def wordBytesBE (w : Word) : List Byte := [w.extractLsb' 24 8, w.extractLsb' 16 8, w.extractLsb' 8 8, w.extractLsb' 0 8]

/-- The word that four bytes spell, most significant first. -/
def wordBE (a b c d : Byte) : Word := a ++ b ++ c ++ d

/-- The bits of bytes on a pin, most significant first (R56). -/
def pinBits (l : List Byte) : List Bool := l.flatMap fun b => (List.range 8).map fun i => b.getLsbD (7 - i)

/-- The bytes that bits on a pin spell, most significant first; a last part of a byte is none. -/
def pinBytes (l : List Bool) : List Byte :=
  match l with
  | a :: b :: c :: d :: e :: f :: g :: h :: rest =>
    BitVec.ofNat 8 (128 * b2n a + 64 * b2n b + 32 * b2n c + 16 * b2n d + 8 * b2n e + 4 * b2n f + 2 * b2n g + b2n h) :: pinBytes rest
  | _ => []

/-- What MDI carries, one bit at each rising edge of MCLK, from the fall of MSEL_N to the end of a request (R56). -/
def MgmtReq.mdi (q : MgmtReq) : List Bool :=
  pinBits (match q with
    | .read a => 0x01 :: wordBytesBE a
    | .write a v => 0x02 :: (wordBytesBE a ++ wordBytesBE v)
    | .status => [0x03])

/-- The request that bytes spell, if it is one (R56). -/
def mgmtRequest (l : List Byte) : Option MgmtReq :=
  match l with
  | [op] => if op = 0x03 then some .status else none
  | [op, a, b, c, d] => if op = 0x01 then some (.read (wordBE a b c d)) else none
  | [op, a, b, c, d, e, f, g, h] => if op = 0x02 then some (.write (wordBE a b c d) (wordBE e f g h)) else none
  | _ => none

/-- What MDO carries for an answer: the sync byte, the status byte and, for READ, the data (R57). -/
def mgmtAnswer (status : Byte) (data : Option Word) : List Byte :=
  0x5A :: status :: (match data with
    | some w => wordBytesBE w
    | none => [])

/-- The bytes that MDO carries now: 0x00 while an access is in progress, else the port's latest answer (R57). -/
def State.mdo (s : State) : List Byte :=
  if s.heldAcc.any fun a => a.path = Path.mgmt then [0x00]
  else match s.out.reverse.findSome? (fun o => match o with
      | .mgmt st d => some (mgmtAnswer st d)
      | _ => none) with
    | some l => l
    | none => []

/-- A READ or WRITE frame; a frame that still waits is abandoned by the next one. -/
def State.mgmtFrame (s : State) (addr : Nat) (value : Option Word) : State :=
  if ¬s.pathUp .mgmt then s
  else
    let s : State := { s with heldAcc := s.heldAcc.filter fun a => a.path ≠ Path.mgmt }
    if s.lcState = 4 ∧ s.phase ≠ .halted ∧ (value.isSome ∨ addr / 0x10000 ≠ 6) then s
    else s.request .mgmt addr true value 0

/-- A STATUS frame. -/
def State.mgmtStat (s : State) : State :=
  if ¬s.pathUp .mgmt then s
  else State.emit { s with heldAcc := s.heldAcc.filter fun a => a.path ≠ Path.mgmt } (.mgmt (s.mgmtStatus 0) none)

/-- The port has sampled a request on MDI; other bits are no request (R56). -/
def State.mgmtSample (s : State) (mdi : List Bool) : State :=
  match mgmtRequest (pinBytes mdi) with
  | some (.read a) => s.mgmtFrame a.toNat none
  | some (.write a v) => s.mgmtFrame a.toNat (some v)
  | some .status => s.mgmtStat
  | none => s

/-- A frame that MSEL_N ends before its sync byte. -/
def State.mgmtAbandon (s : State) : State := { s with heldAcc := s.heldAcc.filter fun a => a.path ≠ Path.mgmt }

/-- A frame whose block has not answered within 1 ms. -/
def State.mgmtTimeout (s : State) : State :=
  match s.heldAcc.find? (fun a => a.path = Path.mgmt) with
  | none => s
  | some a => s.mgmtAbandon.emit (Out.mgmt (s.mgmtStatus 5) (if a.value.isSome then none else some 0))

/-! ## The ring path (R59, R62, R320) -/

/-- The region whose grant lets a source reach an address. -/
def State.granted (s : State) (src : Ep) (addr : Nat) : Bool :=
  s.localEp src && src.die.toNat < 4 && portKind src = .user &&
    match s.portRegion src with
    | some r => (s.regionInfo r).ranges.any fun x => x.1.toNat ≤ x.2.toNat && x.1.toNat ≤ addr && addr ≤ x.2.toNat
    | none => false

/-- The response to a CFGRD or CFGWR. -/
def Ans.packet (a : Ans) (q : Packet) (value : Option Word) : Packet :=
  match a with
  | .ok v =>
    if value.isSome then rspAck q
    else rspData q (mkFlits [(v.setWidth 64, false), (0, false), (0, false), (0, false)])
  | .bus 4 => rspErr q 4
  | .bus _ => rspErr q 2
  | .denied => rspErr q 6
  | .conflict => rspErr q 9
  | .held _ => rspErr q 5

/-- A register endpoint's own window holds an address (R310). -/
def Ep.regWindow (e : Ep) (addr : Nat) : Bool := addr / 0x1000000 = (if e.die = 4 then 0 else e.die.toNat + 1)

/-- The block of an address, by its base. -/
def blockBase (addr : Nat) : Option Nat := (blockAt addr).map fun b => b.base

/-- An earlier access to the block of delivered packet `n` waits at its endpoint (R60). -/
def State.cfgEarlier (s : State) (n : Nat) (x : Delivered) : Bool :=
  (s.inbox.take n).any fun g => g.ep = x.ep && (g.pkt.cmd = 0x20 || g.pkt.cmd = 0x21)
    && blockBase g.pkt.addr.toNat = blockBase x.pkt.addr.toNat

/-- CFGRD and CFGWR: delivered packet `n` at a register endpoint; one that waits stays delivered, and those behind it for the same block
wait with it (R60, R67). -/
def State.cfgServe (s : State) (n cmd : Nat) : State :=
  match s.delivered n cmd with
  | none => s
  | some x =>
    let q := x.pkt
    let addr := q.addr.toNat
    let value : Option Word := if cmd = 0x21 then some (((flitWords q.data).getD 0 (0, false)).1.setWidth 32) else none
    if portKind x.ep ≠ .hubReg ∧ portKind x.ep ≠ .dieReg then s.serve n cmd
    else if s.cfgEarlier n x then s
    else if ¬x.ep.regWindow addr then ((s.take n).busErr (.ring q.src) addr 0 value.isSome).send x.ep ((Ans.bus 0).packet q value)
    else if ¬s.granted q.src addr then (s.take n).send x.ep (Ans.denied.packet q value)
    else
      let (t, a) := s.access (.ring q.src) addr true value
      match a with
      | .held _ => t
      | _ => (t.take n).send x.ep (a.packet q value)

/-! ## Host accesses that wait (R492, R497) -/

/-- An access of a port need wait no longer: the window writes before it have been answered, and no earlier register or doorbell write
of the port waits. -/
def State.mayGo (s : State) (h : HostHeld) : Bool :=
  !(h.after.any fun i => s.wins.any fun w => w.id = i && w.port = h.port) && !(h.op.ordered && s.orderBusy h.port)

/-- Perform an access of a port that waited. -/
def State.hostDo (s : State) (h : HostHeld) : State :=
  match h.op with
  | .read id a len => s.hostWinRead h.port id a len
  | .write addr ok v => s.request (.pcie h.port) addr ok (some v) 0
  | .bell q off v => s.doorbell h.port q off v

/-- Release what the ports may do now, oldest first. -/
def State.pumpHeld (s : State) (l : List HostHeld) : State :=
  match l with
  | [] => s
  | h :: rest => State.pumpHeld (if s.mayGo h then s.hostDo h else { s with hostHeld := s.hostHeld ++ [h] }) rest

/-- Host accesses that need wait no longer are performed. -/
def State.hostPump (s : State) : State := State.pumpHeld { s with hostHeld := [] } s.hostHeld

/-! ## Held accesses (R67) -/

/-- The place of a path in the order in which accesses that reach a block together are performed (R60). -/
def Path.rank (p : Path) : Nat :=
  match p with
  | .flint => 0
  | .mgmt => 1
  | .pcie port => 2 + b2n port
  | .ring _ => 4

/-- Accesses in the order of their paths, those of one path as they came (R60). -/
def inPathOrder (l : List HeldAccess) : List HeldAccess :=
  (List.range 5).flatMap fun r => l.filter fun a => a.path.rank = r

/-- The accesses that wait are tried again when a domain comes up, and then those of the ports that waited behind them. -/
def State.replayHeld (s : State) : State :=
  ((inPathOrder s.heldAcc).foldl (fun (t : State) a => if t.pathUp a.path then t.request a.path a.addr true a.value a.id else t)
    { s with heldAcc := [] }).hostPump

/-- A register access by a host: a write waits for earlier window writes of its port, and for its register and doorbell writes that wait
(R492, R497). -/
def State.barAccess (s : State) (port : Bool) (addr : Nat) (shapeOk : Bool) (value : Option Word) (id : Nat) : State :=
  match value with
  | some v =>
    if s.handed ∧ (s.winBusy port ∨ s.orderBusy port) then s.hostHold port (.write addr shapeOk v)
    else s.request (.pcie port) addr shapeOk value id
  | none => s.request (.pcie port) addr shapeOk value id

/-! ## Rows that name their register -/

/-- A register write over a path. With path `ring` it stands for the performance of a CFGWR; over the management port it is a
WRITE frame and over a PCIe port a BAR0 write. -/
def State.writeReg (s : State) (path : Path) (addr : Nat) (v : Word) : State :=
  if ¬s.pathUp path then s
  else
    match path with
    | .mgmt => s.mgmtFrame addr (some v)
    | .pcie port => s.barAccess port addr true (some v) 0
    | _ => s.request path addr true (some v) 0

/-- A register read over a path; `id` names a PCIe request. -/
def State.readReg (s : State) (path : Path) (addr id : Nat) : State :=
  if ¬s.pathUp path then s
  else
    match path with
    | .mgmt => s.mgmtFrame addr none
    | .pcie port => s.barAccess port addr true none id
    | _ => s.request path addr true none id

end Sys2Proof.Machine
end

