-- ==== Sys2Proof/Machine/Commit.lean ====
section
/-! DEFINITION. Loader epochs, and the commits that apply at them (R569 to R573). -/

namespace Sys2Proof.Machine

/-- The path whose owner and authority a commit group's writes have (R571). -/
def State.commitPath (s : State) (src : LoadSrc) : Path :=
  match src with
  | .reg p => p
  | .queue => .pcie s.lqPort
  | .flint => .flint

/-- Step 1 of R572 for one entry: it is written as if by one write, and UIO_PAD's commit fields apply. Where the block's domain
is off, R67 holds: the write waits for the domain, or a fence drops it. -/
def State.commitEntry (s : State) (path : Path) (e : Nat × Word) : State :=
  match regSel e.1 with
  | none => s
  | some (b, sel) =>
    match s.blockOff b with
    | some (_, true) => s
    | some (d, false) => { s.wakeDomain d with heldAcc := s.heldAcc ++ [{ path := .flint, addr := e.1, value := some e.2, id := 0 }] }
    | none =>
      match sel with
      | .reg r =>
        if s.featureOff b then s
        else
          let t := (s.doWrite path b r e.1 (s.kept b e.2)).1
          if b.desc.blk = .uio then t.applyShadow e.1 else t
      | _ => (s.controlWrite path b sel e.1 e.2).1

/-- The region whose sector a user I/O pin belongs to (R637, R667). -/
def State.padRegion (s : State) (d k : Nat) : Option Nat :=
  let ps := k / 36
  s.regionOf d (4 * (ps / 4) + s.physX d 4 (ps % 4))

/-- Step 2 of R572: the shadowed writes of R69 for the region's blocks. -/
def State.commitShadows (s : State) (r : Nat) : State :=
  s.shadow.foldl (fun (t : State) e =>
    match blockAt e.1 with
    | some b =>
      if b.desc.blk = .uio ∧ b.off < 0x900 ∧ s.padRegion b.die (b.off / 4) = some r then t.applyShadow e.1
      else if b.desc.blk = .mca ∧ 0x40 ≤ b.off ∧ b.off < 0x58 then
        t.exportApply b.die ((b.off - 0x40) / 4) (s.exportMask b.die ((b.off - 0x40) / 4) (some r))
      else t
    | none => t) s

/-- A commit group as bytes (R631). -/
def groupBytes (l : List (Nat × Word)) : List Byte := l.flatMap fun e => bytesLE 4 e.1 ++ bytesLE 4 e.2.toNat

/-- The commit of one region at its epoch (R572). -/
def State.commitOne (s : State) (c : CommitW) : State :=
  let s := s.setFld Fld.CFG_STATUS_CGFREE (s.fld Fld.CFG_STATUS_CGFREE + c.ents.length)
  let st := s.regState c.region
  if ¬(st = 2 ∨ st = 3) then s.cfgEnd c.src c.region 4 7 0 0
  else
    match s.badEntry c.src c.ents with
    | some i => (s.setReg Reg.CFG_FAULTFAR (BitVec.ofNat 32 i)).cfgEnd c.src c.region 4 22 0 0
    | none =>
      let path := s.commitPath c.src
      let s := c.ents.foldl (fun (t : State) e => t.commitEntry path e) s
      let s := s.commitShadows c.region
      let s := s.applyAll .packet fun a => c.ents.any fun e => e.1 = a
      let s := (s.releaseRegion c.region c.epoch).extendMeas c.region (sha256 (groupBytes c.ents))
      (s.probesCommit c.region).cfgEnd c.src c.region 4 0 0 c.epoch

/-- Put a commit into a list in rising region number (R573). -/
def insertCommit (c : CommitW) (l : List CommitW) : List CommitW :=
  match l with
  | [] => [c]
  | d :: rest => if c.region ≤ d.region then c :: d :: rest else d :: insertCommit c rest

/-- The commits of the current epoch, in rising region number. -/
def State.dueCommits (s : State) : List CommitW :=
  (s.loader.commits.filter fun c => c.epoch = s.fld Fld.CFG_EPOCH_EPOCH).foldr insertCommit []

/-- COMMIT_EPOCH: the commits of the boundary that CFG_EPOCH names apply; a report waits for them (R572, R573, R629). -/
def State.commitEpochs (s : State) : State :=
  let due := s.dueCommits
  if due = [] then s
  else
    let rest := s.loader.commits.filter fun c => c.epoch ≠ s.fld Fld.CFG_EPOCH_EPOCH
    let s : State := { s with loader := { s.loader with commits := rest } }
    (due.foldl (fun (u : State) c => u.commitOne c) s).attSnap

/-- LOADER_EPOCH: commits of the boundary that is over apply first, if they have not; a report with no commit to wait for is taken
now (R569, R629). -/
def State.loaderEpoch (s : State) : State :=
  let s := s.commitEpochs
  let s := s.setFld Fld.CFG_EPOCH_EPOCH (s.fld Fld.CFG_EPOCH_EPOCH + 1)
  if s.dueCommits = [] then s.attSnap else s

end Sys2Proof.Machine
end

