-- ==== Sys2Proof/Machine/Startup.lean ====
section
/-! DEFINITION. Start-up, resets, the loss of VAON, supply resets and the end of a halt (R594 to R598, R657 to R659, R678 to
R680, and what start-up checks and records: R29, R33 to R41, R308, R405, R444, R445, R561, R611, R612, R619, R627, R634). -/

namespace Sys2Proof.Machine

/-! ## Step 1 -/

/-- Power or reset that meets a life-cycle command after its checks may leave one fuse of its first bit blown (R612, R616). -/
def State.cutLc (s : State) : State :=
  match s.lcs.op with
  | none => s
  | some op =>
    if s.lcResult op ≠ 0 then s
    else
      let one : Byte := if Config.freeBool s.free then 1 else 0
      let f := s.fuses
      let f : Fuses := match op with
        | 1 => { f with dev := f.dev ||| one }
        | 2 => { f with field := f.field ||| one }
        | 3 => { f with void := f.void ||| one }
        | 4 => { f with end_ := f.end_ ||| one }
        | _ => f
      { s.useFree with fuses := f }

/-- Everything but the fuses, what has left the device, the waiting commands, the free values, the test access port and the
retained registers at its reset value (R596, R679). -/
def State.wipe (s : State) (phase : Phase) : State :=
  { State.blank with
    phase := phase
    regs := s.regs.filter fun e => retainedRegs.contains e.1
    fuses := s.fuses
    jtag := s.jtag
    out := s.out
    pending := s.pending
    free := s.free }

/-- SLT registers and HUB_DIE_STATUS of an assembled die as its straps and fuses give them (R29, R34, R44). -/
def State.showDie (s : State) (d : Nat) : State :=
  if ¬natBit s.fuses.present.toNat d then s
  else
    let pos := (s.fuses.pos.getD d 0).toNat
    let rot := if 1 ≤ pos ∧ pos ≤ 4 then pos - 1 else 0
    let xf := b2n (decide (pos = 2 ∨ pos = 3))
    let mir := b2n (s.fuses.mirror.getD d true)
    let step := (s.fuses.dieStep.getD d 0).toNat
    let s := s.setReg (Reg.SLT_IDENT d) (BitVec.ofNat 32 (step * 65536))
    let s := s.setReg (Reg.SLT_FEATWORD d) (s.fuses.dieFeat.getD d 0)
    let s := s.setReg (Reg.SLT_ORIENT d) (BitVec.ofNat 32 (pos * 256 + mir * 32 + xf * 16 + rot))
    s.setReg (Reg.HUB_DIE_STATUS d) (BitVec.ofNat 32 (pos * 2 ^ 20 + mir * 2 ^ 19 + step))

/-- The assembly record of the failed lanes (R403). -/
def State.showLanes (s : State) : State :=
  s.fuses.lanes.foldl (fun (t : State) e => t.setBundleMask (e.1 % 2 = 1) (e.1 / 2) e.2.toNat) s

/-- What the fuses, the straps and the supplies show. -/
def State.showStart (s : State) (i : StartIn) (cold : Bool) (bak : Nat) : State :=
  let f := s.fuses
  let s := s.setReg Reg.HUB_IDENT
    (BitVec.ofNat 32 (f.part.toNat * 65536 + f.speed.toNat * 4096 + f.temp.toNat * 256 + f.present.toNat * 16))
  let s := (s.setReg Reg.HUB_STEP (f.step.setWidth 32)).setReg Reg.HUB_FEATWORD f.feat
  let s := (List.range 4).foldl (fun (t : State) d => t.showDie d) s.showLanes
  let s := (s.setFld Fld.CLK_STATUS_XADLY i.xadly.toNat).setFld Fld.FLN_STATUS_RECOVERY (b2n (!i.rcvryN))
  let nom := if f.part = 0x2425#16 then i.bankNom &&& 0x00FF00FF#32 else i.bankNom
  let s := s.setReg Reg.PWR_BANKNOM nom
  let s := s.setReg Reg.PWR_SUPPLY
    (BitVec.ofNat 32 (b2n cold * 2 ^ 31 + b2n i.vbakLow * 2 ^ 30 + b2n i.bakAbsent * 2 ^ 29 + bak))
  let s := (s.setReg Reg.LCS_SERIAL_LO (f.serial.setWidth 32)).setReg Reg.LCS_SERIAL_HI ((f.serial >>> 32).setWidth 32)
  let s := (List.range 14).foldl (fun (t : State) w => t.setReg (Reg.LCS_IDPK w) (f.idpk.getD w 0)) s
  (s.setFld Fld.LCS_STATUS_STATE f.state).fuseShow

/-- Step 1 of R594: AON logic is reset, retained state stays unless the start is cold, interrupted fuse transitions are completed,
straps are sampled, and Flint starts on MCLK. -/
def State.begin (s : State) (i : StartIn) (cold : Bool) : State :=
  let s := s.cutLc
  let leaf := s.fld Fld.LCS_SIGN_NEXTLEAF
  let bak := s.fld Fld.PWR_SUPPLY_BAKEVENTS
  let boot := s.shadow.filter fun e => boundaryOf e.1 = some .nextStart
  let t := s.wipe (.start 1)
  let t : State := { t with
    regs := if cold then [] else t.regs
    fuses := t.fuses.complete
    straps := { rcvryN := i.rcvryN, pudcN := i.pudcN, xadly := i.xadly }
    shadow := if cold then [] else boot }
  let t := t.applyAll .nextStart fun _ => true
  let t := t.showStart i cold (if cold then 0 else bak)
  let t := t.setFld Fld.LCS_SIGN_NEXTLEAF (if cold ∨ i.leafLost then 4096 * t.fuses.epochCount else leaf)
  let t := t.drawNonce.pinsReset
  let t := t.setReg Reg.CFG_LOCK t.flintId
  ([0, 1]).foldl (fun (u : State) d => u.setReg (Reg.PWR_DOM d) 0xA0000000#32) t

/-- POWER_ON: a start with VAON valid; a cold start unless VBAK has held the retained state (R594, R596). -/
def State.powerOn (s : State) (i : StartIn) : State := s.begin i (decide (s.phase ≠ .hold) || i.bakAbsent)

/-- RESET_N is held low and released (R596). -/
def State.resetN (s : State) (i : StartIn) : State :=
  match s.phase with
  | .start _ => s.begin i false
  | .running => s.begin i false
  | .halted => s.begin i false
  | _ => s

/-- VAON fails (R597, R598): with VBAK below 1.6 V hold is not assured. -/
def State.vaonLoss (s : State) (v : Vbak) : State :=
  match s.phase with
  | .off => s
  | .hold => s
  | _ =>
    let t := s.bump Fld.PWR_SUPPLY_BAKEVENTS
    match v with
    | .holds => { t with phase := .hold, jtag := JtagSt.start }
    | .low => { t.useFree with phase := if Config.freeBool t.free then .hold else .off, jtag := JtagSt.start }
    | .absent => { s with phase := .off, jtag := JtagSt.start }

/-- VAON has been valid again for 1 ms (R597). -/
def State.vaonReturn (s : State) (i : StartIn) : State :=
  match s.phase with
  | .hold => s.begin i i.bakAbsent
  | .off => s.begin i true
  | _ => s

/-! ## Supply resets (R657 to R659) -/

/-- The monitor of a rail may cause a supply reset: bank rails do not at step 1, and the rails that an LR9-2425 does not have never
do. -/
def State.railCounts (s : State) (rail : Nat) : Bool :=
  let absent := s.fuses.part = 0x2425#16 &&
    (decide (rail = 1 ∨ rail = 3) || (decide (14 ≤ rail) && decide ((rail - 14) / 4 = 1 ∨ (rail - 14) / 4 = 3)))
  decide (rail < 30) && !absent && !(decide (14 ≤ rail) && s.phase = .start 1)

/-- SUPPLY_RESET: a rail leaves its range for 2 µs; the device is held as RESET_N low holds it. -/
def State.supplyReset (s : State) (rail : Nat) (high : Bool) : State :=
  if (s.up ∨ s.phase = .halted) ∧ s.railCounts rail then
    let t := s.logOnce Fld.PWR_RAILLOG_VALID fun t => (t.setFld Fld.PWR_RAILLOG_RAIL rail).setFld Fld.PWR_RAILLOG_OVER (b2n high)
    { t.bump Fld.PWR_RAILLOG_COUNT with phase := .supplyReset }
  else s

/-- SUPPLY_RESET_END: every monitored rail has been valid for 1 ms. -/
def State.supplyResetEnd (s : State) (i : StartIn) : State :=
  match s.phase with
  | .supplyReset => s.begin i false
  | _ => s

/-! ## DEVICE_HALT (R678, R679) -/

/-- Steps 2 to 5 of a halt: clocks stop, every domain except AON goes off and what it held is lost. The system pins keep their pulls and
what the board drives (R649). -/
def State.haltSteps (s : State) : State :=
  if s.phase = .halted ∧ ¬s.haltDone then
    let t : State := { s.wipe .halted with
      regs := s.regs.filter fun e => retainedRegs.contains e.1 || (Reg.PIN_CFG 0 ≤ e.1 && e.1 ≤ Reg.PIN_CFG 63)
      straps := s.straps
      pins := { PinSt.blank with drive := s.pins.drive, level := s.pins.level } }
    let t := (t.setReg Reg.LCS_STATUS (s.reg Reg.LCS_STATUS)).setFld Fld.LCS_SIGN_NEXTLEAF (s.fld Fld.LCS_SIGN_NEXTLEAF)
    let t := t.setReg (Reg.PWR_DOM 0) 0xA0000000#32
    let t := t.setFld Fld.FLN_STATUS_STARTWIN (s.fld Fld.FLN_STATUS_STARTWIN)
    let t := t.setFld Fld.FLN_STATUS_RECOVERY (s.fld Fld.FLN_STATUS_RECOVERY)
    { t with
      haltDone := true
      flintUp := false
      shadow := s.shadow.filter fun e => boundaryOf e.1 = some .nextStart }
  else s

/-! ## Step 3 -/

/-- Domain `d` is brought up by start-up. -/
def State.startDomain (s : State) (d : Nat) : State := s.setReg (Reg.PWR_DOM d) 0xA0000000#32

/-- The capacity and rate code of an RDIMM that R444 supports: x4 devices, one or two ranks, a listed capacity and rate. -/
def Dimm.good (m : Dimm) : Option (Nat × Nat) :=
  match m with
  | .ok gib ranks width rate =>
    if [16, 24, 32, 48, 64, 96, 128, 256].contains gib ∧ (ranks = 1 ∨ ranks = 2) ∧ width = 4 ∧ 1 ≤ rate ∧ rate ≤ 3 then some (gib, rate)
    else none
  | _ => none

/-- The capacity of the RDIMM in a channel, which DDR_STATUS.GIB shows (R481); an RDIMM that does not answer shows none. -/
def Dimm.gib (m : Dimm) : Nat :=
  match m with
  | .ok gib _ _ _ => gib
  | _ => 0

/-- Train the eight channels (R445): those that train run at the highest rate that every one of their RDIMMs supports. -/
def State.trainDdr (s : State) (l : List Dimm) : State :=
  let good := l.filterMap Dimm.good
  let cap := (good.headD (0, 0)).1
  let all := decide (l.length = 8 ∧ good.length = 8) && good.all fun g => g.1 = cap
  let rate := good.foldl (fun n g => min n g.2) 3
  let s := (List.range 8).foldl (fun (t : State) x =>
    match l.getD x .empty with
    | .empty => t
    | m =>
      let t := t.setFld (Fld.DDR_STATUS_GIB x) m.gib
      match m.good with
      | none => t.setFld (Fld.DDR_STATUS_STATE x) 3
      | some _ => (t.setFld (Fld.DDR_STATUS_STATE x) (if all then 2 else 4)).setFld (Fld.DDR_STATUS_RATE x) rate) s
  if all then s.setFld Fld.HRG_DDRTOP_GIB (27 * cap / 4) else s

/-- The preferred reference if it is present, and the other one otherwise (R586, R592). -/
def State.prefer (s : State) (second : Bool) : Nat :=
  let r := if second then 2 else 1
  if s.refPresent r then r else otherRef r

/-- Flint starts step 3 with the patch that the flash holds, if it accepts it; the patch may raise MIN_STEP for this start (R42, R634). -/
def State.flashPatch (s : State) (patch : List Byte) : State :=
  match s.patchAccept (patchPart patch) with
  | some p => (s.patchRun p).setFld Fld.HUB_ASSEMBLY_MIN_STEP (max (s.fld Fld.HUB_ASSEMBLY_MIN_STEP) (Config.patchMinStep p.2.2 % 65536))
  | none => s

/-- STARTUP_REFERENCE_PRESENT: step 3. `patch` is what flash offset 0x00F0_0000 holds (R634). -/
def State.stepThree (s : State) (dimms : List Dimm) (patch : List Byte) : State :=
  if s.phase = .start 2 ∧ (s.refPresent 1 ∨ s.refPresent 2) then
    let s : State := { s with phase := .start 3 }
    let s := s.clockLoss 0 (s.prefer (s.bit Fld.CLK_BOOT_AONPREF))
    let s := s.drefFrom (s.prefer (s.bit Fld.CLK_BOOT_DREFPREF))
    let s := s.flashPatch patch
    (([2, 3, 4, 5, 6, 7, 8, 9]).foldl (fun (t : State) d => t.startDomain d) s).trainDdr dimms
  else s

/-! ## Steps 4 and 5 -/

/-- The assembled dies. -/
def State.assembled (s : State) : List Nat := (List.range 4).filter fun d => natBit s.fuses.present.toNat d

/-- STARTUP_BEDROCK_UP: step 4; the trainer starts on every bundle of every present die (R405). -/
def State.stepFour (s : State) : State :=
  if s.phase = .start 3 then
    let s : State := { s with phase := .start 4, strata := 1 }
    s.assembled.foldl (fun (t : State) d =>
      let t := ([0, 1, 2, 3, 4, 5, 6, 8, 9]).foldl (fun (u : State) k => u.startDomain (slateDom d k)) t
      (bundlesOf d).foldl (fun (u : State) i => (u.setLink (.bundle i) Link.fresh).setFld (Fld.STR_BSTAT_STATE i.val) 1) t) s
  else s

/-- Why Flint excludes a die (R33, R35, R41): a HUB_DIE_STATUS code, or 1. Where several causes hold the spec gives no order, and the
model shows STRAP before MICA before STEP (DESIGN CHOICE, assumption 58). -/
def State.dieCode (s : State) (d : Nat) : Nat :=
  if (s.fuses.pos.getD d 0).toNat ≠ d + 1 then 3
  else if s.fuses.mirror.getD d true = false then 4
  else if (s.fuses.dieStep.getD d 0).toNat < s.fld Fld.HUB_ASSEMBLY_MIN_STEP then 2
  else 1

/-- The columns of a die that are not isolated (R308). -/
def State.openCols (s : State) (d : Nat) : Nat :=
  (List.range 8).foldl (fun n c =>
    if s.fld (Fld.STR_BSTAT_STATE (16 * d + 2 * c)) = 3 ∧ s.fld (Fld.STR_BSTAT_STATE (16 * d + 2 * c + 1)) = 3 then n else n + 2 ^ c) 0

/-- Flint excludes a die (R41). -/
def State.exclude (s : State) (d code : Nat) : State :=
  let s := (s.setFld (Fld.HUB_DIE_STATUS_STATE d) code).setFld Fld.HUB_ASSEMBLY_DEGRADED 1
  let s := (bundlesOf d).foldl (fun (t : State) i => (t.setLink (.bundle i) Link.fresh).setFld (Fld.STR_BSTAT_STATE i.val) 0) s
  (List.range 10).foldl (fun (t : State) k => t.setReg (Reg.PWR_DOM (slateDom d k)) 0) s

/-- STARTUP_BUNDLES_TRAINED: step 5, once every bundle is LIVE or disabled. -/
def State.stepFive (s : State) : State :=
  let trained := s.assembled.all fun d => (bundlesOf d).all fun i =>
    s.fld (Fld.STR_BSTAT_STATE i.val) = 2 || s.fld (Fld.STR_BSTAT_STATE i.val) = 3
  if s.phase = .start 4 ∧ trained then
    let cols := s.assembled.map fun d => (d, s.openCols d)
    let s : State := { s with phase := .start 5 }
    let s := s.assembled.foldl (fun (t : State) d =>
      if t.dieCode d = 1 then t.setFld (Fld.HUB_DIE_STATUS_STATE d) 1 else t.exclude d (t.dieCode d)) s
    let live := cols.filter fun c => s.dieCode c.1 = 1
    let s := s.setReg Reg.HRG_COLMAP (BitVec.ofNat 32 (live.foldl (fun n c => n + c.2 * 2 ^ (8 * c.1)) 0))
    let set := live.foldl (fun (w : Word) c => w &&& s.fuses.dieFeat.getD c.1 0) s.fuses.feat
    s.setReg Reg.HUB_FEATURES (set ||| 1#32)
  else s

/-! ## Steps 6 and 7 -/

/-- STARTUP_FLASH_LOAD: step 6. `image` is what the flash holds from offset 0x0100_0000 (R561). -/
def State.stepSix (s : State) (image : List Byte) : State :=
  if s.phase = .start 5 ∧ s.straps.rcvryN then
    let s : State := { s with phase := .start 6 }
    if leAt image 0 4 = 0x5342524C then State.loadFlash { s with loader := { s.loader with flash := some image } } .flint 0 else s
  else s

/-- HAND_OVER: step 7, once no boot stream is open (R112, R168, R555, R561, R594). -/
def State.handOver (s : State) : State :=
  if (s.phase = .start 6 ∨ (s.phase = .start 5 ∧ ¬s.straps.rcvryN)) ∧ s.loader.stream = none then
    let s : State := { s with phase := .running }
    let held := (List.range 256).filter fun r => s.regState r = 2 && s.bit (Fld.CFG_REG_STAT_COMPLETE r)
    let s := held.foldl (fun (t : State) r =>
      t.commitOne { region := r, epoch := t.fld Fld.CFG_EPOCH_EPOCH, ents := [], src := .flint }) s
    let s := ((List.range 4).filter fun d => s.dieOk d).foldl (fun (t : State) d =>
      (List.range 16).foldl (fun (u : State) sec => u.treesReset d sec (2 ^ 24 - 1)) t) s
    let s := (s.setFld Fld.FLN_STATUS_STARTWIN 0).setFld Fld.FLN_STATUS_HANDED 1
    let s := if s.reg Reg.CFG_LOCK = s.flintId then s.setReg Reg.CFG_LOCK 0 else s
    { s with arms := s.arms.filter fun a => s.kAvail a.path }
  else s

end Sys2Proof.Machine
end

