-- ==== Sys2Proof/Machine/Domains.lean ====
section
/-! DEFINITION. Power domains that finish waking or draining (R346, R530, R600 to R603), and the debug port (R455, R623). -/

namespace Sys2Proof.Machine

/-! ## What a domain that powers off loses (R602) -/

/-- The domain that a block's registers lie in: the last of those that an access of it needs. -/
def State.ownDomain (s : State) (b : BlockAt) : Option Nat := ((s.blockDomains b).getLast?).map fun x => x.1

/-- The registers of the blocks in domain `d` return to their Reset column (R21). -/
def State.blocksOff (s : State) (d : Nat) : State := s.resetWhere fun b => s.ownDomain b = some d

/-- Nothing waits on the bundles of a die: no packet is queued, being sent, unacknowledged or received in part. -/
def State.bundlesIdle (s : State) (n : Nat) : Bool :=
  let idle := fun (h : Half) => h.queue.isEmpty && h.cur.isEmpty && h.replay.isEmpty && h.part.isNone
  (bundlesOf n).all fun i => idle (s.link (.bundle i)).dn && idle (s.link (.bundle i)).up

/-- The vein slices of a die have answered every request and hold no write-back. -/
def State.slicesIdle (s : State) (n : Nat) : Bool :=
  s.slices.all fun e => decide (e.1 / 64 ≠ n) || (e.2.reqs.isEmpty && e.2.fwd.isEmpty && e.2.wb.isEmpty)

/-- Nothing is left on a die that its reset would lose: on its bundles, in its routers and slices, at its endpoints, or as a request of one
of its ports that has no response. Without either of domains 5 and 8 the die is in reset (R684). -/
def State.dieIdle (s : State) (n : Nat) : Bool :=
  s.bundlesIdle n && s.slicesIdle n && !(s.net.any fun f => f.loc.onDie n)
    && !(s.inbox.any fun x => decide (x.ep.die.toNat = n) && s.localEp x.ep)
    && !(s.tags.any fun t => t.live && decide (t.ep.die.toNat = n) && s.localEp t.ep)

/-- A draining domain has delivered and answered what its endpoints' buffers held (R346). -/
def State.domDrained (s : State) (d : Nat) : Bool :=
  let ports := !(s.inbox.any fun x => decide (x.ep.p ≠ 15) && s.localEp x.ep && decide (s.portDomain x.ep = d))
    && !(s.unanswered.any fun x => s.localEp x.ep && decide (s.portDomain x.ep = d))
  if d < 16 then ports
  else
    let n := (d - 16) / 10
    match (d - 16) % 10 with
    | 5 => ports && s.dieIdle n
    | 8 => ports && s.dieIdle n
    | 9 => ports && !(s.micaOut.any fun r => decide (r.die = n))
    | _ => ports

/-- What the trees of a sector were doing is lost. -/
def State.forgetTrees (s : State) (d sec : Nat) : State :=
  { s with trees := SMap.dropIf s.trees fun k => k / 32 = 16 * d + sec, treeClosed := s.treeClosed.filter fun k => k / 32 ≠ 16 * d + sec }

/-- The contents of domain `16 + 10 n + k` of Slate die `n` are lost. -/
def State.dieDomainOff (s : State) (n k : Nat) : State :=
  let s := if k = 5 ∨ k = 8 then s.dieReset n else s.blocksOff (slateDom n k)
  if k < 4 then (s.quadSectors n k).foldl (fun (t : State) sec => (t.clearSector n sec).forgetTrees n sec) s
  else if k = 4 then { s with engines := SMap.dropIf s.engines fun e => e / 2304 = n, grpNext := SMap.dropIf s.grpNext fun g => g / 192 = n }
  else if k = 6 then
    { s with padHold := SMap.dropIf s.padHold fun p => p / 1152 = n, pads := SMap.dropIf s.pads fun p => p / 576 = n }
  else if k = 7 then { s with xcv := SMap.dropIf s.xcv fun x => x / 12 = n }
  else if k = 9 then
    { s with mica := SMap.dropIf s.mica fun w => w / (3072 * 4096) = n
             micaShown := SMap.dropIf s.micaShown fun p => p / 3072 = n
             vein := SMap.dropIf s.vein fun w => w / 2 ^ 21 = n
             erasing := SMap.dropIf s.erasing fun w => w = n }
  else s

/-- The contents of a Bedrock domain are lost: a PCIe port drops its link, a Lode port follows R530, bridge ports stop. A DDR
domain keeps its RDIMMs' contents and its registers (assumption 14). -/
def State.hubDomainOff (s : State) (d : Nat) : State :=
  if d = 5 ∨ d = 6 then (s.pcieDown (d = 6)).blocksOff d
  else if h : 10 ≤ d ∧ d ≤ 13 then s.lodeDomain ⟨d - 10, by omega⟩ false
  else if d = 14 then (List.finRange 8).foldl (fun (t : State) k => t.bridgeStop k 0) s
  else s

/-- A domain is ON: what waits for it goes on (R67, R345, R454). -/
def State.domGoesOn (s : State) (d : Nat) : State := (s.wakeDone d).replayHeld.resumeTxns

/-- DOMAIN_OFF: a draining domain has drained. A wake in the meantime returns it to ON (R603); otherwise it reads OFF and loses
its contents. -/
def State.domainOff (s : State) (d : Nat) : State :=
  if s.fld (Fld.PWR_DOM_STATE d) = 3 ∧ s.domDrained d then
    if s.bit (Fld.PWR_DOM_REQ d) then (s.setFld (Fld.PWR_DOM_STATE d) 2).domGoesOn d
    else
      let s := s.setFld (Fld.PWR_DOM_STATE d) 0
      if d < 16 then s.hubDomainOff d else s.dieDomainOff ((d - 16) / 10) ((d - 16) % 10)
  else s

/-! ## A domain that comes up -/

/-- What follows when domain `d` is ON: waiting packets and accesses go on, Mica is initialised, an enabled Lode port trains, and a
die in reset may come back. -/
def State.domainUp (s : State) (d : Nat) : State :=
  let s := if 16 ≤ d ∧ (d - 16) % 10 = 9 then s.micaInitDone ((d - 16) / 10) else s
  let s := if h : 10 ≤ d ∧ d ≤ 13 then s.lodeDomain ⟨d - 10, by omega⟩ true else s
  let s := s.domGoesOn d
  if 16 ≤ d then s.dieBack ((d - 16) / 10) else s

/-- DOMAIN_ON: a waking domain reaches ON; with REQ = 0 it then drains (R600). -/
def State.domainOn (s : State) (d : Nat) : State :=
  if s.fld (Fld.PWR_DOM_STATE d) = 1 then
    let s := (s.setFld (Fld.PWR_DOM_STATE d) 2).domainUp d
    if s.bit (Fld.PWR_DOM_REQ d) then s else s.setFld (Fld.PWR_DOM_STATE d) 3
  else s

/-! ## The debug port (R455, R623) -/

/-- The debug port is open (R613, R614, R623): in TEST and DEV, and in RETURN during a diagnostic session. -/
def State.debugOpen (s : State) : Bool :=
  decide (s.lcState = 0) || decide (s.lcState = 1) || (decide (s.lcState = 3) && s.bit Fld.LCS_STATUS_DIAG)

/-- The hub register endpoint, which sends the debug port's memory requests. -/
def State.hubRegEp (s : State) : Ep := s.mkEp 4 0 1 15

end Sys2Proof.Machine
end

