-- ==== Sys2Proof/Machine/Isa.lean ====
section
/-! DEFINITION. The instructions of signal engines: the word of each, built from its fields as R273 to R301 lay them out, and
what its operation does in stage A. An instruction issues only where its word stands at the PC of a running engine. -/

namespace Sys2Proof.Machine

/-! ## Reading operands -/

/-- A scalar register. -/
def EngSt.sreg (v : EngSt) (n : BitVec 3) : Word := v.s.getD n.toNat 0

/-- A vector register. -/
def EngSt.vreg (v : EngSt) (n : BitVec 4) : W64 := v.v.getD n.toNat 0

/-- An accumulator. -/
def EngSt.acc (v : EngSt) (n : BitVec 2) : W384 := v.w.getD n.toNat 0

/-- The engine with a scalar register written at the end of stage A. -/
def EngSt.setS (v : EngSt) (n : BitVec 3) (x : Word) : EngSt := { v with s := listSet v.s n.toNat x }

/-- The engine with a vector register written at the end of stage A. -/
def EngSt.setV (v : EngSt) (n : BitVec 4) (x : W64) : EngSt := { v with v := listSet v.v n.toNat x }

/-! ## System class (R282 to R284) -/

/-- A SYS word. -/
def wSys (sop : Nat) (sr : BitVec 3) (cr : BitVec 4) (n : BitVec 13) (x : BitVec 32) : W64 :=
  engWord 0 (sop * 2 ^ 24 + sr.toNat * 2 ^ 21 + cr.toNat * 2 ^ 17 + n.toNat) x

/-- The engine identity that control register 11 reads (R284). -/
def EngRef.id (r : EngRef) : Word := BitVec.ofNat 32 (r.die.val * 2 ^ 16 + r.grp.val * 2 ^ 8 + r.eng.val)

/-- What a control register reads (R284). -/
def EngSt.ctrl (v : EngSt) (r : EngRef) (cr : Nat) : Word :=
  match cr with
  | 0 => v.sr
  | 1 => v.epc.setWidth 32
  | 2 => v.esr
  | 3 => v.vbase.setWidth 32
  | 4 => v.timer
  | 5 => v.treload
  | 6 => v.dbell
  | 7 => BitVec.ofNat 32 v.fcause
  | 8 => v.faddr.setWidth 32
  | 9 => BitVec.ofNat 32 (v.faddr.toNat / 2 ^ 32)
  | 10 => v.rcount.setWidth 32
  | _ => r.id

/-- A write of a control register (R284). -/
def EngSt.setCtrl (v : EngSt) (cr : Nat) (x : Word) : EngSt :=
  match cr with
  | 0 => { v with sr := srWrite v.sr x }
  | 1 => { v with epc := x.setWidth 10 }
  | 2 => { v with esr := x }
  | 3 => { v with vbase := x.setWidth 10 }
  | 4 => { v with timer := x, tevent := false }
  | 5 => { v with treload := x }
  | _ => { v with dbell := v.dbell &&& ~~~x }

/-- NOP: only its transfers; upsets that the engine's memories have suffered come first (R230, R282). -/
def execNop (r : EngRef) (up : Option Upset) (x : BitVec 32) (s : State) : Res :=
  onDevice (fun s =>
    let s := match up with
      | some u => s.setEng r.key ((s.eng r.key).upset u.mem.val u.word.toNat u.bit.val)
      | none => s
    s.issue r (wSys 0 0 0 0 x) fun _ c => .regs c) s

/-- RPT N (R251, R282). -/
def execRpt (r : EngRef) (n : BitVec 13) (x : BitVec 32) (s : State) : Res :=
  onDevice (fun s => s.issueWith r (wSys 1 0 0 n x) (fun _ => n.toNat) (fun _ => none) fun _ c => .regs c) s

/-- RPTS Ss (R251, R282). -/
def execRpts (r : EngRef) (ss : BitVec 3) (x : BitVec 32) (s : State) : Res :=
  let n := fun (v : EngSt) => (v.sreg ss).toNat % 2 ^ 13
  onDevice (fun s => s.issueWith r (wSys 2 ss 0 0 x) n (fun _ => none) fun v c =>
    if n v = 0 ∨ 4096 < n v then .illegal else .regs c) s

/-- HALT (R283). -/
def execHalt (r : EngRef) (s : State) : Res :=
  onDevice (fun s => s.issue r (wSys 3 0 0 0 0) fun _ c => .regs { c with run := .halted }) s

/-- WAIT (R283). -/
def execWait (r : EngRef) (s : State) : Res :=
  onDevice (fun s => s.issue r (wSys 4 0 0 0 0) fun _ c => .regs { c with run := .waiting }) s

/-- MOVTC CR, Ss (R284). -/
def execMovtc (r : EngRef) (cr : BitVec 4) (ss : BitVec 3) (x : BitVec 32) (s : State) : Res :=
  onDevice (fun s => s.issue r (wSys 5 ss cr 0 x) fun v c => .regs (c.setCtrl cr.toNat (v.sreg ss))) s

/-- MOVFC Sd, CR (R284). -/
def execMovfc (r : EngRef) (sd : BitVec 3) (cr : BitVec 4) (x : BitVec 32) (s : State) : Res :=
  onDevice (fun s => s.issue r (wSys 6 sd cr 0 x) fun v c => .regs (c.setS sd (v.ctrl r cr.toNat))) s

/-! ## Branches (R285 to R289) -/

/-- A BR word. -/
def wBr (kind : Nat) (cond : BitVec 4) (sc sd : BitVec 3) (target : BitVec 10) (x : BitVec 32) : W64 :=
  engWord 1 (kind * 2 ^ 26 + cond.toNat * 2 ^ 22 + sc.toNat * 2 ^ 19 + sd.toNat * 2 ^ 16 + target.toNat) x

/-- The condition of a branch on the values at the start of stage A. -/
def EngSt.taken (v : EngSt) (cond : BitVec 4) (sc : BitVec 3) : Bool := condMet cond.toNat v.sr (v.sreg sc)

/-- The target of a branch, or the instruction after its delay slots (R288). -/
def EngSt.next3 (v : EngSt) (taken : Bool) (t : BitVec 10) : BitVec 10 := if taken then t else v.pc + 3

/-- What every conditional branch writes: DEC counts its register down, a taken branch may start a loop (R234, R286). -/
def EngSt.branchRegs (v c : EngSt) (cond : BitVec 4) (sc : BitVec 3) (t : BitVec 10) : EngSt :=
  let c := if cond = 7 then c.setS sc (v.sreg sc - 1) else c
  if v.taken cond sc then { c with loop := (v.noteBranch t).loop } else c

/-- B (R285 to R288). -/
def execB (r : EngRef) (cond : BitVec 4) (sc : BitVec 3) (target : BitVec 10) (x : BitVec 32) (s : State) : Res :=
  onDevice (fun s => s.issueWith r (wBr 0 cond sc 0 target x) (fun _ => 0) (fun v => some (v.next3 (v.taken cond sc) target)) fun v c =>
    .regs (v.branchRegs c cond sc target)) s

/-- CALL: Sd takes b + 3 when taken (R285). -/
def execCall (r : EngRef) (cond : BitVec 4) (sc sd : BitVec 3) (target : BitVec 10) (x : BitVec 32) (s : State) : Res :=
  onDevice (fun s => s.issueWith r (wBr 1 cond sc sd target x) (fun _ => 0) (fun v => some (v.next3 (v.taken cond sc) target)) fun v c =>
    let c := v.branchRegs c cond sc target
    .regs (if v.taken cond sc then c.setS sd ((v.pc + 3).setWidth 32) else c)) s

/-- JR: to Sd[9:0] (R285). -/
def execJr (r : EngRef) (cond : BitVec 4) (sc sd : BitVec 3) (x : BitVec 32) (s : State) : Res :=
  let t := fun (v : EngSt) => (v.sreg sd).setWidth 10
  onDevice (fun s => s.issueWith r (wBr 2 cond sc sd 0 x) (fun _ => 0) (fun v => some (v.next3 (v.taken cond sc) (t v))) fun v c =>
    .regs (v.branchRegs c cond sc (t v))) s

/-- RETI: to EPC; SR takes ESR when the instruction there reaches stage A (R285, R289). -/
def execReti (r : EngRef) (x : BitVec 32) (s : State) : Res :=
  onDevice (fun s => s.issueWith r (wBr 3 0 0 0 0 x) (fun _ => 0) (fun v => some v.epc) fun v c =>
    .regs { c with reti := some (v.esr &&& srMask), loop := (v.noteBranch v.epc).loop }) s

/-! ## Scalar classes (R290 to R292) -/

/-- A SALU word. -/
def wSalu (op : Nat) (sd sa sb : BitVec 3) (x : BitVec 32) : W64 :=
  engWord 2 (op * 2 ^ 23 + sd.toNat * 2 ^ 20 + sa.toNat * 2 ^ 17 + sb.toNat * 2 ^ 14) x

/-- A scalar result into Sd, with SR.Z (R292). -/
def EngSt.scalar (c : EngSt) (sd : BitVec 3) (res : Option Word) : OpRes :=
  match res with
  | some y => .regs { c.setS sd y with sr := srZ c.sr y }
  | none => .illegal

/-- A SALU instruction issues. -/
def State.salu (s : State) (op : Nat) (r : EngRef) (sd sa sb : BitVec 3) (x : BitVec 32) : Res :=
  onDevice (fun s => s.issue r (wSalu op sd sa sb x) fun v c => c.scalar sd (saluOp op (v.sreg sa) (v.sreg sb))) s

/-- ADD (R290). -/
def execAdd (r : EngRef) (sd sa sb : BitVec 3) (x : BitVec 32) (s : State) : Res := s.salu 0 r sd sa sb x

/-- SUB (R290). -/
def execSub (r : EngRef) (sd sa sb : BitVec 3) (x : BitVec 32) (s : State) : Res := s.salu 1 r sd sa sb x

/-- AND (R290). -/
def execAnd (r : EngRef) (sd sa sb : BitVec 3) (x : BitVec 32) (s : State) : Res := s.salu 2 r sd sa sb x

/-- OR (R290). -/
def execOr (r : EngRef) (sd sa sb : BitVec 3) (x : BitVec 32) (s : State) : Res := s.salu 3 r sd sa sb x

/-- XOR (R290). -/
def execXor (r : EngRef) (sd sa sb : BitVec 3) (x : BitVec 32) (s : State) : Res := s.salu 4 r sd sa sb x

/-- SHL (R290). -/
def execShl (r : EngRef) (sd sa sb : BitVec 3) (x : BitVec 32) (s : State) : Res := s.salu 5 r sd sa sb x

/-- SHR (R290). -/
def execShr (r : EngRef) (sd sa sb : BitVec 3) (x : BitVec 32) (s : State) : Res := s.salu 6 r sd sa sb x

/-- SRA (R290). -/
def execSra (r : EngRef) (sd sa sb : BitVec 3) (x : BitVec 32) (s : State) : Res := s.salu 7 r sd sa sb x

/-- SLT (R290). -/
def execSlt (r : EngRef) (sd sa sb : BitVec 3) (x : BitVec 32) (s : State) : Res := s.salu 8 r sd sa sb x

/-- SLTU (R290). -/
def execSltu (r : EngRef) (sd sa sb : BitVec 3) (x : BitVec 32) (s : State) : Res := s.salu 9 r sd sa sb x

/-- MIN (R290). -/
def execMin (r : EngRef) (sd sa sb : BitVec 3) (x : BitVec 32) (s : State) : Res := s.salu 10 r sd sa sb x

/-- MAX (R290). -/
def execMax (r : EngRef) (sd sa sb : BitVec 3) (x : BitVec 32) (s : State) : Res := s.salu 11 r sd sa sb x

/-- MUL (R290). -/
def execMul (r : EngRef) (sd sa sb : BitVec 3) (x : BitVec 32) (s : State) : Res := s.salu 12 r sd sa sb x

/-- MOV: Sb must be 0 (R290). -/
def execMov (r : EngRef) (sd sa : BitVec 3) (x : BitVec 32) (s : State) : Res := s.salu 13 r sd sa 0 x

/-- CARRY (R290). -/
def execCarry (r : EngRef) (sd sa sb : BitVec 3) (x : BitVec 32) (s : State) : Res := s.salu 14 r sd sa sb x

/-- A SIMM word. -/
def wSimm (op : Nat) (sd sa : BitVec 3) (imm : BitVec 16) (x : BitVec 32) : W64 :=
  engWord 3 (op * 2 ^ 24 + sd.toNat * 2 ^ 21 + sa.toNat * 2 ^ 18 + imm.toNat) x

/-- A SIMM instruction issues. -/
def State.simm (s : State) (op : Nat) (r : EngRef) (sd sa : BitVec 3) (imm : BitVec 16) (x : BitVec 32) : Res :=
  onDevice (fun s => s.issue r (wSimm op sd sa imm x) fun v c => c.scalar sd (simmOp op (v.sreg sa) imm)) s

/-- ADDI (R291). -/
def execAddi (r : EngRef) (sd sa : BitVec 3) (imm : BitVec 16) (x : BitVec 32) (s : State) : Res := s.simm 0 r sd sa imm x

/-- ANDI (R291). -/
def execAndi (r : EngRef) (sd sa : BitVec 3) (imm : BitVec 16) (x : BitVec 32) (s : State) : Res := s.simm 1 r sd sa imm x

/-- ORI (R291). -/
def execOri (r : EngRef) (sd sa : BitVec 3) (imm : BitVec 16) (x : BitVec 32) (s : State) : Res := s.simm 2 r sd sa imm x

/-- XORI (R291). -/
def execXori (r : EngRef) (sd sa : BitVec 3) (imm : BitVec 16) (x : BitVec 32) (s : State) : Res := s.simm 3 r sd sa imm x

/-- SHLI (R291). -/
def execShli (r : EngRef) (sd sa : BitVec 3) (imm : BitVec 16) (x : BitVec 32) (s : State) : Res := s.simm 4 r sd sa imm x

/-- SHRI (R291). -/
def execShri (r : EngRef) (sd sa : BitVec 3) (imm : BitVec 16) (x : BitVec 32) (s : State) : Res := s.simm 5 r sd sa imm x

/-- SRAI (R291). -/
def execSrai (r : EngRef) (sd sa : BitVec 3) (imm : BitVec 16) (x : BitVec 32) (s : State) : Res := s.simm 6 r sd sa imm x

/-- LI: Sa must be 0 (R291). -/
def execLi (r : EngRef) (sd : BitVec 3) (imm : BitVec 16) (x : BitVec 32) (s : State) : Res := s.simm 7 r sd 0 imm x

/-- LUI: Sa must be 0 (R291). -/
def execLui (r : EngRef) (sd : BitVec 3) (imm : BitVec 16) (x : BitVec 32) (s : State) : Res := s.simm 8 r sd 0 imm x

/-- SLTI (R291). -/
def execSlti (r : EngRef) (sd sa : BitVec 3) (imm : BitVec 16) (x : BitVec 32) (s : State) : Res := s.simm 9 r sd sa imm x

/-! ## Address register class (R293) -/

/-- An AREG word. -/
def wAreg (aop : Nat) (ar : BitVec 3) (fld : BitVec 2) (sr : BitVec 3) (imm : BitVec 11) (x : BitVec 32) : W64 :=
  engWord 4 (aop * 2 ^ 26 + ar.toNat * 2 ^ 23 + fld.toNat * 2 ^ 21 + sr.toNat * 2 ^ 18 + imm.toNat) x

/-- A field of an address register: A, B, L, M. -/
def AReg.get (a : AReg) (fld : BitVec 2) : Word :=
  match fld.toNat with
  | 0 => a.a.setWidth 32
  | 1 => a.b.setWidth 32
  | 2 => a.l.setWidth 32
  | _ => a.m.signExtend 32

/-- The address register with a field written; A and B ignore bit 10. -/
def AReg.put (a : AReg) (fld : BitVec 2) (v : BitVec 11) : AReg :=
  match fld.toNat with
  | 0 => { a with a := v.setWidth 10 }
  | 1 => { a with b := v.setWidth 10 }
  | 2 => { a with l := v }
  | _ => { a with m := v }

/-- An address register. -/
def EngSt.areg (v : EngSt) (n : BitVec 3) : AReg := v.ar.getD n.toNat AReg.fresh

/-- The engine with an address register replaced. -/
def EngSt.setAr (v : EngSt) (n : BitVec 3) (a : AReg) : EngSt := { v with ar := listSet v.ar n.toNat a }

/-- SETI (R293). -/
def execSeti (r : EngRef) (ar : BitVec 3) (fld : BitVec 2) (imm : BitVec 11) (x : BitVec 32) (s : State) : Res :=
  onDevice (fun s => s.issue r (wAreg 0 ar fld 0 imm x) fun _ c => .regs (c.setAr ar ((c.areg ar).put fld imm))) s

/-- SETS (R293). -/
def execSets (r : EngRef) (ar : BitVec 3) (fld : BitVec 2) (sr : BitVec 3) (x : BitVec 32) (s : State) : Res :=
  onDevice (fun s => s.issue r (wAreg 1 ar fld sr 0 x) fun v c => .regs (c.setAr ar ((c.areg ar).put fld ((v.sreg sr).setWidth 11)))) s

/-- GET (R293). -/
def execGet (r : EngRef) (ar : BitVec 3) (fld : BitVec 2) (sr : BitVec 3) (x : BitVec 32) (s : State) : Res :=
  onDevice (fun s => s.issue r (wAreg 2 ar fld sr 0 x) fun v c => .regs (c.setS sr ((v.areg ar).get fld))) s

/-- ADDA: the circular update with modifier IMM (R279, R293). -/
def execAdda (r : EngRef) (ar : BitVec 3) (imm : BitVec 11) (x : BitVec 32) (s : State) : Res :=
  onDevice (fun s => s.issue r (wAreg 3 ar 0 0 imm x) fun v c =>
    .regs (c.setAr ar { c.areg ar with a := (v.areg ar).circular imm.toInt })) s

/-! ## Multiply-accumulate class (R240 to R243, R294, R295) -/

/-- A MAC word. -/
def wMac (fmt : Nat) (wd : BitVec 2) (va vb vc : BitVec 4) (sa sb neg clr : Bool) (x : BitVec 32) : W64 :=
  engWord 5 (fmt * 2 ^ 26 + wd.toNat * 2 ^ 24 + va.toNat * 2 ^ 20 + vb.toNat * 2 ^ 16 + vc.toNat * 2 ^ 12
    + b2n sa * 2 ^ 11 + b2n sb * 2 ^ 10 + b2n neg * 2 ^ 9 + b2n clr * 2 ^ 8) x

/-- A MAC instruction issues: the accumulator and its OV bit. -/
def State.mac (s : State) (r : EngRef) (w : W64) (wd : BitVec 2) (va vb vc : BitVec 4) : Res :=
  onDevice (fun s => s.issue r w fun v c =>
    let (a, o) := macOp w (v.vreg va) (v.vreg vb) (v.vreg vc) (v.acc wd)
    .ok c (listSet v.w wd.toNat a) (if o then 2 ^ wd.toNat else 0) []) s

/-- MAC_INT8 (R240, R241, R295). -/
def execMacInt8 (r : EngRef) (wd : BitVec 2) (va vb vc : BitVec 4) (sa sb neg clr : Bool) (x : BitVec 32) (s : State) : Res :=
  s.mac r (wMac 0 wd va vb vc sa sb neg clr x) wd va vb vc

/-- MAC_18X27 (R240, R241, R295). -/
def execMac18x27 (r : EngRef) (wd : BitVec 2) (va vb : BitVec 4) (sa sb neg clr : Bool) (x : BitVec 32) (s : State) : Res :=
  s.mac r (wMac 1 wd va vb 0 sa sb neg clr x) wd va vb 0

/-- MAC_BF16 (R240, R242, R295). -/
def execMacBf16 (r : EngRef) (wd : BitVec 2) (va vb : BitVec 4) (neg clr : Bool) (x : BitVec 32) (s : State) : Res :=
  s.mac r (wMac 2 wd va vb 0 false false neg clr x) wd va vb 0

/-- MAC_FP32 (R240, R242, R243, R295). -/
def execMacFp32 (r : EngRef) (wd : BitVec 2) (va vb : BitVec 4) (neg clr : Bool) (x : BitVec 32) (s : State) : Res :=
  s.mac r (wMac 3 wd va vb 0 false false neg clr x) wd va vb 0

/-! ## Accumulator class (R296 to R299) -/

/-- An ACC word. -/
def wAcc (aop : Nat) (wd : BitVec 2) (v : BitVec 4) (mo : BitVec 3) (q : BitVec 4) (sh : BitVec 6) (rnd : Bool)
    (x : BitVec 32) : W64 :=
  engWord 6 (aop * 2 ^ 25 + wd.toNat * 2 ^ 23 + v.toNat * 2 ^ 19 + mo.toNat * 2 ^ 16 + q.toNat * 2 ^ 12 + sh.toNat * 2 ^ 6
    + b2n rnd * 2 ^ 5) x

/-- ACLR (R296). -/
def execAclr (r : EngRef) (wd : BitVec 2) (x : BitVec 32) (s : State) : Res :=
  onDevice (fun s => s.issue r (wAcc 0 wd 0 0 0 0 false x) fun v c => .ok c (listSet v.w wd.toNat 0) 0 []) s

/-- AMOV: reads the accumulator without the two instructions before it; V lands at the end of stage M (R249, R297, R298). -/
def execAmov (r : EngRef) (wd : BitVec 2) (vd : BitVec 4) (mo : BitVec 3) (q : BitVec 4) (sh : BitVec 6) (rnd : Bool)
    (x : BitVec 32) (s : State) : Res :=
  onDevice (fun s => s.issue r (wAcc 1 wd vd mo q sh rnd x) fun v c =>
    .ok c v.w 0 [.v vd.toNat (amovOp mo.toNat q.toNat sh.toNat rnd (v.w2.getD wd.toNat 0))]) s

/-- ALD (R299). -/
def execAld (r : EngRef) (wd : BitVec 2) (vs : BitVec 4) (mo : BitVec 3) (q : BitVec 4) (sh : BitVec 6) (x : BitVec 32)
    (s : State) : Res :=
  onDevice (fun s => s.issue r (wAcc 2 wd vs mo q sh false x) fun v c =>
    .ok c (listSet v.w wd.toNat (aldOp mo.toNat q.toNat sh.toNat (v.vreg vs) (v.acc wd))) 0 []) s

/-! ## Vector and stream class (R254, R255, R300) -/

/-- A VEC word. -/
def wVec (vop : Nat) (dst va : BitVec 4) (ss : BitVec 3) (h port : Bool) (x : BitVec 32) : W64 :=
  engWord 7 (vop * 2 ^ 24 + dst.toNat * 2 ^ 20 + va.toNat * 2 ^ 16 + ss.toNat * 2 ^ 13 + b2n h * 2 ^ 12 + b2n port * 2 ^ 11) x

/-- VMOV (R300). -/
def execVmov (r : EngRef) (vd va : BitVec 4) (x : BitVec 32) (s : State) : Res :=
  onDevice (fun s => s.issue r (wVec 0 vd va 0 false false x) fun v c => .regs (c.setV vd (v.vreg va))) s

/-- VINS: one half of Vd takes Ss (R300). -/
def execVins (r : EngRef) (vd : BitVec 4) (ss : BitVec 3) (h : Bool) (x : BitVec 32) (s : State) : Res :=
  onDevice (fun s => s.issue r (wVec 1 vd 0 ss h false x) fun v c =>
    let o := v.vreg vd
    .regs (c.setV vd (if h then v.sreg ss ++ o.setWidth 32 else (o >>> (32 : Nat)).setWidth 32 ++ v.sreg ss))) s

/-- VEXT: Sd takes one half of Va (R300). -/
def execVext (r : EngRef) (sd : BitVec 3) (va : BitVec 4) (h : Bool) (x : BitVec 32) (s : State) : Res :=
  onDevice (fun s => s.issue r (wVec 2 (sd.setWidth 4) va 0 h false x) fun v c =>
    let o := v.vreg va
    .regs (c.setS sd (if h then (o >>> (32 : Nat)).setWidth 32 else o.setWidth 32))) s

/-- SIN: a stream word into Vd; the pipeline freezes while the FIFO is empty, poison faults (R254, R255). -/
def execSin (r : EngRef) (vd : BitVec 4) (port : Bool) (x : BitVec 32) (s : State) : Res :=
  onDevice (fun s => s.issue r (wVec 3 vd 0 0 false port x) fun v c =>
    match (if port then v.sin1 else v.sin0) with
    | [] => .freeze (2 ^ b2n port)
    | w :: rest =>
      if w.2 then .spoison (b2n port)
      else .regs (if port then { c.setV vd w.1 with sin1 := rest } else { c.setV vd w.1 with sin0 := rest })) s

/-- SOUT: a word to a stream output; the pipeline freezes while the FIFO is full (R254). -/
def execSout (r : EngRef) (port : Bool) (va : BitVec 4) (x : BitVec 32) (s : State) : Res :=
  onDevice (fun s => s.issue r (wVec 4 0 va 0 false port x) fun v c =>
    if 4 ≤ (if port then v.sout1 else v.sout0).length then .freeze (4 * 2 ^ b2n port)
    else .regs (if port then { c with sout1 := c.sout1 ++ [v.vreg va] } else { c with sout0 := c.sout0 ++ [v.vreg va] })) s

/-- VSPL: both halves of Vd take Ss (R300). -/
def execVspl (r : EngRef) (vd : BitVec 4) (ss : BitVec 3) (x : BitVec 32) (s : State) : Res :=
  onDevice (fun s => s.issue r (wVec 5 vd 0 ss false false x) fun v c => .regs (c.setV vd (v.sreg ss ++ v.sreg ss))) s

/-! ## Ring class (R270, R301 to R304) -/

/-- A RING word. -/
def wRing (rc : Nat) (mem : Bool) (sa sb sc : BitVec 3) (len : BitVec 5) (atop : BitVec 3) (x : BitVec 32) : W64 :=
  engWord 8 (rc * 2 ^ 24 + b2n mem * 2 ^ 23 + sa.toNat * 2 ^ 20 + sb.toNat * 2 ^ 17 + sc.toNat * 2 ^ 14 + len.toNat * 2 ^ 9
    + atop.toNat * 2 ^ 6) x

/-- A ring command issues: checked, held while eight are outstanding, then given to the group port, which sends what it may. -/
def State.ringIssue (s : State) (r : EngRef) (rc : Nat) (mem : Bool) (sa sb sc : BitVec 3) (len : BitVec 5) (atop : BitVec 3)
    (x : BitVec 32) : Res :=
  onDevice (fun s => (s.issue r (wRing rc mem sa sb sc len atop x) fun v c =>
    let addr : BitVec 48 := ((v.sreg (sa + 1)).setWidth 16) ++ (v.sreg sa)
    if ¬ringAligned rc addr (v.sreg sc) then .illegal
    else if rc ≠ 6 ∧ 8 ≤ v.outstanding then .freeze 0
    else .regs (c.enqueue r.eng.val { rc := rc, sent := false, tag := 0, mem := mem, loc := (v.sreg sc).setWidth 10,
                                      len := len.toNat, addr := addr, dst := (v.sreg sb).toNat % 2 ^ 27,
                                      bells := v.sreg sc, atop := atop.toNat })).ringPump r) s

/-- RLD (R301, R302). -/
def execRld (r : EngRef) (mem : Bool) (sa sb sc : BitVec 3) (x : BitVec 32) (s : State) : Res :=
  s.ringIssue r 0 mem sa sb sc 0 0 x

/-- RST (R301, R302). -/
def execRst (r : EngRef) (mem : Bool) (sa sb sc : BitVec 3) (x : BitVec 32) (s : State) : Res :=
  s.ringIssue r 1 mem sa sb sc 0 0 x

/-- RLDNC (R301, R302). -/
def execRldnc (r : EngRef) (mem : Bool) (sa sb sc : BitVec 3) (len : BitVec 5) (x : BitVec 32) (s : State) : Res :=
  s.ringIssue r 2 mem sa sb sc len 0 x

/-- RSTNC (R301, R302). -/
def execRstnc (r : EngRef) (mem : Bool) (sa sb sc : BitVec 3) (len : BitVec 5) (x : BitVec 32) (s : State) : Res :=
  s.ringIssue r 3 mem sa sb sc len 0 x

/-- RDB (R301, R302). -/
def execRdb (r : EngRef) (sa sb sc : BitVec 3) (x : BitVec 32) (s : State) : Res :=
  s.ringIssue r 4 false sa sb sc 0 0 x

/-- RATOM (R301, R302). -/
def execRatom (r : EngRef) (mem : Bool) (sa sb sc : BitVec 3) (atop : BitVec 3) (x : BitVec 32) (s : State) : Res :=
  s.ringIssue r 5 mem sa sb sc 0 atop x

/-- RFENCE (R304). -/
def execRfence (r : EngRef) (x : BitVec 32) (s : State) : Res := s.ringIssue r 6 false 0 0 0 0 0 x

/-! ## Engine events (R254, R258 to R270) -/

/-- INTERRUPT_ENTRY (R261, R283). -/
def execInterruptEntry (r : EngRef) (s : State) : Res := onDevice (fun s => s.interruptEntry r) s

/-- ENGINE_TIMER_EXPIRY (R260). -/
def execEngineTimerExpiry (r : EngRef) (s : State) : Res :=
  onDevice (fun s => if s.engClock r.die.val r.g then s.setEng r.key (s.eng r.key).timerExpiry else s) s

/-- RING_COMMAND_COMPLETE (R270). -/
def execRingCommandComplete (n : Nat) (s : State) : Res := onDevice (fun s => s.ringComplete n) s

/-- LOADER_ACCESS_FORCED: an access to X or Y memory that waits is served (R268). -/
def execLoaderAccessForced (n : Nat) (s : State) : Res :=
  onDevice (fun s => match s.inbox[n]? with
    | some x =>
      if portKind x.ep = .group ∧ (x.pkt.cmd = 8 ∨ x.pkt.cmd = 9) ∧ natBits x.pkt.addr.toNat 15 14 ≠ 0 then s.groupMem n x else s
    | none => s) s

/-- STREAM_TRANSFER (R254). -/
def execStreamTransfer (r : EngRef) (port : Fin 4) (w : W64) (poison : Bool) (s : State) : Res :=
  onDevice (fun s => s.stream r port.val w poison) s

end Sys2Proof.Machine
end

