-- ==== Sys2Proof/Machine/AccessRows.lean ====
section
/-! DEFINITION. The meanings of the rows about: register accesses, guards, semaphores and revocation (R54 to R83). -/

namespace Sys2Proof.Machine

/-- A register access over a path. Over the management port it is a frame, over a PCIe port a BAR0 access; with path `ring` it stands
for the performance of a packet that a grant allows. -/
def State.regAccess (s : State) (path : Path) (addr : Nat) (shapeOk : Bool) (value : Option Word) (id : Nat) : State :=
  if ¬s.pathUp path then s
  else
    match path with
    | .mgmt => s.mgmtFrame addr value
    | .pcie port => s.barAccess port addr shapeOk value id
    | _ => s.request path addr shapeOk value id

/-- The boundary of the register at `addr` comes: its waiting write applies (R23, R64). Wire pairs, pins and regional trees apply theirs
with what belongs to their boundary. Commits and starts have rows of their own. -/
def State.shadowApply (s : State) (addr : Nat) : State :=
  match boundaryOf addr, blockAt addr with
  | some .packet, _ => (s.applyShadow addr).portsPump
  | some .linkEpoch, some b =>
    if b.desc.blk = .str then s.pairEpoch (s.fld Fld.STR_CTRL_EPOCH) ((addr - Reg.STR_WPAIR 0) / 8) else s.applyShadow addr
  | some .pinFrame, _ => s.pinApply ((addr - Reg.PIN_CFG 0) / 4)
  | some .clockReset, some b => s.treeReset b.die b.inst (b.off / 4)
  | _, _ => s

/-- A write to a control register of the block at `addr`, `back` bytes before the block's end (R53). -/
def State.controlRow (s : State) (path : Path) (addr back : Nat) (v : Word) : State :=
  match blockAt addr with
  | none => s.writeReg path addr v
  | some b => s.writeReg path (b.base + b.desc.size - back) v

/-- The arm of the block at `addr` lapses (R72). -/
def State.armLapse (s : State) (addr : Nat) : State :=
  match blockAt addr with
  | none => s
  | some b => s.disarm b.base

/-- REGISTER_WRITE: a register access over a path; without a value it is a read, whose PCIe request is `id` (R54, R64). -/
def execRegisterWrite (path : Path) (addr : Nat) (shapeOk : Bool) (value : Option Word) (id : Nat) (s : State) : Res :=
  always (fun s => s.regAccess path addr shapeOk value id) s

/-- SHADOW_APPLY: the boundary of a register with a waiting write (R64). -/
def execShadowApply (addr : Nat) (s : State) : Res := onDevice (fun s => s.shadowApply addr) s

/-- PEND_CANCEL: CANCEL in the PEND register of the block at `addr` (R66). -/
def execPendCancel (path : Path) (addr : Nat) (s : State) : Res := always (fun s => s.controlRow path addr 0x10 2) s

/-- GUARD_LOCK: LOCK in the GUARD register of the block at `addr` (R70). -/
def execGuardLock (path : Path) (addr : Nat) (s : State) : Res := always (fun s => s.controlRow path addr 0x0C 1) s

/-- UNLOCK: a write to the UNLOCK register of the block at `addr` (R72). -/
def execUnlock (path : Path) (addr : Nat) (v : Word) (s : State) : Res :=
  always (fun s => s.controlRow path addr 0x08 v) s

/-- K_ARM_LAPSE: an unused arm of the block at `addr` lapses after 100 µs (R72). -/
def execKArmLapse (addr : Nat) (s : State) : Res := onDevice (fun s => s.armLapse addr) s

/-- MGMT_READ: a READ frame (R56). -/
def execMgmtRead (addr : Word) (s : State) : Res := always (fun s => s.mgmtSample (MgmtReq.read addr).mdi) s

/-- MGMT_WRITE: a WRITE frame (R56). -/
def execMgmtWrite (addr v : Word) (s : State) : Res := always (fun s => s.mgmtSample (MgmtReq.write addr v).mdi) s

/-- MGMT_STATUS: a STATUS frame (R58). -/
def execMgmtStatus (s : State) : Res := always (fun s => s.mgmtSample MgmtReq.status.mdi) s

/-- MGMT_FRAME_ABANDON: MSEL_N ends a frame before its sync byte (R57). -/
def execMgmtFrameAbandon (s : State) : Res := always (fun s => s.mgmtAbandon) s

/-- MGMT_TIMEOUT: a block has not answered within 1 ms (R57). -/
def execMgmtTimeout (s : State) : Res := always (fun s => s.mgmtTimeout) s

/-- SEM_ACQUIRE: take semaphore `k` (R78). -/
def execSemAcquire (path : Path) (k : Fin 64) (s : State) : Res :=
  always (fun s => s.writeReg path (Reg.FLN_SEM_OP k.val) 1) s

/-- SEM_RELEASE: free semaphore `k` (R78). -/
def execSemRelease (path : Path) (k : Fin 64) (s : State) : Res :=
  always (fun s => s.writeReg path (Reg.FLN_SEM_OP k.val) 0) s

/-- FLN_REVOKE: an owner is declared faulted (R79). -/
def execFlnRevoke (path : Path) (owner : Word) (s : State) : Res :=
  always (fun s => s.writeReg path Reg.FLN_REVOKE owner) s

/-- REVOCATION_COMPLETE: the effects of R76 on an owner's resources are complete (R80). -/
def execRevocationComplete (owner : Word) (s : State) : Res := onDevice (fun s => s.revocationDone owner) s

end Sys2Proof.Machine
end

