-- ==== Sys2Proof/Machine/ClockRows.lean ====
section
/-! DEFINITION. The meanings of the rows about: PLLs, spines, regional trees and the clock manager (R143 to R172, R583 to R593, R686). -/

namespace Sys2Proof.Machine

/-- A write to CLK_CTRL that sets enable bit `n` to `en`, leaves the other enable, and carries `sel` as AONSEL. -/
def State.clkWrite (s : State) (path : Path) (n : Nat) (en : Bool) (sel : Nat) : State :=
  let v := BitVec.ofNat 32 (2 ^ 31 * b2n (s.bit Fld.CLK_CTRL_REFA_EN) + 2 ^ 30 * b2n (s.bit Fld.CLK_CTRL_REFB_EN) + sel)
  s.writeReg path Reg.CLK_CTRL (setBits v n n (b2n en))

/-- PLL_SETTING_WRITE: a write to PLL_CTRL, PLL_FRAC or PLL_OUT (R147). -/
def execPllSettingWrite (path : Path) (d : Fin 4) (p : Fin 8) (which : Fin 3) (v : Word) (s : State) : Res :=
  always (fun s => s.writeReg path (Reg.SPL_PLL_CTRL d.val p.val + 4 * which.val) v) s

/-- PLL_LOCK: a PLL locks (R149). -/
def execPllLock (d : Fin 4) (p : Fin 8) (s : State) : Res := onDevice (fun s => s.pllLock d.val p.val) s

/-- PLL_LOSS_OF_LOCK: a PLL loses lock without a write (R150). -/
def execPllLossOfLock (d : Fin 4) (p : Fin 8) (s : State) : Res := onDevice (fun s => s.pllLose d.val p.val) s

/-- SPINE_WRITE: a write to SPL_SPINEk (R154). -/
def execSpineWrite (path : Path) (d : Fin 4) (k : Fin 16) (v : Word) (s : State) : Res :=
  always (fun s => s.writeReg path (Reg.SPL_SPINE d.val k.val) v) s

/-- TREE_SEL_WRITE: a write to a tree's SEL (R162). -/
def execTreeSelWrite (path : Path) (d : Fin 4) (sec : Fin 16) (t : Fin 24) (v : Word) (s : State) : Res :=
  always (fun s => s.writeReg path (Reg.SEC_RCLK d.val sec.val t.val) v) s

/-- TREE_SWITCH_COMPLETE: the edges that a switch waits for come (R162). -/
def execTreeSwitchComplete (d : Fin 4) (sec : Fin 16) (t : Fin 24) (s : State) : Res :=
  onDevice (fun s => s.treeComplete d.val sec.val t.val) s

/-- SEC_RCLK_RST: a region clock reset of the named trees (R169). -/
def execSecRclkRst (path : Path) (d : Fin 4) (sec : Fin 16) (v : Word) (s : State) : Res :=
  always (fun s => s.writeReg path (Reg.SEC_RCLK_RST d.val sec.val) v) s

/-- REFA_EN: a write of REFA_EN that leaves the rest of CLK_CTRL (R686). -/
def execRefaEn (path : Path) (en : Bool) (s : State) : Res := always (fun s => s.clkWrite path 31 en 0) s

/-- REFB_EN: a write of REFB_EN that leaves the rest of CLK_CTRL (R686). -/
def execRefbEn (path : Path) (en : Bool) (s : State) : Res := always (fun s => s.clkWrite path 30 en 0) s

/-- AONSEL: a write of AONSEL that leaves the enables (R586). -/
def execAonsel (path : Path) (sel : BitVec 2) (s : State) : Res :=
  always (fun s => s.clkWrite path 30 (s.bit Fld.CLK_CTRL_REFB_EN) sel.toNat) s

/-- START_DELAY_COMPLETE: REFA's start delay ends (R584). -/
def execStartDelayComplete (s : State) : Res := onDevice (fun s => s.startDelayDone) s

/-- REFB_QUALIFIED: 4,096 good cycles against MCLK or a present REFA (R583). -/
def execRefbQualified (mclk : Bool) (s : State) : Res := onDevice (fun s => s.refbQualified mclk) s

/-- REFERENCE_TRIP: the monitor finds REFA or REFB wrong (R587). -/
def execReferenceTrip (second mclk : Bool) (s : State) : Res :=
  onDevice (fun s => s.refTrip (if second then 2 else 1) mclk) s

/-- REFA_OSCILLATION_START: REFA's first cycle over the threshold (R584, R587). -/
def execRefaOscillationStart (s : State) : Res := onDevice (fun s => s.refaOscillates) s

/-- MCLK_WATCH: no AON edge during 64 MCLK edges (R589). -/
def execMclkWatch (s : State) : Res := onDevice (fun s => s.mclkWatch) s

/-- HOLDOVER_EXPIRY: 10 ms of holdover (R593). -/
def execHoldoverExpiry (s : State) : Res := onDevice (fun s => s.holdoverExpiry) s

end Sys2Proof.Machine
end

