-- ==== Sys2Proof/Machine/ConfigRows.lean ====
section
/-! DEFINITION. The meanings of the rows about: the configuration loader, scrubbing and probes (R543 to R582). -/

namespace Sys2Proof.Machine

/-- A loader command: the write of CFG_CMD over a path, or the loader-queue entry in hand if it has that OP (R556, R557). -/
def State.loaderRow (s : State) (src : Option Path) (op : Nat) (v : Word) : State :=
  match src with
  | some path => s.writeReg path Reg.CFG_CMD (setBits v 31 28 op)
  | none => ifUp (fun t => t.cfgQueue op) s

/-- LOADF, with the bytes that the flash answers from its offset on. -/
def State.loadfRow (s : State) (src : Option Path) (v : Word) (image : List Byte) : State :=
  let t := State.loaderRow { s with loader := { s.loader with flash := some image } } src 2 v
  { t with loader := { t.loader with flash := none } }

/-- A write to CFG_DATA, or a read of it. -/
def State.dataRow (s : State) (path : Path) (value : Option Word) (id : Nat) : State :=
  match value with
  | some v => s.writeReg path Reg.CFG_DATA v
  | none => s.readReg path Reg.CFG_DATA id

/-- CFG_LOCK_ACQUIRE: take the configuration-port lock (R555). -/
def execCfgLockAcquire (path : Path) (s : State) : Res := always (fun s => s.writeReg path Reg.CFG_LOCK_OP 1) s

/-- CFG_LOCK_RELEASE: free the configuration-port lock (R555). -/
def execCfgLockRelease (path : Path) (s : State) : Res := always (fun s => s.writeReg path Reg.CFG_LOCK_OP 0) s

/-- LOAD: LOAD by CFG_CMD over a path, or by the queue entry in hand (R558). -/
def execLoad (src : Option Path) (v : Word) (s : State) : Res := always (fun s => s.loaderRow src 1 v) s

/-- LOADF: LOADF, with what the flash answers (R561). -/
def execLoadf (src : Option Path) (v : Word) (image : List Byte) (s : State) : Res :=
  always (fun s => s.loadfRow src v image) s

/-- FREEZE: FREEZE of a region (R566). -/
def execFreeze (src : Option Path) (v : Word) (s : State) : Res := always (fun s => s.loaderRow src 3 v) s

/-- FREEZE_COMPLETE: every port of the frozen region has fenced (R566). -/
def execFreezeComplete (s : State) : Res := onDevice (fun s => s.freezeComplete) s

/-- COMMIT: COMMIT of a region (R571). -/
def execCommit (src : Option Path) (v : Word) (s : State) : Res := always (fun s => s.loaderRow src 4 v) s

/-- ABORT: ABORT of the open stream (R559). -/
def execAbort (src : Option Path) (v : Word) (s : State) : Res := always (fun s => s.loaderRow src 5 v) s

/-- CLEAR: CLEAR of a region (R568). -/
def execClear (src : Option Path) (v : Word) (s : State) : Res := always (fun s => s.loaderRow src 6 v) s

/-- CLEAR_COMPLETE: the region's frames are zeroed (R568). -/
def execClearComplete (s : State) : Res := onDevice (fun s => s.clearComplete) s

/-- READ: READ of frames (R575). -/
def execRead (src : Option Path) (v : Word) (s : State) : Res := always (fun s => s.loaderRow src 7 v) s

/-- CFG_LQ_TAIL: a write of the loader queue's tail (R557). -/
def execCfgLqTail (path : Path) (v : Word) (s : State) : Res := always (fun s => s.writeReg path Reg.CFG_LQ_TAIL v) s

/-- CFG_DATA: a write to CFG_DATA, or a read of it (R558, R575). -/
def execCfgData (path : Path) (value : Option Word) (id : Nat) (s : State) : Res :=
  always (fun s => s.dataRow path value id) s

/-- LOADER_BLOCK: the next block is verified and written (R559). -/
def execLoaderBlock (s : State) : Res := onDevice (fun s => s.loaderBlock) s

/-- LOADER_EPOCH: a loader epoch boundary (R569). -/
def execLoaderEpoch (s : State) : Res := onDevice (fun s => s.loaderEpoch) s

/-- COMMIT_EPOCH: the commits of the present epoch apply (R572). -/
def execCommitEpoch (s : State) : Res := onDevice (fun s => s.commitEpochs) s

/-- SCRUB_FRAME: the scrubber reads its next frame, and frames suffer the upsets `flips` (R574). -/
def execScrubFrame (d : Fin 4) (flips : List (Nat × Nat × Nat)) (s : State) : Res :=
  onDevice (fun s => s.scrubFrame d.val flips) s

/-- PRB_OWNER_OP: acquire or release the probe multiplexer (R578). -/
def execPrbOwnerOp (path : Path) (d : Fin 4) (op : Bool) (s : State) : Res :=
  always (fun s => s.writeReg path (Reg.PRB_OWNER_OP d.val) (BitVec.ofNat 32 (b2n op))) s

/-- PRB_SEL: a probe slot names a position (R579). -/
def execPrbSel (path : Path) (d : Fin 4) (k : Fin 256) (v : Word) (s : State) : Res :=
  always (fun s => s.writeReg path (Reg.PRB_SEL d.val k.val) v) s

/-- PRB_ARM: ARM = 1 (R580). -/
def execPrbArm (path : Path) (d : Fin 4) (v : Word) (s : State) : Res :=
  always (fun s => s.writeReg path (Reg.PRB_CTRL d.val) (setBits v 31 31 1)) s

/-- PRB_RDDATA: a read of PRBd_RDDATA (R580). -/
def execPrbRddata (path : Path) (d : Fin 4) (id : Nat) (s : State) : Res :=
  always (fun s => s.readReg path (Reg.PRB_RDDATA d.val) id) s

/-- PROBE_SAMPLE: an edge of the probe spine while armed (R580). -/
def execProbeSample (d : Fin 4) (s : State) : Res := onDevice (fun s => s.probeSample d.val) s

end Sys2Proof.Machine
end

