-- ==== Sys2Proof/Machine/EngineRows.lean ====
section
/-! DEFINITION. The meanings of the rows about: engine control registers (R258, R269). -/

namespace Sys2Proof.Machine

/-- What RUN writes to SEG_ECTLe: with a start address also USE_START and START. -/
def runWord (start : Option (BitVec 10)) : Word :=
  match start with
  | none => 0x80000000#32
  | some a => 0x90000000#32 ||| a.setWidth 32

/-- ENGINE_RESET: RESET in SEG_ECTLe (R258). -/
def execEngineReset (path : Path) (r : EngRef) (s : State) : Res :=
  always (fun s => s.writeReg path (Reg.SEG_ECTL r.die.val r.grp.val r.eng.val) 0x20000000) s

/-- ENGINE_HALT: HALT in SEG_ECTLe (R258). -/
def execEngineHalt (path : Path) (r : EngRef) (s : State) : Res :=
  always (fun s => s.writeReg path (Reg.SEG_ECTL r.die.val r.grp.val r.eng.val) 0x40000000) s

/-- ENGINE_RUN: RUN in SEG_ECTLe, with USE_START and START (R258). -/
def execEngineRun (path : Path) (r : EngRef) (start : Option (BitVec 10)) (s : State) : Res :=
  always (fun s => s.writeReg path (Reg.SEG_ECTL r.die.val r.grp.val r.eng.val) (runWord start)) s

/-- SEG_DBELL: a write to SEG_DBELLe (R269). -/
def execSegDbell (path : Path) (r : EngRef) (bells : Word) (s : State) : Res :=
  always (fun s => s.writeReg path (Reg.SEG_DBELL r.die.val r.grp.val r.eng.val) bells) s

end Sys2Proof.Machine
end

