-- ==== Sys2Proof/Machine/HostRows.lean ====
section
/-! DEFINITION. The meanings of the rows about: PCIe ports, queue pairs and the DMA engine (R483 to R513). -/

namespace Sys2Proof.Machine

/-- PCIE_LINK_UP: a port trains its link, and the host sets up its function (R483 to R485). -/
def execPcieLinkUp (port : Bool) (rate : Nat) (link : LinkHost) (s : State) : Res :=
  onDevice (fun s => s.pcieUp port rate link.width link.cfg) s

/-- PCIE_LINK_DOWN: a port loses its link (R509). -/
def execPcieLinkDown (port : Bool) (s : State) : Res := onDevice (fun s => (s.pcieDown port).hostPump) s

/-- FUNCTION_LEVEL_RESET: an FLR (R487). -/
def execFunctionLevelReset (port : Bool) (s : State) : Res := onDevice (fun s => (s.flr port).hostPump) s

/-- WINDOW_READ: a BAR4 read of `len` bytes at offset `off` (R489). -/
def execWindowRead (port : Bool) (id off len : Nat) (s : State) : Res :=
  onDevice (fun s => (s.windowRead port id off len).hostPump) s

/-- WINDOW_WRITE: a BAR4 write; bytes not enabled are none (R490). -/
def execWindowWrite (port : Bool) (off : Nat) (bytes : List (Option Byte)) (ep : Bool) (s : State) : Res :=
  onDevice (fun s => (s.windowWrite port off bytes ep).hostPump) s

/-- SQ_TAIL: an access of the SQ_TAIL doorbell (R496, R498). -/
def execSqTail (port : Bool) (q : Fin 256) (shapeOk : Bool) (v : BellOp) (s : State) : Res :=
  onDevice (fun s => s.bar2Access port q.val 0 shapeOk v) s

/-- CQ_HEAD: an access of the CQ_HEAD doorbell (R496, R498). -/
def execCqHead (port : Bool) (q : Fin 256) (shapeOk : Bool) (v : BellOp) (s : State) : Res :=
  onDevice (fun s => s.bar2Access port q.val 4 shapeOk v) s

/-- QUEUE_ENABLE: EN = 1 in QUE_Qq_CTRL (R495). -/
def execQueueEnable (path : Path) (q : Fin 256) (v : Word) (s : State) : Res :=
  always (fun s => s.writeReg path (Reg.QUE_Q_CTRL q.val) (setBits v 31 31 1)) s

/-- QUEUE_DELETE: EN = 0 in QUE_Qq_CTRL (R495). -/
def execQueueDelete (path : Path) (q : Fin 256) (v : Word) (s : State) : Res :=
  always (fun s => s.writeReg path (Reg.QUE_Q_CTRL q.val) (setBits v 31 31 0)) s

/-- SQ_ENTRY_FETCH: the device reads the next submission entry (R502). -/
def execSqEntryFetch (q : Fin 256) (s : State) : Res := onDevice (fun s => s.sqFetch q.val) s

/-- H2D: a chunk of an H2D descriptor starts (R501). -/
def execH2d (q : Fin 256) (num : Nat) (s : State) : Res := onDevice (fun s => s.dmaRun 1 q.val num) s

/-- D2H: a chunk of a D2H descriptor starts (R501). -/
def execD2h (q : Fin 256) (num : Nat) (s : State) : Res := onDevice (fun s => s.dmaRun 2 q.val num) s

/-- D2D: a chunk of a D2D descriptor starts (R501). -/
def execD2d (q : Fin 256) (num : Nat) (s : State) : Res := onDevice (fun s => s.dmaRun 3 q.val num) s

/-- H2P: a chunk of an H2P descriptor starts (R501). -/
def execH2p (q : Fin 256) (num : Nat) (s : State) : Res := onDevice (fun s => s.dmaRun 4 q.val num) s

/-- P2H: a chunk of a P2H descriptor starts (R501). -/
def execP2h (q : Fin 256) (num : Nat) (s : State) : Res := onDevice (fun s => s.dmaRun 5 q.val num) s

/-- DMA_DB: a DB descriptor sends its packet (R501). -/
def execDmaDb (q : Fin 256) (num : Nat) (s : State) : Res := onDevice (fun s => s.dmaRun 6 q.val num) s

/-- DMA_NOP: a NOP descriptor moves nothing (R501). -/
def execDmaNop (q : Fin 256) (num : Nat) (s : State) : Res := onDevice (fun s => s.dmaRun 7 q.val num) s

/-- DESCRIPTOR_FINISH: a finished descriptor completes (R508). -/
def execDescriptorFinish (q : Fin 256) (num : Nat) (s : State) : Res := onDevice (fun s => s.descFinish q.val num) s

/-- HOST_READ_COMPLETION: the completion of a read of host memory arrives (R505). -/
def execHostReadCompletion (id : Nat) (r : HostRead) (s : State) : Res := onDevice (fun s => s.hostReadEnd id r) s

/-- HOST_READ_TIMEOUT: a read of host memory gets no completion in time (R509). -/
def execHostReadTimeout (id : Nat) (s : State) : Res := onDevice (fun s => s.hostReadEnd id .timeout) s

end Sys2Proof.Machine
end

