-- ==== Sys2Proof/Machine/LifeRows.lean ====
section
/-! DEFINITION. The meanings of the rows about: life cycle, fuses, attestation and patches (R611 to R635). -/

namespace Sys2Proof.Machine

/-- TEST_TO_DEV: OP 1 (R613). -/
def execTestToDev (path : Path) (s : State) : Res := always (fun s => s.writeReg path Reg.LCS_LC_CMD 1) s

/-- DEV_TO_FIELD: OP 2 (R613). -/
def execDevToField (path : Path) (s : State) : Res := always (fun s => s.writeReg path Reg.LCS_LC_CMD 2) s

/-- TO_RETURN: OP 3 (R616). -/
def execToReturn (path : Path) (s : State) : Res := always (fun s => s.writeReg path Reg.LCS_LC_CMD 3) s

/-- TO_END: OP 4 (R617). -/
def execToEnd (path : Path) (s : State) : Res := always (fun s => s.writeReg path Reg.LCS_LC_CMD 4) s

/-- DIAGNOSTIC_SESSION: OP 5 (R613). -/
def execDiagnosticSession (path : Path) (s : State) : Res := always (fun s => s.writeReg path Reg.LCS_LC_CMD 5) s

/-- LC_COMMAND_DONE: the running life-cycle command finishes (R620). -/
def execLcCommandDone (s : State) : Res := onDevice (fun s => s.lcDone) s

/-- FUSE_OWNER_PK: FIELD 1 (R621). -/
def execFuseOwnerPk (path : Path) (s : State) : Res := always (fun s => s.writeReg path Reg.LCS_FUSE_CMD 1) s

/-- FUSE_OWNER_AES: FIELD 2 (R621). -/
def execFuseOwnerAes (path : Path) (s : State) : Res := always (fun s => s.writeReg path Reg.LCS_FUSE_CMD 2) s

/-- ATTESTATION: GO in LCS_ATT_CMD (R629). -/
def execAttestation (path : Path) (s : State) : Res := always (fun s => s.writeReg path Reg.LCS_ATT_CMD 0x80000000) s

/-- ATTESTATION_DONE: the report is signed; `bad` are leaves whose fuses cannot be used (R630). -/
def execAttestationDone (bad : List Nat) (s : State) : Res := onDevice (fun s => s.attDone bad) s

/-- PATCH_APPLY: GO in LCS_PATCH_CMD (R634). -/
def execPatchApply (path : Path) (s : State) : Res := always (fun s => s.writeReg path Reg.LCS_PATCH_CMD 0x80000000) s

end Sys2Proof.Machine
end

