-- ==== Sys2Proof/Machine/LinkRows.lean ====
section
/-! DEFINITION. The meanings of the rows about: Strata links, wire mode and bridge ports (R400 to R441). -/

namespace Sys2Proof.Machine

/-- A trained link becomes LIVE; a die in reset may come back with a bundle (R391, R406). -/
def State.bundleUp (s : State) (l : LinkRef) : State :=
  match l with
  | .bundle i => (s.bundleLive l).dieBack (i.val / 16)
  | _ => s.bundleLive l

/-- LINK_EPOCH: a link epoch boundary (R404). -/
def execLinkEpoch (s : State) : Res := onDevice (fun s => s.linkEpoch) s

/-- TRAINING_ATTEMPT: an attempt up to the link start, with the lanes that fail, the set that another device sends, and the copies of
training sets that arrive altered (R406, R407). -/
def execTrainingAttempt (l : LinkRef) (failRx failTx : Nat) (set : SentSet) (rekey : Bool) (s : State) : Res :=
  onDevice (fun s => s.trainingAttempt l failRx failTx set.bits rekey set.errs) s

/-- TRAINING_STEP_TIMEOUT: a training step overruns its time (R408). -/
def execTrainingStepTimeout (l : LinkRef) (s : State) : Res := onDevice (fun s => s.trainingTimeout l) s

/-- BUNDLE_LIVE: a trained link becomes LIVE (R406). -/
def execBundleLive (l : LinkRef) (s : State) : Res := onDevice (fun s => s.bundleUp l) s

/-- FORWARDED_CLOCK_LOSS: a forwarded clock is lost (R409). -/
def execForwardedClockLoss (l : LinkRef) (s : State) : Res := onDevice (fun s => s.clockLost l) s

/-- LINK_SLOT_RECEIVE: one slot of a link (R418). -/
def execLinkSlotReceive (l : LinkRef) (leaf : Bool) (x : Lanes) (ok : Bool) (s : State) : Res :=
  onDevice (fun s => s.linkSlot l leaf x ok) s

/-- BUNDLE_UNUSABLE: a bundle that is not usable gives its packets to the other bundle of its pair (R412). -/
def execBundleUnusable (i : Fin 64) (s : State) : Res := onDevice (fun s => s.unuse i) s

/-- LPARAM: maintenance packet `n`, an LPARAM, is handled (R422). -/
def execLparam (n : Nat) (s : State) : Res := onDevice (fun s => s.lparam n) s

/-- LPARAM_ACK: maintenance packet `n`, an LPARAM_ACK, is handled (R422). -/
def execLparamAck (n : Nat) (s : State) : Res := onDevice (fun s => s.lparamAck n) s

/-- ECHO: maintenance packet `n`, an ECHO, is answered (R422). -/
def execEcho (n : Nat) (s : State) : Res := onDevice (fun s => s.echo n) s

/-- ECHO_RSP: maintenance packet `n`, an ECHO_RSP, is handled (R422). -/
def execEchoRsp (n : Nat) (s : State) : Res := onDevice (fun s => s.echoRsp n State.trainingTimeout) s

/-- RETRAIN: maintenance packet `n`, a RETRAIN, is handled (R422). -/
def execRetrain (n : Nat) (s : State) : Res := onDevice (fun s => s.retrainMaint n) s

/-- CAPTRIG: maintenance packet `n`, a CAPTRIG, is handled (R440). -/
def execCaptrig (n : Nat) (s : State) : Res := onDevice (fun s => s.captrig n) s

/-- WIRE_DRAIN_END: every flit of a draining pair is acknowledged (R426). -/
def execWireDrainEnd (k : Fin 16) (s : State) : Res := onDevice (fun s => s.wireDrainEnd k.val) s

/-- WIRE_PAIR_DOWN: a connected pair goes DOWN (R430). -/
def execWirePairDown (k : Fin 16) (s : State) : Res := onDevice (fun s => s.wirePairDown k.val) s

/-- BRIDGE_PORT_ENABLE: a write to STR_BPk_CTRL (R434). -/
def execBridgePortEnable (path : Path) (k : Fin 8) (v : Word) (s : State) : Res :=
  always (fun s => s.writeReg path (Reg.STR_BP_CTRL k.val) v) s

/-- BRIDGE_PORT_ARRIVAL: a packet that has arrived on a bridge port is handled (R435). -/
def execBridgePortArrival (k : Fin 8) (s : State) : Res := onDevice (fun s => s.bridgeArrival k) s

/-- CAPTURE_ARM: ARM = 1 in STR_BPk_CAPCTRL (R440). -/
def execCaptureArm (path : Path) (k : Fin 8) (v : Word) (s : State) : Res :=
  always (fun s => s.writeReg path (Reg.STR_BP_CAPCTRL k.val) (setBits v 31 31 1)) s

/-- CAPTURE_SENDTRIG: SENDTRIG = 1 in STR_BPk_CAPCTRL (R440). -/
def execCaptureSendtrig (path : Path) (k : Fin 8) (v : Word) (s : State) : Res :=
  always (fun s => s.writeReg path (Reg.STR_BP_CAPCTRL k.val) (setBits v 28 28 1)) s

end Sys2Proof.Machine
end

