-- ==== Sys2Proof/Machine/LodeRows.lean ====
section
/-! DEFINITION. The meanings of the rows about: Lode ports (R514 to R532). -/

namespace Sys2Proof.Machine

/-- LOD_SYS: a write to LOD_SYS (R516). -/
def execLodSys (path : Path) (v : Word) (s : State) : Res := always (fun s => s.writeReg path (Reg.LOD_SYS 0) v) s

/-- LODE_ENABLE: a write to LOD_CTRL (R526). -/
def execLodeEnable (path : Path) (k : Fin 4) (v : Word) (s : State) : Res :=
  always (fun s => s.writeReg path (Reg.LOD_CTRL k.val) v) s

/-- LODE_TRAINING_SET: the partner's training set arrives, with the copies of it that are altered on the way (R407, R523). -/
def execLodeTrainingSet (k : Fin 4) (set : SentSet) (s : State) : Res :=
  onDevice (fun s => s.trainingSet k set.bits set.errs) s

/-- LODE_REKEY: REKEY = 1 in LOD_CTRL (R527). -/
def execLodeRekey (path : Path) (k : Fin 4) (v : Word) (s : State) : Res :=
  always (fun s => s.writeReg path (Reg.LOD_CTRL k.val) (setBits v 28 28 1)) s

/-- LODE_PORT_ARRIVAL: a packet that has arrived on a Lode port is handled (R517). -/
def execLodePortArrival (k : Fin 4) (s : State) : Res := onDevice (fun s => s.lodeArrival k) s

/-- LODE_PORT_DOWN: a Lode port stops being usable (R528). -/
def execLodePortDown (k : Fin 4) (s : State) : Res := onDevice (fun s => s.lodePortDown k) s

end Sys2Proof.Machine
end

