-- ==== Sys2Proof/Machine/RingRows.lean ====
section
/-! DEFINITION. The meanings of the rows about: the ring network and its ports (R307 to R365). -/

namespace Sys2Proof.Machine

/-- User logic injects a packet. An answer of the port itself is delivered at once, and so is that of a FENCE with nothing to wait
for (R323, R341, R384). -/
def State.userInject (s : State) (e : Ep) (p : Packet) : State :=
  if ¬s.userMay e then s
  else
    match s.inject e p .user with
    | .done t => t.releaseFence e
    | .answer t r => (t.presentTo e false r).releaseFence e
    | .wait => s

/-- Flight `n` is ejected, a packet for a bridge or Lode port onto its link (R319, R435, R517). -/
def State.eject (s : State) (n : Nat) : State :=
  s.ejectWith n s.groupPortEnabled fun t e p =>
    match portKind e with
    | .bridge k => if h : k < 8 then t.bridgeOut ⟨k, h⟩ p else some t
    | .lode _ => t.lodeOut e p
    | _ => some t

/-- PACKET_INJECT: user logic injects a packet at its fabric port (R323, R353). -/
def execPacketInject (e : Ep) (p : Packet) (s : State) : Res := onDevice (fun s => s.userInject e p) s

/-- ROUTER_FORWARD: flight `n` moves one hop (R325). -/
def execRouterForward (n : Nat) (s : State) : Res := onDevice (fun s => s.forward n) s

/-- EDGE_STOP_EXIT: flight `n` leaves its edge stop or die station by a bundle (R326). -/
def execEdgeStopExit (n : Nat) (s : State) : Res := onDevice (fun s => s.exitEdge n) s

/-- INGRESS_SWITCH: flight `n` is placed on its hub ring and stop (R327). -/
def execIngressSwitch (n : Nat) (s : State) : Res := onDevice (fun s => s.ingress n) s

/-- PACKET_EJECT: flight `n` is delivered to its local port (R319). -/
def execPacketEject (n : Nat) (s : State) : Res := onDevice (fun s => s.eject n) s

/-- DB: delivered packet `n`, a DB, is served (R269, R320). -/
def execDb (n : Nat) (s : State) : Res := onDevice (fun s => s.serve n 0x10) s

/-- MSG: delivered packet `n`, a MSG, reaches user logic (R320). -/
def execMsg (n : Nat) (s : State) : Res := onDevice (fun s => s.serve n 0x11) s

/-- CFGRD: delivered packet `n`, a CFGRD, reads a register (R59). -/
def execCfgrd (n : Nat) (s : State) : Res := onDevice (fun s => s.cfgServe n 0x20) s

/-- CFGWR: delivered packet `n`, a CFGWR, writes a register (R59). -/
def execCfgwr (n : Nat) (s : State) : Res := onDevice (fun s => s.cfgServe n 0x21) s

/-- RSP_DATA: delivered packet `n`, a RSP_DATA, is matched (R343). -/
def execRspData (n : Nat) (s : State) : Res := onDevice (fun s => (s.response n 0x40).hostPump) s

/-- RSP_ACK: delivered packet `n`, a RSP_ACK, is matched (R343). -/
def execRspAck (n : Nat) (s : State) : Res := onDevice (fun s => (s.response n 0x41).hostPump) s

/-- RSP_ERR: delivered packet `n`, a RSP_ERR, is matched (R343). -/
def execRspErr (n : Nat) (s : State) : Res := onDevice (fun s => (s.response n 0x42).hostPump) s

/-- REQUEST_TIMEOUT: a tag entry has had no response for TIMEOUT (R342). -/
def execRequestTimeout (e : Ep) (tag : BitVec 12) (s : State) : Res :=
  onDevice (fun s => (s.requestTimeout e tag).hostPump) s

/-- EXPIRED_ENTRY_FREE: an expired entry frees (R342). -/
def execExpiredEntryFree (e : Ep) (tag : BitVec 12) (s : State) : Res := onDevice (fun s => (s.expiredFree e tag).hostPump) s

/-- WAKE_HOLD_TIMEOUT: a held packet's domain is not ON after 40 µs (R345). -/
def execWakeHoldTimeout (e : Ep) (s : State) : Res := onDevice (fun s => (s.wakeTimeout e).resumeTxns) s

/-- RESV_WRITE: a write to RTR_PORTp (R337). -/
def execResvWrite (path : Path) (d : Fin 4) (r : Fin 64) (p : Fin 16) (v : Word) (s : State) : Res :=
  always (fun s => s.writeReg path (Reg.RTR_PORT d.val r.val p.val) v) s

/-- PORT_FENCE_RAISED: a draining port has drained, or has met the drain limit (R347). -/
def execPortFenceRaised (e : Ep) (limit : Bool) (s : State) : Res := onDevice (fun s => s.fenceRaised e limit) s

end Sys2Proof.Machine
end

