-- ==== Sys2Proof/Machine/MemoryRows.lean ====
section
/-! DEFINITION. The meanings of the rows about: coherent memory: vein slices, home agents, dies in reset and flushes (R366 to R399, R684). -/

namespace Sys2Proof.Machine

/-- The upset that a command carries happens. -/
def State.veinUpsets (s : State) (up : Option VeinUpset) : State :=
  match up with
  | none => s
  | some u => s.veinUpset u.die.val u.index.toNat [u.bit]

/-- User logic sends a FENCE. -/
def State.userFence (s : State) (e : Ep) (tag : BitVec 12) : State := s.userInject e (mkPacket 6 0 0 e e tag 0 0 0 0 [])

/-- The two parts of VLOST. -/
def State.vlost (s : State) (x : LostSet) : State :=
  match x with
  | .found d r set bad => if s.dieOk d.val ∧ s.domOn (slateDom d.val 5) then s.setLost d.val r.val set bad else s
  | .report n => s.serve n 0x34

/-- RD: delivered packet `n`, an RD, is served; `up` is an upset of a vein array that it may meet (R379). -/
def execRd (n : Nat) (up : Option VeinUpset) (s : State) : Res := onDevice (fun s => (s.veinUpsets up).serve n 1) s

/-- RDX: delivered packet `n`, an RDX, is served (R379). -/
def execRdx (n : Nat) (s : State) : Res := onDevice (fun s => s.serve n 2) s

/-- WR: delivered packet `n`, a WR, is served (R379). -/
def execWr (n : Nat) (s : State) : Res := onDevice (fun s => s.serve n 3) s

/-- WRG: delivered packet `n`, a WRG, is served (R379). -/
def execWrg (n : Nat) (s : State) : Res := onDevice (fun s => s.serve n 4) s

/-- ATOM: delivered packet `n`, an ATOM, is served (R385). -/
def execAtom (n : Nat) (s : State) : Res := onDevice (fun s => s.serve n 5) s

/-- FENCE: user logic sends a FENCE at its port, which holds it until every earlier request has its response (R384). -/
def execFence (e : Ep) (tag : BitVec 12) (s : State) : Res := onDevice (fun s => s.userFence e tag) s

/-- RDNC: delivered packet `n`, an RDNC, is served (R388). -/
def execRdnc (n : Nat) (s : State) : Res := onDevice (fun s => s.serve n 8) s

/-- WRNC: delivered packet `n`, a WRNC, is served (R388). -/
def execWrnc (n : Nat) (s : State) : Res := onDevice (fun s => s.serve n 9) s

/-- SNPS: delivered packet `n`, a SNPS, is served (R374). -/
def execSnps (n : Nat) (s : State) : Res := onDevice (fun s => s.serve n 0x30) s

/-- SNPI: delivered packet `n`, a SNPI, is served (R374). -/
def execSnpi (n : Nat) (s : State) : Res := onDevice (fun s => s.serve n 0x31) s

/-- SNPD: delivered packet `n`, a SNPD, is served (R374). -/
def execSnpd (n : Nat) (s : State) : Res := onDevice (fun s => s.serve n 0x32) s

/-- ACKG: delivered packet `n`, an ACKG, ends its transaction (R372). -/
def execAckg (n : Nat) (s : State) : Res := onDevice (fun s => s.serve n 0x33) s

/-- VLOST: a slice finds a set lost and reports it, or a home agent serves such a report (R394). -/
def execVlost (x : LostSet) (s : State) : Res := onDevice (fun s => s.vlost x) s

/-- SLICE_REQUEST_TIMEOUT: a slice's request to home has had no response (R393). -/
def execSliceRequestTimeout (d : Fin 4) (r : Fin 64) (tag : BitVec 12) (s : State) : Res :=
  onDevice (fun s => s.sliceTimeout d.val r.val tag) s

/-- SNOOP_TIMEOUT: a snoop has had no answer (R392). -/
def execSnoopTimeout (h : Fin 16) (d : Fin 4) (tag : BitVec 12) (s : State) : Res :=
  onDevice (fun s => s.snoopTimeout h.val d.val tag) s

/-- DIE_RESET: flint resets a Slate die (R684). -/
def execDieReset (d : Fin 4) (s : State) : Res := onDevice (fun s => s.flintDieReset d.val) s

/-- DIE_RESET_WALK_DONE: the home agents' walk for a die completes (R391). -/
def execDieResetWalkDone (d : Fin 4) (s : State) : Res := onDevice (fun s => s.walkDone d.val) s

/-- DIRECTORY_SET_ERROR: a directory set is uncorrectable (R395). -/
def execDirectorySetError (h : Fin 16) (set : Fin 5120) (line : BitVec 42) (d : Fin 4) (s : State) : Res :=
  onDevice (fun s => s.dirSetError h.val set.val line.toNat d.val) s

/-- DIRECTORY_SET_RESTART: the failed set restarts empty (R395). -/
def execDirectorySetRestart (h : Fin 16) (set : Fin 5120) (s : State) : Res :=
  onDevice (fun s => s.dirSetRestart h.val set.val) s

/-- FLUSH: GO in HRG_FLUSH_CTRL (R389). -/
def execFlush (path : Path) (discard : Bool) (s : State) : Res :=
  always (fun s => s.writeReg path Reg.HRG_FLUSH_CTRL (0x80000000#32 ||| BitVec.ofNat 32 (b2n discard))) s

/-- FLUSH_DONE: the flush walk ends (R389). -/
def execFlushDone (s : State) : Res := onDevice (fun s => s.flushDone) s

end Sys2Proof.Machine
end

