-- ==== Sys2Proof/Machine/MicaRows.lean ====
section
/-! DEFINITION. The meanings of the rows about: Mica ports, erasing and logs (R183 to R212, R399). -/

namespace Sys2Proof.Machine

/-- MICA_READ: user logic requests a read at an edge of the port's clock, and a ready port accepts it; `flips` are the upsets that the word
has suffered (R191). -/
def execMicaRead (d : Fin 4) (port : Fin 3072) (word : BitVec 12) (flips : List (Fin 72)) (s : State) : Res :=
  onDevice (fun s => (s.micaUpset d.val port.val word.toNat flips).micaRequest d.val port.val fun t =>
    t.micaPortRead d.val port.val word.toNat) s

/-- MICA_WRITE: user logic requests a write at an edge of the port's clock, and a ready port accepts it (R194). -/
def execMicaWrite (d : Fin 4) (port : Fin 3072) (word : BitVec 12) (data : W64) (be : Byte) (wpoison : Bool) (s : State) : Res :=
  onDevice (fun s => s.micaRequest d.val port.val fun t => t.micaPortWrite d.val port.val word.toNat data be wpoison) s

/-- MICA_RESPONSE: the oldest response of a port appears, as the edges of the port's clock bring it out (R192). -/
def execMicaResponse (d : Fin 4) (port : Fin 3072) (s : State) : Res :=
  onDevice (fun s => s.micaLeave d.val port.val) s

/-- MICA_INIT_DONE: a Mica layer is initialised (R203). -/
def execMicaInitDone (d : Fin 4) (s : State) : Res := onDevice (fun s => s.micaInitDone d.val) s

/-- MCA_ERASE: GO in MCA_ERASE (R205). -/
def execMcaErase (path : Path) (d : Fin 4) (index : BitVec 8) (s : State) : Res :=
  always (fun s => s.writeReg path (Reg.MCA_ERASE d.val) (0x80000000#32 ||| index.setWidth 32)) s

/-- ERASE_DONE: the group is erased (R205). -/
def execEraseDone (d : Fin 4) (s : State) : Res := onDevice (fun s => s.eraseDone d.val) s

/-- MCA_LOG_CLEAR: VALID of a correction log entry is written with 1 (R211). -/
def execMcaLogClear (path : Path) (d : Fin 4) (e : Fin 16) (s : State) : Res :=
  always (fun s => s.writeReg path (Reg.MCA_LOG_A d.val e.val) 0x80000000) s

/-- VEN_REWRITE: GO in VEN_REWRITE; `flips` are the upsets that the word has suffered (R399). -/
def execVenRewrite (path : Path) (d : Fin 4) (index : BitVec 21) (flips : List (Fin 72)) (s : State) : Res :=
  always (fun s => (s.veinUpset d.val index.toNat flips).writeReg path (Reg.VEN_REWRITE d.val) (0x80000000#32 ||| index.setWidth 32)) s

end Sys2Proof.Machine
end

