-- ==== Sys2Proof/Machine/ObsRows.lean ====
section
/-! DEFINITION. The meanings of the rows about: DDR5 patrol, keys and range operations (R444 to R482). -/

namespace Sys2Proof.Machine

/-- PATROL_SCRUB: the next line of a channel is scrubbed; `found` and `metaFound` are what time has done to it, and to a line of
the counter cache (R447, R467). -/
def execPatrolScrub (ch : Fin 8) (found : Option DLine) (metaFound : MetaFound) (s : State) : Res :=
  onDevice (fun s => s.patrolScrub ch.val found metaFound.line (metaFound.cache.map fun e => (e.1.toNat, e.2))) s

/-- KEY_GEN: GEN for a key slot (R460). -/
def execKeyGen (path : Path) (k : Fin 64) (v : Word) (s : State) : Res :=
  always (fun s => s.writeReg path (Reg.OBS_KEY_CTRL k.val) (setBits v 31 30 1)) s

/-- KEY_LOAD: LOAD for a key slot (R460). -/
def execKeyLoad (path : Path) (k : Fin 64) (v : Word) (s : State) : Res :=
  always (fun s => s.writeReg path (Reg.OBS_KEY_CTRL k.val) (setBits v 31 30 2)) s

/-- KEY_ZERO: ZERO for a key slot (R461). -/
def execKeyZero (path : Path) (k : Fin 64) (v : Word) (s : State) : Res :=
  always (fun s => s.writeReg path (Reg.OBS_KEY_CTRL k.val) (setBits v 31 30 3)) s

/-- INIT: INIT of a range (R473). -/
def execInit (path : Path) (r : Fin 64) (s : State) : Res :=
  always (fun s => s.writeReg path (Reg.OBS_RNG_CMD r.val) 1) s

/-- REKEY: REKEY of a range (R476). -/
def execRekey (path : Path) (r : Fin 64) (s : State) : Res :=
  always (fun s => s.writeReg path (Reg.OBS_RNG_CMD r.val) 2) s

/-- RETIRE: RETIRE of a range (R474). -/
def execRetire (path : Path) (r : Fin 64) (s : State) : Res :=
  always (fun s => s.writeReg path (Reg.OBS_RNG_CMD r.val) 3) s

/-- DISABLE: DISABLE of a range (R475). -/
def execDisable (path : Path) (r : Fin 64) (s : State) : Res :=
  always (fun s => s.writeReg path (Reg.OBS_RNG_CMD r.val) 4) s

/-- REKEY_BLOCK_DONE: the boundary block is re-encrypted (R476). -/
def execRekeyBlockDone (r : Fin 64) (s : State) : Res := onDevice (fun s => s.rekeyBlock r.val) s

/-- RANGE_OPERATION_DONE: INIT, RETIRE or DISABLE completes (R472). -/
def execRangeOperationDone (r : Fin 64) (s : State) : Res := onDevice (fun s => s.rngDone r.val) s

end Sys2Proof.Machine
end

