-- ==== Sys2Proof/Machine/PinRows.lean ====
section
/-! DEFINITION. The meanings of the rows about: system pins, UARTs, I2C and timers (R636 to R651). -/

namespace Sys2Proof.Machine

/-- A write to UART_DATAu, or a read of it. -/
def State.uartRow (s : State) (path : Path) (u : Nat) (value : Option Byte) (id : Nat) : State :=
  match value with
  | some b => s.writeReg path (Reg.UART_DATA u) (b.setWidth 32)
  | none => s.readReg path (Reg.UART_DATA u) id

/-- PIN_CLAIM: a write to PIN_CFGp (R639). -/
def execPinClaim (path : Path) (p : Fin 64) (v : Word) (s : State) : Res :=
  always (fun s => s.writeReg path (Reg.PIN_CFG p.val) v) s

/-- PIN_FRAME: one AON tick, with what the board drives from now on (R641). -/
def execPinFrame (drive level : BitVec 64) (s : State) : Res := onDevice (fun s => s.pinFrame drive level) s

/-- GPIO_OUT: a masked write to GPIO_OUT_Mn (R642). -/
def execGpioOut (path : Path) (n : Fin 4) (v : Word) (s : State) : Res :=
  always (fun s => s.writeReg path (Reg.GPIO_OUT_M n.val) v) s

/-- GPIO_OE: a masked write to GPIO_OE_Mn (R642). -/
def execGpioOe (path : Path) (n : Fin 4) (v : Word) (s : State) : Res :=
  always (fun s => s.writeReg path (Reg.GPIO_OE_M n.val) v) s

/-- FT_ACQUIRE: acquire filter timer `k` (R644). -/
def execFtAcquire (path : Path) (k : Fin 4) (s : State) : Res :=
  always (fun s => s.writeReg path (Reg.PIN_FT_OP k.val) 1) s

/-- FT_RELEASE: release filter timer `k` (R644). -/
def execFtRelease (path : Path) (k : Fin 4) (s : State) : Res :=
  always (fun s => s.writeReg path (Reg.PIN_FT_OP k.val) 0) s

/-- FILTER_STROBE: a running filter timer strobes (R645). -/
def execFilterStrobe (k : Fin 4) (s : State) : Res := onDevice (fun s => s.filterStrobe k.val) s

/-- UART_DATA: a write to UART_DATAu pushes a byte, a read pops one (R648). -/
def execUartData (path : Path) (u : Fin 2) (value : Option Byte) (id : Nat) (s : State) : Res :=
  always (fun s => s.uartRow path u.val value id) s

/-- UART_RX_BYTE: a byte arrives (R648). -/
def execUartRxByte (u : Fin 2) (b : Byte) (stopOk : Bool) (s : State) : Res :=
  onDevice (fun s => s.uartRx u.val b stopOk) s

/-- UART_TX_BYTE_SENT: a byte leaves the TX FIFO (R648). -/
def execUartTxByteSent (u : Fin 2) (s : State) : Res := onDevice (fun s => s.uartTx u.val) s

/-- I2C_WRITE: I2C_CMD with OP 0 (R648). -/
def execI2cWrite (path : Path) (i : Fin 2) (v : Word) (s : State) : Res :=
  always (fun s => s.writeReg path (Reg.I2C_CMD i.val) (setBits v 9 8 0)) s

/-- I2C_READ_ACK: I2C_CMD with OP 1 (R648). -/
def execI2cReadAck (path : Path) (i : Fin 2) (v : Word) (s : State) : Res :=
  always (fun s => s.writeReg path (Reg.I2C_CMD i.val) (setBits v 9 8 1)) s

/-- I2C_READ_NACK: I2C_CMD with OP 2 (R648). -/
def execI2cReadNack (path : Path) (i : Fin 2) (v : Word) (s : State) : Res :=
  always (fun s => s.writeReg path (Reg.I2C_CMD i.val) (setBits v 9 8 2)) s

/-- I2C_BYTE_DONE: the byte in progress ends (R648). -/
def execI2cByteDone (i : Fin 2) (nack arbLost : Bool) (data : Byte) (s : State) : Res :=
  onDevice (fun s => s.i2cDone i.val nack arbLost data) s

/-- TIMER_CAPTURE: an edge on the pin of a timer in capture mode (R648). -/
def execTimerCapture (k : Fin 8) (rising : Bool) (s : State) : Res := onDevice (fun s => s.timerCapture k.val rising) s

/-- TIMER_MATCH: PIN_TICKS equals VAL of a timer in compare mode (R648). -/
def execTimerMatch (k : Fin 8) (s : State) : Res := onDevice (fun s => s.timerMatch k.val) s

/-- TACH_WINDOW: the fan TACH counts are latched (R648). -/
def execTachWindow (s : State) : Res := onDevice (fun s => s.tachWindow) s

end Sys2Proof.Machine
end

