-- ==== Sys2Proof/Machine/PowerRows.lean ====
section
/-! DEFINITION. The meanings of the rows about: power domains and temperature (R345, R599 to R607). -/

namespace Sys2Proof.Machine

/-- DOMAIN_POWER_ON: REQ = 1 for a domain (R600). -/
def execDomainPowerOn (path : Path) (d : Fin 56) (s : State) : Res :=
  always (fun s => s.writeReg path (Reg.PWR_DOM d.val) 0x20000000) s

/-- DOMAIN_POWER_OFF: REQ = 0 for a domain (R600). -/
def execDomainPowerOff (path : Path) (d : Fin 56) (s : State) : Res :=
  always (fun s => s.writeReg path (Reg.PWR_DOM d.val) 0) s

/-- DOMAIN_ON: a waking domain reaches ON (R600). -/
def execDomainOn (d : Fin 56) (s : State) : Res := onDevice (fun s => s.domainOn d.val) s

/-- DOMAIN_OFF: a draining domain has drained (R602, R603). -/
def execDomainOff (d : Fin 56) (s : State) : Res := onDevice (fun s => s.domainOff d.val) s

/-- THERMAL_SAMPLE: one sample of the 72 sensors; none is one that fails its self-check (R604). -/
def execThermalSample (l : List (Option (BitVec 12))) (s : State) : Res := onDevice (fun s => s.thermalSample l) s

end Sys2Proof.Machine
end

