-- ==== Sys2Proof/Machine/StartRows.lean ====
section
/-! DEFINITION. The meanings of the rows about: start-up, resets, supplies and the halt (R41, R594 to R598, R657 to R659, R678). -/

namespace Sys2Proof.Machine

/-- An access by Flint that is a bus error has no effect but its report (R49). -/
def State.flintBusError (s : State) (addr : Nat) (shapeOk : Bool) (value : Option Word) : State :=
  if ¬s.flintUp then s
  else
    match s.access .flint addr shapeOk value with
    | (t, .bus _) => t
    | _ => s

/-- POWER_ON: VAON becomes valid with RESET_N high; outside hold it is a cold start (R594, R596). -/
def execPowerOn (i : StartIn) (s : State) : Res := restart (fun s => s.powerOn i) s

/-- RESET_N: RESET_N goes low and high again (R596). -/
def execResetN (i : StartIn) (s : State) : Res := restart (fun s => s.resetN i) s

/-- STARTUP_REFERENCE_PRESENT: step 3, with what the DDR5 channels hold and what the flash holds at 0x00F0_0000 (R594, R634). -/
def execStartupReferencePresent (dimms : List Dimm) (patch : List Byte) (s : State) : Res :=
  onDevice (fun s => s.stepThree dimms patch) s

/-- STARTUP_BEDROCK_UP: step 4 (R594, R405). -/
def execStartupBedrockUp (s : State) : Res := onDevice (fun s => s.stepFour) s

/-- STARTUP_BUNDLES_TRAINED: step 5 (R594, R41). -/
def execStartupBundlesTrained (s : State) : Res := onDevice (fun s => s.stepFive) s

/-- STARTUP_FLASH_LOAD: step 6, with what the flash holds from 0x0100_0000 (R561). -/
def execStartupFlashLoad (image : List Byte) (s : State) : Res := onDevice (fun s => s.stepSix image) s

/-- HAND_OVER: step 7 (R594). -/
def execHandOver (s : State) : Res := onDevice (fun s => s.handOver) s

/-- DEVICE_HALT: steps 2 to 5 of a halt whose trigger has come (R677, R678). -/
def execDeviceHalt (s : State) : Res := restart (fun s => s.haltSteps) s

/-- SUPPLY_RESET: a monitored rail leaves its range for 2 µs (R658). -/
def execSupplyReset (rail : Fin 30) (high : Bool) (s : State) : Res := always (fun s => s.supplyReset rail.val high) s

/-- SUPPLY_RESET_END: every monitored rail has been valid for 1 ms (R658). -/
def execSupplyResetEnd (i : StartIn) (s : State) : Res := restart (fun s => s.supplyResetEnd i) s

/-- VAON_LOSS: VAON falls below 1.62 V (R597). -/
def execVaonLoss (v : Vbak) (s : State) : Res := always (fun s => s.vaonLoss v) s

/-- VAON_RETURN: VAON has been valid again for 1 ms (R597). -/
def execVaonReturn (i : StartIn) (s : State) : Res := restart (fun s => s.vaonReturn i) s

/-- FLINT_WATCHDOG_EXPIRY: the watchdog expires, at a time in ms since the start (R48). -/
def execFlintWatchdogExpiry (ms : Nat) (s : State) : Res := onDevice (fun s => s.watchdog ms) s

/-- FLINT_POISON_READ: flint reads poison from memory, or an SRAM word of its own (R49, R676). -/
def execFlintPoisonRead (sram : Bool) (addr : BitVec 48) (s : State) : Res :=
  onDevice (fun s => s.flintPoison sram addr) s

/-- FLINT_BUS_ERROR: an access by Flint that is a bus error (R49). -/
def execFlintBusError (addr : Nat) (shapeOk : Bool) (value : Option Word) (s : State) : Res :=
  onDevice (fun s => s.flintBusError addr shapeOk value) s

end Sys2Proof.Machine
end

