-- ==== Sys2Proof/Machine/XcvRows.lean ====
section
/-! DEFINITION. The meanings of the rows about: user transceivers and the test access port (R533 to R542, R623). -/

namespace Sys2Proof.Machine

/-! ## Scans (R539, R540, R661) -/

/-- An instruction of the test access port is scanned in, and one data scan of `tdi` through a register that captures `cap` follows: TDO gives
what was captured, then what came in. -/
def State.scan (s : State) (ir : JtagIr) (tdi cap : List Bool) : State :=
  { s with jtag := { s.jtag with ir := ir } }.emit (.jtag ((cap ++ tdi).take (max 1 tdi.length)))

/-- BYPASS, CLAMP, HIGHZ and a closed DBGACC select the one-bit bypass register, which captures 0. -/
def State.scanBypass (s : State) (ir : JtagIr) (tdi : List Bool) : State :=
  if s.vaon then s.scan ir tdi [false] else s

/-- IDCODE: 32 bits that the manual does not give. -/
def State.scanId (s : State) (tdi : List Bool) : State :=
  if s.vaon then s.scan .idcode tdi ((List.range 32).map fun i => Config.idcode.getLsbD i) else s

/-- The level of a user I/O pin, free where nothing in the device drives it. -/
def State.padAt (s : State) (d k : Nat) : Bool := (s.padOut d k).getD (Config.freeNet s.free (2 ^ 41 + 4 * (576 * d + k) + 3))

/-- What cell `i` captures: the level of its ball, or what the device itself gives the ball; 0 for an absent or excluded die (R539). Balls whose
signals the model does not hold as levels give free values. -/
def State.cellCapture (s : State) (i : Nat) (c : BCell) : Bool :=
  let free := Config.freeNet s.free (2 ^ 42 + i)
  if s.ballDead c.ball then false
  else
    match c.ball, c.role with
    | .pin p, .input => s.padLevel p
    | .pin p, .output => (s.pinCore p).getD free
    | .pin p, .enable => (s.pinCore p).isSome
    | .pad d k, .input => s.padAt d k
    | .pad d k, .output => (s.padCore d k).getD free
    | .pad d k, .enable => (s.padCore d k).isSome
    | _, _ => free

/-- What the boundary register captures, cell by cell. -/
def State.cellsCapture (s : State) : List Bool :=
  (List.range s.boundary.length).map fun i => s.cellCapture i (s.boundary.getD i { ball := .pin 0, role := .input })

/-- SAMPLE/PRELOAD and the EXTEST instructions: the boundary cells capture, the register shifts by the bits that come in, and the cells are updated
with what it then holds. The register keeps its length, whatever the length of the scan (R539, R540). -/
def State.scanBoundary (s : State) (ir : JtagIr) (tdi : List Bool) : State :=
  if s.vaon then
    let cap := s.cellsCapture
    { s with free := s.free + 1, jtag := { s.jtag with cells := (cap ++ tdi).drop tdi.length } }.scan ir tdi cap
  else s

/-! ## The debug port -/

/-- A memory request of the debug port: RDNC, WRNC, WRG or ATOM to the home of its line (R455, R623). -/
def State.debugMem (s : State) (cmd : Byte) (addr : BitVec 48) (gran : Byte) (spec : BitVec 74) (data : List Flit) : State :=
  let e := s.hubRegEp
  match s.freeTag e 4096 with
  | none => s
  | some t =>
    if cmd.toNat ≠ 4 ∧ cmd.toNat ≠ 5 ∧ cmd.toNat ≠ 8 ∧ cmd.toNat ≠ 9 then s
    else
      let p := mkPacket cmd.toNat 0 0 (s.homeDst (addr.toNat / 64)) e t addr 0 gran.toNat spec.toNat data
      match s.inject e p .debug with
      | .done u => u
      | .answer u r => u.emit (.deliver e r)
      | .wait => s

/-- DBGACC: a closed port is a one-bit bypass register; an open one works on the path of the management port or sends a request. -/
def State.debugAccess (s : State) (tdi : List Bool) (x : DebugOp) : State :=
  if ¬s.up ∨ ¬s.debugOpen then s.scanBypass .dbgacc tdi
  else
    let s : State := { s with jtag := { s.jtag with ir := .dbgacc } }
    match x with
    | .idle => s
    | .reg addr value => s.request .mgmt addr.toNat true value 0
    | .mem cmd addr gran spec data => s.debugMem cmd addr gran spec data

/-- TAP_INC: TAP_INC at the tap that TAP_SEL names (R538). -/
def execTapInc (d : Fin 4) (t : Fin 12) (sel : BitVec 3) (s : State) : Res :=
  onDevice (fun s => s.tapStep d.val t.val sel.toNat true) s

/-- TAP_DEC: TAP_DEC at the tap that TAP_SEL names (R538). -/
def execTapDec (d : Fin 4) (t : Fin 12) (sel : BitVec 3) (s : State) : Res :=
  onDevice (fun s => s.tapStep d.val t.val sel.toNat false) s

/-- RX_SLIP: the word boundary moves (R537). -/
def execRxSlip (d : Fin 4) (t : Fin 12) (s : State) : Res := onDevice (fun s => s.rxSlip d.val t.val) s

/-- RX_CWSET: the presented word starts a code word (R537). -/
def execRxCwset (d : Fin 4) (t : Fin 12) (s : State) : Res := onDevice (fun s => s.rxCwset d.val t.val) s

/-- TX_CWSTART: the next word starts a code word (R537). -/
def execTxCwstart (d : Fin 4) (t : Fin 12) (s : State) : Res := onDevice (fun s => s.txCwstart d.val t.val) s

/-- TX_UNDERRUN: the line needs a word and none is ready (R536). -/
def execTxUnderrun (d : Fin 4) (t : Fin 12) (s : State) : Res := onDevice (fun s => s.txUnderrun d.val t.val) s

/-- XCV_RX_WORD: a word is received, with the channel's errors in it (R536). -/
def execXcvRxWord (d : Fin 4) (t : Fin 12) (word err : BitVec 160) (s : State) : Res :=
  onDevice (fun s => s.xcvWord d.val t.val word err) s

/-- CDR_LOCK: the receiver locks (R534). -/
def execCdrLock (d : Fin 4) (t : Fin 12) (s : State) : Res := onDevice (fun s => s.cdrLock d.val t.val) s

/-- CDR_LOCK_LOSS: the receiver loses lock (R537). -/
def execCdrLockLoss (d : Fin 4) (t : Fin 12) (s : State) : Res := onDevice (fun s => s.cdrLoss d.val t.val) s

/-- BYPASS: the instruction BYPASS and one data scan (R540). -/
def execBypass (tdi : List Bool) (s : State) : Res := always (fun s => s.scanBypass .bypass tdi) s

/-- IDCODE: the instruction IDCODE and one data scan (R540). -/
def execIdcode (tdi : List Bool) (s : State) : Res := always (fun s => s.scanId tdi) s

/-- SAMPLE_PRELOAD: the instruction SAMPLE/PRELOAD and one data scan (R540). -/
def execSamplePreload (tdi : List Bool) (s : State) : Res := always (fun s => s.scanBoundary .sample tdi) s

/-- EXTEST: the instruction EXTEST and one data scan (R540). -/
def execExtest (tdi : List Bool) (s : State) : Res := always (fun s => s.scanBoundary .extest tdi) s

/-- CLAMP: the instruction CLAMP and one data scan (R540). -/
def execClamp (tdi : List Bool) (s : State) : Res := always (fun s => s.scanBypass .clamp tdi) s

/-- HIGHZ: the instruction HIGHZ and one data scan (R540). -/
def execHighz (tdi : List Bool) (s : State) : Res := always (fun s => s.scanBypass .highz tdi) s

/-- EXTEST_PULSE: the instruction EXTEST_PULSE and one data scan (R540). -/
def execExtestPulse (tdi : List Bool) (s : State) : Res := always (fun s => s.scanBoundary .pulse tdi) s

/-- EXTEST_TRAIN: the instruction EXTEST_TRAIN and one data scan (R540). -/
def execExtestTrain (tdi : List Bool) (s : State) : Res := always (fun s => s.scanBoundary .train tdi) s

/-- DBGACC: the debug port: bypass while closed, a register access or a memory request while open (R623). -/
def execDbgacc (tdi : List Bool) (x : DebugOp) (s : State) : Res := always (fun s => s.debugAccess tdi x) s

end Sys2Proof.Machine
end

