-- ==== Sys2Proof/Machine/Dispatch.lean ====
section
/-! DEFINITION. Each command to its meaning. -/

namespace Sys2Proof.Machine

/-- The effect of a command on everything but the queue. -/
def exec (i : Instr) (s : State) : Host.Outcome State Fault Refusal :=
  match i with
  | .powerOn x => Sys2Proof.Machine.execPowerOn x s
  | .resetN x => Sys2Proof.Machine.execResetN x s
  | .startupReferencePresent dimms patch => Sys2Proof.Machine.execStartupReferencePresent dimms patch s
  | .startupBedrockUp => Sys2Proof.Machine.execStartupBedrockUp s
  | .startupBundlesTrained => Sys2Proof.Machine.execStartupBundlesTrained s
  | .startupFlashLoad image => Sys2Proof.Machine.execStartupFlashLoad image s
  | .handOver => Sys2Proof.Machine.execHandOver s
  | .flintWatchdogExpiry ms => Sys2Proof.Machine.execFlintWatchdogExpiry ms s
  | .flintPoisonRead sram addr => Sys2Proof.Machine.execFlintPoisonRead sram addr s
  | .flintBusError addr shapeOk value => Sys2Proof.Machine.execFlintBusError addr shapeOk value s
  | .registerWrite path addr shapeOk value id => Sys2Proof.Machine.execRegisterWrite path addr shapeOk value id s
  | .shadowApply addr => Sys2Proof.Machine.execShadowApply addr s
  | .pendCancel path addr => Sys2Proof.Machine.execPendCancel path addr s
  | .guardLock path addr => Sys2Proof.Machine.execGuardLock path addr s
  | .unlock path addr v => Sys2Proof.Machine.execUnlock path addr v s
  | .kArmLapse addr => Sys2Proof.Machine.execKArmLapse addr s
  | .mgmtRead addr => Sys2Proof.Machine.execMgmtRead addr s
  | .mgmtWrite addr v => Sys2Proof.Machine.execMgmtWrite addr v s
  | .mgmtStatus => Sys2Proof.Machine.execMgmtStatus s
  | .mgmtFrameAbandon => Sys2Proof.Machine.execMgmtFrameAbandon s
  | .mgmtTimeout => Sys2Proof.Machine.execMgmtTimeout s
  | .semAcquire path k => Sys2Proof.Machine.execSemAcquire path k s
  | .semRelease path k => Sys2Proof.Machine.execSemRelease path k s
  | .flnRevoke path owner => Sys2Proof.Machine.execFlnRevoke path owner s
  | .revocationComplete owner => Sys2Proof.Machine.execRevocationComplete owner s
  | .pllSettingWrite path d p which v => Sys2Proof.Machine.execPllSettingWrite path d p which v s
  | .pllLock d p => Sys2Proof.Machine.execPllLock d p s
  | .pllLossOfLock d p => Sys2Proof.Machine.execPllLossOfLock d p s
  | .spineWrite path d k v => Sys2Proof.Machine.execSpineWrite path d k v s
  | .treeSelWrite path d sec t v => Sys2Proof.Machine.execTreeSelWrite path d sec t v s
  | .treeSwitchComplete d sec t => Sys2Proof.Machine.execTreeSwitchComplete d sec t s
  | .secRclkRst path d sec v => Sys2Proof.Machine.execSecRclkRst path d sec v s
  | .micaRead d port word flips => Sys2Proof.Machine.execMicaRead d port word flips s
  | .micaWrite d port word data be wpoison => Sys2Proof.Machine.execMicaWrite d port word data be wpoison s
  | .micaResponse d port => Sys2Proof.Machine.execMicaResponse d port s
  | .micaInitDone d => Sys2Proof.Machine.execMicaInitDone d s
  | .mcaErase path d index => Sys2Proof.Machine.execMcaErase path d index s
  | .eraseDone d => Sys2Proof.Machine.execEraseDone d s
  | .mcaLogClear path d e => Sys2Proof.Machine.execMcaLogClear path d e s
  | .thermalSample l => Sys2Proof.Machine.execThermalSample l s
  | .engineReset path r => Sys2Proof.Machine.execEngineReset path r s
  | .engineHalt path r => Sys2Proof.Machine.execEngineHalt path r s
  | .engineRun path r start => Sys2Proof.Machine.execEngineRun path r start s
  | .segDbell path r bells => Sys2Proof.Machine.execSegDbell path r bells s
  | .nop r up x => Sys2Proof.Machine.execNop r up x s
  | .rpt r n x => Sys2Proof.Machine.execRpt r n x s
  | .rpts r ss x => Sys2Proof.Machine.execRpts r ss x s
  | .halt r => Sys2Proof.Machine.execHalt r s
  | .wait r => Sys2Proof.Machine.execWait r s
  | .movtc r cr ss x => Sys2Proof.Machine.execMovtc r cr ss x s
  | .movfc r sd cr x => Sys2Proof.Machine.execMovfc r sd cr x s
  | .b r cond sc target x => Sys2Proof.Machine.execB r cond sc target x s
  | .call r cond sc sd target x => Sys2Proof.Machine.execCall r cond sc sd target x s
  | .jr r cond sc sd x => Sys2Proof.Machine.execJr r cond sc sd x s
  | .reti r x => Sys2Proof.Machine.execReti r x s
  | .add r sd sa sb x => Sys2Proof.Machine.execAdd r sd sa sb x s
  | .sub r sd sa sb x => Sys2Proof.Machine.execSub r sd sa sb x s
  | .and r sd sa sb x => Sys2Proof.Machine.execAnd r sd sa sb x s
  | .or r sd sa sb x => Sys2Proof.Machine.execOr r sd sa sb x s
  | .xor r sd sa sb x => Sys2Proof.Machine.execXor r sd sa sb x s
  | .shl r sd sa sb x => Sys2Proof.Machine.execShl r sd sa sb x s
  | .shr r sd sa sb x => Sys2Proof.Machine.execShr r sd sa sb x s
  | .sra r sd sa sb x => Sys2Proof.Machine.execSra r sd sa sb x s
  | .slt r sd sa sb x => Sys2Proof.Machine.execSlt r sd sa sb x s
  | .sltu r sd sa sb x => Sys2Proof.Machine.execSltu r sd sa sb x s
  | .min r sd sa sb x => Sys2Proof.Machine.execMin r sd sa sb x s
  | .max r sd sa sb x => Sys2Proof.Machine.execMax r sd sa sb x s
  | .mul r sd sa sb x => Sys2Proof.Machine.execMul r sd sa sb x s
  | .mov r sd sa x => Sys2Proof.Machine.execMov r sd sa x s
  | .carry r sd sa sb x => Sys2Proof.Machine.execCarry r sd sa sb x s
  | .addi r sd sa imm x => Sys2Proof.Machine.execAddi r sd sa imm x s
  | .andi r sd sa imm x => Sys2Proof.Machine.execAndi r sd sa imm x s
  | .ori r sd sa imm x => Sys2Proof.Machine.execOri r sd sa imm x s
  | .xori r sd sa imm x => Sys2Proof.Machine.execXori r sd sa imm x s
  | .shli r sd sa imm x => Sys2Proof.Machine.execShli r sd sa imm x s
  | .shri r sd sa imm x => Sys2Proof.Machine.execShri r sd sa imm x s
  | .srai r sd sa imm x => Sys2Proof.Machine.execSrai r sd sa imm x s
  | .li r sd imm x => Sys2Proof.Machine.execLi r sd imm x s
  | .lui r sd imm x => Sys2Proof.Machine.execLui r sd imm x s
  | .slti r sd sa imm x => Sys2Proof.Machine.execSlti r sd sa imm x s
  | .seti r ar fld imm x => Sys2Proof.Machine.execSeti r ar fld imm x s
  | .sets r ar fld sr x => Sys2Proof.Machine.execSets r ar fld sr x s
  | .get r ar fld sr x => Sys2Proof.Machine.execGet r ar fld sr x s
  | .adda r ar imm x => Sys2Proof.Machine.execAdda r ar imm x s
  | .macInt8 r wd va vb vc sa sb neg clr x => Sys2Proof.Machine.execMacInt8 r wd va vb vc sa sb neg clr x s
  | .mac18x27 r wd va vb sa sb neg clr x => Sys2Proof.Machine.execMac18x27 r wd va vb sa sb neg clr x s
  | .macBf16 r wd va vb neg clr x => Sys2Proof.Machine.execMacBf16 r wd va vb neg clr x s
  | .macFp32 r wd va vb neg clr x => Sys2Proof.Machine.execMacFp32 r wd va vb neg clr x s
  | .aclr r wd x => Sys2Proof.Machine.execAclr r wd x s
  | .amov r wd vd mo q sh rnd x => Sys2Proof.Machine.execAmov r wd vd mo q sh rnd x s
  | .ald r wd vs mo q sh x => Sys2Proof.Machine.execAld r wd vs mo q sh x s
  | .vmov r vd va x => Sys2Proof.Machine.execVmov r vd va x s
  | .vins r vd ss h x => Sys2Proof.Machine.execVins r vd ss h x s
  | .vext r sd va h x => Sys2Proof.Machine.execVext r sd va h x s
  | .sin r vd port x => Sys2Proof.Machine.execSin r vd port x s
  | .sout r port va x => Sys2Proof.Machine.execSout r port va x s
  | .vspl r vd ss x => Sys2Proof.Machine.execVspl r vd ss x s
  | .rld r mem sa sb sc x => Sys2Proof.Machine.execRld r mem sa sb sc x s
  | .rst r mem sa sb sc x => Sys2Proof.Machine.execRst r mem sa sb sc x s
  | .rldnc r mem sa sb sc len x => Sys2Proof.Machine.execRldnc r mem sa sb sc len x s
  | .rstnc r mem sa sb sc len x => Sys2Proof.Machine.execRstnc r mem sa sb sc len x s
  | .rdb r sa sb sc x => Sys2Proof.Machine.execRdb r sa sb sc x s
  | .ratom r mem sa sb sc atop x => Sys2Proof.Machine.execRatom r mem sa sb sc atop x s
  | .rfence r x => Sys2Proof.Machine.execRfence r x s
  | .interruptEntry r => Sys2Proof.Machine.execInterruptEntry r s
  | .engineTimerExpiry r => Sys2Proof.Machine.execEngineTimerExpiry r s
  | .ringCommandComplete n => Sys2Proof.Machine.execRingCommandComplete n s
  | .loaderAccessForced n => Sys2Proof.Machine.execLoaderAccessForced n s
  | .packetInject e p => Sys2Proof.Machine.execPacketInject e p s
  | .routerForward n => Sys2Proof.Machine.execRouterForward n s
  | .edgeStopExit n => Sys2Proof.Machine.execEdgeStopExit n s
  | .ingressSwitch n => Sys2Proof.Machine.execIngressSwitch n s
  | .packetEject n => Sys2Proof.Machine.execPacketEject n s
  | .rd n up => Sys2Proof.Machine.execRd n up s
  | .rdx n => Sys2Proof.Machine.execRdx n s
  | .wr n => Sys2Proof.Machine.execWr n s
  | .wrg n => Sys2Proof.Machine.execWrg n s
  | .atom n => Sys2Proof.Machine.execAtom n s
  | .fence e tag => Sys2Proof.Machine.execFence e tag s
  | .rdnc n => Sys2Proof.Machine.execRdnc n s
  | .wrnc n => Sys2Proof.Machine.execWrnc n s
  | .db n => Sys2Proof.Machine.execDb n s
  | .msg n => Sys2Proof.Machine.execMsg n s
  | .cfgrd n => Sys2Proof.Machine.execCfgrd n s
  | .cfgwr n => Sys2Proof.Machine.execCfgwr n s
  | .snps n => Sys2Proof.Machine.execSnps n s
  | .snpi n => Sys2Proof.Machine.execSnpi n s
  | .snpd n => Sys2Proof.Machine.execSnpd n s
  | .ackg n => Sys2Proof.Machine.execAckg n s
  | .vlost x => Sys2Proof.Machine.execVlost x s
  | .rspData n => Sys2Proof.Machine.execRspData n s
  | .rspAck n => Sys2Proof.Machine.execRspAck n s
  | .rspErr n => Sys2Proof.Machine.execRspErr n s
  | .requestTimeout e tag => Sys2Proof.Machine.execRequestTimeout e tag s
  | .expiredEntryFree e tag => Sys2Proof.Machine.execExpiredEntryFree e tag s
  | .wakeHoldTimeout e => Sys2Proof.Machine.execWakeHoldTimeout e s
  | .resvWrite path d r p v => Sys2Proof.Machine.execResvWrite path d r p v s
  | .portFenceRaised e limit => Sys2Proof.Machine.execPortFenceRaised e limit s
  | .sliceRequestTimeout d r tag => Sys2Proof.Machine.execSliceRequestTimeout d r tag s
  | .snoopTimeout h d tag => Sys2Proof.Machine.execSnoopTimeout h d tag s
  | .dieReset d => Sys2Proof.Machine.execDieReset d s
  | .dieResetWalkDone d => Sys2Proof.Machine.execDieResetWalkDone d s
  | .directorySetError h set line d => Sys2Proof.Machine.execDirectorySetError h set line d s
  | .directorySetRestart h set => Sys2Proof.Machine.execDirectorySetRestart h set s
  | .flush path discard => Sys2Proof.Machine.execFlush path discard s
  | .flushDone => Sys2Proof.Machine.execFlushDone s
  | .venRewrite path d index flips => Sys2Proof.Machine.execVenRewrite path d index flips s
  | .linkEpoch => Sys2Proof.Machine.execLinkEpoch s
  | .trainingAttempt l failRx failTx set rekey => Sys2Proof.Machine.execTrainingAttempt l failRx failTx set rekey s
  | .trainingStepTimeout l => Sys2Proof.Machine.execTrainingStepTimeout l s
  | .bundleLive l => Sys2Proof.Machine.execBundleLive l s
  | .forwardedClockLoss l => Sys2Proof.Machine.execForwardedClockLoss l s
  | .linkSlotReceive l leaf x ok => Sys2Proof.Machine.execLinkSlotReceive l leaf x ok s
  | .bundleUnusable x => Sys2Proof.Machine.execBundleUnusable x s
  | .lparam n => Sys2Proof.Machine.execLparam n s
  | .lparamAck n => Sys2Proof.Machine.execLparamAck n s
  | .echo n => Sys2Proof.Machine.execEcho n s
  | .echoRsp n => Sys2Proof.Machine.execEchoRsp n s
  | .retrain n => Sys2Proof.Machine.execRetrain n s
  | .captrig n => Sys2Proof.Machine.execCaptrig n s
  | .wireDrainEnd k => Sys2Proof.Machine.execWireDrainEnd k s
  | .wirePairDown k => Sys2Proof.Machine.execWirePairDown k s
  | .bridgePortEnable path k v => Sys2Proof.Machine.execBridgePortEnable path k v s
  | .bridgePortArrival k => Sys2Proof.Machine.execBridgePortArrival k s
  | .captureArm path k v => Sys2Proof.Machine.execCaptureArm path k v s
  | .captureSendtrig path k v => Sys2Proof.Machine.execCaptureSendtrig path k v s
  | .patrolScrub ch found metaFound => Sys2Proof.Machine.execPatrolScrub ch found metaFound s
  | .keyGen path k v => Sys2Proof.Machine.execKeyGen path k v s
  | .keyLoad path k v => Sys2Proof.Machine.execKeyLoad path k v s
  | .keyZero path k v => Sys2Proof.Machine.execKeyZero path k v s
  | .init path r => Sys2Proof.Machine.execInit path r s
  | .rekey path r => Sys2Proof.Machine.execRekey path r s
  | .retire path r => Sys2Proof.Machine.execRetire path r s
  | .disable path r => Sys2Proof.Machine.execDisable path r s
  | .rekeyBlockDone r => Sys2Proof.Machine.execRekeyBlockDone r s
  | .rangeOperationDone r => Sys2Proof.Machine.execRangeOperationDone r s
  | .windowRead port id off len => Sys2Proof.Machine.execWindowRead port id off len s
  | .windowWrite port off bytes ep => Sys2Proof.Machine.execWindowWrite port off bytes ep s
  | .sqTail port q shapeOk v => Sys2Proof.Machine.execSqTail port q shapeOk v s
  | .cqHead port q shapeOk v => Sys2Proof.Machine.execCqHead port q shapeOk v s
  | .queueEnable path q v => Sys2Proof.Machine.execQueueEnable path q v s
  | .queueDelete path q v => Sys2Proof.Machine.execQueueDelete path q v s
  | .functionLevelReset port => Sys2Proof.Machine.execFunctionLevelReset port s
  | .pcieLinkDown port => Sys2Proof.Machine.execPcieLinkDown port s
  | .sqEntryFetch q => Sys2Proof.Machine.execSqEntryFetch q s
  | .h2d q num => Sys2Proof.Machine.execH2d q num s
  | .d2h q num => Sys2Proof.Machine.execD2h q num s
  | .d2d q num => Sys2Proof.Machine.execD2d q num s
  | .h2p q num => Sys2Proof.Machine.execH2p q num s
  | .p2h q num => Sys2Proof.Machine.execP2h q num s
  | .dmaDb q num => Sys2Proof.Machine.execDmaDb q num s
  | .dmaNop q num => Sys2Proof.Machine.execDmaNop q num s
  | .descriptorFinish q num => Sys2Proof.Machine.execDescriptorFinish q num s
  | .lodSys path v => Sys2Proof.Machine.execLodSys path v s
  | .lodeEnable path k v => Sys2Proof.Machine.execLodeEnable path k v s
  | .lodeTrainingSet k set => Sys2Proof.Machine.execLodeTrainingSet k set s
  | .lodeRekey path k v => Sys2Proof.Machine.execLodeRekey path k v s
  | .lodePortArrival k => Sys2Proof.Machine.execLodePortArrival k s
  | .lodePortDown k => Sys2Proof.Machine.execLodePortDown k s
  | .tapInc d t sel => Sys2Proof.Machine.execTapInc d t sel s
  | .tapDec d t sel => Sys2Proof.Machine.execTapDec d t sel s
  | .rxSlip d t => Sys2Proof.Machine.execRxSlip d t s
  | .rxCwset d t => Sys2Proof.Machine.execRxCwset d t s
  | .txCwstart d t => Sys2Proof.Machine.execTxCwstart d t s
  | .txUnderrun d t => Sys2Proof.Machine.execTxUnderrun d t s
  | .bypass tdi => Sys2Proof.Machine.execBypass tdi s
  | .idcode tdi => Sys2Proof.Machine.execIdcode tdi s
  | .samplePreload tdi => Sys2Proof.Machine.execSamplePreload tdi s
  | .extest tdi => Sys2Proof.Machine.execExtest tdi s
  | .clamp tdi => Sys2Proof.Machine.execClamp tdi s
  | .highz tdi => Sys2Proof.Machine.execHighz tdi s
  | .extestPulse tdi => Sys2Proof.Machine.execExtestPulse tdi s
  | .extestTrain tdi => Sys2Proof.Machine.execExtestTrain tdi s
  | .dbgacc tdi x => Sys2Proof.Machine.execDbgacc tdi x s
  | .cfgLockAcquire path => Sys2Proof.Machine.execCfgLockAcquire path s
  | .cfgLockRelease path => Sys2Proof.Machine.execCfgLockRelease path s
  | .load src v => Sys2Proof.Machine.execLoad src v s
  | .loadf src v image => Sys2Proof.Machine.execLoadf src v image s
  | .freeze src v => Sys2Proof.Machine.execFreeze src v s
  | .freezeComplete => Sys2Proof.Machine.execFreezeComplete s
  | .commit src v => Sys2Proof.Machine.execCommit src v s
  | .abort src v => Sys2Proof.Machine.execAbort src v s
  | .clear src v => Sys2Proof.Machine.execClear src v s
  | .read src v => Sys2Proof.Machine.execRead src v s
  | .cfgLqTail path v => Sys2Proof.Machine.execCfgLqTail path v s
  | .cfgData path value id => Sys2Proof.Machine.execCfgData path value id s
  | .loaderBlock => Sys2Proof.Machine.execLoaderBlock s
  | .loaderEpoch => Sys2Proof.Machine.execLoaderEpoch s
  | .commitEpoch => Sys2Proof.Machine.execCommitEpoch s
  | .scrubFrame d flips => Sys2Proof.Machine.execScrubFrame d flips s
  | .prbOwnerOp path d op => Sys2Proof.Machine.execPrbOwnerOp path d op s
  | .prbSel path d k v => Sys2Proof.Machine.execPrbSel path d k v s
  | .prbArm path d v => Sys2Proof.Machine.execPrbArm path d v s
  | .prbRddata path d id => Sys2Proof.Machine.execPrbRddata path d id s
  | .refaEn path en => Sys2Proof.Machine.execRefaEn path en s
  | .refbEn path en => Sys2Proof.Machine.execRefbEn path en s
  | .startDelayComplete => Sys2Proof.Machine.execStartDelayComplete s
  | .refbQualified mclk => Sys2Proof.Machine.execRefbQualified mclk s
  | .referenceTrip second mclk => Sys2Proof.Machine.execReferenceTrip second mclk s
  | .mclkWatch => Sys2Proof.Machine.execMclkWatch s
  | .aonsel path sel => Sys2Proof.Machine.execAonsel path sel s
  | .holdoverExpiry => Sys2Proof.Machine.execHoldoverExpiry s
  | .vaonLoss v => Sys2Proof.Machine.execVaonLoss v s
  | .vaonReturn x => Sys2Proof.Machine.execVaonReturn x s
  | .domainPowerOn path d => Sys2Proof.Machine.execDomainPowerOn path d s
  | .domainPowerOff path d => Sys2Proof.Machine.execDomainPowerOff path d s
  | .domainOn d => Sys2Proof.Machine.execDomainOn d s
  | .domainOff d => Sys2Proof.Machine.execDomainOff d s
  | .supplyReset rail high => Sys2Proof.Machine.execSupplyReset rail high s
  | .supplyResetEnd x => Sys2Proof.Machine.execSupplyResetEnd x s
  | .deviceHalt => Sys2Proof.Machine.execDeviceHalt s
  | .testToDev path => Sys2Proof.Machine.execTestToDev path s
  | .devToField path => Sys2Proof.Machine.execDevToField path s
  | .toReturn path => Sys2Proof.Machine.execToReturn path s
  | .toEnd path => Sys2Proof.Machine.execToEnd path s
  | .diagnosticSession path => Sys2Proof.Machine.execDiagnosticSession path s
  | .fuseOwnerPk path => Sys2Proof.Machine.execFuseOwnerPk path s
  | .fuseOwnerAes path => Sys2Proof.Machine.execFuseOwnerAes path s
  | .attestation path => Sys2Proof.Machine.execAttestation path s
  | .attestationDone bad => Sys2Proof.Machine.execAttestationDone bad s
  | .patchApply path => Sys2Proof.Machine.execPatchApply path s
  | .pinClaim path p v => Sys2Proof.Machine.execPinClaim path p v s
  | .pinFrame drive level => Sys2Proof.Machine.execPinFrame drive level s
  | .gpioOut path n v => Sys2Proof.Machine.execGpioOut path n v s
  | .gpioOe path n v => Sys2Proof.Machine.execGpioOe path n v s
  | .ftAcquire path k => Sys2Proof.Machine.execFtAcquire path k s
  | .ftRelease path k => Sys2Proof.Machine.execFtRelease path k s
  | .filterStrobe k => Sys2Proof.Machine.execFilterStrobe k s
  | .uartData path u value id => Sys2Proof.Machine.execUartData path u value id s
  | .i2cWrite path x v => Sys2Proof.Machine.execI2cWrite path x v s
  | .i2cReadAck path x v => Sys2Proof.Machine.execI2cReadAck path x v s
  | .i2cReadNack path x v => Sys2Proof.Machine.execI2cReadNack path x v s
  | .timerCapture k rising => Sys2Proof.Machine.execTimerCapture k rising s
  | .timerMatch k => Sys2Proof.Machine.execTimerMatch k s
  | .tachWindow => Sys2Proof.Machine.execTachWindow s
  | .streamTransfer r port w poison => Sys2Proof.Machine.execStreamTransfer r port w poison s
  | .pcieLinkUp port rate link => Sys2Proof.Machine.execPcieLinkUp port rate link s
  | .hostReadCompletion id r => Sys2Proof.Machine.execHostReadCompletion id r s
  | .hostReadTimeout id => Sys2Proof.Machine.execHostReadTimeout id s
  | .xcvRxWord d t word err => Sys2Proof.Machine.execXcvRxWord d t word err s
  | .cdrLock d t => Sys2Proof.Machine.execCdrLock d t s
  | .cdrLockLoss d t => Sys2Proof.Machine.execCdrLockLoss d t s
  | .uartRxByte u b stopOk => Sys2Proof.Machine.execUartRxByte u b stopOk s
  | .uartTxByteSent u => Sys2Proof.Machine.execUartTxByteSent u s
  | .i2cByteDone x nack arbLost data => Sys2Proof.Machine.execI2cByteDone x nack arbLost data s
  | .probeSample d => Sys2Proof.Machine.execProbeSample d s
  | .refaOscillationStart => Sys2Proof.Machine.execRefaOscillationStart s
  | .lcCommandDone => Sys2Proof.Machine.execLcCommandDone s
  | .clearComplete => Sys2Proof.Machine.execClearComplete s

end Sys2Proof.Machine
end

