-- ==== Sys2Proof/Machine/Tick.lean ====
section
/-! DEFINITION. One tick of the device's clocks, which an empty queue of commands lets pass (assumption 6): spines and trees, the fabric's
flip-flops and memories, and the interfaces that their clocks run: Mica ports, engine streams, user fabric ports, transceivers and
wire-mode strips (R95 to R104, R139, R140, R155 to R173, R188 to R192, R253, R254, R349 to R352, R424 to R429, R534 to R538). Every
interface samples the signals before the tick. -/

namespace Sys2Proof.Machine

/-! ## Sampled inputs -/

/-- Input `j` of a position. -/
def State.inBit (s : State) (d pc pr j : Nat) : Bool := s.signal d (.inp pc pr j)

/-- Attach input `j` of a strip position. -/
def State.attBit (s : State) (d pc pr j : Nat) : Bool := s.signal d (.att pc pr j)

/-- The position of an odd frame, as (die, column, row). -/
def posOfKey (key : Nat) : Option (Nat × Nat × Nat) :=
  let sec := key / (384 * 192) % 16
  if key % 2 = 1 then some (key / (384 * 192 * 16), 192 * (sec % 4) + key / 384 % 192, 192 * (sec / 4) + key % 384 / 2) else none

/-- The clock of the interface whose record stands at a position has a rising edge: bits [5:1] of the record name its tree and bit 6
inverts it (R189, R225, R349, R535). A disabled interface has none, and neither has one of a region that does not run. -/
def State.ifaceEdge (s u : State) (d pc pr : Nat) : Bool :=
  let x := s.ifaceRec d pc pr
  natBit x 0 && s.posState d pc pr = 3 && s.treeEdge u d (s.posSector d pc pr) (natBits x 5 1) (natBit x 6)

/-! ## Mica ports (R188 to R192) -/

/-- An edge of the clock of the Mica port at a position: its responses move on, and a request that met READY is accepted. -/
def State.micaTick (s t : State) (d pc pr : Nat) : State :=
  let port := (micaAt pc pr).1
  let t := t.micaEdge d port
  let i := s.inBit d pc pr
  if s.signal d (.out pc pr 0) ∧ i 20 = true then
    let word := bitsNum 12 i
    if i 21 then
      let data := bitsNum 64 fun b => s.inBit d pc (pr + 1 + b / 8) (b % 8)
      t.micaPortWrite d port word (BitVec.ofNat 64 data) (BitVec.ofNat 8 (bitsNum 8 fun b => i (12 + b))) (i 22)
    else t.micaPortRead d port word
  else t

/-! ## Engine streams (R253, R254) -/

/-- What stream input `n` of the engine at a position takes: none unless VALID and READY are 1. -/
def State.streamIn (s : State) (d pc pr n : Nat) (q : List (W64 × Bool)) : List (W64 × Bool) :=
  if q.length < 4 ∧ s.inBit d pc (pr + 4) (2 * n) = true then
    [(BitVec.ofNat 64 (bitsNum 64 fun b => s.inBit d pc (pr + 2 * n + b / 32) (b % 32)), s.inBit d pc (pr + 4) (2 * n + 1))]
  else []

/-- The words of a stream output after an edge: the oldest leaves if READY is 1. -/
def State.streamOut (s : State) (d pc pr n : Nat) (q : List W64) : List W64 := if s.inBit d pc (pr + 4) (4 + n) then q.drop 1 else q

/-- An edge of the engine clock of the group whose record stands at a position: the stream ports and TIMERs of its engines. -/
def State.streamTick (s t : State) (d pc pr : Nat) : State :=
  (List.range 12).foldl (fun (t : State) e =>
    let k := 12 * (192 * d + (engAt pc pr).1) + e
    let row := pr + 16 * e
    let v := s.eng k
    let x := t.eng k
    let x := if x.run = .running ∨ x.run = .waiting then x.count else x
    t.setEng k { x with sin0 := x.sin0 ++ s.streamIn d pc row 0 v.sin0, sin1 := x.sin1 ++ s.streamIn d pc row 1 v.sin1,
                        sout0 := s.streamOut d pc row 0 x.sout0, sout1 := s.streamOut d pc row 1 x.sout1 }) t

/-! ## User fabric ports (R350 to R352) -/

/-- The class of the next flit that a port takes, where `f` is that flit: that of the packet it belongs to (R351). -/
def UPort.flitRsp (u : UPort) (f : W256 × BitVec 4) : Bool :=
  match u.tx with
  | [] => headRsp f.1
  | h :: _ => headRsp h.1

/-- A port takes a flit: a header, or the next data flit of the packet in hand, which is then complete or not (R323, R351). -/
def UPort.take (u : UPort) (f : W256 × BitVec 4) (draining : Bool) : UPort :=
  let u := if u.tx.isEmpty then { u with begun := !draining } else u
  match u.tx ++ [f] with
  | [] => u
  | h :: rest =>
    if rest.length = dataFlits (natBits h.1.toNat 15 8) then
      let p := { packetOfHead h.1 with data := rest.map fun x => { data := x.1, poison := x.2, crc := 0 } }
      { u with tx := [], ready := u.ready ++ [(p, u.begun)] }
    else { u with tx := h :: rest }

/-- The flits of the valid slots go to the port if the class of each is ready (R351). -/
def State.portAccept (s : State) (e : Ep) (u : UPort) (slots : List (W256 × BitVec 4)) : UPort :=
  let drain := s.drains.contains e
  match slots with
  | [] => u
  | [f] => if s.txReady e (u.flitRsp f) then u.take f drain else u
  | f :: g :: _ =>
    let v := u.take f drain
    if s.txReady e (u.flitRsp f) && s.txReady e (v.flitRsp g) then v.take g drain else u

/-- The flits that user logic presents at the port whose strip starts at row `base` (R350, R351). -/
def State.txSlots (s : State) (d pc base : Nat) : List (W256 × BitVec 4) :=
  let slot := fun (n : Nat) =>
    (BitVec.ofNat 256 (bitsNum 256 fun b => s.attBit d pc (base + 8 * n + b / 32) (b % 32)),
     BitVec.ofNat 4 (bitsNum 4 fun b => s.attBit d pc (base + 16) (2 + 4 * n + b)))
  if ¬s.attBit d pc (base + 16) 0 then []
  else if s.attBit d pc (base + 16) 1 then [slot 0, slot 1]
  else [slot 0]

/-- A port injects the oldest packet of a class that it has accepted whole; one that started before a drain still goes (R347, R351). -/
def State.portSend (s : State) (e : Ep) (rsp : Bool) : State :=
  let u := s.uport e
  match u.ready.findIdx? fun p => decide (p.1.cls = 1) = rsp with
  | none => s
  | some n =>
    match u.ready[n]? with
    | none => s
    | some (p, begun) =>
      let from_ : State := if begun then { s with drains := s.drains.filter fun x => x ≠ e } else s
      let sent := fun (t : State) =>
        ({ t with drains := s.drains }.setUport e { u with ready := listDropAt u.ready n }).releaseFence e
      match from_.inject e p .user with
      | .done t => sent t
      | .answer t r => (sent t).presentTo e false r
      | .wait => s

/-- A port with less than two flits of a class to present takes the next delivered packet of that class (R352). -/
def State.portFill (s : State) (e : Ep) (rsp : Bool) : State :=
  let u := s.uport e
  if 2 ≤ (if rsp then u.rsp else u.req).length ∨ ¬s.userClock e then s
  else
    match s.inbox.findIdx? fun x => x.ep = e && decide (x.pkt.cls = 1) = rsp with
    | none => s
    | some n =>
      match s.inbox[n]? with
      | none => s
      | some x =>
        if rsp then s.response n x.pkt.cmd.toNat else s.serve n x.pkt.cmd.toNat

/-- An edge of the clock of the user fabric port whose record stands at a position: user logic takes what was presented, if it was
ready for it, and hands over the flits that the port was ready for; the port then sends and presents what it can. -/
def State.portTick (s t : State) (d pc pr : Nat) : State :=
  let e := s.stripPort d pc pr
  if s.portFenced e ∨ ¬s.userMay e then t
  else
    let (rsp, l) := (s.uport e).shown
    let took := if s.attBit d pc pr (if rsp then 11 else 10) then l.length else 0
    let u := t.uport e
    let u := if rsp then { u with rsp := u.rsp.drop took } else { u with req := u.req.drop took }
    let t := t.setUport e (s.portAccept e u (s.txSlots d pc (pr - 16)))
    let t := if l.take took = [] then t else t.roomFreed e
    let t := (t.uport e).ready.foldl (fun (t : State) _ => (t.portSend e true).portSend e false) t
    (((t.portFill e true).portFill e true).portFill e false).portFill e false

/-! ## Transceivers (R534 to R538) -/

/-- An edge of the clock of the transceiver interface whose record stands at a position. -/
def State.xcvTick (s t : State) (d pc pr : Nat) : State :=
  let x := pc / 64
  let a := s.attBit d pc pr
  let t := t.setXcv d x { t.xcvSt d x with valid := false }
  let t := if a 2 then t.rxCwset d x else t
  let t := if a 3 then t.rxSlip d x else t
  let sel := bitsNum 3 fun b => a (6 + b)
  let t := if a 4 then t.tapStep d x sel true else t
  let t := if a 5 then t.tapStep d x sel false else t
  if a 0 ∧ s.signal d (.strip pc pr 0) = true then
    t.xcvSend d x (BitVec.ofNat 160 (bitsNum 160 fun b => s.attBit d pc (752 + b / 32) (b % 32))) (a 1)
  else t

/-- The interface whose record stands at a position, at an edge of its clock. -/
def State.ifaceTick (s u t : State) (p : Nat × Nat × Nat) : State :=
  let (d, pc, pr) := p
  if ¬s.ifaceEdge u d pc pr then t
  else if 45 ≤ pc % 48 then (if pr % 12 = 0 then s.micaTick t d pc pr else t)
  else if 42 ≤ pc % 48 then (if pr % 192 = 0 ∧ s.domLive (slateDom d 4) then s.streamTick t d pc pr else t)
  else if pc % 96 = 41 then (if pr % 24 = 16 then s.portTick t d pc pr else t)
  else if stripOf pc pr = .xcv ∧ pr = 757 ∧ s.xcvIface d (pc / 64) then s.xcvTick t d pc pr
  else t

/-! ## Wire-mode strips (R140, R176, R424, R427 to R429) -/

/-- The die-physical column of bundle strip `i` (R30, R138). -/
def State.stripCol (s : State) (i : Nat) : Nat := 48 * s.physX (i / 16) 16 (i % 16) + 40

/-- The attach-input registers of a strip after an edge: the attach inputs of each position whose region runs, what the register held
where it does not, and 0 where there is no region (R140, R429, R565). -/
def State.stripSample (s : State) (i : Nat) : BitVec 1024 :=
  let pc := s.stripCol i
  let old := (s.strip i).tx
  BitVec.ofNat 1024 (bitsNum 1024 fun b =>
    if s.posRuns (i / 16) pc (b / 32) then s.attBit (i / 16) pc (b / 32) (b % 32)
    else (s.regionOf (i / 16) (s.posSector (i / 16) pc (b / 32))).isSome && old.getLsbD b)

/-- The wire clock of a strip has a rising edge (R176). -/
def State.wireEdge (s u : State) (i : Nat) : Bool :=
  let k := s.fld (Fld.SPL_WCLK_SPINE (i / 16) (i % 16))
  !(s.spine (i / 16) k).level && (u.spine (i / 16) k).level

/-- FRAME of a cycle: in each unit interval the even parity of the 64 lanes (R428). -/
def wireParity (v : BitVec 1024) : BitVec 16 :=
  BitVec.ofNat 16 (bitsNum 16 fun u => (List.range 64).foldl (fun p lane => p != v.getLsbD (16 * lane + u)) false)

/-- One wire-clock cycle of a half: 64 data lanes, VALID and FRAME, each of 16 unit intervals. VALID is 1 in UI 0; FRAME carries parity at
levels that have it and is 0 below (R421, R424, R428). -/
def wireCycle (par : Bool) (v : BitVec 1024) : BitVec 1056 := (if par then wireParity v else 0) ++ (1 : BitVec 16) ++ v

/-- The signals that a cycle carries. -/
def wireData (c : BitVec 1056) : BitVec 1024 := c.setWidth 1024

/-- A cycle arrives with a parity mismatch. -/
def wireBad (c : BitVec 1056) : Bool := wireParity (wireData c) ≠ c.extractLsb' 1040 16

/-- The value on its way to a receiver whose edge `m` comes: what its partner sent at edge `m - 6`, none before the first (R427). -/
def StripSt.arrives (partner : StripSt) (m : Nat) : Option (BitVec 1024) :=
  if m < 6 ∨ partner.edges + 5 < m then none else partner.sent[partner.edges - 1 - (m - 6)]?

/-- PARERR counts a cycle in error where the halves run a level with parity (R421, R428). -/
def State.parityCount (s : State) (bad : Bool) (f : RField) : State := if bad ∧ 3 ≤ s.strata then s.bump f else s

/-- An edge of the wire clock of bundle `i`, whose partner in pair `k` is `j`: its receiving registers take what arrives, checked at the
hub on its up half and at this end on its down half, and its attach-input registers send. -/
def State.stripTick (s t : State) (k i j : Nat) : State :=
  let x := s.strip i
  let tx := s.stripSample i
  let up := Config.freeWire s.free (2 * j)
  let down := Config.freeWire s.free (2 * i + 1)
  let t := t.setStrip i { x with tx := tx, edges := x.edges + 1, sent := (tx :: x.sent).take 16 }
  match (s.strip j).arrives x.edges with
  | none => t
  | some v =>
    let par := decide (3 ≤ s.strata)
    let mid := wireCycle par v ^^^ up
    let got := wireCycle par (wireData mid) ^^^ down
    let t := t.setStrip i { t.strip i with rx := wireData got }
    (t.parityCount (wireBad mid) (Fld.STR_WPSTAT_PARERR k)).parityCount (wireBad got) (Fld.SEP_WSTAT_PARERR (i / 16) (i % 16))

/-- The pairs whose strips run on their wire clocks, with the value that names their bundles: CONNECTED ones, and CONNECTED ones that were
turned off and have not yet returned to packet mode (R426, R431). -/
def State.wiredPairs (s : State) : List (Nat × Word) :=
  (List.range 16).flatMap fun k =>
    let w := s.wireSt k
    (if s.wpState k = 2 then [(k, w.named)] else []) ++ match w.leaving with
      | some l => if l.was = 2 then [(k, l.named)] else []
      | none => []

/-- The strips of every pair that runs in wire mode. -/
def State.stripsTick (s u t : State) : State :=
  s.wiredPairs.foldl (fun (t : State) p =>
    let (a, b) := wpairBundles p.2
    let t := if s.wireEdge u a.val then s.stripTick t p.1 a.val b.val else t
    if s.wireEdge u b.val then s.stripTick t p.1 b.val a.val else t) t

/-! ## User I/O pins (R666) -/

/-- User I/O pairs with GEAR 1, as (die, pin). -/
def State.gearPads (s : State) : List (Nat × Nat) :=
  s.regs.filterMap fun e =>
    match blockAt e.1 with
    | some b =>
      let k := b.off / 4
      if b.desc.blk = .uio ∧ k < 576 ∧ s.padGear b.die k then some (b.die, k) else none
    | none => none

/-- An edge of the pad clock of a pair: its path moves on by one nibble. -/
def State.padTick (s u t : State) (p : Nat × Nat) : State :=
  let (d, k) := p
  let x := s.pad d k
  if s.treeEdge u d (s.padSector d k) (s.fld (Fld.UIO_PAD_CLK d k)) (s.fld (Fld.UIO_PAD_CINV d k) = 1) ∧ s.padRuns d k then
    t.setPad d k { tx1 := BitVec.ofNat 4 (bitsNum 4 fun b => s.padSig d k b), tx2 := x.tx1, sent := x.tx2,
                   rx1 := BitVec.ofNat 4 (bitsNum 4 fun b => s.padLine d k b), rx := x.rx1 }
  else t

/-- Every pair with GEAR 1. -/
def State.padsTick (s u t : State) : State := s.gearPads.foldl (fun (t : State) p => s.padTick u t p) t

/-! ## The tick -/

/-- A position among others in the order of its Mica port, by die and port number. -/
def portInsert (p : Nat × Nat × Nat) (l : List (Nat × Nat × Nat)) : List (Nat × Nat × Nat) :=
  let num := fun (q : Nat × Nat × Nat) => 3072 * q.1 + (micaAt q.2.1 q.2.2).1
  match l with
  | [] => [p]
  | q :: rest => if num q < num p then q :: portInsert p rest else p :: l

/-- Positions at which interfaces stand, those of Mica ports in the order in which a die's log takes their events (R210). -/
def State.ifacePositions (s : State) : List (Nat × Nat × Nat) :=
  let l := s.frames.filterMap fun e => posOfKey e.1
  (l.filter fun p => 45 ≤ p.2.1 % 48).foldr portInsert [] ++ l.filter fun p => p.2.1 % 48 < 45

/-- One tick: every clock takes its next level, as free values decide, and everything that has an edge follows (assumption 6). Nothing
moves while no spine has been enabled. -/
def State.fabricStep (s : State) : State :=
  match s.liveSpines with
  | [] => s
  | _ =>
    let u := s.clockTick
    let t := s.clustersTick u
    let t := s.ifacePositions.foldl (fun (t : State) p => s.ifaceTick u t p) t
    (s.padsTick u (s.stripsTick u t)).useFree

end Sys2Proof.Machine
end

