-- ==== Sys2Proof/Machine/Step.lean ====
section
/-! DEFINITION. One step: the oldest waiting command is carried out. With no command waiting, the clocks tick (assumption 6). -/

namespace Sys2Proof.Machine

/-- One step. A command at the front of the queue is carried out on the state with the queue's rest; with an empty queue, the clocks of a
running device tick once (DESIGN CHOICE, assumption 6). -/
def step (s : State) : Host.Outcome State Fault Refusal :=
  match s.pending with
  | c :: rest => exec c { s with pending := rest }
  | [] => onDevice State.fabricStep s

/-- The state with the command that a word spells at the front of its queue (assumption 4). -/
def State.withFetchWord (s : State) (nbits w : Nat) : State :=
  match decodeTableWord nbits w with
  | some c => { s with pending := c :: s.pending }
  | none => s

end Sys2Proof.Machine
end

