-- ==== Sys2Proof/Safety.lean ====
section
/-! DEFINITION. What counts as a safe run, and the conditions and invariants that claims use. -/

namespace Sys2Proof.Machine

/-! ## Runs -/

/-- The state after `n` steps, if none of them stops. -/
def runs (n : Nat) (s : State) : Option State :=
  match n with
  | 0 => some s
  | k + 1 =>
    match step s with
    | .next t => runs k t
    | _ => none

/-- A run of `n` steps is safe when no step of it stops with a fault or a refusal. -/
def safeRun (n : Nat) (s : State) : Prop := (runs n s).isSome

/-- A command completes with a next state of which `P` holds. -/
def Completes (c : Instr) (s : State) (P : State → Prop) : Prop := ∃ t, exec c s = .next t ∧ P t

/-! ## Register writes that reach their register -/

/-- A PCIe port has no earlier window write to wait for, nor a register or doorbell write that waits (R492, R497). -/
def State.portFree (s : State) (path : Path) : Bool :=
  match path with
  | .pcie port => !(s.winBusy port || s.orderBusy port)
  | _ => true

/-- A write of `v` at `addr` over a path is accepted: the path is up, the address names a register of a block that is on, no lock or
key guard stands in its way, and the path may write it (R54 to R61, R67, R70 to R72). -/
def State.accepts (s : State) (path : Path) (addr : Nat) (v : Word) : Bool :=
  s.pathUp path && s.portFree path &&
    match s.reach path addr true true with
    | .inl (b, .reg r) =>
      !s.featureOff b && !(decide (s.locks.contains b.base ∧ s.changesL r addr (s.kept b v)))
        && (!r.keyed || s.armedFor b.base path)
        && !path.barred addr
    | _ => false

/-- The state that an accepted write starts from: a management frame ends an earlier one, and a keyed write uses up its arm. -/
def State.opened (s : State) (path : Path) (b : BlockAt) (r : RegDesc) : State :=
  let s : State := match path with
    | .mgmt => { s with heldAcc := s.heldAcc.filter fun a => a.path ≠ Path.mgmt }
    | _ => s
  if r.keyed then s.disarm b.base else s

/-- The answer of an accepted write: a management frame has one (R56, R58). -/
def State.acked (s : State) (path : Path) : State :=
  match path with
  | .mgmt => s.emit (.mgmt (s.mgmtStatus 0) none)
  | _ => s

/-! ## Engines that issue (R245 to R250, R275 to R277) -/

/-- The word address of a slot's transfer. -/
def EngSt.slotAddr (v : EngSt) (k : XSlot) : Nat := (v.ar.getD k.ar AReg.fresh).a.toNat

/-- What a load slot of memory `m` (0 P, 1 X, 2 Y) will write to its register. -/
def EngSt.loadOf (v : EngSt) (m : Nat) (k : XSlot) : List PendWr :=
  if k.en && !k.store then
    let c := (v.cell m (v.slotAddr k)).data
    [if k.sreg then .s k.reg (c.setWidth 32) else .v k.reg c]
  else []

/-- What the loads of a transfer field will write. -/
def EngSt.loadsOf (v : EngSt) (x : BitVec 32) : List PendWr := v.loadOf 1 (xSlot x) ++ v.loadOf 2 (ySlot x) ++ v.loadOf 0 (pSlot x)

/-- A memory after the store of a slot. -/
def EngSt.storeOf (v : EngSt) (m : SMap Cell) (k : XSlot) : SMap Cell :=
  if k.en && k.store then
    SMap.put Cell.unwritten m (v.slotAddr k % 1024) (Cell.of (if k.sreg then (v.s.getD k.reg 0).setWidth 64 else v.v.getD k.reg 0))
  else m

/-- A load slot meets a word without an error. -/
def EngSt.loadClean (v : EngSt) (m : Nat) (k : XSlot) : Prop := k.en = true → k.store = false → (v.cell m (v.slotAddr k)).syn = .clean

/-- Engine `r` is about to issue the word `w` with transfers `x`: the device and the engine's clock run, the engine is RUNNING
outside repeats and delay slots with no RING fault to take, the legal word `w` waits in the frozen pipeline, comes from a complete loop cache or stands without an
error at the PC, and the loads meet no error. -/
structure Issues (s : State) (r : EngRef) (w : W64) (x : BitVec 32) : Prop where
  up : s.up = true
  clock : s.engClock r.die.val r.g = true
  run : (s.eng r.key).run = .running
  straight : (s.eng r.key).slots = 0 ∧ (s.eng r.key).rptLeft = 0 ∧ (s.eng r.key).exit = false ∧ (s.eng r.key).faultPend = []
  word : (s.eng r.key).held = some w ∨ (s.eng r.key).held = none ∧
    (((s.eng r.key).loop.bind fun c => c.hit (s.eng r.key).pc) = some w ∨
      ((s.eng r.key).loop.bind fun c => c.hit (s.eng r.key).pc) = none ∧ (s.eng r.key).cell 0 (s.eng r.key).pc.toNat = ⟨w, .clean⟩)
  transfers : w.setWidth 32 = x
  legal : wordLegal w = true ∧ s.wordBarred (s.eng r.key) w = false
  loads : (s.eng r.key).loadClean 1 (xSlot x) ∧ (s.eng r.key).loadClean 2 (ySlot x) ∧ (s.eng r.key).loadClean 0 (pSlot x)

/-- What the issue of an instruction with transfers `x` makes of an engine beside what its operation does: the writes of the cycle
before have landed, TIMER has counted (R260), the transfers are done, the accumulators' history moves on, and the next word follows. -/
def EngSt.issued (v : EngSt) (x : BitVec 32) : EngSt :=
  { v.land.count with
    pc := v.pc + 1, stall := 0, held := none, ar := AReg.updates v.ar v.ar (slotsOf x), pend := v.loadsOf x
    w1 := v.w, w2 := v.w1, ov := 0 :: v.land.ov, xm := v.storeOf v.xm (xSlot x), ym := v.storeOf v.ym (ySlot x) }

/-- The engine after a scalar instruction: the result in Sd, and Z says whether it is 0 (R290 to R292). -/
def EngSt.scalarDone (v : EngSt) (x : BitVec 32) (sd : BitVec 3) (y : Word) : EngSt :=
  { v.issued x with s := listSet v.land.s sd.toNat y, sr := setBits v.land.sr 0 0 (if y = 0 then 1 else 0) }

/-- The engine after an instruction that writes one S register and no flag. -/
def EngSt.sDone (v : EngSt) (x : BitVec 32) (sd : BitVec 3) (y : Word) : EngSt := { v.issued x with s := listSet v.land.s sd.toNat y }

/-- The engine after an instruction that writes one V register in stage A. -/
def EngSt.vDone (v : EngSt) (x : BitVec 32) (vd : BitVec 4) (y : W64) : EngSt := { v.issued x with v := listSet v.land.v vd.toNat y }

/-- The engine after an instruction that writes one accumulator; `ov` says that a lane wrapped (R241). -/
def EngSt.accDone (v : EngSt) (x : BitVec 32) (wd : BitVec 2) (a : W384) (ov : Bool) : EngSt :=
  { v.issued x with w := listSet v.w wd.toNat a, ov := (if ov then 2 ^ wd.toNat else 0) :: v.land.ov }

/-- The engine after an instruction that writes one address register; the slots update on the values before (R277). -/
def EngSt.arDone (v : EngSt) (x : BitVec 32) (ar : BitVec 3) (a : AReg) : EngSt :=
  { v.issued x with ar := AReg.updates v.ar (listSet v.ar ar.toNat a) (slotsOf x) }

/-- The engine after a branch: its two delay slots follow, then `t` (R288). -/
def EngSt.branchDone (v : EngSt) (x : BitVec 32) (t : BitVec 10) : EngSt := { v.issued x with slots := 2, target := t }

/-- DEC counts its register down, whether the branch is taken or not (R286). -/
def EngSt.decDone (v : EngSt) (cond : BitVec 4) (sc : BitVec 3) : List Word :=
  if cond = 7 then listSet v.land.s sc.toNat (v.sreg sc - 1) else v.land.s

/-- The engine with its loop cache replaced. -/
def EngSt.withLoop (v : EngSt) (l : Option LoopCache) : EngSt := { v with loop := l }

/-- A command completes with engine `r` replaced by `u`, whatever its loop cache holds, and with nothing else changed. -/
def IssuesAs (c : Instr) (s : State) (r : EngRef) (u : EngSt) : Prop := ∃ l, exec c s = .next (s.setEng r.key (u.withLoop l))

/-- No ring command of an engine waits at its group port (R270). -/
def State.ringQuiet (s : State) : Prop := ∀ e ∈ s.engines, ∀ q ∈ e.2.ring, q.sent = true

/-! ## What a statement's frame says -/

/-- A pending-bit word of an MSI-X table, which an event may set (R511). -/
def isPba (a : Nat) : Prop := (0x9A000 ≤ a ∧ a < 0x9A028) ∨ (0xAA000 ≤ a ∧ a < 0xAA028)

/-- Every register outside `p` reads as before. -/
def sameRegs (s t : State) (p : Nat → Prop) : Prop := ∀ a, ¬p a → t.reg a = s.reg a

/-- Nothing but registers in `p` changes: no memory, no queue, nothing sent. -/
def WritesOnly (s t : State) (p : Nat → Prop) : Prop := t = { s with regs := t.regs } ∧ sameRegs s t p

/-- Nothing but registers in `p` changes, and what the events that they raise set or send (R511, R674). -/
def SignalsOnly (s t : State) (p : Nat → Prop) : Prop :=
  t = { s with regs := t.regs, out := t.out } ∧ sameRegs s t fun a => p a ∨ isPba a

/-- A register write changes nothing but registers in `p`, its own answer and events, the arm that it uses up and a management
frame that it ends. -/
def AccessOnly (s t : State) (p : Nat → Prop) : Prop :=
  t = { s with regs := t.regs, out := t.out, arms := t.arms, heldAcc := t.heldAcc } ∧ sameRegs s t fun a => p a ∨ isPba a

/-! ## Loader commands (R556) -/

/-- The row of loader command `op`. -/
def loaderRowOf (op : Nat) (src : Option Path) (v : Word) (image : List Byte) : Instr :=
  if op = 1 then .load src v
  else if op = 2 then .loadf src v image
  else if op = 3 then .freeze src v
  else if op = 4 then .commit src v
  else if op = 5 then .abort src v
  else if op = 6 then .clear src v
  else .read src v

/-- The frame that stands `i`-th in the plaintext of a block (R552). -/
def blockFrame (plain : List Byte) (i : Nat) : BitVec 4096 := BitVec.ofNat 4096 (natLE (slice plain (516 * i) 512))

/-- Why frame `i` of a verified block whose first frame has key `k` is rejected: the lowest faulty bit and REASON (R128, R554 step 6). -/
def frameBad (plain : List Byte) (k i : Nat) : Option (Nat × Nat) :=
  if leAt plain (516 * i + 512) 4 = (crc32c (slice plain (516 * i) 512)).toNat then frameCheck (k + i) (blockFrame plain i) else some (0, 10)

/-- A command of the loader ended: CFG_RESULT and the interrupts say so (R560, R582). -/
def loaderResult (t : State) (region op reason : Nat) : Prop :=
  t.reg Reg.CFG_RESULT = BitVec.ofNat 32 (2 ^ 31 + region % 256 * 2 ^ 16 + op * 2 ^ 8 + reason) ∧ t.fld Fld.CFG_IRQ_STATUS_DONE = 1 ∧
    (reason ≠ 0 → t.fld Fld.CFG_IRQ_STATUS_FAIL = 1)

/-- The registers in which the end of a loader command shows. -/
def loaderMarks (a : Nat) : Prop := a = Reg.CFG_RESULT ∨ a = Reg.CFG_IRQ_STATUS

/-! ## Start-up -/

/-- What a start leaves (R594 step 1, R596): every domain but AON and Flint's is off, the registers but the retained ones are at their
Reset column or show straps and fuses, and the waiting "next start" shadow of CLK_BOOT applies unless the start is cold. -/
def Started (s t : State) (i : StartIn) (cold : Bool) : Prop :=
  t.phase = .start 1 ∧ t.pending = s.pending ∧ t.flintUp = true ∧ t.haltDone = false ∧ t.net = [] ∧ t.inbox = [] ∧ t.tags = [] ∧
  t.engines = [] ∧ t.mica = [] ∧ t.vein = [] ∧ t.ddr = [] ∧ t.keys = [] ∧ t.frames = [] ∧ t.regions = [] ∧ t.arms = [] ∧ t.locks = [] ∧
  t.links = [] ∧ t.strips = [] ∧ t.spines = [] ∧ t.trees = [] ∧ t.uports = [] ∧ t.micaShown = [] ∧ t.mports = [] ∧ t.pads = [] ∧
  t.otree = [] ∧ t.ocache = [] ∧ t.pcie = [] ∧ t.hostHeld = [] ∧
  t.straps = { rcvryN := i.rcvryN, pudcN := i.pudcN, xadly := i.xadly } ∧
  t.fld Fld.FLN_STATUS_STARTWIN = 1 ∧ t.fld Fld.FLN_STATUS_HANDED = 0 ∧ t.bit Fld.FLN_STATUS_RECOVERY = !i.rcvryN ∧
  t.fld Fld.CLK_STATUS_XADLY = i.xadly.toNat ∧ t.fld Fld.CLK_STATUS_AONSRC = 0 ∧
  t.bit Fld.PWR_SUPPLY_COLD = cold ∧ t.bit Fld.PWR_SUPPLY_VBAKLOW = i.vbakLow ∧ t.bit Fld.PWR_SUPPLY_BAKABSENT = i.bakAbsent ∧
  (∀ d, d < 56 → t.fld (Fld.PWR_DOM_STATE d) = if d ≤ 1 then 2 else 0) ∧
  (cold = false → ∀ a, a = Reg.CLK_LOSS ∨ a = Reg.PWR_RAILLOG ∨ a = Reg.PWR_HALT_A ∨ a = Reg.PWR_HALT_B → t.reg a = s.reg a) ∧
  (cold = true → t.reg Reg.CLK_LOSS = 0 ∧ t.reg Reg.PWR_RAILLOG = 0 ∧ t.reg Reg.PWR_HALT_A = 0 ∧ t.reg Reg.PWR_HALT_B = 0 ∧ t.shadow = []) ∧
  (cold = false → ∀ w, SMap.find s.shadow Reg.CLK_BOOT = some w → bits (t.reg Reg.CLK_BOOT) 1 0 = bits w 1 0)

/-! ## Memories -/

/-- The memories of an engine are in canonical form: addresses rising, nothing listed that reads as an unlisted word does. -/
def EngSt.memWf (v : EngSt) : Bool :=
  SMap.wf (fun _ => Cell.unwritten) v.pm && SMap.wf (fun _ => Cell.unwritten) v.xm && SMap.wf (fun _ => Cell.unwritten) v.ym

/-- The device's memories are in canonical form: Mica blocks, vein arrays, DDR5 lines (where a listed line is one that was written),
configuration frames, and the memories of every engine. -/
def Memory.wf (s : State) : Bool :=
  SMap.wf (fun _ => Cell.unwritten) s.mica && SMap.wf (fun _ => Cell.unwritten) s.vein && SMap.risingFrom s.ddr 0 &&
    SMap.wf (fun _ => (0 : BitVec 4096)) s.frames && s.engines.all fun e => e.2.memWf

/-! ## Invariants -/

/-- A device whose halt is complete does not run, and holds nothing that its powered-off domains held (R678, R679). -/
def HaltDark (s : State) : Prop :=
  s.haltDone = true → s.up = false ∧ s.flintUp = false ∧ s.net = [] ∧ s.inbox = [] ∧ s.tags = [] ∧ s.engines = [] ∧ s.mica = []
    ∧ s.ddr = [] ∧ s.keys = [] ∧ s.frames = [] ∧ s.regions = []

end Sys2Proof.Machine
end

