-- ==== Sys2Proof/Certificates/Slice0/Obligations.lean ====
section
/-! DEFINITION. The statements for the provers. -/

open Sys2Proof Sys2Proof.Machine

/-! ## The queue and reset -/

/-- A step with a command at the front of the queue is that command's effect on the state with the queue's rest. -/
def Obligations.StepRunsTheFrontCommand : Prop :=
  ∀ (c : Instr) (q : List Instr) (s : State), step { s with pending := c :: q } = exec c { s with pending := q }

/-- Every command has a next state, which leaves the rest of the queue as it was. For every command that is no instruction of an engine, a case in
which its own effect happens, with what it does first of all; the other statements say more of each. -/
def Obligations.EveryCommandCompletes : Prop :=
  (∀ (c : Instr) (s : State), ∃ t, exec c s = .next t ∧ t.pending = s.pending) ∧
  -- starts, Flint and supplies
  (∀ (s : State) (i : StartIn) (l : List Dimm) (patch image : List Byte) (ms : Nat) (sram high : Bool) (addr : BitVec 48) (a k : Nat) (ok : Bool)
      (value : Option Word) (rail : Fin 30) (temps : List (Option (BitVec 12))),
    Completes (.powerOn i) s (fun t => Started s t i (decide (s.phase ≠ .hold) || i.bakAbsent)) ∧
    (s.phase = .running → Completes (.resetN i) s fun t => Started s t i false) ∧
    (s.phase = .start 2 → s.refPresent 1 = true ∨ s.refPresent 2 = true → Completes (.startupReferencePresent l patch) s fun t => t.phase = .start 3) ∧
    (s.phase = .start 3 → Completes .startupBedrockUp s fun t => t.phase = .start 4) ∧
    (s.phase = .start 4 → (∀ d < 4, s.fuses.present.toNat.testBit d = true → ∀ b < 16, s.fld (Fld.STR_BSTAT_STATE (16 * d + b)) = 2 ∨
        s.fld (Fld.STR_BSTAT_STATE (16 * d + b)) = 3) → Completes .startupBundlesTrained s fun t => t.phase = .start 5) ∧
    (s.phase = .start 5 → s.straps.rcvryN = true → Completes (.startupFlashLoad image) s fun t => t.phase = .start 6) ∧
    (s.phase = .start 6 → s.loader.stream = none → Completes .handOver s fun t => t.fld Fld.FLN_STATUS_HANDED = 1 ∧ t.fld Fld.FLN_STATUS_STARTWIN = 0) ∧
    (s.phase = .halted → s.haltDone = false → Completes .deviceHalt s fun t => t.haltDone = true ∧ t.flintUp = false) ∧
    (s.up = true → s.flintUp = true → Completes (.flintWatchdogExpiry ms) s (fun t => t.fld Fld.FLN_IRQ_STATUS_WDOG = 1) ∧
      Completes (.flintPoisonRead sram addr) s (fun t => t.fld Fld.FLN_FWLOG_A_VALID = 1) ∧
      (s.lcState ≠ 4 → s.reach .flint a ok value.isSome = .inr (.bus k) → k < 8 → a < 2 ^ 32 → Completes (.flintBusError a ok value) s fun t =>
        t.fld Fld.FLN_IRQ_STATUS_FWFAULT = 1)) ∧
    (s.up = true → s.railCounts rail.val = true → Completes (.supplyReset rail high) s fun t => t.phase = .supplyReset) ∧
    (s.phase = .supplyReset → Completes (.supplyResetEnd i) s fun t => Started s t i false) ∧
    (s.up = true → Completes (.vaonLoss .holds) s fun t => t.phase = .hold) ∧
    (s.phase = .hold → Completes (.vaonReturn i) s fun t => Started s t i i.bakAbsent) ∧
    (s.up = true → Completes (.thermalSample temps) s fun t => ∀ j x, j < 72 → s.sensorOk j = true → temps.getD j none = some x →
      t.fld (Fld.THM_SENS_TEMP j) = x.toNat)) ∧
  -- register accesses, management frames and leases
  (∀ (s : State) (path : Path) (a v w : Word) (addr : Nat) (b : BlockAt) (r : RegDesc) (k : Fin 64),
    (s.accepts path Reg.CFG_ARG0 v = true → Completes (.registerWrite path Reg.CFG_ARG0 true (some v) 0) s fun t => t.reg Reg.CFG_ARG0 = v) ∧
    (s.up = true → regSel addr = some (b, .reg r) → r.boundary = some .packet → SMap.find s.shadow addr = some w → s.ringQuiet →
      Completes (.shadowApply addr) s fun t =>
      SMap.find t.shadow addr = none) ∧
    (∀ c, blockAt addr = some c → c.base = b.base ∧ c.desc = b.desc → s.pathUp path = true → s.portFree path = true →
      let ctl := fun (back : Nat) (sel : RegSel) =>
        s.reach path (b.base + b.desc.size - back) true true = .inl (b, sel) ∧ path.barred (b.base + b.desc.size - back) = false
      (ctl 0x10 .pend → Completes (.pendCancel path addr) s fun t =>
        ∀ x, b.base ≤ x → x < b.base + b.desc.size → SMap.find t.shadow x = none) ∧
      (ctl 0xC .guard → Completes (.guardLock path addr) s fun t => b.base ∈ t.locks) ∧
      (ctl 8 .unlock → s.kAvail path = true → Completes (.unlock path addr 0xA5C30F17#32) s fun t => { block := b.base, path := path } ∈ t.arms) ∧
      (s.up = true → Completes (.kArmLapse addr) s fun t => ∀ x ∈ t.arms, x.block ≠ b.base)) ∧
    (s.up = true → s.lcState ≠ 4 →
      (regSel a.toNat = some (b, .reg r) → s.reach .mgmt a.toNat true false = .inl (b, .reg r) → b.desc.blk = .hub ∨ b.desc.blk = .thm →
        Completes (.mgmtRead a) s fun t => ∃ x st, t.out = x ++ [.mgmt st (some (s.reg a.toNat &&& r.readMask))] ∧ st.toNat % 16 = 0) ∧
      (s.accepts .mgmt a.toNat v = true → Completes (.mgmtWrite a v) s fun t => ∃ x st, t.out = x ++ [.mgmt st none] ∧ st.toNat % 16 = 0) ∧
      Completes .mgmtStatus s (fun t => ∃ x st, t.out = x ++ [.mgmt st none] ∧ st.toNat % 16 = 0) ∧
      Completes .mgmtFrameAbandon s (fun t => ∀ x ∈ t.heldAcc, x.path ≠ Path.mgmt) ∧
      ((∃ x ∈ s.heldAcc, x.path = Path.mgmt) → Completes .mgmtTimeout s fun t => ∃ x st data, t.out = x ++ [.mgmt st data] ∧ st.toNat % 16 = 5)) ∧
    (s.accepts path (Reg.FLN_SEM_OP k.val) 1 = true → s.reg (Reg.FLN_SEM k.val) = 0 → Completes (.semAcquire path k) s fun t =>
      t.reg (Reg.FLN_SEM k.val) = s.pathOwner path) ∧
    (s.accepts path (Reg.FLN_SEM_OP k.val) 0 = true → s.reg (Reg.FLN_SEM k.val) = s.pathOwner path → Completes (.semRelease path k) s fun t =>
      t.reg (Reg.FLN_SEM k.val) = 0) ∧
    (s.accepts path Reg.FLN_REVOKE w = true → kindDeclares (ownerKind w) = true → ownerKind w ≠ 2 → (∀ x ∈ s.revs, x.owner ≠ w) → s.leasesOf w = [] →
      s.flintUp = true → Completes (.flnRevoke path w) s fun t => t.reg Reg.FLN_LEASE_LOG = w) ∧
    (s.up = true → s.flintUp = true → s.ringQuiet → s.revs = [{ owner := w, held := [.sem k.val], restarted := false }] → s.reg (Reg.FLN_SEM k.val) = revokingId →
      Completes (.revocationComplete w) s fun t => t.reg (Reg.FLN_SEM k.val) = 0 ∧ t.revs = [])) ∧
  -- clocks and power domains
  (∀ (s : State) (path : Path) (d : Fin 4) (p : Fin 8) (x sec : Fin 16) (n : Fin 24) (v : Word) (w : Fin 3) (sel : BitVec 2) (second mclk : Bool) (dom : Fin 56),
    let act := s.fld (Fld.SEC_RCLK_ACTIVE d.val sec.val n.val)
    let from_ := s.treeSrc d.val sec.val n.val act
    let goal := s.fld (Fld.SEC_RCLK_SEL d.val sec.val n.val)
    let to_ := s.treeSrc d.val sec.val n.val goal
    let ref := if second then 2 else 1
    let steady := s.phase = .running ∧ s.clk.aonClocked = true ∧ s.clk.deferred = false ∧ s.clk.lossOnMclk = false ∧
      s.fld Fld.CLK_STATUS_HOLDOVER = 0 ∧ s.fld Fld.CLK_STATUS_DREFLOST = 0
    (s.accepts path (Reg.SPL_PLL_CTRL d.val p.val + 8) v = true → Completes (.pllSettingWrite path d p 2 v) s fun t =>
      t.reg (Reg.SPL_PLL_CTRL d.val p.val + 8) = v) ∧
    (s.up = true → s.bit (Fld.SPL_PLL_CTRL_EN d.val p.val) = true → s.pllValid d.val p.val = true → s.dref = true → s.domOn (slateDom d.val 5) = true →
      s.dieOk d.val = true → Completes (.pllLock d p) s fun t => t.fld (Fld.SPL_PLL_STATUS_LOCKED d.val p.val) = 1) ∧
    (s.up = true → s.bit (Fld.SPL_PLL_STATUS_LOCKED d.val p.val) = true → Completes (.pllLossOfLock d p) s fun t =>
      t.fld (Fld.SPL_PLL_STATUS_LOCKED d.val p.val) = 0 ∧ t.fld (Fld.SPL_PLL_STATUS_LOSTLOCK d.val p.val) = 1) ∧
    (s.accepts path (Reg.SPL_SPINE d.val x.val) v = true → Completes (.spineWrite path d x v) s fun t =>
      t.bit (Fld.SPL_SPINE_EN d.val x.val) = v.getLsbD 31) ∧
    (s.accepts path (Reg.SEC_RCLK d.val sec.val n.val) v = true → Completes (.treeSelWrite path d sec n v) s fun t =>
      t.fld (Fld.SEC_RCLK_SEL d.val sec.val n.val) = bits v 21 20) ∧
    (s.up = true → s.bit (Fld.SEC_RCLK_SWITCH_PENDING d.val sec.val n.val) = true → (s.tree d.val sec.val n.val).hung = false →
      s.spineRuns d.val from_ = true → s.spineRuns d.val to_ = true → Completes (.treeSwitchComplete d sec n) s fun t =>
        t.fld (Fld.SEC_RCLK_ACTIVE d.val sec.val n.val) = goal) ∧
    (s.accepts path (Reg.SEC_RCLK_RST d.val sec.val) v = true → v.getLsbD n.val = true → Completes (.secRclkRst path d sec v) s fun t =>
      t.fld (Fld.SEC_RCLK_ACTIVE d.val sec.val n.val) = goal) ∧
    ((∀ y, s.accepts path Reg.CLK_CTRL y = true) →
      (s.bit Fld.CLK_CTRL_REFA_EN = false → Completes (.refaEn path true) s fun t => t.fld Fld.CLK_CTRL_REFA_EN = 1) ∧
      (s.bit Fld.CLK_CTRL_REFB_EN = false → Completes (.refbEn path true) s fun t => t.fld Fld.CLK_CTRL_REFB_EN = 1) ∧
      (s.stepDone 3 = true → sel = 1 ∨ sel = 2 → s.refPresent sel.toNat = true → Completes (.aonsel path sel) s fun t =>
        t.fld Fld.CLK_STATUS_AONSRC = sel.toNat)) ∧
    (steady → s.fld Fld.CLK_STATUS_REFA_STATE = 1 → s.clk.counting = true → Completes .startDelayComplete s fun t => t.fld Fld.CLK_STATUS_REFA_STATE = 2) ∧
    (steady → s.bit Fld.CLK_CTRL_REFB_EN = true → s.fld Fld.CLK_STATUS_REFB_STATE = 1 → mclk = true ∨ s.refPresent 1 = true →
      Completes (.refbQualified mclk) s fun t => t.fld Fld.CLK_STATUS_REFB_STATE = 2) ∧
    (steady → s.fld Fld.CLK_STATUS_REFA_STATE = 3 → s.bit Fld.CLK_CTRL_REFA_EN = true → Completes .refaOscillationStart s fun t =>
      t.fld Fld.CLK_STATUS_REFA_STATE = 1) ∧
    (steady → s.refPresent ref = true → mclk = true ∨ s.refPresent (3 - ref) = true → s.fld Fld.CLK_STATUS_AONSRC ≠ ref → s.fld Fld.CLK_STATUS_DREFSRC ≠ ref →
      Completes (.referenceTrip second mclk) s fun t => t.fld (if second then Fld.CLK_STATUS_REFB_STATE else Fld.CLK_STATUS_REFA_STATE) = 3) ∧
    (steady → s.fld Fld.CLK_STATUS_AONSRC ≠ 0 → (∀ r, r = 1 ∨ r = 2 → r ≠ s.fld Fld.CLK_STATUS_AONSRC → s.refPresent r = false) →
      Completes .mclkWatch s fun t => t.fld Fld.CLK_STATUS_AONSRC = 0 ∧ t.fld Fld.CLK_LOSS_CAUSE = 3) ∧
    (s.up = true → s.fld Fld.CLK_STATUS_HOLDOVER = 1 → s.refPresent 1 = false → s.refPresent 2 = false → Completes .holdoverExpiry s fun t =>
      t.fld Fld.CLK_STATUS_DREFLOST = 1) ∧
    (s.accepts path (Reg.PWR_DOM dom.val) 0x20000000#32 = true → s.domExists dom.val = true → Completes (.domainPowerOn path dom) s fun t =>
      t.fld (Fld.PWR_DOM_REQ dom.val) = 1) ∧
    (s.accepts path (Reg.PWR_DOM dom.val) 0 = true → s.offCause dom.val = 0 → Completes (.domainPowerOff path dom) s fun t =>
      t.fld (Fld.PWR_DOM_REQ dom.val) = 0) ∧
    (s.up = true → s.fld (Fld.PWR_DOM_STATE dom.val) = 1 → dom.val < 10 → s.heldAcc = [] → s.hostHeld = [] → s.homes = [] → s.waking = [] → s.wakeFail = [] →
        s.dieDown = [] →
      Completes (.domainOn dom) s fun t => t.fld (Fld.PWR_DOM_STATE dom.val) = if s.bit (Fld.PWR_DOM_REQ dom.val) then 2 else 3) ∧
    (s.up = true → s.fld (Fld.PWR_DOM_STATE dom.val) = 3 → s.domDrained dom.val = true → s.bit (Fld.PWR_DOM_REQ dom.val) = false → dom.val = 7 ∨ dom.val = 8 →
      Completes (.domainOff dom) s fun t => t.fld (Fld.PWR_DOM_STATE dom.val) = 0)) ∧
  -- Mica
  (∀ (s : State) (path : Path) (d : Fin 4) (p : Fin 3072) (w : BitVec 12) (x : W64) (g : BitVec 8) (e : Fin 16) (n : BitVec 21),
    let c := s.micaCell d.val p.val w.toNat
    (s.up = true → s.micaClock d.val p.val = true →
      (s.micaReady d.val p.val = true → s.exported d.val (p.val / 16) = false →
        (c.syn = .clean → Completes (.micaRead d p w []) s fun t => ∃ l m, t.micaOut = l ++ [m] ∧ m.status = 0 ∧ m.data = c.data) ∧
        Completes (.micaWrite d p w x 0xFF false) s (fun t => t.micaCell d.val p.val w.toNat = ⟨x, .clean⟩)) ∧
      (∀ m rest, s.micaOut = m :: rest → m.die = d.val → m.port = p.val → m.wait = 1 → s.sectorRuns d.val (s.groupSector d.val (p.val / 16)) = true →
        Completes (.micaResponse d p) s fun t => t.micaShows d.val p.val = some { m with wait := 0 } ∧ t.out = s.out ++ [.mica { m with wait := 0 }])) ∧
    (s.up = true → s.fld (Fld.PWR_DOM_STATE (slateDom d.val 9)) ≠ 0 → s.fld (Fld.MCA_STATUS_INIT_DONE d.val) = 0 → Completes (.micaInitDone d) s fun t =>
      t.fld (Fld.MCA_STATUS_INIT_DONE d.val) = 1) ∧
    (s.accepts path (Reg.MCA_ERASE d.val) (0x80000000#32 ||| g.setWidth 32) = true → g.toNat ≤ 191 → s.exported d.val g.toNat = false →
      s.fld (Fld.MCA_STATUS_ERASE_BUSY d.val) = 0 → Completes (.mcaErase path d g) s fun t => t.fld (Fld.MCA_STATUS_ERASE_BUSY d.val) = 1) ∧
    (∀ i, s.up = true → SMap.find s.erasing d.val = some i → i < 192 → Completes (.eraseDone d) s fun t => SMap.find t.erasing d.val = none ∧
      ∀ q y, q / 16 = i → y < 4096 → t.micaCell d.val q y = Cell.unwritten) ∧
    (s.accepts path (Reg.MCA_LOG_A d.val e.val) 0x80000000#32 = true → Completes (.mcaLogClear path d e) s fun t => t.reg (Reg.MCA_LOG_A d.val e.val) = 0) ∧
    (s.accepts path (Reg.VEN_REWRITE d.val) (0x80000000#32 ||| n.setWidth 32) = true → (∀ j, j < 2 ^ 21 → (s.veinCell d.val j).syn = .clean) →
      Completes (.venRewrite path d n []) s fun t => ∀ j, j < 2 ^ 21 → t.veinCell d.val j = s.veinCell d.val j)) ∧
  -- engines from outside
  (∀ (s : State) (path : Path) (r : EngRef) (bells : Word) (w : W64) (poison : Bool) (n : Nat),
    let v := s.eng r.key
    let ctl := Reg.SEG_ECTL r.die.val r.grp.val r.eng.val
    (s.accepts path ctl 0x20000000#32 = true → Completes (.engineReset path r) s fun t => (t.eng r.key).run = .halted ∧ (t.eng r.key).pc = 0) ∧
    (s.accepts path ctl 0x40000000#32 = true → v.run = .running → Completes (.engineHalt path r) s fun t => (t.eng r.key).run = .halted) ∧
    (s.accepts path ctl 0x80000000#32 = true → s.groupEnabled r.die.val r.grp.val = true → v.run = .halted → v.waitHeld = false → v.faultPend = [] →
      Completes (.engineRun path r none) s fun t => (t.eng r.key).run = .running) ∧
    (s.accepts path (Reg.SEG_DBELL r.die.val r.grp.val r.eng.val) bells = true → s.groupEnabled r.die.val r.grp.val = true →
      Completes (.segDbell path r bells) s fun t => (t.eng r.key).dbell = v.dbell ||| bells) ∧
    (s.up = true → s.engClock r.die.val r.g = true → v.run = .running → v.sr.getLsbD 7 = true → v.slots = 0 → v.rptLeft = 0 →
      v.sr.getLsbD 6 = true → v.tevent = true → v.faultPend = [] →
      Completes (.interruptEntry r) s fun t => (t.eng r.key).epc = v.pc) ∧
    (s.up = true → s.engClock r.die.val r.g = true → v.run = .running → v.timer = 1 → Completes (.engineTimerExpiry r) s fun t =>
      (t.eng r.key).tevent = true ∧ (t.eng r.key).timer = v.treload) ∧
    (s.up = true → s.engClock r.die.val r.g = true → v.sin0.length < 4 → Completes (.streamTransfer r 0 w poison) s fun t =>
      (t.eng r.key).sin0 = v.sin0 ++ [(w, poison)]) ∧
    (∀ p q l, s.up = true → s.engClock r.die.val r.g = true → s.engRsp[n]? = some (r.key, p) → v.ring = q :: l → q.rc = 4 → q.sent = true →
      q.tag = p.tag → p.status.toNat ≤ 1 → Completes (.ringCommandComplete n) s fun t => t.engRsp = listDropAt s.engRsp n) ∧
    (∀ x i, s.up = true → s.inbox[n]? = some x → portKind x.ep = .group → x.pkt.cmd = 8 → x.pkt.spec.toNat % 32 = 1 → i < 1021 →
      x.pkt.addr.toNat = 65536 * r.eng.val + 16384 + 8 * i → r.key = 12 * (192 * x.ep.die.toNat + s.groupOf x.ep) + r.eng.val →
      (∀ j < 4, (v.cell 1 (i + j)).syn = .clean) → Completes (.loaderAccessForced n) s fun t => t.inbox = listDropAt s.inbox n)) ∧
  -- the ring network
  (∀ (s : State) (path : Path) (d : Fin 4) (r : Fin 64) (e : Ep) (p : Packet) (n i inp : Nat) (f : Flight) (tag : BitVec 12) (te : TagEntry) (v : Word),
    let quiet := s.hostHeld = [] ∧ (∀ f ∈ s.fences, f.ep ≠ e) ∧ ∀ k, (s.eng k).nextCmd = none
    let user := s.up = true ∧ s.userMay e = true ∧ s.drains.contains e = false ∧ s.portFenced e = false ∧ ∀ f ∈ s.fences, f.ep ≠ e
    (user → p.cls = 0 → 8 ≤ p.cmd.toNat → malformed { p with src := e, vc := 0 } = false → (∀ u ∈ s.tags, u.ep ≠ e) →
      s.poolRoom e (rspFlits { p with src := e, vc := 0 }) = true → Completes (.packetInject e p) s fun t => ∃ u, t.tags = s.tags ++ [u] ∧ u.tag = p.tag ∧
        t.net.length = s.net.length + 1) ∧
    (s.up = true → s.net[n]? = some f → s.isHead n f = true →
      (f.loc = .router d.val 0 0 inp → s.domOn (slateDom d.val 5) = true → s.localTo d.val f.pkt = true → f.pkt.dst.x = 0 → 0 < f.pkt.dst.y.toNat →
        s.hasRoom (.router d.val 0 1 18) { f.pkt with vc := 0 } = true → Completes (.routerForward n) s fun t =>
          t.net = listDropAt s.net n ++ [{ loc := .router d.val 0 1 18, pkt := { f.pkt with vc := 0 } }]) ∧
      (f.loc = .edge d.val 0 → s.usable (16 * d.val) = false → s.usable (16 * d.val + 1) = false → f.pkt.cls = 0 → Completes (.edgeStopExit n) s fun t =>
        t.net = listDropAt s.net n ++ [{ loc := .router d.val 0 0 20, pkt := rspErr f.pkt 7 }]) ∧
      (∀ x y, x < 8 → y < 8 → f.loc = .ingressPort x y inp → s.localEp f.pkt.dst = true → f.pkt.dst.die = 4 →
        s.hasRoom (.hub f.pkt.dst.x.toNat y 0) { f.pkt with vc := 0 } = true → Completes (.ingressSwitch n) s fun t =>
          t.net = listDropAt s.net n ++ [{ loc := .hub f.pkt.dst.x.toNat y 0, pkt := { f.pkt with vc := 0 } }]) ∧
      (f.loc = .router f.pkt.dst.die.toNat f.pkt.dst.x.toNat f.pkt.dst.y.toNat inp → s.localEp f.pkt.dst = true → f.pkt.dst.die.toNat < 4 →
        s.domOn (slateDom f.pkt.dst.die.toNat 5) = true → checkCrc f.pkt = some (p, 0) → portKind f.pkt.dst = .user → p.cls = 0 → p.cmd = 8 →
        s.domOn (s.portDomain f.pkt.dst) = true → s.inboundFlits f.pkt.dst + p.flits ≤ 36 → s.userEnabled f.pkt.dst = true →
        s.portFenced f.pkt.dst = false → s.drains.contains f.pkt.dst = false → Completes (.packetEject n) s fun t =>
          t.inbox = s.inbox ++ [{ ep := f.pkt.dst, pkt := p }])) ∧
    (user → (∀ u ∈ s.tags, u.ep ≠ e) → Completes (.fence e tag) s fun t => ∃ q, t.out = s.out ++ [.deliver e q] ∧ q.cmd = 0x41 ∧ q.tag = tag) ∧
    (s.up = true → quiet → portKind e = .user → s.inbox[n]? = some { ep := e, pkt := p } → s.inOrder n { ep := e, pkt := p } = true → s.userClock e = true →
      s.liveEntry e p.tag = some i → s.tags[i]? = some te → te.purpose = .user → s.trapped e p = false → p.cls = 1 →
      let taken := fun (t : State) => t.tags = listDropAt s.tags i ∧ t.out = s.out ++ [.deliver e p]
      (p.cmd = 0x40 → Completes (.rspData n) s taken) ∧ (p.cmd = 0x41 → Completes (.rspAck n) s taken) ∧ (p.cmd = 0x42 → Completes (.rspErr n) s taken)) ∧
    (s.up = true → quiet → portKind e = .user → e.die.toNat < 4 → s.liveEntry e tag = some i → s.tags[i]? = some te → te.timed = true → te.purpose = .user →
      (∀ x ∈ s.inbox, x.ep ≠ e) → Completes (.requestTimeout e tag) s fun t => t.tags = s.tags.set i { te with live := false, slots := 0 }) ∧
    (s.up = true → quiet → portKind e = .user → Completes (.expiredEntryFree e tag) s fun t =>
      t.tags = s.tags.filter fun u => !(u.ep = e && u.tag = tag && !u.live)) ∧
    (s.up = true → s.waking.contains e = true → portKind e = .user → (∀ f ∈ s.net, s.heldFor e f = false) → s.homes = [] →
      Completes (.wakeHoldTimeout e) s fun t =>
      t.waking.contains e = false ∧ t.wakeFail = s.wakeFail ++ [e]) ∧
    (s.accepts path (Reg.RTR_PORT d.val r.val 15) v = true → Completes (.resvWrite path d r 15 v) s fun t =>
      ∃ w, SMap.find t.shadow (Reg.RTR_PORT d.val r.val 15) = some w ∧ bits w 28 28 = bits v 28 28) ∧
    (s.up = true → s.drains.contains e = true → s.portDrained e = true → Completes (.portFenceRaised e false) s fun t =>
      t.fld (Fld.RTR_PORT_FENCED e.die.toNat e.router e.p.toNat) = 1)) ∧
  -- what delivered packets do, and coherent memory
  (∀ (s : State) (path : Path) (n w set : Nat) (e : Ep) (p : Packet) (d : Fin 4) (r : Fin 64) (l : VLine) (h : Fin 16) (tag : BitVec 12) (fs : Fin 5120)
      (line : BitVec 42),
    let gone := fun (t : State) => t.inbox = listDropAt s.inbox n
    let at_ := fun (x : Ep) => s.up = true ∧ s.inbox[n]? = some { ep := x, pkt := p } ∧ s.inOrder n { ep := x, pkt := p } = true
    let slice := s.sliceAt d.val r.val
    let v := s.slice d.val r.val
    let k := p.addr.toNat / 64
    let answered := fun (t : State) (cmd : BitVec 8) => ∃ f, t.net = s.net ++ [f] ∧ f.pkt.cmd = cmd ∧ f.pkt.dst = p.src
    (at_ e → p.cls = 0 → portKind e = .user → s.responseWaits e = false → s.userClock e = true → s.trapped e p = false →
      let taken := fun (t : State) => gone t ∧ t.out = s.out ++ [.deliver e p]
      (p.cmd = 0x10 → Completes (.db n) s taken) ∧ (p.cmd = 0x11 → Completes (.msg n) s taken) ∧ (p.cmd = 8 → Completes (.rdnc n) s taken) ∧
      (p.cmd = 9 → Completes (.wrnc n) s taken)) ∧
    (at_ e → p.cls = 0 → portKind e = .hubReg → s.cfgEarlier n { ep := e, pkt := p } = false → e.regWindow p.addr.toNat = true →
      s.granted p.src p.addr.toNat = true →
      (∀ b x, p.cmd = 0x20 → regSel p.addr.toNat = some (b, .reg x) → s.reach (.ring p.src) p.addr.toNat true false = .inl (b, .reg x) →
        b.desc.blk = .hub ∨ b.desc.blk = .thm → Completes (.cfgrd n) s fun t => answered t 0x40) ∧
      (p.cmd = 0x21 → p.addr.toNat = Reg.CFG_ARG0 → s.accepts (.ring p.src) Reg.CFG_ARG0 (((flitWords p.data).getD 0 (0, false)).1.setWidth 32) = true →
        Completes (.cfgwr n) s fun t => t.reg Reg.CFG_ARG0 = ((flitWords p.data).getD 0 (0, false)).1.setWidth 32)) ∧
    (at_ slice → p.cls = 0 → s.localEp p.src = true → p.src.die.toNat = d.val → portKind p.src = .user → s.veinOn = true →
      s.bit (Fld.MCA_STATUS_INIT_DONE d.val) = true → s.fld (Fld.MCA_STATUS_THROTTLE d.val) ≠ 3 → v.lostSets = [] → v.vlost = [] → winDie k ≠ some d.val → v.fwd = [] →
      v.reqs = [] → v.wb = [] → s.firstOfLine n { ep := slice, pkt := p } = true →
      (p.addr.toNat % 64 = 0 → v.wayOf k = some w → v.at_ (veinSet k) w = some l → l.poison = 0 → l.st = .m →
        (∀ i, i < 8 → (s.veinCell d.val (veinWord r.val (veinSet k) w + i)).syn = .clean) →
        (p.cmd = 1 → Completes (.rd n none) s fun t => answered t 0x40) ∧ (p.cmd = 2 → Completes (.rdx n) s fun t => answered t 0x40) ∧
        (p.cmd = 3 → p.data.length = 2 → Completes (.wr n) s fun t => answered t 0x41) ∧
        (p.cmd = 4 → p.data.length = 2 → Completes (.wrg n) s fun t => answered t 0x41)) ∧
      (p.cmd = 5 → Completes (.atom n) s fun t => ∃ f, t.net = s.net ++ [f] ∧ f.pkt.cmd = 5 ∧ f.pkt.dst = s.homeEp (homeOf k))) ∧
    (at_ slice → p.cls = 2 → v.wayOf k = none → v.wb = [] → v.gone = [] → (p.cmd = 0x30 → Completes (.snps n) s fun t => answered t 0x41) ∧
      (p.cmd = 0x31 → Completes (.snpi n) s fun t => answered t 0x41) ∧ (p.cmd = 0x32 → Completes (.snpd n) s fun t => answered t 0x41)) ∧
    (at_ (s.homeEp h.val) →
      (p.cmd = 0x33 → Completes (.ackg n) s fun t =>
        (t.home h.val).txns = (s.home h.val).txns.filter fun x => !(x.line = k && x.ackWait = some p.src.die.toNat)) ∧
      (p.cmd = 0x34 → (∀ x ∈ (s.home h.val).dir, x.holders.contains p.src.die.toNat = false) → Completes (.vlost (.report n)) s gone)) ∧
    (s.up = true →
      (∀ q, v.reqs = [q] → q.tag = tag → q.waiting = [p] → Completes (.sliceRequestTimeout d r tag) s fun t => (t.slice d.val r.val).reqs = [] ∧
        answered t 0x42) ∧
      (∀ x, s.snoopTxn h.val d.val tag = some x → s.flintUp = false → Completes (.snoopTimeout h d tag) s fun t =>
        t.fld (Fld.HRG_HA_ERRLOG_A_VALID h.val) = 1) ∧
      (s.dieOk d.val = true → s.flintUp = true → s.homes = [] → s.ownersOn d.val = [] → s.links = [] → Completes (.dieReset d) s fun t =>
        t.dieDown.contains d.val = true) ∧
      ((∀ j, j < 16 → (∀ x ∈ (s.home j).dir, x.holders.contains d.val = false) ∧ ∀ x ∈ (s.home j).txns, ∀ y ∈ x.snoops, y.1 ≠ d.val) →
        Completes (.dieResetWalkDone d) s fun t =>
        ∀ j, j < 16 → (t.home j).walking.contains d.val = false) ∧
      (s.slices = [] → Completes (.directorySetError h fs line d) s fun t => (t.home h.val).failed.contains fs.val = true) ∧
      (s.slices = [] → (s.home h.val).failed.contains fs.val = true → (∀ x ∈ (s.home h.val).txns, dirSet x.line ≠ fs.val) →
        (s.home h.val).walking = [] →
        Completes (.directorySetRestart h fs) s fun t => (t.home h.val).failed.contains fs.val = false) ∧
      (s.accepts path Reg.HRG_FLUSH_CTRL 0x80000000 = true → s.fld Fld.HRG_FLUSH_CTRL_BUSY = 0 → s.homes = [] → Completes (.flush path false) s fun t =>
        t.fld Fld.HRG_FLUSH_CTRL_BUSY = 1) ∧
      (∀ f, s.flush = some f → f.todo = [] → s.flushing = false → Completes .flushDone s fun t => t.fld Fld.HRG_FLUSH_CTRL_DONE = 1 ∧ t.flush = none))) ∧
  -- Strata links
  (∀ (s : State) (path : Path) (i : Fin 64) (leaf : Bool) (up dn n : Nat) (set : BitVec 256) (p : Packet) (j : Fin 16) (k : Fin 8) (v : Word),
    let l := LinkRef.bundle i
    let b := LinkRef.bridge k
    let here := fun (x : LinkRef) (leaf : Bool) => s.up = true ∧ s.minbox[n]? = some { at_ := { link := x, leaf := leaf }, pkt := p } ∧
      s.maintOk { at_ := { link := x, leaf := leaf }, pkt := p } = true
    let w := s.wireSt j.val
    let idle := fun (i : Fin 64) => (s.link (.bundle i)).dn.cur = [] ∧ (s.link (.bundle i)).dn.replay = [] ∧ (s.link (.bundle i)).up.cur = [] ∧
      (s.link (.bundle i)).up.replay = []
    (s.up = true →
      (s.shadow = [] → s.wire = [] → (∀ x, x < 16 → s.wpState x = 0) → Completes .linkEpoch s fun t =>
        t.fld Fld.STR_CTRL_EPOCH = (s.fld Fld.STR_CTRL_EPOCH + 1) % 256) ∧
      (s.linkState l = 1 → popCount 70 (s.bundleMask true i.val ||| up % 2 ^ 70) ≤ 36 → popCount 70 (s.bundleMask false i.val ||| dn % 2 ^ 70) ≤ 36 →
        Completes (.trainingAttempt l up dn ⟨set, []⟩ false) s fun t => (t.link l).training = true) ∧
      ((s.link l).training = true → Completes (.trainingStepTimeout l) s fun t => (t.link l).fails = (s.link l).fails + 1 ∧ (t.link l).training = false) ∧
      ((s.link l).training = true → (s.link l).echoOk = true → s.linkState l = 1 → s.strapValid (i.val / 16) = true → s.dieDown = [] → s.wire = [] →
        (∀ x, x < 16 → s.wpState x = 0) → Completes (.bundleLive l) s fun t => t.linkState l = 2) ∧
      (s.linkState l = 2 → Completes (.forwardedClockLoss l) s fun t => t.linkState l = 5 ∧ (t.link l).keep = true) ∧
      (∀ f rest, s.linkState l = 2 → ((s.link l).sends leaf).resend = none → ((s.link l).sends leaf).cur = f :: rest →
        ((s.link l).sends leaf).replay.length < 128 → Completes (.linkSlotReceive l leaf 0 true) s fun t =>
          ((t.link l).sends leaf).replay = ((s.link l).sends leaf).replay ++ [f]) ∧
      (s.usable i.val = false → s.draining i.val = false → s.usable (pairMate i).val = true → (s.link l).dn.part = none → (s.link l).up.part = none →
        Completes (.bundleUnusable i) s fun t => (t.link l).dn.queue = [] ∧ (t.link l).up.queue = []) ∧
      (s.wpState j.val = 1 → w.switchAt = none → idle (wpairBundles w.named).1 → idle (wpairBundles w.named).2 → Completes (.wireDrainEnd j) s fun t =>
        (t.wireSt j.val).drained = true) ∧
      (s.wpState j.val = 2 → s.bundleClock (wpairBundles w.named).1 = none → Completes (.wirePairDown j) s fun t => t.wpState j.val = 4)) ∧
    (here l true → p.cmd = 0x50 → Completes (.lparam n) s fun t => ∃ q, (t.link l).up.queue = q :: (s.link l).up.queue ∧ q.cmd = 0x51) ∧
    (s.up = true → s.minbox[n]? = some { at_ := { link := l, leaf := false }, pkt := p } → p.cmd = 0x51 → Completes (.lparamAck n) s fun t =>
      t.fld (Fld.RTR_IRQ_STATUS_MALFORMED (i.val / 16) 0) = 1) ∧
    (here l leaf → p.cmd = 0x52 → Completes (.echo n) s fun t => ∃ q, ((t.link l).sends leaf).queue = q :: ((s.link l).sends leaf).queue ∧ q.cmd = 0x53 ∧
      q.spec = p.spec) ∧
    (∀ x, here l false → p.cmd = 0x53 → (s.link l).training = true → (s.link l).echoSent = some x → x.spec = p.spec →
      x.data.map (fun f => f.data) = p.data.map (fun f => f.data) → Completes (.echoRsp n) s fun t => (t.link l).echoOk = true) ∧
    (here l false → p.cmd = 0x54 → s.linkState l = 2 → Completes (.retrain n) s fun t => t.linkState l = 5) ∧
    (here b leaf → p.cmd = 0x55 → s.fld (Fld.STR_BP_CAPCTRL_TRIG k.val) = 3 → s.fld (Fld.STR_BP_CAPCTRL_ARM k.val) = 1 →
      s.fld (Fld.STR_BP_CAPSTAT_TRIGGERED k.val) = 0 → Completes (.captrig n) s fun t => t.fld (Fld.STR_BP_CAPSTAT_TRIGGERED k.val) = 1) ∧
    (s.accepts path (Reg.STR_BP_CTRL k.val) v = true → (s.link b).dn.queue = [] → (s.link b).up.part = none → natBit v.toNat 31 = true →
      s.bit (Fld.STR_BP_CTRL_EN k.val) = false → Completes (.bridgePortEnable path k v) s fun t => t.bit (Fld.STR_BP_CTRL_EN k.val) = true ∧
        t.fld (Fld.STR_BP_STAT_STATE k.val) = if natBit v.toNat 30 then 4 else 1) ∧
    (∀ more, s.up = true → s.arrivals = (b, p) :: more → malformed p = false → p.cls = 1 → s.bit (Fld.STR_BP_CTRL_FWD_EN k.val) = false →
      s.localEp p.dst = false → s.hasRoom (.ingressPort k.val 3 1) ({ p with src := s.mkEp 4 k.val 3 1, vc := 0 } : Packet).seal = true →
      Completes (.bridgePortArrival k) s fun t => t.arrivals = more ∧
        t.net = s.net ++ [{ loc := .ingressPort k.val 3 1, pkt := ({ p with src := s.mkEp 4 k.val 3 1, vc := 0 } : Packet).seal }]) ∧
    (s.accepts path (Reg.STR_BP_CAPCTRL k.val) (setBits v 31 31 1) = true → natBit v.toNat 28 = false → bits v 30 29 ≠ 0 →
      Completes (.captureArm path k v) s fun t => t.bit (Fld.STR_BP_CAPCTRL_ARM k.val) = true) ∧
    (s.accepts path (Reg.STR_BP_CAPCTRL k.val) (setBits v 28 28 1) = true → natBit v.toNat 31 = false → s.linkState b = 2 →
      2 ≤ popCount 4 (s.fld (Fld.STR_BP_STAT_LEVEL k.val)) → Completes (.captureSendtrig path k v) s fun t =>
        ∃ q, (t.link b).dn.queue = q :: (s.link b).dn.queue ∧ q.cmd = 0x55)) ∧
  -- DDR5 and protected memory
  (∀ (s : State) (path : Path) (ch : Fin 8) (k r : Fin 64) (v : Word) (x : BitVec 512),
    let j := SMap.get 0 s.patrol ch.val
    let st := s.rngState r.val
    let n := s.fld (Fld.OBS_RNG_KEYS_NEXTKEY r.val)
    let key := fun (cls : Nat) => s.fld (Fld.OBS_RNG_KEYS_CLASS r.val) = cls ∧ s.fld (Fld.OBS_KEY_CTRL_STATE n) = 1 ∧
      s.fld (Fld.OBS_KEY_CTRL_CLASS n) = cls ∧ n ≠ s.fld (Fld.OBS_RNG_KEYS_KEY r.val)
    let slot := Reg.OBS_KEY_CTRL k.val
    let empty := s.fld (Fld.OBS_KEY_CTRL_STATE k.val) ≠ 1 ∧ s.reg (Reg.OBS_KEY_OWNER k.val) ≠ revokingId
    let cmd := Reg.OBS_RNG_CMD r.val
    (s.up = true → s.domOn (if ch.val < 4 then 7 else 8) = true → s.fld (Fld.DDR_SCRUB_HOURS ch.val) ≠ 0 → j < s.dataLines ch.val →
      Completes (.patrolScrub ch (some { data := x, code := .oneDevice }) ⟨none, none⟩) s fun t => t.fld (Fld.DDR_IRQ_STATUS_CE ch.val) = 1 ∧
        SMap.find t.ddr (ddrKey ch.val j) = some { data := x, code := .clean }) ∧
    (s.accepts path slot (setBits v 31 30 1) = true → empty → Completes (.keyGen path k v) s fun t => t.fld (Fld.OBS_KEY_CTRL_STATE k.val) = 1) ∧
    (s.accepts path slot (setBits v 31 30 2) = true → empty → s.kAvail path = true → Completes (.keyLoad path k v) s fun t => t.slotKey k.val = s.keyData) ∧
    (s.accepts path slot (setBits v 31 30 3) = true → s.keyRefs k.val = 0 → s.reg (Reg.OBS_KEY_OWNER k.val) = s.pathOwner path →
      Completes (.keyZero path k v) s fun t => t.slotKey k.val = 0 ∧ t.fld (Fld.OBS_KEY_CTRL_STATE k.val) = 0) ∧
    (∀ b, s.accepts path cmd 1 = true → st = 0 → s.initRoom r.val = some b → s.homes = [] → Completes (.init path r) s fun t => t.rngState r.val = 1) ∧
    (s.accepts path cmd 2 = true → st = 2 → key 1 → Completes (.rekey path r) s fun t => t.rngState r.val = 3) ∧
    (s.accepts path cmd 3 = true → st = 2 → key 0 → s.homes = [] → Completes (.retire path r) s fun t => t.rngState r.val = 4) ∧
    (s.accepts path cmd 4 = true → st = 2 → s.homes = [] → Completes (.disable path r) s fun t => t.rngState r.val = 5) ∧
    (s.up = true → st = 3 → s.ctr = [] → s.metaErr = [] → s.otree = [] → s.ocache = [] → s.rngPages r.val ≤ s.fld (Fld.OBS_RNG_STAT_BOUNDARY r.val) + 1 →
      Completes (.rekeyBlockDone r) s fun t => t.rngState r.val = 2 ∧ t.fld (Fld.OBS_RNG_KEYS_KEY r.val) = n) ∧
    (∀ f, s.up = true → st = 5 → SMap.find s.rangeFlush r.val = some f → f.todo = [] → s.rngFlushing r.val = false →
      Completes (.rangeOperationDone r) s fun t => t.rngState r.val = 0)) ∧
  -- the host
  (∀ (s : State) (path : Path) (port : Bool) (q : Fin 256) (v : Word) (id off rate : Nat) (bytes : List (Option Byte)) (x : Desc) (bs : List Byte)
      (cfg : PcieCfg),
    let n := b2n port
    let e := s.pcieEp port
    let up := s.up = true ∧ s.fld (Fld.PCI_STAT_LINKUP n) = 1 ∧ s.fld Fld.FLN_STATUS_HANDED = 1
    let clear := s.drains.contains e = false ∧ (∀ u ∈ s.tags, u.ep ≠ e) ∧ ∀ f ∈ s.fences, f.ep ≠ e
    let quiet := s.wins = [] ∧ s.hostHeld = [] ∧ clear
    let a := s.fld (Fld.PCI_WIN_WINBASE n) * 2 ^ 30 + off
    let st := s.qState q.val
    let y := s.pair q.val
    let mine := s.qPort q.val = port
    let first := y.descs = [x] ∧ x.started = false ∧ x.next = 0 ∧ x.chunks = [] ∧ x.fail = none ∧ x.stop = false ∧ s.domOn (5 + n) = true
    let asks := fun (t : State) (addr len : Nat) => t.out = s.out ++ [.memRead port s.nextRead addr len]
    let sends := fun (t : State) (cmd : BitVec 8) => ∃ f, t.net = s.net ++ [f] ∧ f.pkt.cmd = cmd ∧ f.pkt.src = e
    (s.up = true → s.domOn (5 + n) = true → 1 ≤ rate → rate ≤ 6 → Completes (.pcieLinkUp port rate ⟨16, cfg⟩) s fun t =>
      t.fld (Fld.PCI_STAT_LINKUP n) = 1 ∧ t.fld (Fld.PCI_STAT_RATE n) = rate ∧ t.pcieCfg port = cfg) ∧
    (s.up = true → s.fld (Fld.PCI_STAT_LINKUP n) = 1 → s.hostHeld = [] → Completes (.pcieLinkDown port) s fun t => t.fld (Fld.PCI_STAT_LINKUP n) = 0) ∧
    (s.up = true → s.hostHeld = [] → Completes (.functionLevelReset port) s fun t => t.reg (Reg.PCI_WIN n) = 0) ∧
    (up → quiet → a < 2 ^ 48 → off + 4 ≤ s.bar4Size port → a % 64 + 4 ≤ 64 → Completes (.windowRead port id off 4) s fun t => sends t 8) ∧
    (up → quiet → a < 2 ^ 48 → off + 64 ≤ s.bar4Size port → a % 64 = 0 → bytes.length = 64 → (∀ b ∈ bytes, b.isSome = true) → Completes (.windowWrite port off bytes false) s fun t =>
      sends t 9) ∧
    (up → s.winBusy port = false → s.orderBusy port = false → bits v 31 16 = 0 → mine → st = 1 →
      (v.toNat < s.sqSize q.val → Completes (.sqTail port q true (.write v)) s fun t => (t.pair q.val).sqTail = v.toNat) ∧
      (v.toNat < s.cqSize q.val → Completes (.cqHead port q true (.write v)) s fun t => (t.pair q.val).cqHead = v.toNat)) ∧
    (s.accepts path (Reg.QUE_Q_CTRL q.val) (setBits v 31 31 1) = true → st = 0 → 4 ≤ bits v 23 20 → 4 ≤ bits v 19 16 →
      s.linkUp (natBit v.toNat 30) = true → (∀ r ∈ s.revs, r.owner ≠ s.qId q.val) → Completes (.queueEnable path q v) s fun t => t.qState q.val = 1) ∧
    (s.accepts path (Reg.QUE_Q_CTRL q.val) (setBits v 31 31 0) = true → s.fld (Fld.QUE_Q_CTRL_EN q.val) = 1 → Completes (.queueDelete path q v) s fun t =>
      t.qState q.val = 3) ∧
    (s.up = true → mine → st = 1 → s.fld (Fld.QUE_Q_STAT_SQHEAD q.val) ≠ y.sqTail → s.hostReads = [] → s.pairs = [(q.val, y)] → y.descs = [] →
      s.linkUp port = true → s.domOn (5 + n) = true → Completes (.sqEntryFetch q) s fun t =>
        asks t (s.hostAddr (Reg.QUE_Q_SQBASE_LO q.val) (Reg.QUE_Q_SQBASE_HI q.val) 64 + 32 * s.fld (Fld.QUE_Q_STAT_SQHEAD q.val)) 32) ∧
    (s.up = true → mine → first → x.len ≠ 0 →
      (x.op = 1 → Completes (.h2d q x.num) s fun t => asks t x.src (min (64 - x.dst % 64) x.len)) ∧
      (x.op = 4 → Completes (.h2p q x.num) s fun t => asks t x.src (min 512 x.len)) ∧
      (clear → x.src < 2 ^ 48 → x.src % 64 = 0 → x.dst % 64 = 0 →
        (x.op = 2 → Completes (.d2h q x.num) s fun t => sends t 8) ∧ (x.op = 3 → Completes (.d2d q x.num) s fun t => sends t 8) ∧
        (x.op = 5 → x.len % 32 = 0 → x.ep.die.toNat ≤ 4 → Completes (.p2h q x.num) s fun t => sends t 8))) ∧
    (s.up = true → mine → first →
      (x.op = 6 → x.len = 0 → x.ep.die.toNat ≤ 4 → x.dst < 2 ^ 48 → clear → Completes (.dmaDb q x.num) s fun t => sends t 0x10) ∧
      (x.op = 7 → Completes (.dmaNop q x.num) s fun t => (t.pair q.val).descs = [{ x with started := true }])) ∧
    (s.up = true → mine → s.hostReads = [{ id := id, port := port, len := 32, why := .sq q.val }] → st = 1 →
      (bs.length = 32 → Completes (.hostReadCompletion id (.data bs)) s fun t => ∃ z, (t.pair q.val).descs = y.descs ++ [z]) ∧
      Completes (.hostReadTimeout id) s (fun t => t.qState q.val = 2)) ∧
    (s.up = true → mine → y.descs = [x] → x.done = true → s.linkUp port = true → (y.cqTail + 1) % s.cqSize q.val ≠ y.cqHead →
      bits (s.reg (msixAddr port (s.fld (Fld.QUE_Q_CTRL_VECTOR q.val)) 3)) 0 0 = 0 → Completes (.descriptorFinish q x.num) s fun t =>
        (t.pair q.val).descs = [] ∧ (t.pair q.val).cqTail = (y.cqTail + 1) % s.cqSize q.val)) ∧
  -- Lode ports
  (∀ (s : State) (path : Path) (k : Fin 4) (v : Word) (set : BitVec 256) (p : Packet) (more : List (LinkRef × Packet)),
    let ctrl := Reg.LOD_CTRL k.val
    let x := set.toNat
    (s.accepts path (Reg.LOD_SYS 0) v = true → (∀ j, j < 4 → s.bit (Fld.LOD_CTRL_EN j) = false) → bits v 13 7 ≤ bits v 31 25 → bits v 6 0 ≤ bits v 24 18 →
      Completes (.lodSys path v) s fun t => t.reg (Reg.LOD_SYS 0) &&& 0xFFFC3FFF#32 = v &&& 0xFFFC3FFF#32) ∧
    (s.accepts path ctrl v = true → natBit v.toNat 31 = true → s.bit (Fld.LOD_CTRL_EN k.val) = false → s.lodeRefused k.val v = false →
      Completes (.lodeEnable path k v) s fun t => t.fld (Fld.LOD_CTRL_EN k.val) = 1 ∧ t.lodeState k.val = if k.val % 2 = 0 then 1 else 6) ∧
    (s.accepts path ctrl (setBits v 28 28 1) = true → natBit v.toNat 31 = true → s.bit (Fld.LOD_CTRL_EN k.val) = true → s.lodeState k.val = 2 →
      k.val % 2 = 0 → s.bit (Fld.LOD_CTRL_ENC k.val) = true → s.classT (bits v 21 16) = true → Completes (.lodeRekey path k v) s fun t =>
        t.lodeState k.val = 7 ∧ (t.lodeSt k.val).rekey = true) ∧
    (s.up = true → (crc32c (bytesLE 28 (x / 2 ^ 32))).toNat = x % 2 ^ 32 → natBits x 255 248 = (if k.val % 2 = 0 then 0x6C else 0x4C) → s.lodeState k.val = 1 →
      natBits x 229 223 + 1 = s.nx → natBits x 222 216 + 1 = s.ny → (natBits x 243 237, natBits x 236 230) = s.lodePartner k.val →
      s.bit (Fld.LOD_CTRL_ENC k.val) = false → natBit x 215 = false → (s.lodeSt k.val).rekey = false →
      (∃ lane < 16, natBit (s.fld (Fld.LOD_LANES_RXFAIL k.val)) lane = false) → Completes (.lodeTrainingSet k ⟨set, []⟩) s fun t => t.fld (Fld.LOD_STAT_PEERDX k.val) = natBits x 243 237 ∧
        t.fld (Fld.LOD_LANES_TXFAIL k.val) = (s.fld (Fld.LOD_LANES_TXFAIL k.val) ||| natBits x 79 64)) ∧
    (s.up = true → s.arrivals = (.lode k, p) :: more → malformed p = false → p.cls ≠ 2 → ¬(p.src.dx.toNat = s.odx ∧ p.src.dy.toNat = s.ody) →
      s.localEp p.dst = true → s.hasRoom (lodeLoc (fold3 p.key) k.val) { p with vc := 0 } = true → Completes (.lodePortArrival k) s fun t =>
        t.arrivals = more ∧ t.net = s.net ++ [{ loc := lodeLoc (fold3 p.key) k.val, pkt := { p with vc := 0 } }]) ∧
    (s.up = true → s.lodeUsable k.val = true → s.ownersBeyond k.val = [] → (s.link (.lode k)).dn.queue = [] → (s.link (.lode k)).up.part = none →
      Completes (.lodePortDown k) s fun t => t.lodeState k.val = (if k.val % 2 = 0 then 1 else 6) ∧ t.fld (Fld.LOD_IRQ_STATUS_DOWN k.val) = 1)) ∧
  -- the configuration loader
  (∀ (s : State) (path : Path) (v w : Word) (image : List Byte) (x : Stream) (id r : Nat) (c : LoadBusy) (d : Fin 4),
    let g := bits v 23 16
    let issued := fun (op : Nat) => s.accepts path Reg.CFG_CMD (setBits v 31 28 op) = true ∧ s.reg Reg.CFG_LOCK = s.pathOwner path ∧ s.loader.ent = none ∧
      s.loader.busy = none
    let fresh := fun (op : Nat) => issued op ∧ s.loader.stream = none ∧ s.loader.commits = []
    let busy := fun (t : State) (clear : Bool) => t.loader.busy = some { clear := clear, region := g, src := .reg path }
    let hdr := slice image 0 64
    let mlen := leAt hdr 16 4
    let slen := leAt hdr 20 4
    let epoch := s.fld Fld.CFG_EPOCH_EPOCH
    (s.accepts path Reg.CFG_LOCK_OP 1 = true → s.reg Reg.CFG_LOCK = 0 → Completes (.cfgLockAcquire path) s fun t => t.reg Reg.CFG_LOCK = s.pathOwner path) ∧
    (s.accepts path Reg.CFG_LOCK_OP 0 = true → s.reg Reg.CFG_LOCK = s.pathOwner path → Completes (.cfgLockRelease path) s fun t => t.reg Reg.CFG_LOCK = 0) ∧
    (fresh 1 → Completes (.load (some path) v) s fun t => t.loader.stream =
      some { src := .reg path, region := g, op := 1, bytes := [], got := 0, total := 0, man := none, blk := 0 }) ∧
    (∀ man, fresh 2 → (∀ p, p < 6 → s.fld (Fld.PIN_CFG_FUNC p) = 2) → 64 ≤ image.length → headerOk hdr = true → leAt hdr 8 8 ≤ image.length →
      s.manifestCheck hdr (slice image 64 mlen) (slice image (64 + mlen) slen) = .inl man → man.blks ≠ [] → Completes (.loadf (some path) v image) s fun t =>
        (t.loader.stream.bind fun y => y.man) = some man) ∧
    (fresh 3 → s.feature 9 = true → s.regState g = 3 → s.regFrozen g = false → Completes (.freeze (some path) v) s fun t => busy t false ∧ t.regFrozen g = true) ∧
    (fresh 4 → s.regState g = 2 → s.bit (Fld.CFG_REG_STAT_COMPLETE g) = true → s.fld Fld.CFG_STATUS_CGFREE ≤ 256 → s.reg Reg.CFG_ARG1 = 0 →
      Completes (.commit (some path) v) s fun t => t.loader.commits.length = 1) ∧
    (∀ p, issued 5 → s.loader.stream = some x → x.src = .reg p → Completes (.abort (some path) v) s fun t => t.loader.stream = none ∧
      loaderResult t x.region x.op 25) ∧
    (fresh 6 → s.regState g = 2 → s.regPinned g = false → Completes (.clear (some path) v) s fun t => busy t true) ∧
    (∀ k, fresh 7 → keyOfFar (s.reg Reg.CFG_ARG0).toNat = some k → s.reg Reg.CFG_ARG1 = 1 → s.dieOk (k / (16 * 192 * 384)) = true → natBit v.toNat 27 = false →
      s.readPermitted false k = true → Completes (.read (some path) v) s fun t => loaderResult t 0 7 0 ∧ t.loader.readBuf.length = 128) ∧
    (s.accepts path Reg.CFG_LQ_TAIL v = true → Completes (.cfgLqTail path v) s fun t => t.fld Fld.CFG_LQ_TAIL_INDEX = bits v 9 0) ∧
    (∀ p, s.accepts path Reg.CFG_DATA v = true → s.loader.stream = some x → x.src = .reg p → x.op = 1 → s.reg Reg.CFG_LOCK = s.pathOwner path → x.man = none →
      x.total = 0 → x.bytes.length + 4 < 64 → Completes (.cfgData path (some v) id) s fun t =>
        t.loader.stream = some { x with bytes := x.bytes ++ bytesLE 4 v.toNat, got := x.got + 4 }) ∧
    (s.up = true →
      (∀ man b k p plain, s.loader.stream = some x → x.man = some man → man.blks[x.blk]? = some b → keyOfFar b.far = some k → x.src = .reg p →
        blkBytes man.enc b ≤ x.bytes.length → s.blockPlain man x.blk b (x.bytes.take (blkBytes man.enc b)) = .inl plain →
        (∀ i, i < b.count → frameBad plain k i = none) → Completes .loaderBlock s fun t => ∀ i, i < b.count → t.frame (k + i) = blockFrame plain i) ∧
      (∀ p, s.loader.busy = some c → c.src = .reg p → c.region < 256 →
        (c.clear = false → s.regionFenced c.region = true → s.regState c.region = 3 → Completes .freezeComplete s fun t => loaderResult t c.region 3 0) ∧
        (c.clear = true → Completes .clearComplete s fun t => loaderResult t c.region 6 0 ∧ t.regState c.region = 0)) ∧
      (s.lcs.attWait = false → s.loader.commits = [] → Completes .loaderEpoch s fun t => t.fld Fld.CFG_EPOCH_EPOCH = (epoch + 1) % 65536) ∧
      (∀ p, s.lcs.attWait = false → r < 256 → s.ringQuiet → s.loader.commits = [{ region := r, epoch := epoch, ents := [], src := .reg p }] → s.regState r = 2 →
        (∀ blk sel, regSel Reg.CFG_ARG0 = some (blk, sel) → s.blockOff blk = none ∧ s.featureOff blk = false) → Completes .commitEpoch s fun t =>
          loaderResult t r 4 0 ∧ t.regState r = 3) ∧
      (s.bit Fld.CFG_SCRUB_EN = true → s.dieOk d.val = true → SMap.get 0 s.scrub d.val + 1 < 16 * 192 * 384 →
        (∀ q, s.frameRegion (d.val * (16 * 192 * 384) + SMap.get 0 s.scrub d.val) = some q → s.regState q = 1) → Completes (.scrubFrame d []) s fun t =>
          SMap.get 0 t.scrub d.val = SMap.get 0 s.scrub d.val + 1))) ∧
  -- probes and system pins
  (∀ (s : State) (path : Path) (d k4 : Fin 4) (k8 : Fin 8) (u : Fin 2) (p : Fin 64) (slot : Fin 256) (v : Word) (id : Nat) (b y : Byte) (rest : List Byte)
      (drive level : BitVec 64),
    let owner := Reg.PRB_OWNER d.val
    let held := Reg.PIN_FT_OWNER k4.val
    let func := bits v 1 0
    let cmd := fun (op : Nat) => s.accepts path (Reg.I2C_CMD u.val) (setBits v 9 8 op) = true ∧ s.bit (Fld.I2C_STAT_BUSY u.val) = false ∧
      s.bit (Fld.I2C_CTRL_EN u.val) = true
    let begun := fun (t : State) => t.fld (Fld.I2C_STAT_BUSY u.val) = 1
    (s.dieOk d.val = true →
      (s.accepts path (Reg.PRB_OWNER_OP d.val) 1 = true → s.reg owner = 0 → Completes (.prbOwnerOp path d true) s fun t => t.reg owner = s.pathOwner path) ∧
      (s.accepts path (Reg.PRB_SEL d.val slot.val) v = true → s.reg owner = s.pathOwner path → s.probesOpen d.val (bits v 30 21) (bits v 20 11) = true →
        Completes (.prbSel path d slot v) s fun t => t.reg (Reg.PRB_SEL d.val slot.val) = v &&& 0xFFFFF81F#32) ∧
      (s.accepts path (Reg.PRB_CTRL d.val) (setBits v 31 31 1) = true → s.reg owner = s.pathOwner path → s.bit (Fld.PRB_CTRL_ARM d.val) = false →
        Completes (.prbArm path d v) s fun t => t.reg (Reg.PRB_CTRL d.val) = setBits v 31 31 1 &&& 0x8F003FFF#32)) ∧
    (∀ blk desc, s.up = true → s.lcState ≠ 4 → s.reach .mgmt (Reg.PRB_RDDATA d.val) true false = .inl (blk, .reg desc) → s.featureOff blk = false →
      desc.readMask = 0xFFFFFFFF#32 → Completes (.prbRddata .mgmt d id) s fun t =>
        t.fld (Fld.PRB_RDADDR_ADDR d.val) = (s.fld (Fld.PRB_RDADDR_ADDR d.val) + 1) % 2 ^ 17) ∧
    (s.up = true → s.feature 11 = true → s.bit (Fld.PRB_CTRL_ARM d.val) = true → s.spineRuns d.val (s.fld (Fld.PRB_CTRL_SPINE d.val)) = true →
      Completes (.probeSample d) s fun t => t.fld (Fld.PRB_STAT_NEXT d.val) = (s.fld (Fld.PRB_STAT_NEXT d.val) + 1) % 16384) ∧
    (s.accepts path (Reg.PIN_CFG p.val) v = true → func = 0 → bits v 31 29 = 0 → Completes (.pinClaim path p v) s fun t =>
      SMap.find t.shadow (Reg.PIN_CFG p.val) = some (s.pullXor v &&& 0xF800003B#32)) ∧
    (s.up = true → s.clk.aonClocked = true → Completes (.pinFrame drive level) s fun t => t.reg Reg.PIN_TICKS = s.reg Reg.PIN_TICKS + 1 ∧
      t.pins.sync2 = s.pins.sync1) ∧
    (s.accepts path (Reg.GPIO_OUT_M k4.val) v = true → Completes (.gpioOut path k4 v) s fun t => ∀ j, j < 16 → natBit v.toNat (16 + j) = true →
      natBit (SMap.get 0 t.pins.gpio k4.val) j = natBit v.toNat j) ∧
    (s.accepts path (Reg.GPIO_OE_M k4.val) v = true → Completes (.gpioOe path k4 v) s fun t => ∀ j, j < 16 → natBit v.toNat (16 + j) = true →
      natBit (SMap.get 0 t.pins.gpio (4 + k4.val)) j = natBit v.toNat j) ∧
    (s.accepts path (Reg.PIN_FT_OP k4.val) 1 = true → s.reg held = 0 → Completes (.ftAcquire path k4) s fun t => t.reg held = s.pathOwner path) ∧
    (s.accepts path (Reg.PIN_FT_OP k4.val) 0 = true → s.reg held = s.pathOwner path → Completes (.ftRelease path k4) s fun t => t.reg held = 0) ∧
    (s.up = true → s.fld (Fld.PIN_FT_PERIOD k4.val) ≠ 0 → s.fld (Fld.PIN_FT_PERIOD k4.val) ≤ SMap.get 0 s.pins.strobe k4.val →
      Completes (.filterStrobe k4) s fun t => SMap.get 0 t.pins.strobe k4.val = SMap.get 0 s.pins.strobe k4.val - s.fld (Fld.PIN_FT_PERIOD k4.val)) ∧
    (s.accepts path (Reg.UART_DATA u.val) (b.setWidth 32) = true → (s.fifo (2 * u.val)).length < 16 → Completes (.uartData path u (some b) id) s fun t =>
      t.fifo (2 * u.val) = s.fifo (2 * u.val) ++ [b]) ∧
    (s.up = true → s.bit (Fld.UART_CTRL_EN u.val) = true →
      (s.pinFunc (13 + 2 * u.val) = 2 → s.pinFree (13 + 2 * u.val) = true → (s.fifo (2 * u.val + 1)).length < 16 → Completes (.uartRxByte u b true) s fun t =>
        t.fifo (2 * u.val + 1) = s.fifo (2 * u.val + 1) ++ [b]) ∧
      (s.fifo (2 * u.val) = y :: rest → Completes (.uartTxByteSent u) s fun t => t.fifo (2 * u.val) = rest)) ∧
    (cmd 0 → Completes (.i2cWrite path u v) s begun) ∧ (cmd 1 → Completes (.i2cReadAck path u v) s begun) ∧
    (cmd 2 → Completes (.i2cReadNack path u v) s begun) ∧
    (∀ w, s.up = true → SMap.find s.pins.i2c u.val = some w → s.i2cClaimed u.val = true → bits w 9 8 = 1 → Completes (.i2cByteDone u false false b) s fun t =>
      t.fld (Fld.I2C_STAT_BUSY u.val) = 0 ∧ t.fld (Fld.I2C_STAT_RXDATA u.val) = b.toNat) ∧
    (∀ q, s.up = true → s.timerPin k8.val = some q → s.pinFree q = true → s.fld (Fld.PIN_TMR_CTRL_MODE k8.val) = 3 → Completes (.timerCapture k8 true) s fun t =>
      t.reg (Reg.PIN_TMR_VAL k8.val) = s.reg Reg.PIN_TICKS ∧ t.fld (Fld.PIN_TMR_CTRL_HIT k8.val) = 1) ∧
    (s.up = true → s.fld (Fld.PIN_TMR_CTRL_MODE k8.val) = 4 → s.reg Reg.PIN_TICKS = s.reg (Reg.PIN_TMR_VAL k8.val) → s.pins.tmrHit.getLsbD k8.val = false →
      Completes (.timerMatch k8) s fun t => t.fld (Fld.PIN_TMR_CTRL_HIT k8.val) = 1 ∧ t.pins.tmr.getLsbD k8.val = true) ∧
    (s.up = true → Completes .tachWindow s fun t => ∀ f, f < 4 → t.fld (Fld.FAN_STAT_TACH f) = SMap.get 0 s.pins.tach f % 65536)) ∧
  -- life cycle
  (∀ (s : State) (path : Path) (rep : List Byte) (x : Nat × Nat × List Byte),
    let cmd := fun (n : Nat) (c : Instr) => s.accepts path Reg.LCS_LC_CMD (BitVec.ofNat 32 n) = true → s.lcs.op = none →
      Completes c s fun t => t.lcs.op = some n ∧ t.fld Fld.LCS_LC_RESULT_BUSY = 1
    let open_ := s.lcState = 1 ∧ s.fuses.void = 0
    let q := s.fld Fld.LCS_SIGN_NEXTLEAF
    cmd 1 (.testToDev path) ∧ cmd 2 (.devToField path) ∧ cmd 3 (.toReturn path) ∧ cmd 4 (.toEnd path) ∧ cmd 5 (.diagnosticSession path) ∧
    (s.up = true → s.lcs.op = some 1 → s.fuses.state = 0 → (∀ n ∈ s.tokensOf 1, s.tokenFormat n = true) → (∀ n ∈ s.tokensOf 1, s.tokenSigned n = true) →
      Completes .lcCommandDone s fun t => t.fuses.state = 1 ∧ t.lcs.op = none ∧ t.fld Fld.LCS_LC_RESULT_RESULT = 0) ∧
    (s.accepts path Reg.LCS_FUSE_CMD 1 = true → open_ → s.ownerPkFused = false → Completes (.fuseOwnerPk path) s fun t => t.fuses.ownerPk =
      (List.range 14).flatMap fun w => bytesLE 4 (SMap.get 0 s.lcs.fuseData w).toNat) ∧
    (s.accepts path Reg.LCS_FUSE_CMD 2 = true → open_ → s.fuses.ownerAes = 0 → Completes (.fuseOwnerAes path) s fun t => t.fuses.ownerAes =
      BitVec.ofNat 256 (natLE ((List.range 8).flatMap fun w => bytesLE 4 (SMap.get 0 s.lcs.fuseData w).toNat))) ∧
    (s.accepts path Reg.LCS_ATT_CMD 0x80000000 = true → s.bit Fld.LCS_ATT_STAT_BUSY = false → s.lcState ≠ 4 → Completes (.attestation path) s fun t =>
      t.lcs.attWait = true ∧ t.fld Fld.LCS_ATT_STAT_BUSY = 1) ∧
    (s.up = true → s.lcs.snap = some rep → q < 2 ^ 20 → s.fuses.epochs.getLsbD (q / 4096) = true → Completes (.attestationDone []) s fun t =>
      t.fld Fld.LCS_ATT_STAT_STATUS = 0 ∧ t.fld Fld.LCS_SIGN_NEXTLEAF = q + 1) ∧
    (s.accepts path Reg.LCS_PATCH_CMD 0x80000000 = true → s.flintUp = true → s.patchAccept (s.lcs.staging.flatMap fun w => bytesLE 4 w.toNat) = some x →
      Completes (.patchApply path) s fun t => t.fld Fld.LCS_PATCH_STAT_ACTIVE = 1 ∧ t.fld Fld.LCS_PATCH_STAT_VERSION = x.1)) ∧
  -- transceivers and the test access port
  (∀ (s : State) (d : Fin 4) (t12 : Fin 12) (word err : BitVec 160) (tdi : List Bool),
    let x := s.xcvSt d.val t12.val
    let y := fun (t : State) => t.xcvSt d.val t12.val
    let tap := bits (s.reg (Reg.XCV_TXEQ d.val t12.val)) 29 24
    let loop := s.fld (Fld.XCV_CTRL_LOOP d.val t12.val)
    let power := s.phase ≠ .off ∧ s.phase ≠ .hold
    let shows := fun (c : Instr) (ir : JtagIr) => power → Completes c s fun t => t.jtag.ir = ir ∧ t.out.length = s.out.length + 1
    (s.up = true → s.xcvIface d.val t12.val = true →
      Completes (.rxSlip d t12) s (fun t => (y t).slip = (x.slip + 1) % 160) ∧ Completes (.txCwstart d t12) s (fun t => (y t).txPos = 1) ∧
      (s.bit (Fld.XCV_CTRL_FEC_EN d.val t12.val) = true → Completes (.rxCwset d t12) s fun t => (y t).left = 67 ∧ (y t).line = [(x.rx, x.rxErr)]) ∧
      (tap < 31 → Completes (.tapInc d t12 0) s fun t => bits (t.reg (Reg.XCV_TXEQ d.val t12.val)) 29 24 = tap + 1) ∧
      (1 ≤ tap → tap < 32 → Completes (.tapDec d t12 0) s fun t => bits (t.reg (Reg.XCV_TXEQ d.val t12.val)) 29 24 = tap - 1)) ∧
    (s.up = true → s.xcvOn d.val t12.val = true →
      (s.bit (Fld.XCV_CTRL_TXIDLE d.val t12.val) = false → loop = 0 → s.bit (Fld.XCV_PRBS_GEN d.val t12.val) = false → Completes (.txUnderrun d t12) s fun t =>
        t.fld (Fld.XCV_STAT_UNDERRUN d.val t12.val) ≠ 0 ∧ ∃ w taps swing, t.out = s.out ++ [.xcvTx d.val t12.val w taps swing]) ∧
      Completes (.cdrLock d t12) s (fun t => t.fld (Fld.XCV_STAT_CDR_LOCK d.val t12.val) = 1) ∧
      Completes (.cdrLockLoss d t12) s (fun t => t.fld (Fld.XCV_STAT_CDR_LOCK d.val t12.val) = 0) ∧
      (s.bit (Fld.XCV_STAT_CDR_LOCK d.val t12.val) = true → s.bit (Fld.XCV_CTRL_FEC_EN d.val t12.val) = false → loop = 0 → x.slip = 0 →
        Completes (.xcvRxWord d t12 word err) s fun t =>
        (y t).rx = word ∧ (y t).rxErr = err)) ∧
    shows (.bypass tdi) .bypass ∧ shows (.idcode tdi) .idcode ∧ shows (.samplePreload tdi) .sample ∧ shows (.extest tdi) .extest ∧ shows (.clamp tdi) .clamp ∧
    shows (.highz tdi) .highz ∧ shows (.extestPulse tdi) .pulse ∧ shows (.extestTrain tdi) .train ∧
    (s.up = true → s.debugOpen = true → Completes (.dbgacc tdi .idle) s fun t => t.jtag.ir = .dbgacc))

/-! ## Engine instructions (R273 to R306)

In each statement the engine's own word stands at its PC with clean transfers (`Issues`); `issued` is what every issue does. -/

/-- R290 and R292: the fifteen operations of the SALU class, with Z, and the words of the class that are illegal. -/
def Obligations.ScalarOperations : Prop :=
  ∀ (s : State) (r : EngRef) (sd sa sb : BitVec 3) (x : BitVec 32),
    let v := s.eng r.key
    let a := v.sreg sa
    let b := v.sreg sb
    (Issues s r (wSalu 0 sd sa sb x) x → IssuesAs (.add r sd sa sb x) s r (v.scalarDone x sd (a + b))) ∧
    (Issues s r (wSalu 1 sd sa sb x) x → IssuesAs (.sub r sd sa sb x) s r (v.scalarDone x sd (a - b))) ∧
    (Issues s r (wSalu 2 sd sa sb x) x → IssuesAs (.and r sd sa sb x) s r (v.scalarDone x sd (a &&& b))) ∧
    (Issues s r (wSalu 3 sd sa sb x) x → IssuesAs (.or r sd sa sb x) s r (v.scalarDone x sd (a ||| b))) ∧
    (Issues s r (wSalu 4 sd sa sb x) x → IssuesAs (.xor r sd sa sb x) s r (v.scalarDone x sd (a ^^^ b))) ∧
    (Issues s r (wSalu 5 sd sa sb x) x → IssuesAs (.shl r sd sa sb x) s r (v.scalarDone x sd (a <<< (b.toNat % 32)))) ∧
    (Issues s r (wSalu 6 sd sa sb x) x → IssuesAs (.shr r sd sa sb x) s r (v.scalarDone x sd (a >>> (b.toNat % 32)))) ∧
    (Issues s r (wSalu 7 sd sa sb x) x → IssuesAs (.sra r sd sa sb x) s r (v.scalarDone x sd (a.sshiftRight (b.toNat % 32)))) ∧
    (Issues s r (wSalu 8 sd sa sb x) x → IssuesAs (.slt r sd sa sb x) s r (v.scalarDone x sd (if a.slt b then 1 else 0))) ∧
    (Issues s r (wSalu 9 sd sa sb x) x → IssuesAs (.sltu r sd sa sb x) s r (v.scalarDone x sd (if a.ult b then 1 else 0))) ∧
    (Issues s r (wSalu 10 sd sa sb x) x → IssuesAs (.min r sd sa sb x) s r (v.scalarDone x sd (if b.slt a then b else a))) ∧
    (Issues s r (wSalu 11 sd sa sb x) x → IssuesAs (.max r sd sa sb x) s r (v.scalarDone x sd (if b.slt a then a else b))) ∧
    (Issues s r (wSalu 12 sd sa sb x) x → IssuesAs (.mul r sd sa sb x) s r (v.scalarDone x sd (a * b))) ∧
    (Issues s r (wSalu 13 sd sa 0 x) x → IssuesAs (.mov r sd sa x) s r (v.scalarDone x sd a)) ∧
    (Issues s r (wSalu 14 sd sa sb x) x → IssuesAs (.carry r sd sa sb x) s r (v.scalarDone x sd (if (a + b).ult a then 1 else 0))) ∧
    (∀ w : W64, let f := fun (hi lo : Nat) => natBits w.toNat hi lo
      f 63 60 = 2 → 15 ≤ f 59 55 ∨ (f 59 55 = 13 ∧ f 48 46 ≠ 0) ∨ f 45 32 ≠ 0 → wordLegal w = false)

/-- R291 and R292: the ten operations of the SIMM class, with Z, and the words of the class that are illegal. -/
def Obligations.ImmediateOperations : Prop :=
  ∀ (s : State) (r : EngRef) (sd sa : BitVec 3) (imm : BitVec 16) (x : BitVec 32),
    let v := s.eng r.key
    let a := v.sreg sa
    let se : Word := imm.signExtend 32
    let ze : Word := imm.zeroExtend 32
    (Issues s r (wSimm 0 sd sa imm x) x → IssuesAs (.addi r sd sa imm x) s r (v.scalarDone x sd (a + se))) ∧
    (Issues s r (wSimm 1 sd sa imm x) x → IssuesAs (.andi r sd sa imm x) s r (v.scalarDone x sd (a &&& ze))) ∧
    (Issues s r (wSimm 2 sd sa imm x) x → IssuesAs (.ori r sd sa imm x) s r (v.scalarDone x sd (a ||| ze))) ∧
    (Issues s r (wSimm 3 sd sa imm x) x → IssuesAs (.xori r sd sa imm x) s r (v.scalarDone x sd (a ^^^ ze))) ∧
    (Issues s r (wSimm 4 sd sa imm x) x → IssuesAs (.shli r sd sa imm x) s r (v.scalarDone x sd (a <<< (imm.toNat % 32)))) ∧
    (Issues s r (wSimm 5 sd sa imm x) x → IssuesAs (.shri r sd sa imm x) s r (v.scalarDone x sd (a >>> (imm.toNat % 32)))) ∧
    (Issues s r (wSimm 6 sd sa imm x) x → IssuesAs (.srai r sd sa imm x) s r (v.scalarDone x sd (a.sshiftRight (imm.toNat % 32)))) ∧
    (Issues s r (wSimm 7 sd 0 imm x) x → IssuesAs (.li r sd imm x) s r (v.scalarDone x sd se)) ∧
    (Issues s r (wSimm 8 sd 0 imm x) x → IssuesAs (.lui r sd imm x) s r (v.scalarDone x sd (ze * 65536))) ∧
    (Issues s r (wSimm 9 sd sa imm x) x → IssuesAs (.slti r sd sa imm x) s r (v.scalarDone x sd (if a.slt se then 1 else 0))) ∧
    (∀ w : W64, let f := fun (hi lo : Nat) => natBits w.toNat hi lo
      f 63 60 = 3 → 10 ≤ f 59 56 ∨ (4 ≤ f 59 56 ∧ f 59 56 ≤ 6 ∧ f 47 37 ≠ 0) ∨ ((f 59 56 = 7 ∨ f 59 56 = 8) ∧ f 52 50 ≠ 0) ∨ f 49 48 ≠ 0 →
        wordLegal w = false)

/-- R251, R282 to R284: NOP, the repeats, HALT and WAIT at their boundary, and the control registers. -/
def Obligations.SystemInstructions : Prop :=
  ∀ (s : State) (r : EngRef) (x : BitVec 32) (n : BitVec 13) (ss sd : BitVec 3) (cr : BitVec 4),
    let v := s.eng r.key
    (Issues s r (wSys 0 0 0 0 x) x → IssuesAs (.nop r none x) s r (v.issued x)) ∧
    (Issues s r (wSys 1 0 0 n x) x → IssuesAs (.rpt r n x) s r { v.issued x with rptLeft := n.toNat }) ∧
    (Issues s r (wSys 2 ss 0 0 x) x → 1 ≤ (v.sreg ss).toNat % 8192 → (v.sreg ss).toNat % 8192 ≤ 4096 →
      IssuesAs (.rpts r ss x) s r { v.issued x with rptLeft := (v.sreg ss).toNat % 8192 }) ∧
    (Issues s r (wSys 3 0 0 0 0) 0 → IssuesAs (.halt r) s r { (v.issued 0).settle with run := .halted }) ∧
    (Issues s r (wSys 4 0 0 0 0) 0 → IssuesAs (.wait r) s r { (v.issued 0).settle with run := .waiting }) ∧
    (Issues s r (wSys 5 ss cr 0 x) x → ∃ u : EngSt, IssuesAs (.movtc r cr ss x) s r u ∧
      u = { v.issued x with sr := u.sr, epc := u.epc, esr := u.esr, vbase := u.vbase, timer := u.timer, tevent := u.tevent,
                            treload := u.treload, dbell := u.dbell } ∧
      u.sr = (if cr = 0 then (v.sreg ss &&& 0xF0FF#32) ||| (v.land.sr &&& 0x800#32) else v.land.sr) ∧
      u.epc = (if cr = 1 then (v.sreg ss).setWidth 10 else v.epc) ∧ u.esr = (if cr = 2 then v.sreg ss else v.esr) ∧
      u.vbase = (if cr = 3 then (v.sreg ss).setWidth 10 else v.vbase) ∧
      u.timer = (if cr = 4 then v.sreg ss else v.count.timer) ∧ u.tevent = (if cr = 4 then false else v.count.tevent) ∧
      u.treload = (if cr = 5 then v.sreg ss else v.treload) ∧ u.dbell = (if cr = 6 then v.dbell &&& ~~~(v.sreg ss) else v.dbell)) ∧
    (Issues s r (wSys 6 sd cr 0 x) x → ∃ y : Word, IssuesAs (.movfc r sd cr x) s r (v.sDone x sd y) ∧
      (cr = 0 → y = v.sr) ∧ (cr = 1 → y = v.epc.setWidth 32) ∧ (cr = 2 → y = v.esr) ∧ (cr = 3 → y = v.vbase.setWidth 32) ∧
      (cr = 4 → y = v.timer) ∧ (cr = 5 → y = v.treload) ∧
      (cr = 6 → y = v.dbell) ∧ (cr = 7 → y.toNat = v.fcause % 2 ^ 32) ∧ (cr = 8 → y = v.faddr.setWidth 32) ∧
      (cr = 9 → y.toNat = v.faddr.toNat / 2 ^ 32) ∧ (cr = 10 → y = v.rcount.setWidth 32) ∧
      (cr = 11 → y.toNat = r.die.val * 65536 + r.grp.val * 256 + r.eng.val))

/-- R285 to R289: branches with their two delay slots, the link, the count-down condition and the return; and the eight conditions, on SR.Z and
on bits 31 and 0 of the named register. -/
def Obligations.Branches : Prop :=
  (∀ (s : State) (r : EngRef) (cond : BitVec 4) (sc sd : BitVec 3) (t : BitVec 10) (x : BitVec 32),
     let v := s.eng r.key
     let met := condMet cond.toNat v.sr (v.sreg sc)
     let next := fun (y : BitVec 10) => if met then y else v.pc + 3
     (Issues s r (wBr 0 cond sc 0 t x) x → IssuesAs (.b r cond sc t x) s r { v.branchDone x (next t) with s := v.decDone cond sc }) ∧
     (Issues s r (wBr 1 cond sc sd t x) x → IssuesAs (.call r cond sc sd t x) s r
       { v.branchDone x (next t) with s := if met then listSet (v.decDone cond sc) sd.toNat ((v.pc + 3).setWidth 32) else v.decDone cond sc }) ∧
     (Issues s r (wBr 2 cond sc sd 0 x) x → IssuesAs (.jr r cond sc sd x) s r
       { v.branchDone x (next ((v.sreg sd).setWidth 10)) with s := v.decDone cond sc }) ∧
     (Issues s r (wBr 3 0 0 0 0 x) x → IssuesAs (.reti r x) s r { v.branchDone x v.epc with reti := some (v.esr &&& 0xF8FF#32) })) ∧
  (∀ (sr c : Word),
     condMet 0 sr c = true ∧ (condMet 1 sr c = true ↔ sr.getLsbD 0 = true) ∧ (condMet 2 sr c = true ↔ sr.getLsbD 0 = false) ∧
     (condMet 3 sr c = true ↔ c.msb = true) ∧ (condMet 4 sr c = true ↔ c.msb = false) ∧ (condMet 5 sr c = true ↔ c.getLsbD 0 = true) ∧
     (condMet 6 sr c = true ↔ c.getLsbD 0 = false) ∧ (condMet 7 sr c = true ↔ c ≠ 1)) ∧
  (∀ w : W64, natBits w.toNat 63 60 = 1 → 8 ≤ natBits w.toNat 57 54 → wordLegal w = false)

/-- R279 to R281 and R293: the address register class; the circular update stays in the buffer where the offset and the modifier do, and the
offset of a bit-reversed update counts in natural order inside the reversed domain. -/
def Obligations.AddressRegisters : Prop :=
  (∀ (s : State) (r : EngRef) (ar sr : BitVec 3) (fld : BitVec 2) (imm : BitVec 11) (x : BitVec 32),
     let v := s.eng r.key
     let a := v.areg ar
     let put := fun (y : BitVec 11) => if fld = 0 then { a with a := y.setWidth 10 } else if fld = 1 then { a with b := y.setWidth 10 }
       else if fld = 2 then { a with l := y } else { a with m := y }
     (Issues s r (wAreg 0 ar fld 0 imm x) x → IssuesAs (.seti r ar fld imm x) s r (v.arDone x ar (put imm))) ∧
     (Issues s r (wAreg 1 ar fld sr 0 x) x → IssuesAs (.sets r ar fld sr x) s r (v.arDone x ar (put ((v.sreg sr).setWidth 11)))) ∧
     (Issues s r (wAreg 2 ar fld sr 0 x) x → IssuesAs (.get r ar fld sr x) s r (v.sDone x sr
       (if fld = 0 then a.a.zeroExtend 32 else if fld = 1 then a.b.zeroExtend 32 else if fld = 2 then a.l.zeroExtend 32 else a.m.signExtend 32))) ∧
     (Issues s r (wAreg 3 ar 0 0 imm x) x → IssuesAs (.adda r ar imm x) s r (v.arDone x ar { a with a := a.circular imm.toInt }))) ∧
  ((∀ (a : AReg) (m : Int), (a.a - a.b).toNat < a.len → -(a.len : Int) < m → m < a.len →
     (a.circular m).toNat = (a.b.toNat + ((((a.a - a.b).toNat : Nat) + m) % (a.len : Int)).toNat) % 1024) ∧
   (∀ (a : AReg) (k : Nat), k ≤ 10 → a.len = 2 ^ k → a.update 3 = some (a.reversed k)) ∧
   (∀ (a : AReg), (∀ k, k ≤ 10 → a.len ≠ 2 ^ k) → a.update 3 = none) ∧
   (∀ (a : AReg) (k : Nat), k ≤ 10 → a.len = 2 ^ k →
     revBits k (a.reversed k - a.b).toNat = (((revBits k ((a.a - a.b).toNat % 2 ^ k) : Nat) + a.m.toInt) % (2 ^ k : Int)).toNat))

/-- R240 to R242, R294 and R295: each lane of the four formats, the wrap flag, and the bits outside the named lanes. -/
def Obligations.MultiplyAccumulate : Prop :=
  ∀ (s : State) (r : EngRef) (wd : BitVec 2) (va vb vc : BitVec 4) (sa sb neg clr : Bool) (x : BitVec 32),
    let v := s.eng r.key
    let old := v.acc wd
    let sgn := fun (y : Int) => if neg then -y else y
    let base := fun (w k : Nat) => if clr then 0 else signed w (lane w k old)
    let byte := fun (sg : Bool) (n : BitVec 4) (k : Nat) => operand 8 sg (vbyte (v.vreg n) k)
    let int8 := fun (k : Nat) => sgn (byte sa va (k % 8) * byte sb (if k < 8 then vb else vc) (k % 8))
    let int18 := fun (k : Nat) => sgn (operand 27 sa (natBits (v.vreg va).toNat (32 * k + 26) (32 * k)) *
      operand 18 sb (natBits (v.vreg vb).toNat (32 * k + 17) (32 * k)))
    let fsgn := fun (y : Word) => if neg then y ^^^ 0x80000000#32 else y
    let fbase := fun (k : Nat) => if clr then 0#32 else BitVec.ofNat 32 (lane 48 k old)
    let bf := fun (n : BitVec 4) (k : Nat) => BitVec.ofNat 32 (natBits (v.vreg n).toNat (16 * k + 15) (16 * k) * 65536)
    (Issues s r (wMac 0 wd va vb vc sa sb neg clr x) x → ∃ a ov, IssuesAs (.macInt8 r wd va vb vc sa sb neg clr x) s r (v.accDone x wd a ov) ∧
      (∀ k < 16, (lane 24 k a : Int) = (base 24 k + int8 k) % 2 ^ 24) ∧
      (ov = true ↔ clr = false ∧ ∃ k < 16, base 24 k + int8 k < -2 ^ 23 ∨ 2 ^ 23 ≤ base 24 k + int8 k)) ∧
    (Issues s r (wMac 1 wd va vb 0 sa sb neg clr x) x → ∃ a ov, IssuesAs (.mac18x27 r wd va vb sa sb neg clr x) s r (v.accDone x wd a ov) ∧
      (∀ k < 2, (lane 64 k a : Int) = (base 64 k + int18 k) % 2 ^ 64) ∧ a.toNat / 2 ^ 128 = old.toNat / 2 ^ 128 ∧
      (ov = true ↔ clr = false ∧ ∃ k < 2, base 64 k + int18 k < -2 ^ 63 ∨ 2 ^ 63 ≤ base 64 k + int18 k)) ∧
    (Issues s r (wMac 2 wd va vb 0 false false neg clr x) x → ∃ a, IssuesAs (.macBf16 r wd va vb neg clr x) s r (v.accDone x wd a false) ∧
      (∀ k < 4, lane 48 k a = (fma (fsgn (bf va k)) (bf vb k) (fbase k)).toNat) ∧ a.toNat / 2 ^ 192 = old.toNat / 2 ^ 192) ∧
    (Issues s r (wMac 3 wd va vb 0 false false neg clr x) x → ∃ a, IssuesAs (.macFp32 r wd va vb neg clr x) s r (v.accDone x wd a false) ∧
      lane 48 0 a = (fma (fsgn ((v.vreg va).setWidth 32)) ((v.vreg vb).setWidth 32) (fbase 0)).toNat ∧
      a.toNat / 2 ^ 48 = old.toNat / 2 ^ 48)

/-- R242: NaN results, infinities, flushed subnormals and exact small sums of the fused multiply-add. -/
def Obligations.FusedMultiplyAdd : Prop :=
  (∀ a b c : Word, fread a = .nan ∨ fread b = .nan ∨ fread c = .nan → fma a b c = 0x7FC00000#32) ∧
  (∀ b c : Word, fread b = .fin (b.getLsbD 31) 0 0 → (fma 0x7F800000#32 b c = 0x7FC00000#32 ∧ fma 0xFF800000#32 b c = 0x7FC00000#32)) ∧
  (∀ a : Word, natBits a.toNat 30 23 = 0 → fread a = .fin (a.getLsbD 31) 0 0) ∧
  (∀ a b c : Word, natBits (fma a b c).toNat 30 23 = 0 → natBits (fma a b c).toNat 22 0 = 0) ∧
  (∀ a b c : Word, fread (fma a b c) = .nan → fma a b c = 0x7FC00000#32)

/-- R249 and R296 to R299: ACLR, the move out, which reads the accumulator without the two MAC results still in the pipeline and lands at the
end of stage M, and the load; what a move out makes of each lane and what a load leaves in each lane. -/
def Obligations.AccumulatorInstructions : Prop :=
  (∀ (s : State) (r : EngRef) (wd : BitVec 2) (vn : BitVec 4) (mo : BitVec 3) (q : BitVec 4) (sh : BitVec 6) (rnd : Bool) (x : BitVec 32),
     let v := s.eng r.key
     (Issues s r (wAcc 0 wd 0 0 0 0 false x) x → IssuesAs (.aclr r wd x) s r (v.accDone x wd 0 false)) ∧
     (Issues s r (wAcc 1 wd vn mo q sh rnd x) x → IssuesAs (.amov r wd vn mo q sh rnd x) s r
       { v.issued x with pend := v.loadsOf x ++ [.v vn.toNat (amovOp mo.toNat q.toNat sh.toNat rnd (v.w2.getD wd.toNat 0))] }) ∧
     (Issues s r (wAcc 2 wd vn mo q sh false x) x → IssuesAs (.ald r wd vn mo q sh x) s r
       (v.accDone x wd (aldOp mo.toNat q.toNat sh.toNat (v.vreg vn) (v.acc wd)) false))) ∧
  (∀ (a : W384) (q sh : Nat) (rnd : Bool),
     let half := fun (v : Int) => if rnd ∧ 0 < sh then v + 2 ^ (sh - 1) else v
     let sat := fun (w : Nat) (v : Int) => max (-2 ^ (w - 1)) (min (2 ^ (w - 1) - 1) v)
     let out := fun (lw tw k : Nat) => (sat tw (half (signed lw (lane lw k a)) / 2 ^ sh) % 2 ^ tw).toNat
     (∀ k < 4, natBits (amovOp 0 q sh rnd a).toNat (16 * k + 15) (16 * k) = out 24 16 (4 * q + k)) ∧
     (∀ k < 8, natBits (amovOp 1 q sh rnd a).toNat (8 * k + 7) (8 * k) = out 24 8 (8 * q + k)) ∧
     (∀ k < 2, natBits (amovOp 2 q sh rnd a).toNat (32 * k + 31) (32 * k) = out 48 32 (2 * q + k)) ∧
     ((amovOp 3 q sh rnd a).toNat : Int) = half (signed 64 (lane 64 q a)) / 2 ^ sh % 2 ^ 64 ∧
     (∀ k < 2, natBits (amovOp 4 q sh rnd a).toNat (32 * k + 31) (32 * k) = lane 48 (2 * q + k) a % 2 ^ 32) ∧
     (∀ v : W64, q < 4 → ∀ j < 16, (lane 24 j (aldOp 0 q sh v a) : Int) =
       if 4 * q ≤ j ∧ j < 4 * q + 4 then signed 16 (natBits v.toNat (16 * (j % 4) + 15) (16 * (j % 4))) * 2 ^ sh % (2 ^ 24 : Int) else (lane 24 j a : Int)) ∧
     (∀ v : W64, q < 4 → ∀ j < 8, (lane 48 j (aldOp 2 q sh v a) : Int) =
       if 2 * q ≤ j ∧ j < 2 * q + 2 then signed 32 (natBits v.toNat (32 * (j % 2) + 31) (32 * (j % 2))) * 2 ^ sh % (2 ^ 48 : Int) else (lane 48 j a : Int)))

/-- R254, R255 and R300: the vector operations, and the stream operations that move a word; one that cannot freezes the pipeline. -/
def Obligations.VectorAndStreams : Prop :=
  ∀ (s : State) (r : EngRef) (vd va : BitVec 4) (sd ss : BitVec 3) (h port : Bool) (x : BitVec 32),
    let v := s.eng r.key
    let hi := (v.vreg va).extractLsb' 32 32
    let lo := (v.vreg va).extractLsb' 0 32
    let sin := if port then v.sin1 else v.sin0
    let sout := if port then v.sout1 else v.sout0
    (Issues s r (wVec 0 vd va 0 false false x) x → IssuesAs (.vmov r vd va x) s r (v.vDone x vd (v.vreg va))) ∧
    (Issues s r (wVec 1 vd 0 ss h false x) x → IssuesAs (.vins r vd ss h x) s r (v.vDone x vd
      (if h then v.sreg ss ++ (v.vreg vd).extractLsb' 0 32 else (v.vreg vd).extractLsb' 32 32 ++ v.sreg ss))) ∧
    (Issues s r (wVec 2 (sd.setWidth 4) va 0 h false x) x → IssuesAs (.vext r sd va h x) s r (v.sDone x sd (if h then hi else lo))) ∧
    (Issues s r (wVec 5 vd 0 ss false false x) x → IssuesAs (.vspl r vd ss x) s r (v.vDone x vd (v.sreg ss ++ v.sreg ss))) ∧
    (∀ w rest, Issues s r (wVec 3 vd 0 0 false port x) x → sin = (w, false) :: rest → IssuesAs (.sin r vd port x) s r
      (if port then { v.vDone x vd w with sin1 := rest } else { v.vDone x vd w with sin0 := rest })) ∧
    (Issues s r (wVec 3 vd 0 0 false port x) x → sin = [] → IssuesAs (.sin r vd port x) s r { v.count with stall := if port then 2 else 1, held := some (wVec 3 vd 0 0 false port x) }) ∧
    (Issues s r (wVec 4 0 va 0 false port x) x → sout.length < 4 → IssuesAs (.sout r port va x) s r
      (if port then { v.issued x with sout1 := v.sout1 ++ [v.vreg va] } else { v.issued x with sout0 := v.sout0 ++ [v.vreg va] })) ∧
    (Issues s r (wVec 4 0 va 0 false port x) x → 4 ≤ sout.length → IssuesAs (.sout r port va x) s r { v.count with stall := if port then 8 else 4, held := some (wVec 4 0 va 0 false port x) })

/-- R270 and R301 to R304: a ring command that is aligned and finds a slot enters the engine's commands with its address,
destination, local word and TAG, and the group port sends what it may; and the packet of a ring command that leaves. -/
def Obligations.RingCommands : Prop :=
  (∀ (s : State) (r : EngRef) (mem : Bool) (sa sb sc : BitVec 3) (len : BitVec 5) (atop : BitVec 3) (x : BitVec 32),
     let v := s.eng r.key
     let addr : BitVec 48 := (v.sreg (sa + 1)).extractLsb' 0 16 ++ v.sreg sa
     let loc := (v.sreg sc).setWidth 10
     let cmd := fun (rc : Nat) (m : Bool) (n a : Nat) =>
       ({ rc := rc, sent := false, tag := BitVec.ofNat 12 (256 * r.eng.val + v.seq.toNat), mem := m, loc := loc, len := n, addr := addr,
          dst := (v.sreg sb).toNat % 2 ^ 27, bells := v.sreg sc, atop := a } : RingOut)
     let done := fun (c : Instr) (q : RingOut) =>
       ∃ l, exec c s = .next (keep s (((s.setEng r.key ({ v.issued x with ring := v.ring ++ [q], seq := v.seq + 1 }.withLoop l))).ringPump r))
     v.outstanding < 8 →
       (Issues s r (wRing 0 mem sa sb sc 0 0 x) x → addr.toNat % 64 = 0 → (v.sreg sc).toNat % 8 = 0 → done (.rld r mem sa sb sc x) (cmd 0 mem 0 0)) ∧
       (Issues s r (wRing 1 mem sa sb sc 0 0 x) x → addr.toNat % 64 = 0 → (v.sreg sc).toNat % 8 = 0 → done (.rst r mem sa sb sc x) (cmd 1 mem 0 0)) ∧
       (Issues s r (wRing 2 mem sa sb sc len 0 x) x → addr.toNat % 32 = 0 → (v.sreg sc).toNat % 4 = 0 →
         done (.rldnc r mem sa sb sc len x) (cmd 2 mem len.toNat 0)) ∧
       (Issues s r (wRing 3 mem sa sb sc len 0 x) x → addr.toNat % 32 = 0 → (v.sreg sc).toNat % 4 = 0 →
         done (.rstnc r mem sa sb sc len x) (cmd 3 mem len.toNat 0)) ∧
       (Issues s r (wRing 4 false sa sb sc 0 0 x) x → done (.rdb r sa sb sc x) (cmd 4 false 0 0)) ∧
       (Issues s r (wRing 5 mem sa sb sc 0 atop x) x → addr.toNat % 8 = 0 → done (.ratom r mem sa sb sc atop x) (cmd 5 mem 0 atop.toNat)) ∧
       (Issues s r (wRing 6 false 0 0 0 0 0 x) x → ∃ q l, q.rc = 6 ∧
         exec (.rfence r x) s = .next (keep s ((s.setEng r.key ({ v.issued x with ring := unfenced (v.ring ++ [q]) }.withLoop l)).ringPump r)))) ∧
  (∀ (s : State) (r : EngRef) (q : RingOut),
     let p := (s.ringPacket r q).2
     let clean := fun (n : Nat) => ∀ i < n, ((s.eng r.key).cell (if q.mem then 2 else 1) (q.loc.toNat + i)).syn = .clean
     (q.rc < 6 → p.src = s.groupEp r.die.val r.g ∧ p.tag = q.tag ∧ p.addr = q.addr ∧
       p.cmd = BitVec.ofNat 8 (if q.rc = 0 then 1 else if q.rc = 1 then 3 else if q.rc = 2 then 8 else if q.rc = 3 then 9
         else if q.rc = 4 then 0x10 else 5)) ∧
     (2 ≤ q.rc → q.rc ≤ 4 → p.dst = epOfBits q.dst) ∧
     (q.rc = 0 ∨ q.rc = 2 ∨ q.rc = 4 → p.data = [] ∧ (s.ringPacket r q).1 = s) ∧
     (q.rc = 2 → p.spec.toNat = q.len % 2 ^ 74) ∧ (q.rc = 4 → p.spec.toNat = q.bells.toNat) ∧
     (q.rc = 1 → clean 8 → (flitWords p.data).map (·.1) = (List.range 8).map fun i => ((s.eng r.key).cell (if q.mem then 2 else 1) (q.loc.toNat + i)).data))

/-- R263, R264 and R274: a word at the PC that is illegal, or poisoned, faults in place of whatever was to issue. -/
def Obligations.InstructionFaults : Prop :=
  ∀ (s : State) (r : EngRef) (w : W64) (x : BitVec 32),
    let v := s.eng r.key
    let enter := fun (u : EngSt) (cause : Nat) => u.fcause = cause ∧ u.faddr.toNat = v.pc.toNat ∧
      (if v.settle.sr.getLsbD 11 then u.run = .faulted
       else u.run = .running ∧ u.pc.toNat = v.vbase.toNat - v.vbase.toNat % 32 ∧ u.sr.getLsbD 11 = true) ∧
      u.xm = v.xm ∧ u.ym = v.ym ∧ u.pm = v.pm ∧ u.epc = v.epc ∧ u.esr = v.esr
    s.up = true → s.engClock r.die.val r.g = true → v.run = .running → v.faultPend = [] → v.held = none → v.loop = none →
      (v.cell 0 v.pc.toNat = ⟨w, .clean⟩ → wordLegal w = false → Completes (.nop r none x) s fun t => enter (t.eng r.key) 1) ∧
      ((v.cell 0 v.pc.toNat).syn = .poison → Completes (.nop r none x) s fun t => enter (t.eng r.key) 2)

/-! ## Engines from outside (R253 to R270) -/

/-- R237, R257, R258 and R269: RESET, HALT, RUN and doorbells through the engine's registers, over any path that may write them. -/
def Obligations.EngineRegisters : Prop :=
  ∀ (s : State) (path : Path) (r : EngRef) (bells : Word) (start : Option (BitVec 10)),
    let v := s.eng r.key
    let ctl := Reg.SEG_ECTL r.die.val r.grp.val r.eng.val
    let only := fun (t : State) (u : EngSt) => AccessOnly (s.setEng r.key u) t fun _ => False
    (s.accepts path ctl 0x20000000#32 = true → Completes (.engineReset path r) s fun t => ∃ u, only t u ∧
      u = { EngSt.fresh with pm := v.pm, xm := v.xm, ym := v.ym, ring := v.ring, seq := v.seq }) ∧
    (s.accepts path ctl 0x40000000#32 = true → v.run = .running ∨ v.run = .waiting → Completes (.engineHalt path r) s fun t => only t
      { v with run := .halted, stall := 0, held := if v.rptLeft = 0 then none else v.held, waitHeld := decide (v.run = .waiting) }) ∧
    (s.accepts path ctl 0x80000000#32 = true → s.groupEnabled r.die.val r.grp.val = true → v.run = .halted → v.faultPend = [] →
      Completes (.engineRun path r none) s fun t => only t { v with run := if v.waitHeld then .waiting else .running, waitHeld := false }) ∧
    (∀ a, start = some a → s.accepts path ctl (0x90000000#32 ||| a.zeroExtend 32) = true → s.groupEnabled r.die.val r.grp.val = true →
      v.run = .halted → v.faultPend = [] → Completes (.engineRun path r start) s fun t => ∃ u, only t u ∧
        u.run = .running ∧ u.pc = a ∧ u.s = v.s ∧ u.v = v.v ∧ u.w = v.w ∧ u.sr = v.sr ∧ u.xm = v.xm ∧ u.ym = v.ym ∧ u.pm = v.pm) ∧
    (s.accepts path (Reg.SEG_DBELL r.die.val r.grp.val r.eng.val) bells = true → Completes (.segDbell path r bells) s fun t =>
      only t (if s.groupEnabled r.die.val r.grp.val then { v with dbell := v.dbell ||| bells } else v))

/-- R259 to R261: the interrupt of the highest priority that is pending and enabled is taken, the timer event, and a RING fault that waited,
which goes before both. Which bit of SIE enables which port is the model's choice (assumption 64). -/
def Obligations.EngineInterrupts : Prop :=
  ∀ (s : State) (r : EngRef),
    let v := s.eng r.key
    let bell := v.sr.getLsbD 1 = true ∧ v.dbell ≠ 0
    let stream := (v.sr.getLsbD 2 = true ∧ v.sin0 ≠ []) ∨ (v.sr.getLsbD 3 = true ∧ v.sin1 ≠ []) ∨ (v.sr.getLsbD 4 = true ∧ v.sout0.length < 4) ∨
      (v.sr.getLsbD 5 = true ∧ v.sout1.length < 4)
    let timer := v.sr.getLsbD 6 = true ∧ v.tevent = true
    let base := v.vbase.toNat - v.vbase.toNat % 32
    s.up = true → s.engClock r.die.val r.g = true → (v.run = .running ∨ v.run = .waiting) →
      (v.faultPend = [] → v.sr.getLsbD 7 = true → v.slots = 0 → v.rptLeft = 0 → (bell ∨ stream ∨ timer) →
        Completes (.interruptEntry r) s fun t => ∃ u, t = s.setEng r.key u ∧
          (bell → u.pc.toNat = base + 8) ∧ (¬bell → stream → u.pc.toNat = base + 16) ∧ (¬bell → ¬stream → u.pc.toNat = base + 24) ∧
          u.epc = v.pc ∧ u.esr = v.settle.sr ∧ u.sr = setBits v.settle.sr 7 7 0 ∧ u.run = .running ∧ u.xm = v.xm ∧ u.ym = v.ym ∧
          u.pm = v.pm ∧ u.dbell = v.dbell ∧ u.tevent = v.count.count.count.tevent ∧ u.timer = v.count.count.count.timer) ∧
      (v.faultPend = [] → v.sr.getLsbD 7 = false → v.run = .waiting → (bell ∨ stream ∨ timer) →
        Completes (.interruptEntry r) s fun t => t = s.setEng r.key { v with run := .running }) ∧
      (v.faultPend ≠ [] → Completes (.interruptEntry r) s fun t => (t.eng r.key).fcause = 7 ∧ (t.eng r.key).faultPend = []) ∧
      (v.timer = 1 → Completes (.engineTimerExpiry r) s fun t => t = s.setEng r.key { v with tevent := true, timer := v.treload })

/-- R254 and R268 to R270: a stream word that an engine takes or gives, a forced access of the loader path, and the response to a
ring command. -/
def Obligations.EnginePorts : Prop :=
  ∀ (s : State) (r : EngRef) (w : W64) (poison : Bool) (rest : List W64) (n : Nat),
    let v := s.eng r.key
    s.up = true →
      (s.engClock r.die.val r.g = true →
        (v.sin0.length < 4 → Completes (.streamTransfer r 0 w poison) s fun t => t = s.setEng r.key { v with sin0 := v.sin0 ++ [(w, poison)] }) ∧
        (v.sin1.length < 4 → Completes (.streamTransfer r 1 w poison) s fun t => t = s.setEng r.key { v with sin1 := v.sin1 ++ [(w, poison)] }) ∧
        (v.sout0 = w :: rest → Completes (.streamTransfer r 2 0 false) s fun t =>
          t = (s.setEng r.key { v with sout0 := rest }).emit (.stream r.key 0 w)) ∧
        (v.sout1 = w :: rest → Completes (.streamTransfer r 3 0 false) s fun t =>
          t = (s.setEng r.key { v with sout1 := rest }).emit (.stream r.key 1 w))) ∧
      (∀ p q l, s.engClock r.die.val r.g = true → s.engRsp[n]? = some (r.key, p) → v.ring = q :: l → q.rc = 4 → q.sent = true → q.tag = p.tag → p.status.toNat ≤ 1 →
        Completes (.ringCommandComplete n) s fun t =>
          t = keep s ((State.setEng { s with engRsp := listDropAt s.engRsp n } r.key { v with ring := unfenced l, rcount := v.rcount + 1 }).ringPump r)) ∧
      (∀ x i, s.inbox[n]? = some x → portKind x.ep = .group → x.pkt.cmd = 8 → x.pkt.spec.toNat % 32 = 1 → i < 1021 →
        x.pkt.addr.toNat = 65536 * r.eng.val + 16384 + 8 * i → r.key = 12 * (192 * x.ep.die.toNat + s.groupOf x.ep) + r.eng.val →
        (∀ j < 4, (v.cell 1 (i + j)).syn = .clean) → Completes (.loaderAccessForced n) s fun t =>
          t = (s.take n).send x.ep (rspData x.pkt (mkFlits ((List.range 4).map fun j => ((v.cell 1 (i + j)).data, false)))))

/-! ## Clocks (R143 to R172) -/

/-- R147, R151, R154: a PLL setting written, with the lock that it costs and BADCFG; a spine written, whose source moves only while the
spine is closed or closing. -/
def Obligations.PllAndSpineWrites : Prop :=
  ∀ (s : State) (path : Path) (d : Fin 4) (p : Fin 8) (k : Fin 16) (w : Fin 3) (v : Word),
    let a := Reg.SPL_PLL_CTRL d.val p.val + 4 * w.val
    let en := fun (u : State) => u.bit (Fld.SPL_PLL_CTRL_EN d.val p.val)
    let locked := fun (u : State) => u.fld (Fld.SPL_PLL_STATUS_LOCKED d.val p.val)
    let bad := fun (u : State) => u.fld (Fld.SPL_PLL_STATUS_BADCFG d.val p.val)
    let open_ := s.bit (Fld.SPL_SPINE_EN d.val k.val)
    let src := s.fld (Fld.SPL_SPINE_SRC d.val k.val)
    (s.accepts path a v = true → Completes (.pllSettingWrite path d p w v) s fun t =>
      AccessOnly s t (fun b => b = a ∨ b = Reg.SPL_PLL_STATUS d.val p.val) ∧
      (w = 0 → en t = v.getLsbD 31 ∧ t.bit (Fld.SPL_PLL_CTRL_ALIGN d.val p.val) = v.getLsbD 30 ∧ t.fld (Fld.SPL_PLL_CTRL_N d.val p.val) = bits v 21 16) ∧
      (w = 1 → t.fld (Fld.SPL_PLL_FRAC_FRAC d.val p.val) = bits v 23 0) ∧
      (w = 2 → t.reg a = v) ∧
      (en s = false ∨ en t = false ∨ t.pllSet d.val p.val ≠ s.pllSet d.val p.val → locked t = 0) ∧
      (en s = true → en t = true → t.pllSet d.val p.val = s.pllSet d.val p.val → locked t = locked s) ∧
      (t.pllValid d.val p.val = true → bad t = 0) ∧ (t.pllValid d.val p.val = false → en t = true → bad t = 1)) ∧
    (s.accepts path (Reg.SPL_SPINE d.val k.val) v = true → Completes (.spineWrite path d k v) s fun t =>
      AccessOnly s t (fun b => b = Reg.SPL_SPINE d.val k.val ∨ b = Reg.SPL_STATUS d.val) ∧
      t.bit (Fld.SPL_SPINE_EN d.val k.val) = v.getLsbD 31 ∧
      (open_ = true → v.getLsbD 31 = true → bits v 5 0 ≠ src →
        t.fld (Fld.SPL_SPINE_SRC d.val k.val) = src ∧ t.fld (Fld.SPL_STATUS_SRC_REFUSED d.val) = 1) ∧
      (open_ = false ∨ v.getLsbD 31 = false ∨ bits v 5 0 = src →
        t.fld (Fld.SPL_SPINE_SRC d.val k.val) = bits v 5 0 ∧ t.reg (Reg.SPL_STATUS d.val) = s.reg (Reg.SPL_STATUS d.val)))

/-- R147, R149, R150 and R162 to R165: a lock, a lock lost without a write, and the two edges that a pending switch waits for. -/
def Obligations.PllAndTreeEvents : Prop :=
  ∀ (s : State) (d : Fin 4) (p : Fin 8) (sec : Fin 16) (n : Fin 24),
    let act := s.fld (Fld.SEC_RCLK_ACTIVE d.val sec.val n.val)
    let sel := s.fld (Fld.SEC_RCLK_SEL d.val sec.val n.val)
    let runs := fun (i : Nat) => 16 ≤ s.treeSrc d.val sec.val n.val i ∨ s.spineStopped d.val (s.treeSrc d.val sec.val n.val i) = false
    let key := treeKeyOf d.val sec.val n.val
    let tree := s.tree d.val sec.val n.val
    s.up = true →
      (s.bit (Fld.SPL_PLL_CTRL_EN d.val p.val) = true → s.pllValid d.val p.val = true → s.dref = true → s.domLive (slateDom d.val 5) = true →
        s.dieOk d.val = true → Completes (.pllLock d p) s fun t =>
          t.fld (Fld.SPL_PLL_STATUS_LOCKED d.val p.val) = 1 ∧ WritesOnly s t fun a => a = Reg.SPL_PLL_STATUS d.val p.val) ∧
      (s.bit (Fld.SPL_PLL_STATUS_LOCKED d.val p.val) = true → Completes (.pllLossOfLock d p) s fun t =>
        t.fld (Fld.SPL_PLL_STATUS_LOCKED d.val p.val) = 0 ∧ t.fld (Fld.SPL_PLL_STATUS_LOSTLOCK d.val p.val) = 1 ∧
        (∀ c, c < 4 → t.pllRuns d.val p.val c = false) ∧ SignalsOnly s t fun a => a = Reg.SPL_PLL_STATUS d.val p.val) ∧
      (s.bit (Fld.SEC_RCLK_SWITCH_PENDING d.val sec.val n.val) = true → tree.hung = false → (runs act ∨ s.treeClosed.contains key = true) → runs sel →
        Completes (.treeSwitchComplete d sec n) s fun t =>
          t.fld (Fld.SEC_RCLK_ACTIVE d.val sec.val n.val) = sel ∧ t.fld (Fld.SEC_RCLK_SWITCH_PENDING d.val sec.val n.val) = 0 ∧
          t.treeClosed.contains key = false ∧ (t.tree d.val sec.val n.val).hung = false ∧
          WritesOnly { s with treeClosed := t.treeClosed, trees := t.trees } t fun a => a = Reg.SEC_RCLK d.val sec.val n.val) ∧
      (s.bit (Fld.SEC_RCLK_SWITCH_PENDING d.val sec.val n.val) = true → ¬runs act → s.treeClosed.contains key = false →
        Completes (.treeSwitchComplete d sec n) s fun t => t = s.setTree d.val sec.val n.val { tree with hung := true }) ∧
      (tree.hung = true → runs act ∨ s.treeClosed.contains key = true → Completes (.treeSwitchComplete d sec n) s fun t => t = s) ∧
      (s.bit (Fld.SEC_RCLK_SWITCH_PENDING d.val sec.val n.val) = true → tree.hung = false → runs act → ¬runs sel →
        Completes (.treeSwitchComplete d sec n) s fun t => t.regs = s.regs ∧ t.treeClosed.contains key = true)

/-- R161, R162, R166, R168 and R169: SEL starts or cancels a switch, the other fields wait for a
region clock reset, and that reset takes the shadow and the selected input at once. That a SEL
which names ACTIVE does not end a hang is the model's choice (assumption 65). -/
def Obligations.TreeWrites : Prop :=
  ∀ (s : State) (path : Path) (d : Fin 4) (sec : Fin 16) (n : Fin 24) (v : Word),
    let a := Reg.SEC_RCLK d.val sec.val n.val
    let act := fun (u : State) => u.fld (Fld.SEC_RCLK_ACTIVE d.val sec.val n.val)
    let sel := fun (u : State) => u.fld (Fld.SEC_RCLK_SEL d.val sec.val n.val)
    let pend := fun (u : State) => u.fld (Fld.SEC_RCLK_SWITCH_PENDING d.val sec.val n.val)
    let low := fun (i : Nat) => 16 ≤ s.treeSrc d.val sec.val n.val i
    (s.accepts path a v = true → Completes (.treeSelWrite path d sec n v) s fun t =>
      AccessOnly { s with shadow := t.shadow, treeClosed := t.treeClosed, trees := t.trees } t (fun b => b = a) ∧ sel t = bits v 21 20 ∧
      (∀ i < 4, t.treeSrc d.val sec.val n.val i = s.treeSrc d.val sec.val n.val i) ∧
      t.fld (Fld.SEC_RCLK_DIV d.val sec.val n.val) = s.fld (Fld.SEC_RCLK_DIV d.val sec.val n.val) ∧
      (∃ w, SMap.find t.shadow a = some w ∧ bits w 19 0 = bits v 19 0 ∧ bits w 26 24 = bits v 26 24) ∧
      (bits v 21 20 = sel s → pend t = pend s ∧ act t = act s) ∧
      (bits v 21 20 ≠ sel s → bits v 21 20 ≠ act s → ¬low (act s) → s.treeClosed.contains (treeKeyOf d.val sec.val n.val) = false →
        pend t = 1 ∧ act t = act s) ∧
      (bits v 21 20 ≠ sel s → bits v 21 20 = act s → s.treeClosed.contains (treeKeyOf d.val sec.val n.val) = false → pend t = 0 ∧ act t = act s)) ∧
    (s.accepts path (Reg.SEC_RCLK_RST d.val sec.val) v = true → Completes (.secRclkRst path d sec v) s fun t =>
      AccessOnly { s with shadow := t.shadow, treeClosed := t.treeClosed, trees := t.trees } t (fun b => ∃ m < 24, b = Reg.SEC_RCLK d.val sec.val m) ∧
      (v.getLsbD n.val = true → pend t = 0 ∧ act t = sel s ∧ sel t = sel s ∧ SMap.find t.shadow a = none ∧
        t.treeClosed.contains (treeKeyOf d.val sec.val n.val) = false ∧ (t.tree d.val sec.val n.val).hung = false ∧
        (t.tree d.val sec.val n.val).phase = none ∧ (t.tree d.val sec.val n.val).open_ = false ∧ (t.tree d.val sec.val n.val).level = false ∧
        (∀ w, SMap.find s.shadow a = some w → bits (t.reg a) 19 0 = bits w 19 0 ∧ t.fld (Fld.SEC_RCLK_DIV d.val sec.val n.val) = bits w 26 24)) ∧
      (v.getLsbD n.val = false → t.reg a = s.reg a ∧ SMap.find t.shadow a = SMap.find s.shadow a))

/-! ## References and the clock manager (R583 to R593, R686) -/

/-- R583, R584, R587 to R589 and R593: what the monitor, the start delay, qualification, the MCLK watch and the end of holdover do to
the references, the AON clock and DREF. -/
def Obligations.ReferenceEvents : Prop :=
  ∀ (s : State) (mclk second : Bool),
    let ref := if second then 2 else 1
    let steady := s.phase = .running ∧ s.clk.aonClocked = true ∧ s.clk.deferred = false ∧ s.clk.lossOnMclk = false ∧
      s.fld Fld.CLK_STATUS_HOLDOVER = 0 ∧ s.fld Fld.CLK_STATUS_DREFLOST = 0
    let moved := fun (t : State) (cause frm goal : Nat) => t.fld Fld.CLK_STATUS_AONSRC = goal ∧ t.fld Fld.CLK_LOSS_CAUSE = cause ∧
      t.fld Fld.CLK_LOSS_FROM = frm ∧ t.fld Fld.CLK_LOSS_TO = goal ∧ t.fld Fld.CLK_IRQ_STATUS_LOSS = 1 ∧ t.clk.aonClocked = true ∧ t.arms = []
    (steady → s.fld Fld.CLK_STATUS_REFA_STATE = 1 → s.clk.counting = true → Completes .startDelayComplete s fun t =>
      t.fld Fld.CLK_STATUS_REFA_STATE = 2 ∧ WritesOnly { s with clk := t.clk } t fun a => a = Reg.CLK_STATUS) ∧
    (steady → s.bit Fld.CLK_CTRL_REFB_EN = true → s.fld Fld.CLK_STATUS_REFB_STATE = 1 ∨ s.fld Fld.CLK_STATUS_REFB_STATE = 3 →
      mclk = true ∨ s.refPresent 1 = true → Completes (.refbQualified mclk) s fun t =>
        t.fld Fld.CLK_STATUS_REFB_STATE = 2 ∧ WritesOnly { s with clk := t.clk } t fun a => a = Reg.CLK_STATUS) ∧
    (steady → s.fld Fld.CLK_STATUS_REFA_STATE = 3 → s.bit Fld.CLK_CTRL_REFA_EN = true → Completes .refaOscillationStart s fun t =>
      t.fld Fld.CLK_STATUS_REFA_STATE = 1 ∧ t.clk.counting = true ∧ WritesOnly { s with clk := t.clk } t fun a => a = Reg.CLK_STATUS) ∧
    (steady → s.refPresent ref = true → mclk = true ∨ s.refPresent (3 - ref) = true → s.fld Fld.CLK_STATUS_AONSRC ≠ ref →
      s.fld Fld.CLK_STATUS_DREFSRC ≠ ref → Completes (.referenceTrip second mclk) s fun t =>
        t.fld (if second then Fld.CLK_STATUS_REFB_STATE else Fld.CLK_STATUS_REFA_STATE) = 3 ∧ t.fld Fld.CLK_IRQ_STATUS_REFLOST = 1 ∧
        SignalsOnly { s with clk := t.clk } t fun a => a = Reg.CLK_STATUS ∨ a = Reg.CLK_IRQ_STATUS) ∧
    (steady → s.refPresent ref = true → s.refPresent (3 - ref) = true → s.fld Fld.CLK_STATUS_AONSRC = ref → s.fld Fld.CLK_STATUS_DREFSRC ≠ ref →
      Completes (.referenceTrip second mclk) s fun t => moved t 1 ref (3 - ref) ∧ t.fld Fld.CLK_IRQ_STATUS_REFLOST = 1) ∧
    (∀ r, steady → r = 1 ∨ r = 2 → s.fld Fld.CLK_STATUS_AONSRC = 3 - r →
      (s.refPresent r = false → Completes .mclkWatch s fun t => moved t 3 (3 - r) 0 ∧ t.clk.lossOnMclk = true) ∧
      (s.refPresent r = true → Completes .mclkWatch s fun t => moved t 4 0 r ∧ t.clk.lossOnMclk = false)) ∧
    (s.up = true → s.fld Fld.CLK_STATUS_HOLDOVER = 1 → s.refPresent 1 = false → s.refPresent 2 = false → Completes .holdoverExpiry s fun t =>
      t.fld Fld.CLK_STATUS_HOLDOVER = 0 ∧ t.fld Fld.CLK_STATUS_DREFLOST = 1 ∧ t.fld Fld.CLK_IRQ_STATUS_DREFLOST = 1 ∧
      (∀ d < 4, ∀ p < 8, t.fld (Fld.SPL_PLL_STATUS_LOCKED d p) = 0 ∧
        (s.fld (Fld.SPL_PLL_STATUS_LOCKED d p) = 1 → t.fld (Fld.SPL_PLL_STATUS_LOSTLOCK d p) = 1)))

/-- R586 and R686: the enables of the references and the choice of the AON clock, over any path that may write CLK_CTRL. -/
def Obligations.ClockControl : Prop :=
  ∀ (s : State) (path : Path) (sel : BitVec 2),
    (∀ v, s.accepts path Reg.CLK_CTRL v = true) →
      (s.bit Fld.CLK_CTRL_REFA_EN = false → Completes (.refaEn path true) s fun t =>
        t.fld Fld.CLK_CTRL_REFA_EN = 1 ∧ t.fld Fld.CLK_STATUS_REFA_STATE = 1 ∧ t.clk.counting = false ∧
        t.fld Fld.CLK_CTRL_REFB_EN = s.fld Fld.CLK_CTRL_REFB_EN ∧
        AccessOnly { s with clk := t.clk } t fun a => a = Reg.CLK_CTRL ∨ a = Reg.CLK_STATUS) ∧
      (s.bit Fld.CLK_CTRL_REFB_EN = false → Completes (.refbEn path true) s fun t =>
        t.fld Fld.CLK_CTRL_REFB_EN = 1 ∧ t.fld Fld.CLK_STATUS_REFB_STATE = 1 ∧ t.fld Fld.CLK_CTRL_REFA_EN = s.fld Fld.CLK_CTRL_REFA_EN ∧
        AccessOnly s t fun a => a = Reg.CLK_CTRL ∨ a = Reg.CLK_STATUS) ∧
      (s.bit Fld.CLK_CTRL_REFB_EN = true → s.fld Fld.CLK_STATUS_AONSRC ≠ 2 → s.fld Fld.CLK_STATUS_DREFSRC ≠ 2 →
        Completes (.refbEn path false) s fun t => t.fld Fld.CLK_CTRL_REFB_EN = 0 ∧ t.fld Fld.CLK_STATUS_REFB_STATE = 0 ∧
          t.fld Fld.CLK_IRQ_STATUS_REFLOST = s.fld Fld.CLK_IRQ_STATUS_REFLOST ∧ AccessOnly s t fun a => a = Reg.CLK_CTRL ∨ a = Reg.CLK_STATUS) ∧
      (s.bit Fld.CLK_CTRL_REFA_EN = true → s.clk.aonClocked = true → s.clk.deferred = false → s.fld Fld.CLK_STATUS_AONSRC = 1 →
        s.refPresent 2 = true → s.fld Fld.CLK_STATUS_DREFSRC ≠ 1 →
        Completes (.refaEn path false) s fun t => t.fld Fld.CLK_STATUS_REFA_STATE = 0 ∧ t.fld Fld.CLK_STATUS_AONSRC = 2 ∧
          t.fld Fld.CLK_LOSS_CAUSE = 1 ∧ t.fld Fld.CLK_LOSS_FROM = 1 ∧ t.fld Fld.CLK_LOSS_TO = 2 ∧ t.fld Fld.CLK_IRQ_STATUS_LOSS = 1) ∧
      (s.stepDone 3 = true → sel = 1 ∨ sel = 2 → s.refPresent sel.toNat = true → Completes (.aonsel path sel) s fun t =>
        t.fld Fld.CLK_STATUS_AONSRC = sel.toNat ∧ t.reg Reg.CLK_CTRL = s.reg Reg.CLK_CTRL ∧ t.reg Reg.CLK_LOSS = s.reg Reg.CLK_LOSS ∧
        AccessOnly { s with clk := t.clk } t fun a => a = Reg.CLK_STATUS) ∧
      (s.stepDone 3 = true → sel = 1 ∨ sel = 2 → s.refPresent sel.toNat = false → Completes (.aonsel path sel) s fun t =>
        t.fld Fld.CLK_STATUS_AONSRC = s.fld Fld.CLK_STATUS_AONSRC ∧ t.fld Fld.CLK_STATUS_SELREFUSED = 1 ∧
        AccessOnly s t fun a => a = Reg.CLK_STATUS)

/-! ## Power domains and temperature (R599 to R607) -/

/-- R600, R601 and R603: requests for a power domain over any path that may write it; a refused one changes only REFUSED and CAUSE. -/
def Obligations.PowerRequests : Prop :=
  ∀ (s : State) (path : Path) (d : Fin 56),
    let a := Reg.PWR_DOM d.val
    let st := fun (t : State) => t.fld (Fld.PWR_DOM_STATE d.val)
    let refused := fun (t : State) (c : Nat) => t.fld (Fld.PWR_DOM_REFUSED d.val) = 1 ∧ t.fld (Fld.PWR_DOM_CAUSE d.val) = c ∧ st t = st s ∧
      t.fld (Fld.PWR_DOM_REQ d.val) = s.fld (Fld.PWR_DOM_REQ d.val) ∧ AccessOnly s t fun b => b = a
    (s.accepts path a 0x20000000#32 = true → s.domExists d.val = true → Completes (.domainPowerOn path d) s fun t =>
      t.fld (Fld.PWR_DOM_REQ d.val) = 1 ∧ (st s = 0 → st t = 1) ∧ (st s ≠ 0 → st t = st s) ∧
      (16 ≤ d.val → ∀ k, k = 5 ∨ k = 8 → s.fld (Fld.PWR_DOM_STATE (slateDom ((d.val - 16) / 10) k)) = 0 →
        t.fld (Fld.PWR_DOM_STATE (slateDom ((d.val - 16) / 10) k)) = 1 ∧ t.fld (Fld.PWR_DOM_REQ (slateDom ((d.val - 16) / 10) k)) = 1) ∧
      AccessOnly s t fun b => b = a ∨ (16 ≤ d.val ∧ (b = Reg.PWR_DOM (slateDom ((d.val - 16) / 10) 5) ∨ b = Reg.PWR_DOM (slateDom ((d.val - 16) / 10) 8)))) ∧
    (s.accepts path a 0x20000000#32 = true → s.domExists d.val = false → Completes (.domainPowerOn path d) s fun t => refused t 5) ∧
    (s.accepts path a 0 = true → s.offCause d.val = 0 → Completes (.domainPowerOff path d) s fun t =>
      t.fld (Fld.PWR_DOM_REQ d.val) = 0 ∧ (st s = 2 → st t = 3) ∧ (st s ≠ 2 → st t = st s) ∧ AccessOnly s t fun b => b = a) ∧
    (s.accepts path a 0 = true → s.offCause d.val ≠ 0 → Completes (.domainPowerOff path d) s fun t => refused t (s.offCause d.val)) ∧
    (d.val < 5 ∨ d.val = 9 → s.offCause d.val = 1) ∧
    (10 ≤ d.val → d.val ≤ 13 → (s.offCause d.val = 6 ↔ s.bit (Fld.LOD_CTRL_EN (d.val - 10)) = true)) ∧
    (d.val = 5 ∨ d.val = 6 ∨ d.val = 7 ∨ d.val = 8 → s.offCause d.val = 0)

/-- R600, R602 and R603: a waking domain reaches ON and drains where REQ is 0; a drained one reads OFF and loses what it held, or
returns to ON where a wake has come. -/
def Obligations.PowerDomainEvents : Prop :=
  ∀ (s : State) (d : Fin 56),
    let st := fun (t : State) => t.fld (Fld.PWR_DOM_STATE d.val)
    let quiet := s.heldAcc = [] ∧ s.hostHeld = [] ∧ s.homes = [] ∧ s.waking = [] ∧ s.wakeFail = []
    s.up = true →
      (st s = 1 → (d.val < 10 ∨ d.val = 14 ∨ (16 ≤ d.val ∧ (d.val - 16) % 10 < 9)) → quiet → s.dieDown = [] →
        Completes (.domainOn d) s fun t => st t = (if s.bit (Fld.PWR_DOM_REQ d.val) then 2 else 3) ∧ WritesOnly s t fun a => a = Reg.PWR_DOM d.val) ∧
      (st s = 3 → s.domDrained d.val = true → s.bit (Fld.PWR_DOM_REQ d.val) = true → quiet → Completes (.domainOff d) s fun t =>
        st t = 2 ∧ WritesOnly s t fun a => a = Reg.PWR_DOM d.val) ∧
      (st s = 3 → s.domDrained d.val = true → s.bit (Fld.PWR_DOM_REQ d.val) = false → d.val = 7 ∨ d.val = 8 → Completes (.domainOff d) s fun t =>
        st t = 0 ∧ WritesOnly s t fun a => a = Reg.PWR_DOM d.val) ∧
      (st s = 3 → s.domDrained d.val = true → s.bit (Fld.PWR_DOM_REQ d.val) = false → 16 ≤ d.val → (d.val - 16) % 10 = 4 → Completes (.domainOff d) s fun t =>
        st t = 0 ∧ (∀ k, k / 2304 = (d.val - 16) / 10 → t.eng k = EngSt.fresh) ∧ (∀ k, k / 2304 ≠ (d.val - 16) / 10 → t.eng k = s.eng k) ∧
        t.mica = s.mica ∧ t.ddr = s.ddr ∧ t.frames = s.frames) ∧
      (st s = 3 → s.domDrained d.val = true → s.bit (Fld.PWR_DOM_REQ d.val) = false → 16 ≤ d.val → (d.val - 16) % 10 = 9 → Completes (.domainOff d) s fun t =>
        st t = 0 ∧ (∀ p w, p < 3072 → w < 4096 → t.micaCell ((d.val - 16) / 10) p w = Cell.unwritten) ∧ t.engines = s.engines ∧ t.ddr = s.ddr)

/-- R604 and R607: a sample is taken of every sensor in service, a failed self-check marks its sensor, and the device halts exactly
where a sensor in service reads 125 °C or more. -/
def Obligations.ThermalSample : Prop :=
  ∀ (s : State) (l : List (Option (BitVec 12))),
    let hot := fun (i : Nat) => s.sensorOk i = true ∧ ∃ x, l.getD i none = some x ∧ 1000 ≤ x.toInt
    s.up = true → Completes (.thermalSample l) s fun t =>
      (∀ i x, i < 72 → s.sensorOk i = true → l.getD i none = some x → t.fld (Fld.THM_SENS_TEMP i) = x.toNat) ∧
      (∀ i, i < 72 → s.sensorOk i = true → l.getD i none = none → t.fld (Fld.THM_SENS_FAILED i) = 1 ∧ t.fld Fld.THM_IRQ_STATUS_FAILED = 1) ∧
      (∀ i, i < 72 → s.sensorOk i = false → t.reg (Reg.THM_SENS i) = s.reg (Reg.THM_SENS i) ∨ s.sensed i = true) ∧
      ((∃ i < 72, hot i) → t.phase = .halted ∧ t.fld Fld.PWR_HALT_A_VALID = 1) ∧
      ((∀ i < 72, ¬hot i) → t.phase = s.phase) ∧ t.mica = s.mica ∧ t.engines = s.engines ∧ t.ddr = s.ddr ∧ t.net = s.net

/-! ## Start-up, supplies and the halt (R594 to R598, R657 to R659, R677 to R679) -/

/-- R594 step 1, R596, R597, R598 and R658: what each kind of start leaves, and which of them is cold. -/
def Obligations.Starts : Prop :=
  ∀ (s : State) (i : StartIn),
    Completes (.powerOn i) s (fun t => Started s t i (decide (s.phase ≠ .hold) || i.bakAbsent)) ∧
    (s.phase = .running ∨ s.phase = .halted ∨ (∃ n, s.phase = .start n) → Completes (.resetN i) s fun t => Started s t i false) ∧
    (s.phase = .supplyReset → Completes (.supplyResetEnd i) s fun t => Started s t i false) ∧
    (s.phase = .hold → Completes (.vaonReturn i) s fun t => Started s t i i.bakAbsent) ∧
    (s.phase = .off → Completes (.vaonReturn i) s fun t => Started s t i true)

/-- R597, R598, R658 and R659: the loss of VAON and a supply reset, with their records. -/
def Obligations.SupplyLoss : Prop :=
  ∀ (s : State) (rail : Fin 30) (high : Bool),
    let up := s.up = true ∨ s.phase = .halted
    (up → s.railCounts rail.val = true → Completes (.supplyReset rail high) s fun t =>
      t.phase = .supplyReset ∧ t.fld Fld.PWR_RAILLOG_VALID = 1 ∧
      t.fld Fld.PWR_RAILLOG_COUNT = min 255 (s.fld Fld.PWR_RAILLOG_COUNT + 1) ∧
      (s.fld Fld.PWR_RAILLOG_VALID = 0 → t.fld Fld.PWR_RAILLOG_RAIL = rail.val ∧ t.bit Fld.PWR_RAILLOG_OVER = high) ∧
      (s.fld Fld.PWR_RAILLOG_VALID = 1 → t.fld Fld.PWR_RAILLOG_RAIL = s.fld Fld.PWR_RAILLOG_RAIL) ∧
      WritesOnly { s with phase := .supplyReset } t fun a => a = Reg.PWR_RAILLOG) ∧
    (up → Completes (.vaonLoss .holds) s fun t => t.phase = .hold ∧
      t.fld Fld.PWR_SUPPLY_BAKEVENTS = min 65535 (s.fld Fld.PWR_SUPPLY_BAKEVENTS + 1) ∧
      WritesOnly { s with phase := .hold, jtag := JtagSt.start } t fun a => a = Reg.PWR_SUPPLY) ∧
    (up → Completes (.vaonLoss .absent) s fun t => t = { s with phase := .off, jtag := JtagSt.start }) ∧
    (up → Completes (.vaonLoss .low) s fun t => t.phase = .hold ∨ t.phase = .off)

/-- R594 steps 3 to 7, with R41, R445, R561 and R586: what each step of start-up does once its condition holds. What a patch makes of
MIN_STEP is free (assumption 58). -/
def Obligations.StartUpSteps : Prop :=
  ∀ (s : State) (l : List Dimm) (patch image : List Byte),
    (s.phase = .start 2 → s.refPresent 1 = true ∨ s.refPresent 2 = true → Completes (.startupReferencePresent l patch) s fun t =>
      t.phase = .start 3 ∧ t.fld Fld.CLK_STATUS_AONSRC = s.prefer (s.bit Fld.CLK_BOOT_AONPREF) ∧
      t.fld Fld.CLK_STATUS_DREFSRC = s.prefer (s.bit Fld.CLK_BOOT_DREFPREF) ∧ t.reg Reg.CLK_LOSS = s.reg Reg.CLK_LOSS ∧
      (∀ d, 2 ≤ d → d ≤ 9 → t.fld (Fld.PWR_DOM_STATE d) = 2) ∧
      (s.patchAccept (patchPart patch) = none → t.fuses = s.fuses ∧ t.fld Fld.HUB_ASSEMBLY_MIN_STEP = s.fld Fld.HUB_ASSEMBLY_MIN_STEP) ∧
      (∀ p, s.patchAccept (patchPart patch) = some p → t.lcs.patch = some (p.1, p.2.2) ∧ t.fuses.rollback = max s.fuses.rollback p.2.1 ∧
        t.fld Fld.LCS_PATCH_STAT_ACTIVE = 1 ∧
        t.fld Fld.HUB_ASSEMBLY_MIN_STEP = max (s.fld Fld.HUB_ASSEMBLY_MIN_STEP) (Config.patchMinStep p.2.2 % 65536)) ∧
      (∀ g r n w, (g = 16 ∨ g = 24 ∨ g = 32 ∨ g = 48 ∨ g = 64 ∨ g = 96 ∨ g = 128 ∨ g = 256) → 1 ≤ r → r ≤ 3 → l = List.replicate 8 (.ok g n w r) →
        ((n = 1 ∨ n = 2) → w = 4 → t.fld Fld.HRG_DDRTOP_GIB = 27 * g / 4 ∧
          ∀ x < 8, t.fld (Fld.DDR_STATUS_STATE x) = 2 ∧ t.fld (Fld.DDR_STATUS_GIB x) = g ∧ t.fld (Fld.DDR_STATUS_RATE x) = r) ∧
        (¬((n = 1 ∨ n = 2) ∧ w = 4) → ∀ x < 8, t.fld (Fld.DDR_STATUS_STATE x) = 3 ∧ t.fld (Fld.DDR_STATUS_GIB x) = g))) ∧
    (s.phase = .start 3 → Completes .startupBedrockUp s fun t => t.phase = .start 4 ∧
      ∀ d < 4, s.fuses.present.toNat.testBit d = true →
        (∀ k < 10, k ≠ 7 → t.fld (Fld.PWR_DOM_STATE (slateDom d k)) = 2) ∧ (∀ b < 16, t.fld (Fld.STR_BSTAT_STATE (16 * d + b)) = 1)) ∧
    (s.phase = .start 4 → (∀ d < 4, s.fuses.present.toNat.testBit d = true → ∀ b < 16, s.fld (Fld.STR_BSTAT_STATE (16 * d + b)) = 2 ∨
        s.fld (Fld.STR_BSTAT_STATE (16 * d + b)) = 3) →
      Completes .startupBundlesTrained s fun t => t.phase = .start 5 ∧ t.fld Fld.HUB_FEATURES_COMMON % 2 = 1 ∧
        ∀ d < 4, s.fuses.present.toNat.testBit d = true → t.fld (Fld.HUB_DIE_STATUS_STATE d) = s.dieCode d ∧
          (s.dieCode d = 1 → ∀ c < 8, (t.reg Reg.HRG_COLMAP).getLsbD (8 * d + c) =
            decide (s.fld (Fld.STR_BSTAT_STATE (16 * d + 2 * c)) = 2 ∨ s.fld (Fld.STR_BSTAT_STATE (16 * d + 2 * c + 1)) = 2)) ∧
          (s.dieCode d ≠ 1 → bits (t.reg Reg.HRG_COLMAP) (8 * d + 7) (8 * d) = 0 ∧ t.fld Fld.HUB_ASSEMBLY_DEGRADED = 1 ∧
            ∀ k < 10, t.fld (Fld.PWR_DOM_STATE (slateDom d k)) = 0)) ∧
    (s.phase = .start 5 → s.straps.rcvryN = true → leAt image 0 4 ≠ 0x5342524C → Completes (.startupFlashLoad image) s fun t =>
      t = { s with phase := .start 6 }) ∧
    (s.phase = .start 5 → s.straps.rcvryN = true → leAt image 0 4 = 0x5342524C → Completes (.startupFlashLoad image) s fun t =>
      t = keep s (State.loadFlash { s with phase := .start 6, loader := { s.loader with flash := some image } } .flint 0)) ∧
    (s.phase = .start 6 ∨ (s.phase = .start 5 ∧ s.straps.rcvryN = false) → s.loader.stream = none → Completes .handOver s fun t =>
      t.fld Fld.FLN_STATUS_STARTWIN = 0 ∧ t.fld Fld.FLN_STATUS_HANDED = 1 ∧
      ((∀ r < 256, s.fld (Fld.CFG_REG_STAT_STATE r) ≠ 2) → (∀ d, s.dieOk d = false) → t.phase = .running ∧ t.fld Fld.HUB_IDENT_PART = s.fld Fld.HUB_IDENT_PART))

/-- R678 and R679: steps 2 to 5 of a halt. Every domain but AON is off, and nothing is kept but the retained registers and the
life-cycle status. -/
def Obligations.DeviceHalts : Prop :=
  ∀ (s : State), s.phase = .halted → s.haltDone = false → Completes .deviceHalt s fun t =>
    t.phase = .halted ∧ t.haltDone = true ∧ t.flintUp = false ∧ t.pending = s.pending ∧ t.net = [] ∧ t.inbox = [] ∧ t.tags = [] ∧
    t.engines = [] ∧ t.mica = [] ∧ t.vein = [] ∧ t.ddr = [] ∧ t.keys = [] ∧ t.frames = [] ∧ t.regions = [] ∧ t.fuses = s.fuses ∧ t.out = s.out ∧
    t.links = [] ∧ t.strips = [] ∧ t.spines = [] ∧ t.trees = [] ∧ t.uports = [] ∧ t.micaShown = [] ∧
    (∀ d, d < 56 → t.fld (Fld.PWR_DOM_STATE d) = if d = 0 then 2 else 0) ∧ t.reg Reg.LCS_STATUS = s.reg Reg.LCS_STATUS ∧
    (∀ p, p < 64 → t.reg (Reg.PIN_CFG p) = s.reg (Reg.PIN_CFG p)) ∧ t.pins.drive = s.pins.drive ∧
    (∀ a, a = Reg.CLK_LOSS ∨ a = Reg.PWR_SUPPLY ∨ a = Reg.PWR_RAILLOG ∨ a = Reg.PWR_HALT_A ∨ a = Reg.PWR_HALT_B → t.reg a = s.reg a)

/-- R679: while the device is halted the management port reads six registers and nothing else, and writes change nothing. -/
def Obligations.HaltedManagement : Prop :=
  ∀ (s : State) (a : Word) (v : Word),
    let seen := a.toNat = Reg.PWR_HALT_A ∨ a.toNat = Reg.PWR_HALT_B ∨ a.toNat = Reg.PWR_RAILLOG ∨ a.toNat = Reg.PWR_SUPPLY ∨
      a.toNat = Reg.CLK_LOSS ∨ a.toNat = Reg.LCS_STATUS
    s.phase = .halted → s.heldAcc = [] →
      (seen → Completes (.mgmtRead a) s fun t => ∃ st d, t = s.emit (.mgmt st (some d)) ∧ st.toNat % 64 = 0 ∧ 128 ≤ st.toNat) ∧
      (¬seen → Completes (.mgmtRead a) s fun t => ∃ st d, t = s.emit (.mgmt st (some d)) ∧ st.toNat % 64 = 2 ∧ 128 ≤ st.toNat) ∧
      Completes (.mgmtWrite a v) s (fun t => ∃ st, t = s.emit (.mgmt st none) ∧ st.toNat % 64 = 2 ∧ 128 ≤ st.toNat)

/-- R48, R49 and R676: Flint's watchdog and the firmware fault records of poison and of its own bus errors. -/
def Obligations.FlintFaults : Prop :=
  ∀ (s : State) (ms : Nat) (sram : Bool) (addr : BitVec 48) (a : Nat) (ok : Bool) (value : Option Word) (k : Nat),
    let recent := (s.wdog.filter fun t => ms < t + 1000).length
    s.up = true → s.flintUp = true →
      (recent < 2 → Completes (.flintWatchdogExpiry ms) s fun t => t.flintUp = true ∧ t.fld Fld.FLN_IRQ_STATUS_WDOG = 1 ∧
        t.fld Fld.FLN_STATUS_WDOG_COUNT = min 255 (s.fld Fld.FLN_STATUS_WDOG_COUNT + 1) ∧ t.wdog = s.wdog ++ [ms] ∧ t.revs = s.revs.map (fun r => { r with restarted := true }) ∧
        SignalsOnly { s with wdog := t.wdog, revs := t.revs } t fun b => b = Reg.FLN_IRQ_STATUS ∨ b = Reg.FLN_STATUS) ∧
      (2 ≤ recent → Completes (.flintWatchdogExpiry ms) s fun t => t.flintUp = false ∧ t.fld Fld.FLN_IRQ_STATUS_WDOG = 1 ∧
        t.fld Fld.FLN_STATUS_FLINT_DOWN = 1 ∧ t.fld Fld.FLN_STATUS_WDOG_COUNT = s.fld Fld.FLN_STATUS_WDOG_COUNT ∧
        SignalsOnly { s with flintUp := false } t fun b => b = Reg.FLN_IRQ_STATUS ∨ b = Reg.FLN_STATUS) ∧
      Completes (.flintPoisonRead sram addr) s (fun t => t.fld Fld.FLN_FWLOG_A_VALID = 1 ∧ t.fld Fld.FLN_IRQ_STATUS_FWFAULT = 1 ∧
        (s.fld Fld.FLN_FWLOG_A_VALID = 0 → t.fld Fld.FLN_FWLOG_A_KIND = (if sram then 1 else 0) ∧
          (sram = false → t.fld Fld.FLN_FWLOG_A_ADDRHI = addr.toNat / 2 ^ 38 ∧ (t.reg Reg.FLN_FWLOG_B).toNat = addr.toNat / 64 % 2 ^ 32)) ∧
        SignalsOnly s t fun b => b = Reg.FLN_FWLOG_A ∨ b = Reg.FLN_FWLOG_B ∨ b = Reg.FLN_IRQ_STATUS) ∧
      (s.lcState ≠ 4 → s.reach .flint a ok value.isSome = .inr (.bus k) → k < 8 → a < 2 ^ 32 → Completes (.flintBusError a ok value) s fun t =>
        t.fld Fld.FLN_FWLOG_A_VALID = 1 ∧ t.fld Fld.FLN_IRQ_STATUS_FWFAULT = 1 ∧
        (s.fld Fld.FLN_FWLOG_A_VALID = 0 → t.fld Fld.FLN_FWLOG_A_KIND = 2 ∧ t.fld Fld.FLN_FWLOG_A_BUSKIND = k ∧ (t.reg Reg.FLN_FWLOG_B).toNat = a) ∧
        SignalsOnly s t fun b => b = Reg.FLN_FWLOG_A ∨ b = Reg.FLN_FWLOG_B ∨ b = Reg.FLN_IRQ_STATUS)

/-- R594 and R596: right after reset the device stands at step 1 of a start with nothing waiting; the AON and Flint domains are ON and
every other one is off, memories hold UNWRITTEN poison, engines their power-up state, and no packet, lease or key is held. The values that
the fuses and straps show are the model's choice (assumption 2). -/
def Obligations.ResetValues : Prop :=
  let s := State.reset
  s.phase = .start 1 ∧ s.up = true ∧ s.pending = [] ∧ s.flintUp = true ∧ s.haltDone = false ∧
  s.fld Fld.FLN_STATUS_STARTWIN = 1 ∧ s.fld Fld.FLN_STATUS_HANDED = 0 ∧ s.fld Fld.CLK_STATUS_AONSRC = 0 ∧
  (∀ d, d < 56 → s.fld (Fld.PWR_DOM_STATE d) = if d ≤ 1 then 2 else 0) ∧
  (∀ p, p < 64 → s.fld (Fld.PIN_CFG_FUNC p) = if p < 6 ∨ p = 48 then 2 else 0) ∧
  (∀ d p w, s.micaCell d p w = Cell.unwritten) ∧ (∀ d i, s.veinCell d i = Cell.unwritten) ∧ (∀ k, s.eng k = EngSt.fresh) ∧
  (∀ k, s.reg (Reg.FLN_SEM k) = regReset (Reg.FLN_SEM k)) ∧
  s.net = [] ∧ s.inbox = [] ∧ s.tags = [] ∧ s.keys = [] ∧ s.ddr = [] ∧ s.frames = [] ∧ s.shadow = [] ∧ s.locks = [] ∧ s.arms = []

/-- R98, R103 and R160, and the model's own choice of what an empty queue does (assumption 6): the clocks tick once. A flip-flop follows its
set or reset, its clock edge and its enable in the priority of R98, and keeps its value between them. Where no interface has an edge of
its clock, nothing changes but clocks, flip-flops, the truth tables of clusters and what pairs with GEAR 1 carry. -/
def Obligations.EmptyQueueIdles : Prop :=
  (∀ s : State, s.pending = [] → s.up = false ∨ s.liveSpines = [] → step s = .next s) ∧
  (∀ s : State, s.pending = [] → ∃ t, step s = .next t ∧ t.pending = [] ∧ t.haltDone = s.haltDone) ∧
  (∀ s : State, s.pending = [] → s.up = true → s.liveSpines ≠ [] → s.wiredPairs = [] → (∀ d pc pr, s.ifaceEdge s.clockTick d pc pr = false) →
    ∃ t, step s = .next t ∧ t.free = s.free + 1 ∧
      t = { s with regs := t.regs, drefPhase := t.drefPhase, spines := t.spines, trees := t.trees, treeClosed := t.treeClosed, ffs := t.ffs, frames := t.frames,
                   pads := t.pads, free := t.free } ∧
      sameRegs s t (fun a => ∃ d sec n, n < 24 ∧ a = Reg.SEC_RCLK d sec n) ∧
      (∀ d pc pr c, (d, pc, pr) ∈ s.liveClusters → c < 16 → t.ffValue d pc pr c = s.ffNext s.clockTick d pc pr c)) ∧
  (∀ (s u : State) (d pc pr c : Nat),
    let f := s.posFrame d pc pr
    let tree := clkTree f (cellBits f c 44 44)
    let inv := decide (clusterBits f (24 + cellBits f c 44 44) (24 + cellBits f c 44 44) = 1)
    let sec := s.posSector d pc pr
    let before := (s.tree d sec tree).level
    let after := (u.tree d sec tree).level
    let edge := tree < 24 ∧ before = inv ∧ after = !inv
    let sr := cellBits f c 49 48
    let asserted := (sr = 1 ∨ sr = 2) ∧ s.signal d (.inp pc pr (43 + sr)) = true
    let async := clusterBits f (25 + sr) (25 + sr) = 1
    let srval := decide (cellBits f c 50 50 = 1)
    let held := s.ffValue d pc pr c
    (s.posClocked d pc pr = true → asserted → async → s.ffNext u d pc pr c = srval) ∧
    (edge → asserted → ¬async → s.ffNext u d pc pr c = srval) ∧
    (edge → ¬asserted → s.cellEnable d pc pr c = true →
      s.ffNext u d pc pr c = if cellBits f c 42 42 = 1 then s.cellD d pc pr c else s.signal d (.o pc pr c)) ∧
    (edge → ¬asserted → s.cellEnable d pc pr c = false → s.ffNext u d pc pr c = held) ∧
    (¬edge → ¬(asserted ∧ async) → s.ffNext u d pc pr c = held)) ∧
  (∀ (v : TreeSt) (n : Nat), 1 ≤ n → v.phase = none → v.mux = false →
    v.divided n = false ∧ (v.drive n true).divided n = true ∧ (v.drive n false).divided n = false ∧
    ∀ k, 1 ≤ k → ((List.range k).foldl (fun (w : TreeSt) (_ : Nat) => (w.drive n false).drive n true) (v.drive n true)).divided n =
      decide (2 * k % (2 * n) < n))

/-- R678 and R679: once a halt is complete, no step gives the device back anything that it lost, short of a start. -/
def Obligations.HaltDarkKept : Prop := ∀ s t : State, HaltDark s → step s = .next t → HaltDark t

/-- The invariant holds right after reset. -/
def Obligations.HaltDarkAtReset : Prop := HaltDark State.reset

/-! ## Register accesses (R54 to R74, R82, R83) -/

/-- R19, R62, R64 and R65: an accepted write to a register of the HUB, THM, DDR, SLT, SEP or HRG block. RW and W1C fields that apply at once
do so, the others wait in the shadow, and RO fields stay. The boundary applies what waits. -/
def Obligations.RegisterWrites : Prop :=
  ∀ (s : State) (path : Path) (addr : Nat) (v : Word) (b : BlockAt) (r : RegDesc) (f : FieldDesc),
    regSel addr = some (b, .reg r) → b.desc.blk = .hub ∨ b.desc.blk = .thm ∨ b.desc.blk = .ddr ∨ b.desc.blk = .slt ∨ b.desc.blk = .sep ∨
      (b.desc.blk = .hrg ∧ b.off ≠ 0x2C) →
    f ∈ r.fields →
      let old := s.reg addr
      let at_ := fun (w : Word) => bits w f.hi f.lo
      (s.accepts path addr v = true → Completes (.registerWrite path addr true (some v) 0) s fun t =>
        AccessOnly { s with shadow := t.shadow } t (fun a => a = addr) ∧
        (f.acc = .rw → f.eff = .immediate → at_ (t.reg addr) = at_ v) ∧
        (f.acc = .rw → f.now = false → at_ (t.reg addr) = at_ old ∧ ∃ w, SMap.find t.shadow addr = some w ∧ at_ w = at_ v) ∧
        (f.acc = .w1c → at_ (t.reg addr) = at_ (old &&& ~~~v)) ∧ (f.acc = .ro → at_ (t.reg addr) = at_ old)) ∧
      (∀ w, s.up = true → r.boundary = some .packet → SMap.find s.shadow addr = some w → s.ringQuiet → Completes (.shadowApply addr) s fun t =>
        SMap.find t.shadow addr = none ∧ WritesOnly { s with shadow := t.shadow } t (fun a => a = addr) ∧
        (f.acc = .rw → f.now = false → at_ (t.reg addr) = at_ w) ∧ (f.acc = .rw → f.now = true → at_ (t.reg addr) = at_ old))

/-- R61 to R63, R66, R70, R72 to R74: the block control registers, an arm that lapses, and the record of a bus error. -/
def Obligations.GuardsAndBusErrors : Prop :=
  ∀ (s : State) (path : Path) (addr : Nat) (v : Word) (b : BlockAt),
    let open_ := s.pathUp path = true ∧ s.portFree path = true
    let ctl := fun (back : Nat) (sel : RegSel) =>
      open_ ∧ s.reach path (b.base + b.desc.size - back) true true = .inl (b, sel) ∧ path.barred (b.base + b.desc.size - back) = false
    let disarmed := s.arms.filter fun a => a.block ≠ b.base
    let errorRegs := fun (a : Nat) => a = Reg.FLN_BUSERR_LOG ∨ a = Reg.FLN_BUSERR_COUNT ∨ a = Reg.FLN_IRQ_STATUS
    (∀ c, blockAt addr = some c → c.base = b.base ∧ c.desc = b.desc →
      (ctl 0x10 .pend → Completes (.pendCancel path addr) s fun t => AccessOnly { s with shadow := t.shadow } t (fun _ => False) ∧ t.arms = s.arms ∧
        ∀ a, SMap.find t.shadow a = if b.base ≤ a ∧ a < b.base + b.desc.size then none else SMap.find s.shadow a) ∧
      (ctl 0xC .guard → Completes (.guardLock path addr) s fun t => AccessOnly { s with locks := t.locks } t (fun _ => False) ∧ t.arms = s.arms ∧
        ∀ a, a ∈ t.locks ↔ a ∈ s.locks ∨ a = b.base) ∧
      (ctl 8 .unlock → s.kAvail path = true → v = 0xA5C30F17#32 → Completes (.unlock path addr v) s fun t =>
        AccessOnly s t (fun _ => False) ∧ t.arms = disarmed ++ [{ block := b.base, path := path }]) ∧
      (ctl 8 .unlock → s.phase = .running → s.lcState ≠ 4 → path ≠ .flint → s.kAvail path = false ∨ v ≠ 0xA5C30F17#32 →
        Completes (.unlock path addr v) s fun t => AccessOnly s t errorRegs ∧ t.arms = disarmed ∧ t.fld Fld.FLN_IRQ_STATUS_BUSERR = 1 ∧
          (s.fld Fld.FLN_BUSERR_LOG_VALID = 0 → t.fld Fld.FLN_BUSERR_LOG_KIND = 2)) ∧
      (s.up = true → Completes (.kArmLapse addr) s fun t => t = { s with arms := disarmed })) ∧
    (∀ k ok, open_ → s.up = true → s.lcState ≠ 4 → path ≠ .flint → s.reach path addr ok true = .inr (.bus k) → k < 8 → path ≠ .mgmt ∨ ok = true →
      Completes (.registerWrite path addr ok (some v) 0) s fun t => AccessOnly s t errorRegs ∧ t.arms = s.arms ∧
        t.fld Fld.FLN_IRQ_STATUS_BUSERR = 1 ∧ t.fld Fld.FLN_BUSERR_LOG_VALID = 1 ∧
        t.fld Fld.FLN_BUSERR_COUNT_COUNT = min 65535 (s.fld Fld.FLN_BUSERR_COUNT_COUNT + 1) ∧
        (s.fld Fld.FLN_BUSERR_LOG_VALID = 0 → t.fld Fld.FLN_BUSERR_LOG_KIND = k ∧ t.fld Fld.FLN_BUSERR_LOG_WRITE = 1 ∧
          t.fld Fld.FLN_BUSERR_LOG_ADDR = natBits addr 26 2) ∧
        (s.fld Fld.FLN_BUSERR_LOG_VALID = 1 → t.reg Reg.FLN_BUSERR_LOG = s.reg Reg.FLN_BUSERR_LOG))

/-- R56 to R58 and R62: the frames of the management serial port, on a device that is not in END. -/
def Obligations.ManagementFrames : Prop :=
  ∀ (s : State) (a v : Word),
    let other : State := { s with heldAcc := s.heldAcc.filter fun x => x.path ≠ Path.mgmt }
    let result := fun (st : Byte) => st.toNat % 16
    s.up = true → s.lcState ≠ 4 →
      (∀ b r, regSel a.toNat = some (b, .reg r) → s.reach .mgmt a.toNat true false = .inl (b, .reg r) →
        b.desc.blk = .hub ∨ b.desc.blk = .clk ∨ b.desc.blk = .pwr ∨ b.desc.blk = .thm ∨ b.desc.blk = .que → Completes (.mgmtRead a) s fun t =>
          ∃ st, t = other.emit (.mgmt st (some (s.reg a.toNat &&& r.readMask))) ∧ result st = 0) ∧
      (∀ k, s.reach .mgmt a.toNat true false = .inr (.bus k) → k < 8 → Completes (.mgmtRead a) s fun t => ∃ l st, t.out = l ++ [.mgmt st (some 0)] ∧
        result st = (if k = 4 then 4 else 2) ∧ AccessOnly s t fun x => x = Reg.FLN_BUSERR_LOG ∨ x = Reg.FLN_BUSERR_COUNT ∨ x = Reg.FLN_IRQ_STATUS) ∧
      (s.accepts .mgmt a.toNat v = true → Completes (.mgmtWrite a v) s fun t => (∃ l st, t.out = l ++ [.mgmt st none] ∧ result st = 0) ∧
        exec (.registerWrite .mgmt a.toNat true (some v) 0) s = .next t) ∧
      Completes .mgmtStatus s (fun t => ∃ st, t = other.emit (.mgmt st none) ∧ result st = 0 ∧ (st.getLsbD 6 = true ↔ s.kAvail .mgmt = true) ∧
        st.getLsbD 7 = false) ∧
      Completes .mgmtFrameAbandon s (fun t => t = other) ∧
      ((∀ x ∈ s.heldAcc, x.path ≠ Path.mgmt) → Completes .mgmtTimeout s fun t => t = s) ∧
      (∀ x ∈ s.heldAcc, x.path = Path.mgmt → Completes .mgmtTimeout s fun t => ∃ st data, t = other.emit (.mgmt st data) ∧ result st = 5 ∧
        (data = none ∨ data = some 0))

/-! ## Leases (R76 to R81) -/

/-- R78 to R80: semaphores over any path that may write them, an owner declared faulted, and the
end of a revocation. The lower bits of a KIND 15 identifier are the model's choice (assumption
59). -/
def Obligations.Leases : Prop :=
  ∀ (s : State) (path : Path) (k : Fin 64) (w : Word),
    let sem := Reg.FLN_SEM k.val
    let who := s.pathOwner path
    (s.accepts path (Reg.FLN_SEM_OP k.val) 1 = true → Completes (.semAcquire path k) s fun t =>
      t.reg sem = (if s.reg sem = 0 then who else s.reg sem) ∧ AccessOnly s t fun a => a = sem) ∧
    (s.accepts path (Reg.FLN_SEM_OP k.val) 0 = true → Completes (.semRelease path k) s fun t =>
      t.reg sem = (if s.reg sem = who then 0 else s.reg sem) ∧ AccessOnly s t fun a => a = sem) ∧
    (s.accepts path Reg.FLN_REVOKE w = true →
      (kindDeclares (ownerKind w) = false → Completes (.flnRevoke path w) s fun t => AccessOnly s t fun _ => False) ∧
      (kindDeclares (ownerKind w) = true → ownerKind w ≠ 2 → (∀ r ∈ s.revs, r.owner ≠ w) → s.reg sem = w → Completes (.flnRevoke path w) s fun t =>
        t.revs = s.revs ++ [{ owner := w, held := s.leasesOf w, restarted := false }] ∧ t.fld Fld.FLN_LEASE_STAT_BUSY = 1 ∧
        (∀ j, j < 64 → t.reg (Reg.FLN_SEM j) = if s.reg (Reg.FLN_SEM j) = w then revokingId else s.reg (Reg.FLN_SEM j))) ∧
      (kindDeclares (ownerKind w) = true → ownerKind w ≠ 2 → (∀ r ∈ s.revs, r.owner ≠ w) → s.leasesOf w = [] → s.flintUp = true →
        Completes (.flnRevoke path w) s fun t => t.reg Reg.FLN_LEASE_LOG = w ∧ t.fld Fld.FLN_IRQ_STATUS_LEASE = 1 ∧
          t.fld Fld.FLN_LEASE_STAT_COUNT = min 65535 (s.fld Fld.FLN_LEASE_STAT_COUNT + 1) ∧
          AccessOnly s t fun a => a = Reg.FLN_LEASE_LOG ∨ a = Reg.FLN_LEASE_STAT ∨ a = Reg.FLN_IRQ_STATUS)) ∧
    (∀ (l : List (Fin 64)) (b : Bool), s.up = true → s.flintUp = true → s.ringQuiet → s.revs = [{ owner := w, held := l.map (fun j => .sem j.val), restarted := b }] →
      Completes (.revocationComplete w) s fun t => t.revs = [] ∧ t.reg Reg.FLN_LEASE_LOG = w ∧ t.fld Fld.FLN_LEASE_STAT_BUSY = 0 ∧
        t.fld Fld.FLN_LEASE_STAT_COUNT = min 65535 (s.fld Fld.FLN_LEASE_STAT_COUNT + 1) ∧ t.fld Fld.FLN_IRQ_STATUS_LEASE = 1 ∧
        (∀ j ∈ l, s.reg (Reg.FLN_SEM j.val) = revokingId → t.reg (Reg.FLN_SEM j.val) = 0) ∧
        SignalsOnly { s with revs := [] } t fun a => (∃ j ∈ l, a = Reg.FLN_SEM j.val) ∨ a = Reg.FLN_LEASE_LOG ∨ a = Reg.FLN_LEASE_STAT ∨
          a = Reg.FLN_IRQ_STATUS)

/-! ## Mica (R183 to R212, R399) -/

/-- R191 to R196, R198, R200, R206, R212 and R217: what an edge of a port's clock is, what a port that is ready answers at it to a read and
to a write, and how a response comes onto the outputs; that of a stopped sector is discarded. That the latency is that of the level at
acceptance is the model's choice (assumption 67). -/
def Obligations.MicaPorts : Prop :=
  ∀ (s : State) (d : Fin 4) (p : Fin 3072) (w : BitVec 12) (x : W64) (be : Byte) (poison : Bool),
    let c := s.micaCell d.val p.val w.toNat
    let u := s.micaEdge d.val p.val
    let port := s.micaPort d.val p.val
    let late := u.micaLatency d.val p.val
    let key := 3072 * d.val + p.val
    let answered := fun (t : State) (status : Nat) => t = { u with micaOut := u.micaOut ++ [{ MicaResp.plain d.val p.val status with wait := late }] }
    let hidden := s.exported d.val (p.val / 16)
    let same := fun (t : State) => ∀ d' p' w', t.micaCell d' p' w' = s.micaCell d' p' w'
    let reply := fun (y : W64) (bad : Bool) (cause : Nat) (corr : Bool) =>
      ({ die := d.val, port := p.val, status := 0, data := y, poison := bad, cause := cause, corr := corr, wait := late } : MicaResp)
    let plain := fun (status : Nat) => { MicaResp.plain d.val p.val status with wait := late }
    let edged := fun (t : State) => t = { s with mica := t.mica, micaOut := t.micaOut, micaShown := t.micaShown, out := t.out, mports := t.mports }
    (edged u ∧ u.mica = s.mica ∧ u.micaPort d.val p.val = port.next (s.fld (Fld.MCA_STATUS_THROTTLE d.val)) ∧
      (s.micaReady d.val p.val = true → 1 < micaDiv port.level → u.micaReady d.val p.val = false) ∧
      (s.micaReady d.val p.val = true → micaDiv port.level = 1 → s.fld (Fld.MCA_STATUS_THROTTLE d.val) ≠ 3 → u.micaReady d.val p.val = true)) ∧
    (s.up = true → s.micaClock d.val p.val = false → Completes (.micaWrite d p w x be poison) s (fun t => t = s) ∧
      Completes (.micaRead d p w []) s (fun t => same t ∧ t = { s with mica := t.mica }) ∧ Completes (.micaResponse d p) s (fun t => t = s)) ∧
    (s.up = true → s.micaClock d.val p.val = true → s.micaReady d.val p.val = false → Completes (.micaWrite d p w x be poison) s (fun t => t = u) ∧
      Completes (.micaRead d p w []) s (fun t => same t ∧ t = { u with mica := t.mica })) ∧
    (s.up = true → s.micaClock d.val p.val = true → s.micaReady d.val p.val = true →
      (hidden = true → Completes (.micaWrite d p w x be poison) s fun t => answered t 2) ∧
      (hidden = false → be ≠ 0xFF → Completes (.micaWrite d p w x be poison) s fun t => answered t 1) ∧
      (hidden = false → be = 0xFF → Completes (.micaWrite d p w x be poison) s fun t =>
        t = { u with mica := t.mica, micaOut := u.micaOut ++ [plain 0] } ∧
        t.micaCell d.val p.val w.toNat = (if poison then ⟨2, .poison⟩ else ⟨x, .clean⟩) ∧
        ∀ d' p' w', d' < 4 → p' < 3072 → w' < 4096 → (d', p', w') ≠ (d.val, p.val, w.toNat) → t.micaCell d' p' w' = s.micaCell d' p' w') ∧
      (hidden = true → Completes (.micaRead d p w []) s fun t => same t ∧ t = { u with mica := t.mica, micaOut := u.micaOut ++ [plain 2] }) ∧
      (hidden = false → c.syn = .clean → Completes (.micaRead d p w []) s fun t => same t ∧
        t = { u with mica := t.mica, micaOut := u.micaOut ++ [reply c.data false 0 false] }) ∧
      (hidden = false → c.syn = .poison → 1 ≤ c.data.toNat → c.data.toNat ≤ 3 → Completes (.micaRead d p w []) s fun t => same t ∧
        t = { u with mica := t.mica, micaOut := u.micaOut ++ [reply 0 true c.data.toNat false] }) ∧
      (∀ b bits, hidden = false → c.syn = .other b bits → Completes (.micaRead d p w []) s fun t => same t ∧ t.micaOut = u.micaOut ++ [reply 0 true 0 false] ∧
        SignalsOnly { u with mica := t.mica, micaOut := t.micaOut } t (fun a => a = Reg.MCA_UECOUNT d.val ∨ a = Reg.MCA_UELOG d.val ∨
          a = Reg.MCA_IRQ_STATUS d.val) ∧
        t.fld (Fld.MCA_IRQ_STATUS_UE d.val) = 1 ∧ t.fld (Fld.MCA_UELOG_VALID d.val) = 1 ∧
        (s.fld (Fld.MCA_UELOG_VALID d.val) = 0 → t.fld (Fld.MCA_UELOG_VEIN d.val) = 0 ∧
          t.fld (Fld.MCA_UELOG_ADDR d.val) = 4096 * p.val + w.toNat)) ∧
      (∀ n, hidden = false → c.syn = .single n → n < 72 → (∀ e, e < 16 → s.fld (Fld.MCA_LOG_A_VALID d.val e) = 0) →
        Completes (.micaRead d p w []) s fun t => same t ∧
          t.micaOut = u.micaOut ++ [reply (if n < 64 then c.data ^^^ BitVec.ofNat 64 (2 ^ n) else c.data) false 0 true] ∧
          t.fld (Fld.MCA_LOG_A_VALID d.val 0) = 1 ∧ t.fld (Fld.MCA_LOG_A_VEIN d.val 0) = 0 ∧
          t.fld (Fld.MCA_LOG_A_ADDR d.val 0) = 4096 * p.val + w.toNat ∧ t.fld (Fld.MCA_LOG_B_COUNT d.val 0) = 1 ∧
          t.fld (Fld.MCA_LOG_B_BIT d.val 0) = n ∧
          (t.fld (Fld.MCA_LOG_A_STICKY d.val 0) = 1 ↔ s.fld (Fld.MCA_CETHRESH_THRESH d.val) = 1))) ∧
    (∀ m rest, s.up = true → s.micaClock d.val p.val = true → s.micaOut = m :: rest → m.die = d.val → m.port = p.val →
      Completes (.micaResponse d p) s fun t => edged t ∧ t.mica = s.mica ∧
        t.micaOut = rest.map (fun r => if r.die = d.val ∧ r.port = p.val then { r with wait := r.wait - max 1 m.wait } else r) ∧
        (s.sectorRuns d.val (s.groupSector d.val (p.val / 16)) = true → SMap.find t.micaShown key = some { m with wait := 0 } ∧
          t.out = s.out ++ [.mica { m with wait := 0 }]) ∧
        (s.sectorRuns d.val (s.groupSector d.val (p.val / 16)) = false → SMap.find t.micaShown key = none ∧ t.out = s.out))

/-- R203, R205, R207, R211 and R399: initialisation, erasing a group, the correction log and a rewritten vein word. -/
def Obligations.MicaMaintenance : Prop :=
  ∀ (s : State) (path : Path) (d : Fin 4) (g : BitVec 8) (e : Fin 16),
    let busy := fun (t : State) => t.fld (Fld.MCA_STATUS_ERASE_BUSY d.val)
    let bad := 191 < g.toNat ∨ s.exported d.val g.toNat = true ∨ busy s = 1
    let inDie := fun (t : State) (p w : Nat) => t.micaCell d.val p w
    (s.up = true → s.fld (Fld.PWR_DOM_STATE (slateDom d.val 9)) ≠ 0 → s.fld (Fld.MCA_STATUS_INIT_DONE d.val) = 0 →
      Completes (.micaInitDone d) s fun t => t.fld (Fld.MCA_STATUS_INIT_DONE d.val) = 1 ∧
        (∀ p w, p < 3072 → w < 4096 → inDie t p w = Cell.unwritten) ∧ (∀ i, i < 2 ^ 21 → t.veinCell d.val i = Cell.unwritten) ∧
        (∀ d' p w, d' ≠ d.val → p < 3072 → w < 4096 → t.micaCell d' p w = s.micaCell d' p w) ∧
        WritesOnly { s with mica := t.mica, vein := t.vein } t fun a => a = Reg.MCA_STATUS d.val) ∧
    (s.accepts path (Reg.MCA_ERASE d.val) (0x80000000#32 ||| g.setWidth 32) = true →
      (bad → Completes (.mcaErase path d g) s fun t => t.fld (Fld.MCA_STATUS_ERASE_REFUSED d.val) = 1 ∧ busy t = busy s ∧
        AccessOnly s t fun a => a = Reg.MCA_STATUS d.val) ∧
      (¬bad → Completes (.mcaErase path d g) s fun t => busy t = 1 ∧ SMap.find t.erasing d.val = some g.toNat ∧
        (∀ p, p / 16 = g.toNat → t.micaReady d.val p = false) ∧
        AccessOnly { s with erasing := t.erasing } t fun a => a = Reg.MCA_STATUS d.val)) ∧
    (∀ i, s.up = true → SMap.find s.erasing d.val = some i → i < 192 → Completes (.eraseDone d) s fun t => busy t = 0 ∧
      SMap.find t.erasing d.val = none ∧ (∀ d' p w, p < 3072 → w < 4096 → t.micaCell d' p w = if d' = d.val ∧ p / 16 = i then Cell.unwritten else s.micaCell d' p w) ∧
      WritesOnly { s with mica := t.mica, erasing := t.erasing } t fun a => a = Reg.MCA_STATUS d.val) ∧
    (s.accepts path (Reg.MCA_LOG_A d.val e.val) 0x80000000#32 = true → Completes (.mcaLogClear path d e) s fun t =>
      t.reg (Reg.MCA_LOG_A d.val e.val) = 0 ∧ t.reg (Reg.MCA_LOG_B d.val e.val) = 0 ∧
      AccessOnly s t fun a => a = Reg.MCA_LOG_A d.val e.val ∨ a = Reg.MCA_LOG_B d.val e.val) ∧
    (∀ n : BitVec 21, s.accepts path (Reg.VEN_REWRITE d.val) (0x80000000#32 ||| n.setWidth 32) = true → Completes (.venRewrite path d n []) s fun t =>
      ∀ i, i < 2 ^ 21 → t.veinCell d.val i = match (s.veinCell d.val i).syn with
        | .single b => if i / 8 = n.toNat / 8 then
            ⟨if b < 64 then (s.veinCell d.val i).data ^^^ BitVec.ofNat 64 (2 ^ b) else (s.veinCell d.val i).data, .clean⟩ else s.veinCell d.val i
        | _ => s.veinCell d.val i)

/-! ## The ring network (R309 to R347, R353, R384, R411 to R413) -/

/-- R316, R323, R336, R341, R353, R364 and R366: user logic injects at a port of a running sector. A request gets its tag entry and leaves,
a coherent one for the vein slice of its line; the rest are answered by the port or wait. The destination of a coherent request is not
looked at. Which malformed packets are answered is the model's choice (assumption 67). -/
def Obligations.PacketInjection : Prop :=
  ∀ (s : State) (e : Ep) (p : Packet),
    let q := { p with src := e, vc := 0 }
    let seen := if 1 ≤ p.cmd.toNat ∧ p.cmd.toNat ≤ 5 then { q with dst := e } else q
    let timed := decide (s.fld (Fld.RTR_CTRL_TIMEOUT e.die.toNat e.router) ≠ 0)
    let entry := fun (dst : Ep) =>
      ({ ep := e, tag := p.tag, live := true, timed := timed, slots := rspFlits q, cmd := p.cmd, addr := p.addr, dst := dst, purpose := .user } : TagEntry)
    let sent := fun (t : State) (dst : Ep) => t = { s with
      tags := s.tags ++ [entry dst]
      net := s.net ++ [{ loc := .router e.die.toNat e.x.toNat e.y.toNat e.p.toNat, pkt := Packet.finish { q with dst := dst } }] }
    let free := s.tags.all fun t => !(t.ep = e && t.tag = p.tag)
    let answered := fun (t : State) (st : Nat) => ∃ l, t.out = s.out ++ l ++ [.deliver e (rspErr q st)] ∧ t.net = s.net ∧ t.tags = s.tags ∧
      (t.uport e).rsp = (s.uport e).rsp ++ rxFlits false (rspErr q st)
    s.up = true → s.userMay e = true → s.drains.contains e = false → s.portFenced e = false → (∀ f ∈ s.fences, f.ep ≠ e) → p.cls = 0 → p.cmd ≠ 6 →
        (malformed seen = true → Completes (.packetInject e p) s fun t => answered t 2 ∧
          t.fld (Fld.RTR_IRQ_STATUS_MALFORMED e.die.toNat e.router) = 1) ∧
        (malformed seen = false → free = false → Completes (.packetInject e p) s fun t => answered t 9) ∧
        (malformed seen = false → free = true → 64 ≤ (s.tags.filter fun t => t.ep = e).length → Completes (.packetInject e p) s fun t => t = s) ∧
        (malformed seen = false → free = true → (s.tags.filter fun t => t.ep = e).length < 64 → s.poolRoom e (rspFlits q) = true →
          (5 < p.cmd.toNat → Completes (.packetInject e p) s fun t => sent t p.dst) ∧
          (∀ x y, p.cmd.toNat ≤ 5 → s.slicePlace e.die.toNat (p.addr.toNat / 64) = some (x, y) →
            Completes (.packetInject e p) s fun t => sent t (s.mkEp e.die.toNat x y 8)) ∧
          (p.cmd.toNat ≤ 5 → s.liveCols e.die.toNat = 0 → Completes (.packetInject e p) s fun t => answered t 7 ∧
            t.fld Fld.HRG_UNREACH_COUNT = min 65535 (s.fld Fld.HRG_UNREACH_COUNT + 1)))

/-- R325 to R331, R333, R345, R411 and R413: a packet at the head of its buffer moves by one hop where the next buffer has room; on a hub ring
toward the stop where it leaves. -/
def Obligations.RingHops : Prop :=
  ∀ (s : State) (n : Nat) (f : Flight) (d x y inp : Nat),
    let p := f.pkt
    let rest := listDropAt s.net n
    let moved := fun (t : State) (l : Loc) (vc : BitVec 1) => t = { s with net := rest ++ [{ loc := l, pkt := { p with vc := vc } }] }
    let tx := p.dst.x.toNat
    let ty := p.dst.y.toNat
    let east := (tx + 8 - x) % 8 ≤ 4
    let nx := if east then (x + 1) % 8 else (x + 7) % 8
    let wraps := if east then x = 7 else x = 0
    let rowVc : BitVec 1 := if wraps then 1 else if inp = 16 ∨ inp = 17 then p.vc else 0
    let rowLoc := Loc.router d nx y (if east then 16 else 17)
    let room := fun (l : Loc) (vc : BitVec 1) => s.hasRoom l { p with vc := vc }
    s.up = true → s.net[n]? = some f → s.isHead n f = true → x < 8 → y < 8 → d < 4 →
      (f.loc = .router d x y inp → s.domOn (slateDom d 5) = true →
        (s.localTo d p = true → x ≠ tx → Completes (.routerForward n) s fun t => if room rowLoc rowVc then moved t rowLoc rowVc else t = s) ∧
        (s.localTo d p = true → x = tx → y < ty → Completes (.routerForward n) s fun t =>
          if room (.router d x (y + 1) 18) 0 then moved t (.router d x (y + 1) 18) 0 else t = s) ∧
        (s.localTo d p = true → x = tx → ty < y → Completes (.routerForward n) s fun t =>
          if room (.router d x (y - 1) 19) 0 then moved t (.router d x (y - 1) 19) 0 else t = s) ∧
        (s.localTo d p = false → firstLive (s.liveCols d) (fold3 p.key) = some x → Completes (.routerForward n) s fun t =>
          let l := if y = 0 then Loc.edge d x else .router d x (y - 1) 19
          if room l 0 then moved t l 0 else t = s)) ∧
      (f.loc = .edge d x → ∀ b : Fin 64, (b.val = 16 * d + 2 * x + parity p.key ∧ s.usable b.val = true) ∨
          (b.val = 16 * d + 2 * x + (1 - parity p.key) ∧ s.usable b.val = true ∧ s.usable (16 * d + 2 * x + parity p.key) = false) →
        ((s.link (.bundle b)).up.fits p = true → Completes (.edgeStopExit n) s fun t => t = { s with net := rest, links := t.links } ∧
          (t.link (.bundle b)).up.queue = (s.link (.bundle b)).up.queue ++ [p] ∧ (t.link (.bundle b)).dn = (s.link (.bundle b)).dn) ∧
        ((s.link (.bundle b)).up.fits p = false → Completes (.edgeStopExit n) s fun t => t = s)) ∧
      (f.loc = .edge d x → s.usable (16 * d + 2 * x) = false → s.usable (16 * d + 2 * x + 1) = false → p.cls = 0 →
        Completes (.edgeStopExit n) s fun t => t.net = rest ++ [{ loc := .router d x 0 20, pkt := rspErr p 7 }] ∧
          t.fld Fld.HRG_UNREACH_COUNT = min 65535 (s.fld Fld.HRG_UNREACH_COUNT + 1) ∧
          WritesOnly { s with net := t.net } t fun a => a = Reg.HRG_UNREACH) ∧
      (f.loc = .ingressPort x y inp →
        (s.localEp p.dst = false → Completes (.ingressSwitch n) s fun t =>
          if room (.hub (fold3 p.key) y 0) 0 then moved t (.hub (fold3 p.key) y 0) 0 else t = s) ∧
        (s.localEp p.dst = true → p.dst.die.toNat = 4 ∨ (p.dst.die.toNat < 4 ∧ s.dieOk p.dst.die.toNat = true ∧ natBit (s.liveCols p.dst.die.toNat) tx = true) →
          Completes (.ingressSwitch n) s fun t => if room (.hub tx y 0) 0 then moved t (.hub tx y 0) 0 else t = s) ∧
        (s.localEp p.dst = true → p.dst.die.toNat < 4 → s.dieOk p.dst.die.toNat = false → p.cls = 0 → Completes (.ingressSwitch n) s fun t =>
          t.net = rest ++ [{ loc := .ingressPort x y inp, pkt := rspErr p 7 }] ∧
          t.fld Fld.HRG_UNREACH_COUNT = min 65535 (s.fld Fld.HRG_UNREACH_COUNT + 1) ∧
          WritesOnly { s with net := t.net } t fun a => a = Reg.HRG_UNREACH)) ∧
      (f.loc = .hub x y inp →
        let stop := if s.localEp p.dst = false then 7 else if p.dst.die.toNat = 4 then ty else 2 * p.dst.die.toNat
        let up := (stop + 8 - y) % 8 ≤ 4
        let l := if up then Loc.hub x ((y + 1) % 8) 1 else .hub x ((y + 7) % 8) 2
        let vc : BitVec 1 := if (if up then y = 7 else y = 0) then 1 else p.vc
        y ≠ stop → Completes (.ingressSwitch n) s fun t => if room l vc then moved t l vc else t = s)

/-- R311, R319, R347 and R353: a packet at its last router or agent stop is delivered, answered or dropped by its port. -/
def Obligations.PacketEjection : Prop :=
  ∀ (s : State) (n : Nat) (f : Flight) (p : Packet) (inp : Nat),
    let e := f.pkt.dst
    let d := e.die.toNat
    let rest := listDropAt s.net n
    let here := Loc.router d e.x.toNat e.y.toNat inp
    let answered := fun (t : State) (st : Nat) =>
      t = { s with net := rest ++ [{ loc := .router d e.x.toNat e.y.toNat 20, pkt := rspErr p st }] }
    let forUser := p.cmd = 8 ∨ p.cmd = 9 ∨ p.cmd = 0x10 ∨ p.cmd = 0x11
    s.up = true → s.net[n]? = some f → s.isHead n f = true → s.localEp e = true →
      (f.loc = here → s.domOn (slateDom d 5) = true → d < 4 →
        (checkCrc f.pkt = none → Completes (.packetEject n) s fun t => t.net = rest ∧ t.inbox = s.inbox ∧
          t.fld (Fld.RTR_IRQ_STATUS_CRC d e.router) = 1 ∧
          SignalsOnly { s with net := rest } t fun a => a = Reg.RTR_ERRCNT1 d e.router ∨ a = Reg.RTR_ERRLOG d e.router ∨ a = Reg.RTR_IRQ_STATUS d e.router) ∧
        (checkCrc f.pkt = some (p, 0) → portKind e = .user → p.cls = 0 → s.domOn (s.portDomain e) = true →
          (¬forUser → Completes (.packetEject n) s fun t => answered t 2) ∧
          (forUser → 36 < s.inboundFlits e + p.flits → Completes (.packetEject n) s fun t => t = s) ∧
          (forUser → s.inboundFlits e + p.flits ≤ 36 →
            (s.userEnabled e = false → Completes (.packetEject n) s fun t => answered t 6) ∧
            (s.userEnabled e = true → s.portFenced e = true ∨ s.drains.contains e = true → Completes (.packetEject n) s fun t => answered t 4) ∧
            (s.userEnabled e = true → s.portFenced e = false → s.drains.contains e = false → Completes (.packetEject n) s fun t =>
              t = { s with net := rest, inbox := s.inbox ++ [{ ep := e, pkt := p }] }))) ∧
        (checkCrc f.pkt = some (p, 0) → portKind e = .none → p.cls = 0 → Completes (.packetEject n) s fun t =>
          t.net = rest ++ [{ loc := .router d e.x.toNat e.y.toNat 20, pkt := rspErr p 2 }] ∧ t.inbox = s.inbox ∧
          t.fld (Fld.RTR_IRQ_STATUS_NOEP d e.router) = 1)) ∧
      (∀ h k, f.loc = .hub e.x.toNat e.y.toNat k → d = 4 → portKind e = .home h → s.domOn 3 = true → checkCrc f.pkt = some (p, 0) →
        (p.cmd ≠ 6 → Completes (.packetEject n) s fun t => t = { s with net := rest, inbox := s.inbox ++ [{ ep := e, pkt := p }] }) ∧
        (p.cmd = 6 → p.cls = 0 → Completes (.packetEject n) s fun t =>
          t = { s with net := rest ++ [{ loc := .ingressPort e.x.toNat e.y.toNat 14, pkt := rspErr p 2 }] }))

/-- R337, R342, R343, R345, R347, R356 and R384: reserved credits, responses matched by TAG, timeouts, expired entries, holds and
fences of a user port. -/
def Obligations.PortTables : Prop :=
  ∀ (s : State) (path : Path) (d : Fin 4) (r : Fin 64) (n i : Nat) (e : Ep) (tag : BitVec 12) (v : Word) (p : Packet) (te : TagEntry),
    let cur := fun (q : Nat) => match SMap.find s.shadow (Reg.RTR_PORT d.val r.val q) with
      | some w => bits w 24 16
      | none => s.fld (Fld.RTR_PORT_RESV d.val r.val q)
    let others := fun (k : Nat) => (List.range 7).foldl (fun m q => if q = k then m else m + cur q) 0
    let quiet := s.hostHeld = [] ∧ (∀ f ∈ s.fences, f.ep ≠ e) ∧ ∀ k, (s.eng k).nextCmd = none
    (∀ k : Fin 16, s.ringQuiet → s.accepts path (Reg.RTR_PORT d.val r.val k.val) v = true → Completes (.resvWrite path d r k v) s fun t =>
      AccessOnly { s with shadow := t.shadow } t (fun a => a = Reg.RTR_POOL d.val r.val) ∧
      (∃ w, SMap.find t.shadow (Reg.RTR_PORT d.val r.val k.val) = some w ∧ bits w 28 28 = bits v 28 28 ∧
        bits w 24 16 = if 7 ≤ k.val then 0 else if others k.val + bits v 24 16 ≤ 512 then bits v 24 16 else cur k.val) ∧
      (k.val < 7 → 512 < others k.val + bits v 24 16 → t.fld (Fld.RTR_POOL_RESV_REFUSED d.val r.val) = 1)) ∧
    (s.up = true → quiet → portKind e = .user → s.inbox[n]? = some { ep := e, pkt := p } → s.inOrder n { ep := e, pkt := p } = true → s.userClock e = true →
      let cmds := fun (P : State → Prop) => (p.cmd = 0x40 → Completes (.rspData n) s P) ∧ (p.cmd = 0x41 → Completes (.rspAck n) s P) ∧
        (p.cmd = 0x42 → Completes (.rspErr n) s P)
      (s.liveEntry e p.tag = some i → s.tags[i]? = some te → te.purpose = .user → s.trapped e p = false → p.cls = 1 →
        cmds fun t => (t.uport e).rsp = (s.uport e).rsp ++ rxFlits true p ∧
          t = { s with inbox := listDropAt s.inbox n, tags := listDropAt s.tags i, uports := t.uports, out := s.out ++ [.deliver e p] }) ∧
      (∀ k, s.liveEntry e p.tag = some i → s.tags[i]? = some te → te.purpose = .engine k →
        cmds fun t => t = { s with inbox := listDropAt s.inbox n, tags := listDropAt s.tags i, engRsp := s.engRsp ++ [(k, p)] }) ∧
      (s.liveEntry e p.tag = none → e.die.toNat < 4 → cmds fun t => t.inbox = listDropAt s.inbox n ∧ t.tags = s.tags ∧
        t.fld (Fld.RTR_IRQ_STATUS_LATE e.die.toNat e.router) = 1 ∧
        t.fld (Fld.RTR_ERRCNT0_LATE e.die.toNat e.router) = min 65535 (s.fld (Fld.RTR_ERRCNT0_LATE e.die.toNat e.router) + 1))) ∧
    (s.up = true → quiet → portKind e = .user → e.die.toNat < 4 → s.liveEntry e tag = some i → s.tags[i]? = some te → te.timed = true → te.purpose = .user →
      (∀ x ∈ s.inbox, ¬(x.ep = e ∧ x.pkt.cls = 1 ∧ x.pkt.tag = tag)) → Completes (.requestTimeout e tag) s fun t => t.tags = s.tags.set i { te with live := false, slots := 0 } ∧ t.net = s.net ∧
        t.fld (Fld.RTR_IRQ_STATUS_TIMEOUT e.die.toNat e.router) = 1 ∧
        ∃ l q, t.out = l ++ [.deliver e q] ∧ (t.uport e).rsp = (s.uport e).rsp ++ rxFlits false q ∧ q.cmd = 0x42 ∧ q.status = 5 ∧ q.tag = tag) ∧
    (s.up = true → quiet → (∀ port, portKind e ≠ .pcie port) → Completes (.expiredEntryFree e tag) s fun t =>
      t = { s with tags := s.tags.filter fun u => !(u.ep = e && u.tag = tag && !u.live) }) ∧
    (s.up = true → s.waking.contains e = true → portKind e = .user → (∀ f ∈ s.net, s.heldFor e f = false) →
      (∀ h, ∀ x ∈ (s.home h).txns, x.answered = false) → Completes (.wakeHoldTimeout e) s fun t => t.waking.contains e = false ∧
      t.wakeFail = s.wakeFail ++ [e] ∧ t.fld (Fld.RTR_PORT_WAKING e.die.toNat e.router e.p.toNat) = 0 ∧
      WritesOnly { s with waking := t.waking, wakeFail := t.wakeFail } t fun a => a = Reg.RTR_PORT e.die.toNat e.router e.p.toNat) ∧
    (s.up = true → s.drains.contains e = true → s.portDrained e = true → Completes (.portFenceRaised e false) s fun t =>
      t.fld (Fld.RTR_PORT_FENCED e.die.toNat e.router e.p.toNat) = 1 ∧ t.drains.contains e = false ∧ t.net = s.net ∧ t.inbox = s.inbox ∧
      t.unanswered = s.unanswered ∧ (∀ u ∈ t.tags, u.ep = e → u.live = false) ∧ (∀ u ∈ t.fences, u.ep ≠ e) ∧
      (s.lastDrain e = none → t.ffs = s.ffs) ∧
      WritesOnly { s with drains := t.drains, tags := t.tags, fences := t.fences, uports := t.uports, ffs := t.ffs } t fun a => a = Reg.RTR_PORT e.die.toNat e.router e.p.toNat) ∧
    (s.up = true → s.drains.contains e = true → Completes (.portFenceRaised e true) s fun t =>
      t.fld (Fld.RTR_PORT_FENCED e.die.toNat e.router e.p.toNat) = 1 ∧ t.drains.contains e = false ∧ (∀ x ∈ t.inbox, x.ep ≠ e) ∧
      (∀ x ∈ t.unanswered, x.ep ≠ e) ∧ (∀ u ∈ t.tags, u.ep = e → u.live = false) ∧ (∀ u ∈ t.fences, u.ep ≠ e)) ∧
    (s.up = true → s.drains.contains e = true → s.portDrained e = false → Completes (.portFenceRaised e false) s fun t => t = s) ∧
    (s.up = true → s.userMay e = true → s.drains.contains e = false → s.portFenced e = false → (∀ f ∈ s.fences, f.ep ≠ e) →
      let live := s.tags.any fun u => u.ep = e && u.live
      let used := s.tags.any fun u => u.ep = e && u.tag = tag
      let room := (s.entriesOf e).length < 64
      let told := fun (t : State) (q : Packet) => t = { s with uports := t.uports, out := s.out ++ [.deliver e q] } ∧
        (t.uport e).rsp = (s.uport e).rsp ++ rxFlits false q
      (used = true → Completes (.fence e tag) s fun t => ∃ q, told t q ∧ q.cmd = 0x42 ∧ q.status = 9 ∧ q.tag = tag) ∧
      (used = false → ¬room → Completes (.fence e tag) s fun t => t = s) ∧
      (used = false → room → live = true → Completes (.fence e tag) s fun t => ∃ q, t = { s with fences := s.fences ++ [{ ep := e, pkt := q }] } ∧ q.cmd = 6 ∧ q.tag = tag) ∧
      (used = false → room → live = false → Completes (.fence e tag) s fun t => ∃ q, told t q ∧ q.cmd = 0x41 ∧ q.tag = tag))

/-! ## Coherent memory (R364 to R396, R684) -/

/-- R320, R364, R366, R374, R375 and R379: what a vein slice does with a request of a port of its die that it holds the line of or misses,
with one that is misaligned, and with a snoop. The poison for a line that was M and lost its tag, before VLOST has been taken, is the
model's choice (assumption 68). -/
def Obligations.VeinSlices : Prop :=
  ∀ (s : State) (d : Fin 4) (r : Fin 64) (n w : Nat) (l : VLine) (p : Packet),
    let k := p.addr.toNat / 64
    let set := veinSet k
    let v := s.slice d.val r.val
    let base := veinWord r.val set w
    let rest := listDropAt s.inbox n
    let sent := fun (t : State) (q : Packet) => t.net = s.net ++ [{ loc := .router d.val (r.val % 8) (r.val / 8) 8, pkt := q }] ∧ t.inbox = rest
    let line := (List.range 8).map fun i => ((s.veinCell d.val (base + i)).data, false)
    let data := fun (t : State) => ∃ q, sent t q ∧ q.cmd = 0x40 ∧ q.dst = p.src ∧ q.tag = p.tag ∧ flitWords q.data = line ∧
      t = { s with inbox := rest, net := t.net, slices := t.slices }
    let ack := fun (t : State) => ∃ q, sent t q ∧ q.cmd = 0x41 ∧ q.dst = p.src ∧ q.tag = p.tag
    let held := fun (t : State) => (t.slice d.val r.val).at_ set w
    let fromPort := s.localEp p.src = true ∧ p.src.die.toNat = d.val ∧ (portKind p.src = .user ∨ portKind p.src = .group)
    let free := s.veinOn = true ∧ s.bit (Fld.MCA_STATUS_INIT_DONE d.val) = true ∧ s.fld (Fld.MCA_STATUS_THROTTLE d.val) ≠ 3 ∧ v.lostSets = [] ∧ winDie k ≠ some d.val ∧
      v.fwd = [] ∧ v.reqs = [] ∧ v.wb = [] ∧ v.vlost = []
    let clean := l.poison = 0 ∧ ∀ i, i < 8 → (s.veinCell d.val (base + i)).syn = .clean
    let line0 := p.addr.toNat % 64 = 0
    s.up = true → s.inbox[n]? = some { ep := s.sliceAt d.val r.val, pkt := p } → s.inOrder n { ep := s.sliceAt d.val r.val, pkt := p } = true →
      (p.cls = 0 → fromPort → 1 ≤ p.cmd.toNat → p.cmd.toNat ≤ 4 → ¬line0 →
        let refused := fun (t : State) => ∃ q, sent t q ∧ q.cmd = 0x42 ∧ q.status = 2 ∧ q.dst = p.src ∧ t.slices = s.slices
        (p.cmd = 1 → Completes (.rd n none) s refused) ∧ (p.cmd = 2 → Completes (.rdx n) s refused) ∧ (p.cmd = 3 → Completes (.wr n) s refused) ∧
        (p.cmd = 4 → Completes (.wrg n) s refused)) ∧
      (p.cls = 0 → fromPort → free → s.firstOfLine n { ep := s.sliceAt d.val r.val, pkt := p } = true →
        (p.cmd = 1 → line0 → v.wayOf k = some w → v.at_ set w = some l → clean → Completes (.rd n none) s fun t => data t ∧ held t = some l) ∧
        (p.cmd = 2 → line0 → v.wayOf k = some w → v.at_ set w = some l → clean → l.st = .e ∨ l.st = .m → Completes (.rdx n) s fun t => data t ∧ held t = some l) ∧
        (p.cmd = 3 → line0 → p.data.length = 2 → v.wayOf k = some w → v.at_ set w = some l → l.st = .e ∨ l.st = .m → Completes (.wr n) s fun t => ack t ∧
          (∃ l', held t = some l' ∧ l'.line = k ∧ l'.st = .m) ∧
          (∀ i, i < 8 → t.veinCell d.val (base + i) = Cell.of ((flitWords p.data).getD i (0, false)).1) ∧
          (∀ i, i < base ∨ base + 8 ≤ i → i < 2 ^ 21 → t.veinCell d.val i = s.veinCell d.val i)) ∧
        (p.cmd = 4 → line0 → p.data.length = 2 → v.wayOf k = some w → v.at_ set w = some l → l.st = .e ∨ l.st = .m → Completes (.wrg n) s fun t => ack t ∧
          (∃ l', held t = some l' ∧ l'.line = k ∧ l'.st = .m) ∧
          (∀ i, i < 8 → t.veinCell d.val (base + i) =
            if p.gran.getLsbD i then Cell.of ((flitWords p.data).getD i (0, false)).1 else s.veinCell d.val (base + i))) ∧
        (p.cmd = 1 → line0 → v.wayOf k = none → v.victim set = some w → v.at_ set w = none → Completes (.rd n none) s fun t =>
          ∃ q, sent t q ∧ q.cmd = 1 ∧ q.dst = s.homeEp (homeOf k) ∧ q.addr.toNat = 64 * k ∧
            (t.slice d.val r.val).reqs = [{ line := k, rdx := false, way := w, tag := q.tag, waiting := [p] }]) ∧
        (p.cmd = 2 → line0 → v.wayOf k = none → v.victim set = some w → v.at_ set w = none → Completes (.rdx n) s fun t =>
          ∃ q, sent t q ∧ q.cmd = 2 ∧ q.dst = s.homeEp (homeOf k) ∧ q.addr.toNat = 64 * k ∧
            (t.slice d.val r.val).reqs = [{ line := k, rdx := true, way := w, tag := q.tag, waiting := [p] }]) ∧
        (p.cmd = 5 → Completes (.atom n) s fun t => ∃ q, sent t q ∧ q.cmd = 5 ∧ q.dst = s.homeEp (homeOf k) ∧ q.src = s.sliceAt d.val r.val ∧
          q.addr = p.addr ∧ q.spec = p.spec ∧ (t.slice d.val r.val).fwd = [{ tag := q.tag, req := p }] ∧ held t = v.at_ set w)) ∧
      (p.cls = 2 → v.wayOf k = some w → v.at_ set w = some l →
        (p.cmd = 0x30 → l.st = .m → clean → Completes (.snps n) s fun t => data t ∧ held t = some { l with st := .s }) ∧
        (p.cmd = 0x30 → l.st ≠ .m → Completes (.snps n) s fun t => ack t ∧ held t = some (if l.st = .e then { l with st := .s } else l)) ∧
        (p.cmd = 0x31 → l.st = .m → clean → Completes (.snpi n) s fun t => data t ∧ held t = none) ∧
        (p.cmd = 0x31 → l.st ≠ .m → Completes (.snpi n) s fun t => ack t ∧ held t = none) ∧
        (p.cmd = 0x32 → Completes (.snpd n) s fun t => ack t ∧ held t = none)) ∧
      (p.cls = 2 → v.wayOf k = none → v.wb = [] →
        (v.gone.contains k = false → (p.cmd = 0x30 → Completes (.snps n) s ack) ∧ (p.cmd = 0x31 → Completes (.snpi n) s ack)) ∧
        (v.gone.contains k = true →
          let poisoned := fun (t : State) => ∃ q, sent t q ∧ q.cmd = 0x40 ∧ q.dst = p.src ∧ q.tag = p.tag ∧ flitWords q.data = deadLine
          (p.cmd = 0x30 → Completes (.snps n) s poisoned) ∧ (p.cmd = 0x31 → Completes (.snpi n) s poisoned)) ∧
        (p.cmd = 0x32 → Completes (.snpd n) s ack))

/-- R360, R364, R370 to R372, R378, R385, R387 and R388: what a home agent does with a request that passes its checks, with one of a
source that may not send it, and with an ACKG. -/
def Obligations.HomeAgents : Prop :=
  ∀ (s : State) (h : Fin 16) (n : Nat) (p : Packet) (o : Nat),
    let k := p.addr.toNat / 64
    let e := s.homeEp h.val
    let hm := s.home h.val
    let sd := p.src.die.toNat
    let rest := listDropAt s.inbox n
    let place := Loc.ingressPort (h.val / 2) (if h.val % 2 = 0 then 1 else 5) 0
    let sent := fun (t before : State) (q : Packet) => t.net = before.net ++ [{ loc := place, pkt := q }] ∧ t.inbox = before.inbox
    let slice := s.veinOn = true ∧ s.localEp p.src = true ∧ portKind p.src = .vein ∧ s.dieDown.contains sd = false ∧ winDie k ≠ some sd
    let ready := homeOf k = h.val ∧ hm.busy k = false ∧ s.firstOfLine n { ep := e, pkt := p } = true ∧ hm.failed.contains (dirSet k) = false ∧
      hm.used < 512 ∧ p.cls = 0
    let passes := fun (u : Use) (known : Bool) => s.gate k (s.masterOf p) u known = .go
    let room := (hm.dir.filter fun x => dirSet x.line = dirSet k).length < 16
    let old := (s.take n).homeRead k false
    let granted := fun (t : State) (x : DirEnt) => ∃ q, sent t old.1 q ∧ q.cmd = 0x40 ∧ q.dst = p.src ∧ q.tag = p.tag ∧
      flitWords q.data = flitWords (mkFlits old.2) ∧ (t.home h.val).dir = hm.dir ++ [x] ∧
      (t.home h.val).txns = hm.txns ++ [{ line := k, kind := .request p, snoops := [], ackWait := some sd }]
    s.up = true → s.inbox[n]? = some { ep := e, pkt := p } → s.inOrder n { ep := e, pkt := p } = true →
      (p.cmd = 1 → p.addr.toNat % 64 = 0 → slice → ready → hm.ent k = none → room → passes .read false → Completes (.rd n none) s fun t =>
        granted t { line := k, owner := none, sharers := BitVec.ofNat 4 (2 ^ sd) }) ∧
      (p.cmd = 2 → p.addr.toNat % 64 = 0 → slice → ready → hm.ent k = none → room → passes .write false → Completes (.rdx n) s fun t =>
        granted t { line := k, owner := some sd, sharers := 0 }) ∧
      (p.cmd = 1 → p.addr.toNat % 64 = 0 → slice → ready → hm.dir = [{ line := k, owner := some o, sharers := 0 }] → o < 4 → o ≠ sd →
        s.dieDown.contains o = false → hm.txns = [] → passes .read true → Completes (.rd n none) s fun t =>
          ∃ q, sent t (s.take n) q ∧ q.cmd = 0x30 ∧ q.dst = s.sliceEp o k ∧ q.addr.toNat = 64 * k ∧
            (t.home h.val).txns = [{ line := k, kind := .request p, snoops := [(o, q.tag)], ackWait := none }]) ∧
      (p.cmd = 1 ∨ p.cmd = 2 ∨ p.cmd = 3 → portKind p.src ≠ .vein → p.cls = 0 →
        let refused := fun (t : State) => ∃ q, sent t (s.take n) q ∧ q.cmd = 0x42 ∧ q.status = 2 ∧ q.dst = p.src
        (p.cmd = 1 → Completes (.rd n none) s refused) ∧ (p.cmd = 2 → Completes (.rdx n) s refused) ∧ (p.cmd = 3 → Completes (.wr n) s refused)) ∧
      (p.cmd = 3 → p.addr.toNat % 64 = 0 → slice → ready → hm.ent k = none → Completes (.wr n) s fun t =>
        ∃ q, sent t (s.take n) q ∧ q.cmd = 0x41 ∧ q.dst = p.src ∧ t.ddr = s.ddr ∧ t.mica = s.mica) ∧
      (p.cmd = 8 → p.addr.toNat % 64 = 0 → p.spec = 2 → portKind p.src ≠ .vein → ready → hm.ent k = none → passes .readNc false →
        s.rawUse k (s.masterOf p) = false → Completes (.rdnc n) s fun t =>
          ∃ q, sent t old.1 q ∧ q.cmd = 0x40 ∧ q.dst = p.src ∧ q.tag = p.tag ∧ flitWords q.data = flitWords (mkFlits old.2)) ∧
      (∀ d g port w, s.memPlace k = .win d g port w → p.addr.toNat % 64 = 0 → portKind p.src ≠ .vein → ready → hm.ent k = none → passes .write false →
        p.data.length = 2 → (∀ i, i < 8 → ((flitWords p.data).getD i (0, false)).2 = false) →
          let word := fun (i : Nat) => Cell.of ((flitWords p.data).getD i (0, false)).1
          let done := fun (t : State) => ∃ q, sent t (s.take n) q ∧ q.cmd = 0x41 ∧ q.dst = p.src ∧ q.tag = p.tag
          (p.cmd = 9 → p.len = 2 → Completes (.wrnc n) s fun t => done t ∧ ∀ i, i < 8 → t.micaCell d port (w + i) = word i) ∧
          (p.cmd = 4 → Completes (.wrg n) s fun t => done t ∧
            ∀ i, i < 8 → t.micaCell d port (w + i) = if p.gran.getLsbD i then word i else s.micaCell d port (w + i))) ∧
      (p.cmd = 5 → p.addr.toNat % 8 = 0 → portKind p.src ≠ .vein → ready → hm.ent k = none → passes .write false →
        ∀ d g port w, s.memPlace k = .win d g port w → (s.micaCell d port (w + natBits p.addr.toNat 5 3)).syn = .clean →
          (∀ i, i < 8 → (s.micaCell d port (w + i)).syn = .clean) → p.data.length = 1 → (∀ i, i < 4 → ((flitWords p.data).getD i (0, false)).2 = false) →
          let at_ := w + natBits p.addr.toNat 5 3
          let x := (s.micaCell d port at_).data
          Completes (.atom n) s fun t => (∃ q, sent t (s.take n) q ∧ q.cmd = 0x40 ∧ q.dst = p.src ∧ (flitWords q.data).head? = some (x, false)) ∧
            t.micaCell d port at_ = Cell.of (atomOp (p.spec.toNat % 8) x ((flitWords p.data).getD 0 (0, false)).1 ((flitWords p.data).getD 1 (0, false)).1)) ∧
      (p.cmd = 0x33 → Completes (.ackg n) s fun t => t = { s with inbox := rest, homes := t.homes } ∧ (t.home h.val).dir = hm.dir ∧
        (t.home h.val).txns = hm.txns.filter fun x => !(x.line = k && x.ackWait = some sd))

/-- R389, R391 to R395 and R684: timeouts, lost sets, dies in reset, directory errors and flushes. The cause and the count of a line whose
owner is lost while it is snooped (assumption 67), and when a lost set takes requests again (assumption 68), are the model's choice. -/
def Obligations.CoherenceEvents : Prop :=
  ∀ (s : State) (path : Path) (d : Fin 4) (r : Fin 64) (h : Fin 16) (tag : BitVec 12) (set : Nat) (fs : Fin 5120) (line : BitVec 42) (discard : Bool) (p : Packet),
    let v := s.slice d.val r.val
    let hm := s.home h.val
    let logged := fun (t : State) (kind k : Nat) => t.fld (Fld.HRG_HA_ERRLOG_A_VALID h.val) = 1 ∧
      (s.fld (Fld.HRG_HA_ERRLOG_A_VALID h.val) = 0 → t.fld (Fld.HRG_HA_ERRLOG_A_KIND h.val) = kind ∧ t.fld (Fld.HRG_HA_ERRLOG_A_DIE h.val) = d.val ∧
        (t.reg (Reg.HRG_HA_ERRLOG_B h.val)).toNat = k % 2 ^ 32)
    let place := Loc.router d.val (r.val % 8) (r.val / 8) 8
    let go : Word := 0x80000000#32 ||| BitVec.ofNat 32 (b2n discard)
    s.up = true →
      (∀ q, v.reqs = [q] → q.tag = tag → q.waiting = [p] → Completes (.sliceRequestTimeout d r tag) s fun t =>
        (∃ a, t.net = s.net ++ [{ loc := place, pkt := a }] ∧ a.cmd = 0x42 ∧ a.status = 5 ∧ a.dst = p.src ∧ a.tag = p.tag) ∧
        (t.slice d.val r.val).reqs = [] ∧ (t.slice d.val r.val).late = v.late ++ [(tag, q.line + 1)] ∧
        t.fld (Fld.VEN_IRQ_STATUS_TIMEOUT d.val) = 1 ∧ t.fld (Fld.VEN_CNT_TIMEOUTS d.val) = min 65535 (s.fld (Fld.VEN_CNT_TIMEOUTS d.val) + 1)) ∧
      (∀ bad, set < 256 → s.dieOk d.val = true → s.domOn (slateDom d.val 5) = true → (∀ w l, v.at_ set w = some l → l.st ≠ .m) → v.wb = [] →
        (∀ q ∈ v.reqs, veinSet q.line ≠ set) → v.vlost = [] → Completes (.vlost (.found d r set bad)) s fun t => (t.slice d.val r.val).vlost = [(set, 16)] ∧ (∀ w, w < 16 → (t.slice d.val r.val).at_ set w = none) ∧
          t.fld (Fld.VEN_IRQ_STATUS_VLOST d.val) = 1 ∧ ∃ l, t.net = s.net ++ l ∧ l.length = 16 ∧
            ∀ f ∈ l, f.loc = place ∧ f.pkt.cmd = 0x34 ∧ f.pkt.spec.toNat = set + 256 * r.val) ∧
      (∀ n, s.inbox[n]? = some { ep := s.homeEp h.val, pkt := p } → s.inOrder n { ep := s.homeEp h.val, pkt := p } = true → p.cmd = 0x34 → (∀ x ∈ hm.dir, x.holders.contains p.src.die.toNat = false) →
        let sl := p.spec.toNat / 256 % 64
        Completes (.vlost (.report n)) s fun t => t = { s with inbox := listDropAt s.inbox n, slices := t.slices } ∧
          t.slice p.src.die.toNat sl = (s.slice p.src.die.toNat sl).vlostTaken (p.spec.toNat % 256)) ∧
      (∀ x, s.snoopTxn h.val d.val tag = some x → s.flintUp = false → Completes (.snoopTimeout h d tag) s fun t => logged t 1 x.line ∧
        WritesOnly s t fun a => a = Reg.HRG_HA_ERRLOG_A h.val ∨ a = Reg.HRG_HA_ERRLOG_B h.val) ∧
      (∀ x, s.snoopTxn h.val d.val tag = some x → Completes (.snoopTimeout h d tag) s fun t =>
        exec (.dieReset d) (s.haLog h.val 1 d.val x.line) = .next t) ∧
      (s.dieOk d.val = true → s.flintUp = true → s.homes = [] → s.ownersOn d.val = [] → s.links = [] → Completes (.dieReset d) s fun t =>
        t.dieDown.contains d.val = true ∧ t.engines = s.engines ∧ t.mica = s.mica ∧ t.frames = s.frames ∧ (∀ x ∈ t.tags, x.ep.die.toNat = d.val → s.localEp x.ep = false) ∧
        (∀ j, j < 64 → t.slice d.val j = Slice.empty) ∧ t.vein = s.vein ∧ (∀ k, k < 16 → t.spine d.val k = SpineSt.shut) ∧
        (∀ a, a < 0x1000000 → a / 0x100000 ≠ 2 → ¬isPba a → t.reg a = s.reg a) ∧
        (∀ j, j < 64 → t.reg (Reg.RTR_CTRL d.val j) = regReset (Reg.RTR_CTRL d.val j))) ∧
      ((∀ j, j < 16 → (∀ x ∈ (s.home j).dir, x.holders.contains d.val = false) ∧ ∀ x ∈ (s.home j).txns, ∀ y ∈ x.snoops, y.1 ≠ d.val) →
        Completes (.dieResetWalkDone d) s fun t => (∀ j, j < 16 → (t.home j).walking.contains d.val = false) ∧
        ((∀ j, j < 16 → s.usable (16 * d.val + j) = false) → t = { s with homes := t.homes } ∧ ∀ j, j < 16 → (t.home j).dir = (s.home j).dir) ∧
        (s.dieDown.contains d.val = true → (∃ j, j < 16 ∧ s.usable (16 * d.val + j) = true) → s.domOn (slateDom d.val 5) = true →
          s.domOn (slateDom d.val 8) = true → (∀ j, j < 16 → (s.home j).winWait = [] ∧ (s.home j).winData = []) → t.dieDown.contains d.val = false)) ∧
      (s.slices = [] → Completes (.directorySetError h fs line d) s fun t => logged t 4 line.toNat ∧ (t.home h.val).failed.contains fs.val = true ∧
        (t.home h.val).dir = hm.dir ∧ WritesOnly { s with homes := t.homes } t fun a => a = Reg.HRG_HA_ERRLOG_A h.val ∨ a = Reg.HRG_HA_ERRLOG_B h.val) ∧
      (s.slices = [] → hm.failed.contains fs.val = true → (∀ x ∈ hm.txns, dirSet x.line ≠ fs.val) →
        (∀ x ∈ hm.dir, dirSet x.line = fs.val → ∀ y ∈ x.holders, hm.walking.contains y = false) → Completes (.directorySetRestart h fs) s fun t =>
        t = { s with homes := t.homes } ∧ (t.home h.val).failed.contains fs.val = false ∧ (t.home h.val).dir = hm.dir.filter fun x => dirSet x.line ≠ fs.val) ∧
      (s.accepts path Reg.HRG_FLUSH_CTRL go = true →
        (s.fld Fld.HRG_FLUSH_CTRL_BUSY = 1 → Completes (.flush path discard) s fun t => t.fld Fld.HRG_FLUSH_CTRL_REFUSED = 1 ∧
          AccessOnly s t fun a => a = Reg.HRG_FLUSH_CTRL) ∧
        (s.fld Fld.HRG_FLUSH_CTRL_BUSY = 0 → s.homes = [] → Completes (.flush path discard) s fun t => t.fld Fld.HRG_FLUSH_CTRL_BUSY = 1 ∧
          t.flush = some { todo := [], discard := discard } ∧ AccessOnly { s with flush := t.flush } t fun a => a = Reg.HRG_FLUSH_CTRL)) ∧
      (∀ f, s.flush = some f → f.todo = [] → s.flushing = false → Completes .flushDone s fun t => t.fld Fld.HRG_FLUSH_CTRL_BUSY = 0 ∧
        t.fld Fld.HRG_FLUSH_CTRL_DONE = 1 ∧ t.flush = none ∧ WritesOnly { s with flush := none } t fun a => a = Reg.HRG_FLUSH_CTRL) ∧
      (∀ f, s.flush = some f → f.todo = [] → s.flushing = true → Completes .flushDone s fun t => t = s)

/-! ## Delivery (R59, R62, R265, R269, R310, R320, R340, R353, R354) -/

/-- R59, R62, R67, R265, R269, R310, R320, R340 and R354: what register endpoints, group ports and user ports do with the DB, MSG, CFGRD,
CFGWR, RDNC and WRNC packets delivered to them. -/
def Obligations.Deliveries : Prop :=
  ∀ (s : State) (n : Nat) (e : Ep) (p : Packet),
    let d := e.die.toNat
    let g := s.groupOf e
    let rest := listDropAt s.inbox n
    let answer := fun (net : List Flight) (cmd status : Nat) (q : Packet) (t : State) =>
      t.net = net ++ [{ loc := injectLoc e, pkt := q }] ∧ q.cmd.toNat = cmd ∧ q.status.toNat = status ∧ q.dst = p.src ∧ q.src = e ∧ q.tag = p.tag
    let quiet := fun (t : State) => t = { s with inbox := rest, net := t.net }
    let refused := fun (status : Nat) (t : State) => quiet t ∧ ∃ q, answer s.net 0x42 status q t
    let addr := p.addr.toNat
    let path := Path.ring p.src
    let v := ((flitWords p.data).getD 0 (0, false)).1.setWidth 32
    let regPort := portKind e = .hubReg ∨ portKind e = .dieReg
    let k := natBits addr 19 16
    let bells := p.spec.setWidth 32
    let named := fun (j : Nat) => j = k ∨ (k = 15 ∧ natBit (s.fld (Fld.SEG_BCAST_MASK d g)) j = true)
    s.up = true → s.inbox[n]? = some { ep := e, pkt := p } → s.inOrder n { ep := e, pkt := p } = true → p.cls = 0 →
      (portKind e = .group → p.cmd = 0x10 →
        (addr / 2 ^ 20 = 0 → natBits addr 15 14 ≠ 3 → natBit addr 13 = false → k < 12 ∨ k = 15 → Completes (.db n) s fun t => (∃ q, answer s.net 0x41 0 q t) ∧
          t = { s with inbox := rest, net := t.net, engines := t.engines } ∧
          (∀ j, j < 12 → t.eng (12 * (192 * d + g) + j) =
            { s.eng (12 * (192 * d + g) + j) with
              dbell := if named j then (s.eng (12 * (192 * d + g) + j)).dbell ||| bells else (s.eng (12 * (192 * d + g) + j)).dbell }) ∧
          (∀ i, i / 12 ≠ 192 * d + g → t.eng i = s.eng i)) ∧
        (addr / 2 ^ 20 ≠ 0 ∨ natBits addr 15 14 = 3 ∨ natBit addr 13 = true ∨ (12 ≤ k ∧ k ≠ 15) → Completes (.db n) s (refused 2))) ∧
      (portKind e = .user → s.responseWaits e = false → s.userClock e = true →
        let reaches := fun (P : State → Prop) => (p.cmd = 0x10 → Completes (.db n) s P) ∧ (p.cmd = 0x11 → Completes (.msg n) s P) ∧
          (p.cmd = 8 → Completes (.rdnc n) s P) ∧ (p.cmd = 9 → Completes (.wrnc n) s P)
        (s.trapped e p = false → reaches fun t =>
          t = { s with inbox := rest, uports := t.uports, out := s.out ++ [.deliver e p], unanswered := s.unanswered ++ [{ ep := e, pkt := p }] } ∧
          (t.uport e).req = (s.uport e).req ++ rxFlits false p) ∧
        (∀ r, s.trapped e p = true → s.portRegion e = some r → r < 256 → s.loader.stream = none → s.regState r ≠ 0 → reaches fun t =>
          t.fld (Fld.CFG_REG_STAT_STATE r) = 4)) ∧
      (regPort → s.cfgEarlier n { ep := e, pkt := p } = false →
        let both := fun (P : State → Prop) => (p.cmd = 0x20 → Completes (.cfgrd n) s P) ∧ (p.cmd = 0x21 → Completes (.cfgwr n) s P)
        let logged := fun (kind : Nat) (t : State) => t.inbox = rest ∧ t.fld Fld.FLN_IRQ_STATUS_BUSERR = 1 ∧
          t.fld Fld.FLN_BUSERR_COUNT_COUNT = min 65535 (s.fld Fld.FLN_BUSERR_COUNT_COUNT + 1) ∧
          (s.fld Fld.FLN_BUSERR_LOG_VALID = 0 → t.fld Fld.FLN_BUSERR_LOG_KIND = kind ∧ t.fld Fld.FLN_BUSERR_LOG_PATH = 3) ∧
          SignalsOnly { s with inbox := rest, net := t.net } t fun a => a = Reg.FLN_BUSERR_LOG ∨ a = Reg.FLN_BUSERR_COUNT ∨ a = Reg.FLN_IRQ_STATUS
        (s.lcState ≠ 4 → e.regWindow addr = false → both fun t => logged 0 t ∧ ∃ q, answer s.net 0x42 2 q t) ∧
        (e.regWindow addr = true → s.granted p.src addr = false → both (refused 6)) ∧
        (e.regWindow addr = true → s.granted p.src addr = true → s.lcState ≠ 4 → ∀ kind, kind < 8 →
          (p.cmd = 0x20 → s.reach path addr true false = .inr (.bus kind) → Completes (.cfgrd n) s fun t => logged kind t ∧
            ∃ q, answer s.net 0x42 (if kind = 4 then 4 else 2) q t) ∧
          (p.cmd = 0x21 → s.reach path addr true true = .inr (.bus kind) → Completes (.cfgwr n) s fun t => logged kind t ∧
            ∃ q, answer s.net 0x42 (if kind = 4 then 4 else 2) q t)) ∧
        (e.regWindow addr = true → s.granted p.src addr = true → p.cmd = 0x20 → ∀ b r, regSel addr = some (b, .reg r) →
          s.reach path addr true false = .inl (b, .reg r) →
          b.desc.blk = .hub ∨ b.desc.blk = .clk ∨ b.desc.blk = .pwr ∨ b.desc.blk = .thm ∨ b.desc.blk = .que → Completes (.cfgrd n) s fun t => quiet t ∧
            ∃ q, answer s.net 0x40 0 q t ∧ q.len = 1 ∧ (flitWords q.data).head? = some ((s.reg addr &&& r.readMask).setWidth 64, false)) ∧
        (e.regWindow addr = true → s.granted p.src addr = true → p.cmd = 0x21 → s.accepts path addr v = true → addr / 0x10000 ≠ 7 →
          Completes (.cfgwr n) s fun t => ∃ u q, exec (.registerWrite path addr true (some v) 0) s = .next u ∧ answer u.net 0x41 0 q t ∧
            t = { u with inbox := listDropAt u.inbox n, net := t.net }) ∧
        (∀ k', e.regWindow addr = true → s.granted p.src addr = true → p.cmd = 0x20 → s.reach path addr true false = .inr (.held k') →
          k' < 56 → Completes (.cfgrd n) s fun t => t = keep s (s.wakeDomain k')))

/-! ## Strata links (R404 to R423) -/

/-- R401, R404, R405 to R409, R411, R412, R415, R416, R418 and R430: link epochs, training, loss of a clock, slots and the packets of a bundle
that is not usable. -/
def Obligations.BundleEvents : Prop :=
  ∀ (s : State) (i : Fin 64) (leaf : Bool) (failUp failDn : Nat) (set : BitVec 256) (x : Lanes),
    let l := LinkRef.bundle i
    let k := s.link l
    let st := s.linkState l
    let mate := LinkRef.bundle (pairMate i)
    let stat := fun a => a = Reg.STR_BSTAT i.val ∨ a = Reg.STR_IRQ_STATUS
    let counted := fun (t : State) (f : RField) (top : Nat) => t.fld f = min top (s.fld f + 1)
    let mu := s.bundleMask true i.val ||| failUp
    let md := s.bundleMask false i.val ||| failDn
    let forced := s.bit (Fld.STR_BSTAT_FORCED i.val)
    let h := k.sends leaf
    let g := s.halfGeom l leaf
    let y := (h.send (k.sends (!leaf)) 128).2 ^^^ g.slot x
    let framed := g.frame x = 0
    let word := (y.extractLsb' 288 32).toNat
    let side := (y.extractLsb' 256 32).toNat
    let good := flitCrc (y.extractLsb' 0 256) (natBits side 5 4 + 4 * natBits side 7 6) (natBits side 3 0) = BitVec.ofNat 24 (side / 256)
    let expected := (h.lastSeq + 1) % 512
    let waits := fun (h : Half) => h.queue.filter fun p => p.cls ≠ 3
    let after := fun (t : State) => (t.link l).sends leaf
    s.up = true →
      (s.shadow = [] → s.wire = [] → (∀ j, j < 16 → s.wpState j = 0) → Completes .linkEpoch s fun t =>
        t.fld Fld.STR_CTRL_EPOCH = (s.fld Fld.STR_CTRL_EPOCH + 1) % 256 ∧
        (∀ d b, d < 4 → b < 16 → s.dieOk d = true → s.domOn (slateDom d 8) = true →
          t.fld (Fld.SEP_WSTAT_FREQ d b) = (s.bundleClock ⟨(16 * d + b) % 64, Nat.mod_lt _ (by decide)⟩).getD 0) ∧
        t.strata = s.strataLevel ∧ (t.link l).dn.slot = 0 ∧ (t.link l).up.slot = 0 ∧
        WritesOnly { s with strata := t.strata, links := t.links } t fun a => a = Reg.STR_CTRL ∨ ∃ d b, d < 4 ∧ b < 16 ∧ a = Reg.SEP_WSTAT d b) ∧
      (st = 1 → failUp < 2 ^ 70 - 1 → failDn < 2 ^ 70 - 1 → Completes (.trainingAttempt l failUp failDn ⟨set, []⟩ false) s fun t =>
        t.bundleMask true i.val = mu % 2 ^ 70 ∧ t.bundleMask false i.val = md % 2 ^ 70 ∧
        t.fld (Fld.STR_BSTAT_UPFAIL i.val) = popCount 70 mu ∧ t.fld (Fld.STR_BSTAT_DNFAIL i.val) = popCount 70 md ∧
        (36 < popCount 70 mu ∨ 36 < popCount 70 md → t.linkState l = 3 ∧ t.fld Fld.STR_IRQ_STATUS_DISABLED = 1 ∧ (t.link l).training = false) ∧
        (popCount 70 mu ≤ 36 → popCount 70 md ≤ 36 → t.linkState l = 1 ∧ (t.link l).training = true ∧
          t.bit (Fld.STR_BSTAT_UPHALF i.val) = (forced || decide (4 < popCount 70 mu)) ∧
          t.bit (Fld.STR_BSTAT_DNHALF i.val) = (forced || decide (4 < popCount 70 md)) ∧
          (∃ m, (t.link l).mapSet = some m ∧ m.type = 0x4D ∧ m.level = s.fuses.feat.toNat % 16 ∧ m.epoch = (s.fld Fld.STR_CTRL_EPOCH + 1) % 256 ∧
            m.upHalf = (forced || decide (4 < popCount 70 mu)) ∧ m.dnHalf = (forced || decide (4 < popCount 70 md)) ∧ m.dnMask = md % 2 ^ 70 ∧ m.upMask = mu % 2 ^ 70) ∧
          (t.link l).up = s.freshHalf l true ∧ (2 ≤ s.strata → (t.link l).dn = { s.freshHalf l false with queue := [trainEcho] }) ∧
          (s.strata < 2 → (t.link l).dn = s.freshHalf l false ∧ (t.link l).echoOk = true))) ∧
      (∀ errs, st = 1 → failUp < 2 ^ 70 → receivedSet (s.failReport i failDn).bits errs false 70 failUp = none →
        Completes (.trainingAttempt l failUp failDn ⟨set, errs⟩ false) s fun t => t.bundleMask true i.val = mu % 2 ^ 70 ∧ t.linkState l = 1 ∧ t.links = s.links) ∧
      (k.training = true → Completes (.trainingStepTimeout l) s fun t => (t.link l).fails = k.fails + 1 ∧ (t.link l).training = false ∧
        (k.fails + 1 = 3 → t.fld (Fld.STR_BSTAT_FORCED i.val) = 1 ∧ t.fld (Fld.STR_BSTAT_UPHALF i.val) = 1 ∧ t.fld (Fld.STR_BSTAT_DNHALF i.val) = 1) ∧
        (6 ≤ k.fails + 1 → t.linkState l = 3 ∧ t.fld Fld.STR_IRQ_STATUS_DISABLED = 1) ∧
        SignalsOnly { s with links := t.links } t stat) ∧
      (k.training = true → k.echoOk = true → st = 1 ∨ st = 5 ∨ (st = 4 ∧ k.keep = true) → s.strapValid (i.val / 16) = true → s.dieDown = [] → Completes (.bundleLive l) s fun t =>
        t.linkState l = (if s.inPair i.val then 4 else 2) ∧ (t.link l).fails = 0 ∧ (t.link l).keep = false ∧ (t.link l).training = false ∧
        (t.link l).dn = k.dn ∧ (t.link l).up = k.up ∧ WritesOnly { s with links := t.links } t fun a => a = Reg.STR_BSTAT i.val) ∧
      (st = 2 → Completes (.forwardedClockLoss l) s fun t => t.linkState l = 5 ∧ t.fld Fld.STR_IRQ_STATUS_RETRAIN = 1 ∧
        counted t (Fld.STR_BSTAT_RETRAINS i.val) 255 ∧ (t.link l).dn.queue = k.dn.queue ∧ (t.link l).dn.replay = k.dn.replay ∧
        (t.link l).dn.lastSeq = k.dn.lastSeq ∧ (t.link l).up.replay = k.up.replay ∧ (t.link l).up.lastSeq = k.up.lastSeq ∧
        SignalsOnly { s with links := t.links } t stat) ∧
      (st = 4 → s.draining i.val = false ∨ k.keep = false → Completes (.forwardedClockLoss l) s fun t =>
        t.linkState l = (if s.draining i.val then 4 else 5) ∧ (t.link l).keep = true ∧ (t.link l).dn = k.dn.restart ∧ (t.link l).up = k.up.restart ∧
        counted t (Fld.STR_BSTAT_RETRAINS i.val) 255 ∧ t.fld Fld.STR_IRQ_STATUS_RETRAIN = 1 ∧ SignalsOnly { s with links := t.links } t stat) ∧
      (st = 2 →
        (lwCrc word ≠ word % 64 → framed → Completes (.linkSlotReceive l leaf x true) s fun t => t = { s with links := t.links } ∧
          (after t).lastSeq = h.lastSeq ∧ (after t).nak = h.nak ∧ (after t).badFrames = 0) ∧
        (lwCrc word ≠ word % 64 → ¬framed → h.badFrames < 3 → Completes (.linkSlotReceive l leaf x true) s fun t => t = { s with links := t.links } ∧
          (after t).lastSeq = h.lastSeq ∧ (after t).badFrames = h.badFrames + 1) ∧
        (lwCrc word ≠ word % 64 → ¬framed → h.badFrames = 3 → leaf = false → Completes (.linkSlotReceive l leaf x true) s fun t =>
          t = { s with links := t.links } ∧ (after t).lastSeq = h.lastSeq ∧ (after t).badFrames = 0 ∧
          ∃ q, (t.link l).up.queue = q :: k.up.queue ∧ q.cmd = 0x54 ∧ q.cls = 3) ∧
        (lwCrc word ≠ word % 64 → ¬framed → h.badFrames = 3 → leaf = true → Completes (.linkSlotReceive l leaf x true) s fun t => t.linkState l = 5 ∧
          (after t).lastSeq = h.lastSeq ∧ (t.link l).keep = true ∧ t.fld Fld.STR_IRQ_STATUS_RETRAIN = 1 ∧ counted t (Fld.STR_BSTAT_RETRAINS i.val) 255 ∧
          SignalsOnly { s with links := t.links } t stat) ∧
        (lwCrc word = word % 64 → framed → natBit word 12 = true → natBits word 31 23 = expected → good → Completes (.linkSlotReceive l leaf x true) s fun t =>
          (after t).lastSeq = expected ∧ (after t).nak = false ∧ t.linkState l = 2) ∧
        (lwCrc word = word % 64 → framed → natBit word 12 = true → natBits word 31 23 ≠ expected ∨ ¬good → h.nak = false → h.force = false →
          h.nakCount + 1 < s.replayLimit l → Completes (.linkSlotReceive l leaf x true) s fun t => (after t).lastSeq = h.lastSeq ∧
            (after t).nak = true ∧ counted t (Fld.STR_BCNT_CRCERR i.val) 65535 ∧
            WritesOnly { s with links := t.links } t fun a => a = Reg.STR_BCNT i.val) ∧
        (∀ f rest, h.resend = none → h.cur = f :: rest → h.replay.length < 128 → h.nextSeq = expected → h.part = none → h.skip = none → x = 0 →
          flitCrc (f.bits.extractLsb' 0 256) (natBits (f.bits.toNat / 2 ^ 256) 5 4 + 4 * natBits (f.bits.toNat / 2 ^ 256) 7 6)
              (natBits (f.bits.toNat / 2 ^ 256) 3 0) = BitVec.ofNat 24 (f.bits.toNat / 2 ^ 264) →
          Completes (.linkSlotReceive l leaf x true) s fun t => (after t).replay = h.replay ++ [f] ∧ (after t).cur = rest ∧
            (after t).nextSeq = (h.nextSeq + 1) % 512 ∧ (after t).lastSeq = h.nextSeq)) ∧
      (s.usable i.val = true ∨ s.draining i.val = true → Completes (.bundleUnusable i) s fun t => t = s) ∧
      (s.usable i.val = false → s.draining i.val = false → s.usable (pairMate i).val = true → k.dn.part = none → k.up.part = none → Completes (.bundleUnusable i) s fun t =>
        t = { s with links := t.links } ∧ (t.link mate).dn.queue = waits k.dn ++ (s.link mate).dn.queue ∧
        (t.link mate).up.queue = waits k.up ++ (s.link mate).up.queue ∧ (t.link l).dn.queue = [] ∧ (t.link l).up.queue = [] ∧
        (t.link l).dn.cur = [] ∧ (t.link l).up.cur = []) ∧
      (s.usable i.val = false → s.draining i.val = false → s.usable (pairMate i).val = false → k.dn.part = none → k.up.part = none → Completes (.bundleUnusable i) s fun t =>
        t = { s with links := t.links, net := t.net } ∧ t.net = s.net ++ (waits k.up).map (fun p => { loc := .edge (i.val / 16) (i.val % 16 / 2), pkt := p })
          ++ (waits k.dn).map fun p => { loc := .hub (i.val % 16 / 2) (2 * (i.val / 16)) 0, pkt := p })

/-- R409, R421 to R423 and R440: what the ends of internal bundles and bridge ports do with the maintenance packets that reach them. -/
def Obligations.LinkMaintenance : Prop :=
  ∀ (s : State) (i : Fin 64) (k : Fin 8) (n : Nat) (p : Packet),
    let rest := listDropAt s.minbox n
    let at_ := fun (l : LinkRef) (leaf : Bool) => s.minbox[n]? = some { at_ := { link := l, leaf := leaf }, pkt := p }
    let okAt := fun (l : LinkRef) (leaf : Bool) => s.maintOk { at_ := { link := l, leaf := leaf }, pkt := p } = true
    let l := LinkRef.bundle i
    let b := LinkRef.bridge k
    let sent := fun (t : State) (link : LinkRef) (inner : Bool) (q : Packet) => t = { s with minbox := rest, links := t.links } ∧
      ((t.link link).sends inner).queue = q :: ((s.link link).sends inner).queue ∧ (t.link link).sends (!inner) = (s.link link).sends (!inner) ∧
      (∀ j : Fin 64, LinkRef.bundle j ≠ link → t.link (.bundle j) = s.link (.bundle j)) ∧ q.cls = 3
    let stray := fun (t : State) => t.fld (Fld.RTR_ERRCNT0_MALFORMED (i.val / 16) 0) = min 65535 (s.fld (Fld.RTR_ERRCNT0_MALFORMED (i.val / 16) 0) + 1) ∧
      t.fld (Fld.RTR_IRQ_STATUS_MALFORMED (i.val / 16) 0) = 1 ∧
      SignalsOnly { s with minbox := rest } t fun a => a = Reg.RTR_ERRCNT0 (i.val / 16) 0 ∨ a = Reg.RTR_IRQ_STATUS (i.val / 16) 0
    let strayBridge := fun (t : State) => t.fld (Fld.STR_BP_STAT_MALFORMED k.val) = min 255 (s.fld (Fld.STR_BP_STAT_MALFORMED k.val) + 1) ∧
      WritesOnly { s with minbox := rest } t fun a => a = Reg.STR_BP_STAT k.val
    let answer := fun (status : Nat) (q : Packet) => q.cmd = 0x51 ∧ q.status.toNat = status ∧ q.spec.toNat = p.spec.toNat % 512
    s.up = true →
      (p.cmd = 0x50 →
        (at_ l true → okAt l true → Completes (.lparam n) s fun t => ∃ q, sent t l true q ∧ answer 0 q) ∧
        (at_ l false → Completes (.lparam n) s stray) ∧
        (∀ leaf, at_ b leaf → okAt b leaf → s.bit (Fld.STR_BP_CTRL_ROLE k.val) = true → Completes (.lparam n) s fun t =>
          ∃ q, sent t b false q ∧ answer (if p.spec.getLsbD 8 then 6 else 0) q) ∧
        (∀ leaf, at_ b leaf → s.bit (Fld.STR_BP_CTRL_ROLE k.val) = false → Completes (.lparam n) s strayBridge)) ∧
      (p.cmd = 0x51 → (at_ l false → Completes (.lparamAck n) s stray) ∧ (∀ leaf, at_ b leaf → Completes (.lparamAck n) s strayBridge)) ∧
      (p.cmd = 0x52 → ∀ leaf, at_ l leaf →
        (okAt l leaf → Completes (.echo n) s fun t => ∃ q, sent t l leaf q ∧ q.cmd = 0x53 ∧ q.spec = p.spec ∧ flitWords q.data = flitWords p.data) ∧
        (s.maintOk { at_ := { link := l, leaf := leaf }, pkt := p } = false → Completes (.echo n) s stray)) ∧
      (p.cmd = 0x53 → at_ l false → okAt l false → (s.link l).training = true → ∀ e, (s.link l).echoSent = some e →
        (e.spec = p.spec → e.data.map (fun f => f.data) = p.data.map (fun f => f.data) → Completes (.echoRsp n) s fun t =>
          (t.link l).echoOk = true ∧ t = { s with minbox := rest, links := t.links }) ∧
        (e.spec ≠ p.spec → Completes (.echoRsp n) s fun t => (t.link l).training = false ∧ (t.link l).fails = (s.link l).fails + 1)) ∧
      (p.cmd = 0x53 → at_ l false → okAt l false → (s.link l).echoSent = none → Completes (.echoRsp n) s fun t => t = { s with minbox := rest }) ∧
      (p.cmd = 0x54 →
        (at_ l false → okAt l false → s.linkState l = 2 → Completes (.retrain n) s fun t => t.linkState l = 5 ∧ t.fld Fld.STR_IRQ_STATUS_RETRAIN = 1 ∧
          (t.link l).dn.queue = (s.link l).dn.queue ∧ (t.link l).up.lastSeq = (s.link l).up.lastSeq ∧
          SignalsOnly { s with minbox := rest, links := t.links } t fun a => a = Reg.STR_BSTAT i.val ∨ a = Reg.STR_IRQ_STATUS) ∧
        (at_ l true → Completes (.retrain n) s stray)) ∧
      (p.cmd = 0x55 → ∀ leaf, at_ b leaf → okAt b leaf →
        (s.fld (Fld.STR_BP_CAPCTRL_TRIG k.val) = 3 → s.fld (Fld.STR_BP_CAPCTRL_ARM k.val) = 1 → s.fld (Fld.STR_BP_CAPSTAT_TRIGGERED k.val) = 0 →
          Completes (.captrig n) s fun t => t.fld (Fld.STR_BP_CAPSTAT_TRIGGERED k.val) = 1 ∧ t.fld Fld.STR_IRQ_STATUS_CAPTRIG = 1 ∧
            t.fld (Fld.STR_BP_CAPSTAT_TRIGIDX k.val) = (s.fld (Fld.STR_BP_CAPSTAT_NEXT k.val) + 1023) % 1024 ∧
            t.bit (Fld.STR_BP_CAPCTRL_ARM k.val) = decide (s.fld (Fld.STR_BP_CAPCTRL_POST k.val) ≠ 0) ∧
            SignalsOnly { s with minbox := rest, cap := t.cap } t fun a => a = Reg.STR_BP_CAPSTAT k.val ∨ a = Reg.STR_BP_CAPCTRL k.val ∨
              a = Reg.STR_IRQ_STATUS) ∧
        (s.fld (Fld.STR_BP_CAPCTRL_TRIG k.val) ≠ 3 → Completes (.captrig n) s fun t => t = { s with minbox := rest }))

/-! ## Wire pairs, bridge ports and capture (R424 to R440) -/

/-- R411, R415, R425, R426, R430, R431, R434 to R436 and R440: wire pairs, bridge ports and their capture buffers. That a pair stays
CONNECTED while its two wire clocks are valid and differ is the model's choice (assumption 62). -/
def Obligations.WirePairsAndBridges : Prop :=
  ∀ (s : State) (path : Path) (j : Fin 16) (k : Fin 8) (v : Word) (p : Packet) (more : List (LinkRef × Packet)),
    let w := s.wireSt j.val
    let a := (wpairBundles w.named).1
    let b := (wpairBundles w.named).2
    let e := (s.fld Fld.STR_CTRL_EPOCH + 1) % 256
    let idle := fun (i : Fin 64) => (s.link (.bundle i)).dn.cur = [] ∧ (s.link (.bundle i)).dn.replay = [] ∧ (s.link (.bundle i)).up.cur = [] ∧
      (s.link (.bundle i)).up.replay = []
    let wired := fun (i : Fin 64) => s.bundleClock i ≠ none ∧ s.fld (Fld.STR_BSTAT_STATE i.val) = 4 ∧ (s.link (.bundle i)).keep = false
    let clocked : Bool := s.bundleClock a ≠ none && s.bundleClock b ≠ none && !(s.link (.bundle a)).keep && !(s.link (.bundle b)).keep
    let others := ∀ i, i < 16 → i ≠ j.val → s.wpState i = 0 ∧ s.wireSt i = { named := 0, drained := false, switchAt := none, leaving := none }
    let l := LinkRef.bridge k
    let ctrl := Reg.STR_BP_CTRL k.val
    let cap := Reg.STR_BP_CAPCTRL k.val
    let st := s.fld (Fld.STR_BP_STAT_STATE k.val)
    let was := s.bit (Fld.STR_BP_CTRL_EN k.val)
    let place := Loc.ingressPort k.val 3 1
    let queued := fun (t : State) => (t.link l).dn.queue
    let arm := setBits v 31 31 1
    let send := setBits v 28 28 1
    (s.up = true →
      (s.wpState j.val = 1 → w.switchAt = none → idle a → idle b → Completes (.wireDrainEnd j) s fun t => (t.wireSt j.val).drained = true ∧
        t = { s with wire := t.wire } ∧ ∀ i, i ≠ j.val → t.wireSt i = s.wireSt i) ∧
      (¬(idle a ∧ idle b) → Completes (.wireDrainEnd j) s fun t => t = s) ∧
      (s.wpState j.val = 2 → ¬(wired a ∧ wired b) → Completes (.wirePairDown j) s fun t => t.wpState j.val = 4 ∧
        t.fld (Fld.STR_WPSTAT_FREQ j.val) = (s.bundleClock a).getD 0 ∧ t.fld Fld.STR_IRQ_STATUS_WIRE = 1 ∧
        SignalsOnly s t fun x => x = Reg.STR_WPSTAT j.val ∨ x = Reg.STR_IRQ_STATUS) ∧
      (s.wpState j.val ≠ 2 ∨ (wired a ∧ wired b) → Completes (.wirePairDown j) s fun t => t = s) ∧
      (s.shadow = [] → others → a ≠ b →
        (s.wpState j.val = 1 → w.drained = true → w.switchAt = none → w.leaving = none → Completes .linkEpoch s fun t =>
          (t.wireSt j.val).switchAt = some ((e + 2) % 256) ∧ t.wpState j.val = 1 ∧
          ∀ i, i = a ∨ i = b → ∃ q, (t.link (.bundle i)).dn.queue = q :: (s.link (.bundle i)).dn.queue ∧ q.cmd = 0x50 ∧ q.cls = 3 ∧
            q.spec.toNat = (e + 2) % 256 + 256) ∧
        (s.wpState j.val = 1 → w.switchAt = some e → w.leaving = none → Completes .linkEpoch s fun t =>
          t.wpState j.val = (if clocked then 2 else 4) ∧ t.fld (Fld.STR_WPSTAT_FREQ j.val) = (s.bundleClock a).getD 0 ∧
          (clocked = false → t.fld Fld.STR_IRQ_STATUS_WIRE = 1) ∧ t.wireSt j.val = { w with drained := false, switchAt := none } ∧
          (∀ i, i = a ∨ i = b → t.fld (Fld.STR_BSTAT_STATE i.val) = 4 ∧ t.strip i.val = { s.strip i.val with edges := 0, sent := [], rx := 0 }) ∧
          t.links = s.slotsRestart.links) ∧
        (∀ lv, s.wpState j.val = 0 → w.leaving = some lv → lv.at_ = e → (wpairBundles lv.named).1 ≠ (wpairBundles lv.named).2 →
          Completes .linkEpoch s fun t => (t.wireSt j.val).leaving = none ∧ ∀ i, i = (wpairBundles lv.named).1 ∨ i = (wpairBundles lv.named).2 →
            (t.strip i.val).rx = 0 ∧ (s.fld (Fld.STR_BSTAT_STATE i.val) = 4 ∨ s.fld (Fld.STR_BSTAT_STATE i.val) = 5 →
              t.fld (Fld.STR_BSTAT_STATE i.val) = (if s.fld (Fld.STR_BSTAT_STATE i.val) = 5 ∨ (s.link (.bundle i)).keep = true then 1 else 2) ∧
              t.link (.bundle i) = { Link.fresh with dn := s.freshHalf (.bundle i) false, up := s.freshHalf (.bundle i) true,
                                                     mapSet := (s.link (.bundle i)).mapSet })))) ∧
    (s.accepts path ctrl v = true → queued s = [] → (s.link l).up.part = none →
      let cleared := fun (t : State) => t.link l = { Link.fresh with dn := s.freshHalf l false, up := s.freshHalf l true, mapSet := (s.link l).mapSet }
      let stat := fun x => x = ctrl ∨ x = Reg.STR_BP_STAT k.val ∨ x = Reg.STR_BP_TXMAP k.val ∨ x = Reg.STR_BP_RXMAP k.val
      (natBit v.toNat 31 = true → was = false → Completes (.bridgePortEnable path k v) s fun t => t.bit (Fld.STR_BP_CTRL_EN k.val) = true ∧
        t.bit (Fld.STR_BP_CTRL_ROLE k.val) = natBit v.toNat 30 ∧ t.fld (Fld.STR_BP_STAT_STATE k.val) = (if natBit v.toNat 30 then 4 else 1) ∧
        cleared t ∧ t.fld (Fld.STR_BP_TXMAP_MASK k.val) = 0 ∧ t.fld (Fld.STR_BP_RXMAP_MASK k.val) = 0 ∧
        AccessOnly { s with shadow := t.shadow, links := t.links } t stat) ∧
      (natBit v.toNat 31 = true → was = true → st ≠ 3 → Completes (.bridgePortEnable path k v) s fun t => t.fld (Fld.STR_BP_STAT_STATE k.val) = st ∧
        t.fld (Fld.STR_BP_CTRL_ROLE k.val) = s.fld (Fld.STR_BP_CTRL_ROLE k.val) ∧ AccessOnly { s with shadow := t.shadow } t fun x => x = ctrl) ∧
      (natBit v.toNat 31 = true → was = true → st = 3 → Completes (.bridgePortEnable path k v) s fun t =>
        t.fld (Fld.STR_BP_STAT_STATE k.val) = (if s.bit (Fld.STR_BP_CTRL_ROLE k.val) then 4 else 1) ∧ t.fld (Fld.STR_BP_STAT_FORCED k.val) = 0 ∧
        cleared t ∧ AccessOnly { s with shadow := t.shadow, links := t.links } t fun x => x = ctrl ∨ x = Reg.STR_BP_STAT k.val) ∧
      (natBit v.toNat 31 = false → was = true → Completes (.bridgePortEnable path k v) s fun t => t.bit (Fld.STR_BP_CTRL_EN k.val) = false ∧
        t.fld (Fld.STR_BP_STAT_STATE k.val) = 0 ∧ cleared t ∧ AccessOnly { s with shadow := t.shadow, links := t.links } t stat)) ∧
    (s.up = true → s.arrivals = (l, p) :: more →
      let fwd := s.bit (Fld.STR_BP_CTRL_FWD_EN k.val)
      let toBridge := ∃ n, portKind p.dst = .bridge n
      let q := ({ p with src := s.mkEp 4 k.val 3 1, dst := if fwd then epOfBits (s.fld (Fld.STR_BP_CTRL_FWD_DST k.val)) else p.dst, vc := 0 } : Packet).seal
      let dropped := fun (t : State) (f : RField) (top : Nat) => t.arrivals = more ∧ t.fld f = min top (s.fld f + 1) ∧
        WritesOnly { s with arrivals := more, links := t.links } t fun x => x = f.addr
      let refused := fun (t : State) (status : Nat) => ∃ r, queued t = queued s ++ [r] ∧ r.cmd = 0x42 ∧ r.status.toNat = status ∧ r.dst = p.src ∧ r.tag = p.tag
      let room := fun (status : Nat) => (s.link l).dn.fits (rspErr p status) = true
      let answered := p.cls = 0 ∨ p.cmd.toNat < 0x30
      (malformed p = true ∨ p.cls = 2 → (answered → room 2) → Completes (.bridgePortArrival k) s fun t =>
        dropped t (Fld.STR_BP_STAT_MALFORMED k.val) 255 ∧ (answered → refused t 2) ∧ (¬answered → queued t = queued s)) ∧
      (malformed p = true ∨ p.cls = 2 → answered → ¬room 2 → Completes (.bridgePortArrival k) s fun t => t = s) ∧
      (malformed p = false → p.cls = 0 ∨ p.cls = 1 → fwd = false → s.localEp p.dst = true → toBridge →
        ((p.cls = 0 → room 6) → Completes (.bridgePortArrival k) s fun t =>
          dropped t (Fld.STR_BP_DROP_LOOP k.val) 65535 ∧ (p.cls = 0 → refused t 6) ∧ (p.cls = 1 → queued t = queued s)) ∧
        (p.cls = 0 → ¬room 6 → Completes (.bridgePortArrival k) s fun t => t = s)) ∧
      (malformed p = false → p.cls = 0 ∨ p.cls = 1 → fwd = true ∨ ¬(s.localEp p.dst = true ∧ toBridge) →
        (s.hasRoom place q = true → Completes (.bridgePortArrival k) s fun t =>
          t = { s with arrivals := more, links := t.links, net := s.net ++ [{ loc := place, pkt := q }] } ∧ queued t = queued s) ∧
        (s.hasRoom place q = false → Completes (.bridgePortArrival k) s fun t => t = s))) ∧
    (s.accepts path cap arm = true → natBit v.toNat 28 = false → Completes (.captureArm path k v) s fun t =>
      t.bit (Fld.STR_BP_CAPCTRL_ARM k.val) = decide (bits v 30 29 ≠ 0 ∨ bits v 9 0 ≠ 0) ∧ t.fld (Fld.STR_BP_CAPCTRL_TRIG k.val) = bits v 30 29 ∧
      t.fld (Fld.STR_BP_CAPCTRL_DIRS k.val) = bits v 27 26 ∧ t.fld (Fld.STR_BP_CAPCTRL_CMDMATCH k.val) = bits v 23 16 ∧
      t.fld (Fld.STR_BP_CAPCTRL_POST k.val) = bits v 9 0 ∧ (t.capOf k.val).ents = [] ∧ (t.capOf k.val).time = 0 ∧ t.fld (Fld.STR_BP_CAPSTAT_NEXT k.val) = 0 ∧
      t.fld (Fld.STR_BP_CAPSTAT_WRAPPED k.val) = 0 ∧ t.bit (Fld.STR_BP_CAPSTAT_TRIGGERED k.val) = decide (bits v 30 29 = 0) ∧
      AccessOnly { s with cap := t.cap } t fun x => x = cap ∨ x = Reg.STR_BP_CAPSTAT k.val ∨ (bits v 30 29 = 0 ∧ x = Reg.STR_IRQ_STATUS)) ∧
    (s.accepts path cap send = true → natBit v.toNat 31 = false →
      let live := st = 2 ∧ 2 ≤ popCount 4 (s.fld (Fld.STR_BP_STAT_LEVEL k.val))
      (live → Completes (.captureSendtrig path k v) s fun t => (∃ q, queued t = q :: queued s ∧ q.cmd = 0x55 ∧ q.cls = 3) ∧
        t.fld (Fld.STR_BP_CAPCTRL_SENDTRIG k.val) = 0 ∧ AccessOnly { s with links := t.links } t fun x => x = cap) ∧
      (¬live → Completes (.captureSendtrig path k v) s fun t => AccessOnly s t fun x => x = cap))

/-! ## Lode ports (R514 to R530) -/

/-- R515 to R517, R519, R522, R523, R526, R527 and R528: the size and place of the device, enabling, training sets, changes of key, arrivals and
loss of a Lode port. -/
def Obligations.LodePorts : Prop :=
  ∀ (s : State) (path : Path) (k : Fin 4) (v : Word) (set : BitVec 256) (p : Packet) (more : List (LinkRef × Packet)),
    let sys := Reg.LOD_SYS 0
    let cur := s.reg sys
    let ctrl := Reg.LOD_CTRL k.val
    let stat := Reg.LOD_STAT k.val
    let irq := Reg.LOD_IRQ_STATUS k.val
    let was := s.bit (Fld.LOD_CTRL_EN k.val)
    let hub := decide (k.val % 2 = 0)
    let start : Nat := if hub then 1 else 6
    let st := s.lodeState k.val
    let l := LinkRef.lode k
    let rekey := setBits v 28 28 1
    let cleared := fun (t : State) => t.link l = { Link.fresh with dn := s.freshHalf l false, up := s.freshHalf l true, mapSet := (s.link l).mapSet }
    (s.accepts path sys v = true →
      let bad := (∃ j, j < 4 ∧ s.bit (Fld.LOD_CTRL_EN j) = true) ∨ bits v 31 25 < bits v 13 7 ∨ bits v 24 18 < bits v 6 0
      (bad → Completes (.lodSys path v) s fun t => t.reg sys &&& 0xFFFC3FFF#32 = cur &&& 0xFFFC3FFF#32 ∧
        t.fld (Fld.LOD_SYS_REFUSED 0) = 1 ∧ AccessOnly s t fun a => a = sys) ∧
      (¬bad → Completes (.lodSys path v) s fun t => t.reg sys &&& 0xFFFC3FFF#32 = v &&& 0xFFFC3FFF#32 ∧
        t.fld (Fld.LOD_SYS_REFUSED 0) = (if natBit v.toNat 17 then 0 else s.fld (Fld.LOD_SYS_REFUSED 0)) ∧ AccessOnly s t fun a => a = sys)) ∧
    (s.accepts path ctrl v = true →
      let fresh := fun (t : State) => t.lodeState k.val = start ∧ cleared t ∧ t.fld (Fld.LOD_CTRL_EN k.val) = 1
      (natBit v.toNat 31 = true → was = false → s.lodeRefused k.val v = true → Completes (.lodeEnable path k v) s fun t =>
        t.fld (Fld.LOD_STAT_REFUSED k.val) = 1 ∧ t.reg ctrl = s.reg ctrl ∧ t.lodeState k.val = st ∧ AccessOnly s t fun a => a = stat) ∧
      (natBit v.toNat 31 = true → was = false → s.lodeRefused k.val v = false → Completes (.lodeEnable path k v) s fun t => fresh t ∧
        t.fld (Fld.LOD_CTRL_ENC k.val) = bits v 30 30 ∧ t.fld (Fld.LOD_CTRL_KEY k.val) = bits v 13 8 ∧ t.reg (Reg.LOD_LANES k.val) = 0 ∧
        AccessOnly { s with links := t.links } t fun a => a = ctrl ∨ a = stat ∨ a = Reg.LOD_LANES k.val) ∧
      let kept := (v &&& 0x803F000F#32) ||| (s.reg ctrl &&& 0x60003F00#32)
      (natBit v.toNat 31 = true → was = true → 3 ≤ st → st ≤ 5 → s.lodeRefused k.val kept = true → Completes (.lodeEnable path k v) s fun t =>
        t.fld (Fld.LOD_STAT_REFUSED k.val) = 1 ∧ t.lodeState k.val = st ∧ t.reg ctrl = kept ∧ AccessOnly s t fun a => a = ctrl ∨ a = stat) ∧
      (natBit v.toNat 31 = true → was = true → 3 ≤ st → st ≤ 5 → s.lodeRefused k.val kept = false → Completes (.lodeEnable path k v) s fun t => fresh t ∧
        t.fld (Fld.LOD_CTRL_ENC k.val) = s.fld (Fld.LOD_CTRL_ENC k.val) ∧ t.fld (Fld.LOD_CTRL_KEY k.val) = s.fld (Fld.LOD_CTRL_KEY k.val) ∧
        AccessOnly { s with links := t.links } t fun a => a = ctrl ∨ a = stat) ∧
      (natBit v.toNat 31 = false → was = true → s.lodeUsable k.val = false → Completes (.lodeEnable path k v) s fun t => t.lodeState k.val = 0 ∧
        t.fld (Fld.LOD_CTRL_EN k.val) = 0 ∧ t.lodeSt k.val = LodeSt.fresh ∧ AccessOnly { s with lode := t.lode } t fun a => a = ctrl ∨ a = stat) ∧
      (natBit v.toNat 31 = false → was = true → s.lodeUsable k.val = true → s.ownersBeyond k.val = [] → (s.link l).dn.queue = [] → (s.link l).up.part = none →
        Completes (.lodeEnable path k v) s fun t => t.lodeState k.val = 0 ∧ t.fld (Fld.LOD_IRQ_STATUS_DOWN k.val) = 1 ∧ cleared t ∧
          AccessOnly { s with lode := t.lode, links := t.links } t fun a => a = ctrl ∨ a = stat ∨ a = irq)) ∧
    (s.accepts path ctrl rekey = true → was = true → natBit v.toNat 31 = true → st = 2 →
      let may := hub = true ∧ s.bit (Fld.LOD_CTRL_ENC k.val) = true ∧ s.classT (bits v 21 16) = true
      (may → Completes (.lodeRekey path k v) s fun t => t.lodeState k.val = 7 ∧ (t.lodeSt k.val).rekey = true ∧
        t.fld (Fld.LOD_CTRL_NEXTKEY k.val) = bits v 21 16 ∧ t.fld (Fld.LOD_CTRL_KEY k.val) = s.fld (Fld.LOD_CTRL_KEY k.val) ∧
        t.fld (Fld.LOD_IRQ_STATUS_RETRAIN k.val) = 1 ∧ (t.link l).dn.queue = (s.link l).dn.queue ∧
        AccessOnly { s with lode := t.lode, links := t.links } t fun a => a = ctrl ∨ a = stat ∨ a = irq) ∧
      (¬may → Completes (.lodeRekey path k v) s fun t => t.lodeState k.val = 2 ∧ AccessOnly s t fun a => a = ctrl)) ∧
    (s.up = true →
      let x := set.toNat
      let valid := (crc32c (bytesLE 28 (x / 2 ^ 32))).toNat = x % 2 ^ 32 ∧ natBits x 255 248 = (if hub then 0x6C else 0x4C)
      let placed := natBits x 229 223 + 1 = s.nx ∧ natBits x 222 216 + 1 = s.ny ∧ (natBits x 243 237, natBits x 236 230) = s.lodePartner k.val
      let enc := s.bit (Fld.LOD_CTRL_ENC k.val)
      let tx := s.fld (Fld.LOD_LANES_TXFAIL k.val) ||| natBits x 79 64
      let width := max (lodeWidth tx) (lodeWidth (s.fld (Fld.LOD_LANES_RXFAIL k.val)))
      let heard := valid ∧ s.fld (Fld.LOD_LANES_RXFAIL k.val) ≠ 0xFFFF
      (¬heard ∨ (st ≠ 1 ∧ st ≠ 7) → Completes (.lodeTrainingSet k ⟨set, []⟩) s fun t => t = s) ∧
      (heard → st = 1 → ¬placed → Completes (.lodeTrainingSet k ⟨set, []⟩) s fun t => t.lodeState k.val = 4 ∧ WritesOnly s t fun a => a = stat) ∧
      (heard → st = 1 → placed → natBit x 215 ≠ enc → Completes (.lodeTrainingSet k ⟨set, []⟩) s fun t => t.lodeState k.val = 5 ∧
        t.fld (Fld.LOD_IRQ_STATUS_KEY k.val) = 1 ∧ SignalsOnly s t fun a => a = stat ∨ a = irq) ∧
      (heard → st = 1 → placed → enc = false → natBit x 215 = false → (s.lodeSt k.val).rekey = false → (s.link l).fails = 0 →
        Completes (.lodeTrainingSet k ⟨set, []⟩) s fun t => t.fld (Fld.LOD_STAT_PEERDX k.val) = natBits x 243 237 ∧
          t.fld (Fld.LOD_STAT_PEERDY k.val) = natBits x 236 230 ∧ t.fld (Fld.LOD_LANES_TXFAIL k.val) = tx ∧
          (width = 3 → t.lodeState k.val = 3) ∧ (width < 3 → t.lodeState k.val = 1 ∧ t.fld (Fld.LOD_STAT_WIDTH k.val) = width ∧
            (t.link l).training = true ∧ (t.link l).up = s.freshHalf l true ∧ (t.lodeSt k.val).txSlot = 0 ∧ (t.lodeSt k.val).rxSlot = 0 ∧
            (t.lodeSt k.val).level = min (popCount 4 (natBits (s.fld Fld.HUB_FEATURES_COMMON) 7 4)) (popCount 4 (natBits x 247 244)))) ∧
      (s.arrivals = (l, p) :: more →
        let here := p.src.dx.toNat = s.odx ∧ p.src.dy.toNat = s.ody
        let place := lodeLoc (fold3 p.key) k.val
        (malformed p = true ∨ p.cls = 2 ∨ here → Completes (.lodePortArrival k) s fun t =>
          t.fld (Fld.LOD_CNT1_DROP k.val) = min 65535 (s.fld (Fld.LOD_CNT1_DROP k.val) + 1) ∧
          WritesOnly { s with arrivals := more, links := t.links } t fun a => a = Reg.LOD_CNT1 k.val) ∧
        (malformed p = false → p.cls ≠ 2 → ¬here → s.localEp p.dst = true → s.hasRoom place { p with vc := 0 } = true →
          Completes (.lodePortArrival k) s fun t =>
            t = { s with arrivals := more, links := t.links, net := s.net ++ [{ loc := place, pkt := { p with vc := 0 } }] }) ∧
        (∀ j : Fin 4, malformed p = false → p.cls ≠ 2 → ¬here → s.localEp p.dst = false → s.lodePort p.dst = j.val → j ≠ k → s.lodeUsable j.val = true →
          let wrap := if j.val = 0 then s.odx + 1 = s.nx else if j.val = 1 then s.odx = 0 else if j.val = 2 then s.ody + 1 = s.ny else s.ody = 0
          let q := { p with vc := if wrap then 1 else if j.val / 2 = k.val / 2 then p.vc else 0 }
          let turn := s.mkEp 4 (fold3 p.key) 7 (1 + j.val)
          let awake := s.domLive (s.portDomain turn) = true
          (awake → (s.link (.lode j)).dn.fits q = true → Completes (.lodePortArrival k) s fun t => t = { s with arrivals := more, links := t.links } ∧
            (t.link (.lode j)).dn.queue = (s.link (.lode j)).dn.queue ++ [q]) ∧
          (awake → (s.link (.lode j)).dn.fits q = false → (∀ x ∈ more, x.1 ≠ l ∨ bufOf x.2 = bufOf p) →
            Completes (.lodePortArrival k) s fun t => t = s) ∧
          (¬awake → s.meetsFence turn = false → s.waking.contains turn = false → Completes (.lodePortArrival k) s fun t => t = s.holdFor turn))) ∧
      (s.lodeUsable k.val = false → Completes (.lodePortDown k) s fun t => t = s) ∧
      (s.lodeUsable k.val = true → s.ownersBeyond k.val = [] → (s.link l).dn.queue = [] → (s.link l).up.part = none → Completes (.lodePortDown k) s fun t =>
        t.lodeState k.val = start ∧ t.fld (Fld.LOD_IRQ_STATUS_DOWN k.val) = 1 ∧ cleared t ∧
          SignalsOnly { s with links := t.links } t fun a => a = stat ∨ a = irq))

/-! ## DDR5 and Obsidian (R444 to R482) -/

/-- R446, R447, R451, R452, R460, R461 and R472 to R476: the patrol scrubber, key slots and operations on protected ranges. What the patrol
counts for metadata, and the refusal of LOAD where K is not granted, are the model's choice (assumption 71). -/
def Obligations.ProtectedMemory : Prop :=
  ∀ (s : State) (path : Path) (ch : Fin 8) (k r : Fin 64) (v : Word) (x : BitVec 512),
    let j := SMap.get 0 s.patrol ch.val
    let key := ddrKey ch.val j
    let dom := if ch.val < 4 then 7 else 8
    let next := fun (t : State) => SMap.get 0 t.patrol ch.val = (j + 1) % s.chanLines ch.val
    let counted := fun (t : State) (f : RField) => t.fld f = min 65535 (s.fld f + 1)
    let ddrRegs := fun a => a = Reg.DDR_CECOUNT ch.val ∨ a = Reg.DDR_UECOUNT ch.val ∨ a = Reg.DDR_ERRLOG_A ch.val ∨ a = Reg.DDR_ERRLOG_B ch.val ∨
      a = Reg.DDR_IRQ_STATUS ch.val
    let logged := fun (t : State) (unc : Nat) => s.fld (Fld.DDR_ERRLOG_A_VALID ch.val) = 0 → t.fld (Fld.DDR_ERRLOG_A_VALID ch.val) = 1 ∧
      t.fld (Fld.DDR_ERRLOG_A_UNCORR ch.val) = unc ∧ (t.reg (Reg.DDR_ERRLOG_B ch.val)).toNat = j % 2 ^ 32
    let who := s.pathOwner path
    let kctrl := Reg.OBS_KEY_CTRL k.val
    let owner := s.reg (Reg.OBS_KEY_OWNER k.val)
    let loaded := s.fld (Fld.OBS_KEY_CTRL_STATE k.val) = 1
    let slot := fun a => a = kctrl ∨ a = Reg.OBS_KEY_OWNER k.val
    let filled := fun (t : State) (y : W256) => t.fld (Fld.OBS_KEY_CTRL_STATE k.val) = 1 ∧ t.fld (Fld.OBS_KEY_CTRL_CLASS k.val) = bits v 29 29 ∧
      t.reg (Reg.OBS_KEY_OWNER k.val) = who ∧ t.slotKey k.val = y ∧ ∀ i, i ≠ k.val → t.slotKey i = s.slotKey i
    let krefused := fun (t : State) => t.fld Fld.OBS_STATUS_KREFUSED = 1 ∧ AccessOnly s t fun a => a = Reg.OBS_STATUS
    let cmd := Reg.OBS_RNG_CMD r.val
    let st := s.rngState r.val
    let n := s.fld (Fld.OBS_RNG_KEYS_NEXTKEY r.val)
    let nextKey := fun (cls : Nat) => s.fld (Fld.OBS_RNG_KEYS_CLASS r.val) = cls ∧ s.fld (Fld.OBS_KEY_CTRL_STATE n) = 1 ∧
      s.fld (Fld.OBS_KEY_CTRL_CLASS n) = cls ∧ n ≠ s.fld (Fld.OBS_RNG_KEYS_KEY r.val)
    let refused := fun (t : State) => t.fld (Fld.OBS_RNG_STAT_REFUSED r.val) = 1 ∧ t.rngState r.val = st ∧ AccessOnly s t fun a => a = Reg.OBS_RNG_STAT r.val
    let flushes := fun (t : State) (y : Nat) => t.rngState r.val = y ∧ SMap.find t.rangeFlush r.val = some { todo := [], discard := true } ∧
      AccessOnly { s with rangeFlush := t.rangeFlush } t fun a => a = Reg.OBS_RNG_STAT r.val ∨ (y = 1 ∧ a = Reg.OBS_RNG_TREE r.val)
    (s.up = true → s.domOn dom = true → s.fld (Fld.DDR_SCRUB_HOURS ch.val) ≠ 0 → s.chanLines ch.val ≠ 0 →
      (j < s.dataLines ch.val →
        (Completes (.patrolScrub ch (some { data := x, code := .clean }) ⟨none, none⟩) s fun t => next t ∧ t = { s with patrol := t.patrol, ddr := t.ddr } ∧
          SMap.find t.ddr key = some { data := x, code := .clean } ∧ ∀ i, i ≠ key → SMap.find t.ddr i = SMap.find s.ddr i) ∧
        (Completes (.patrolScrub ch (some { data := x, code := .oneDevice }) ⟨none, none⟩) s fun t => next t ∧
          SMap.find t.ddr key = some { data := x, code := .clean } ∧ counted t (Fld.DDR_CECOUNT_COUNT ch.val) ∧
          t.fld (Fld.DDR_IRQ_STATUS_CE ch.val) = 1 ∧ logged t 0 ∧ SignalsOnly { s with patrol := t.patrol, ddr := t.ddr } t ddrRegs) ∧
        (Completes (.patrolScrub ch (some { data := x, code := .uncorrectable }) ⟨none, none⟩) s fun t => next t ∧
          SMap.find t.ddr key = some { data := x, code := .uncorrectable } ∧ counted t (Fld.DDR_UECOUNT_COUNT ch.val) ∧
          t.fld (Fld.DDR_IRQ_STATUS_UE ch.val) = 1 ∧ logged t 1 ∧ SignalsOnly { s with patrol := t.patrol, ddr := t.ddr } t ddrRegs) ∧
        (∀ c, Completes (.patrolScrub ch (some { data := x, code := .poison c }) ⟨none, none⟩) s fun t => next t ∧
          t = { s with patrol := t.patrol, ddr := t.ddr } ∧ SMap.find t.ddr key = some { data := x, code := .poison c })) ∧
      (s.dataLines ch.val ≤ j →
        (SMap.find s.metaErr key = none → Completes (.patrolScrub ch none ⟨none, none⟩) s fun t => next t ∧ t = { s with patrol := t.patrol }) ∧
        (Completes (.patrolScrub ch none ⟨some .correctable, none⟩) s fun t => next t ∧ SMap.find t.metaErr key = none ∧
          counted t (Fld.DDR_CECOUNT_COUNT ch.val) ∧ t.ddr = s.ddr ∧
          ((s.metaItem ch.val j).isSome = true → counted t Fld.OBS_CNT_CORRECTED ∧ t.fld Fld.OBS_IRQ_STATUS_CORR = 1)) ∧
        (Completes (.patrolScrub ch none ⟨some .uncorrectable, none⟩) s fun t => next t ∧
          (s.metaItem ch.val j = none → SMap.find t.metaErr key = some .uncorrectable) ∧ counted t (Fld.DDR_UECOUNT_COUNT ch.val) ∧ t.ddr = s.ddr))) ∧
    (s.fld (Fld.DDR_SCRUB_HOURS ch.val) = 0 → s.up = true → Completes (.patrolScrub ch none ⟨none, none⟩) s fun t => t = s) ∧
    (s.accepts path kctrl (setBits v 31 30 1) = true →
      (¬loaded → owner ≠ revokingId → Completes (.keyGen path k v) s fun t => filled t (Config.freeW256 s.free) ∧
        AccessOnly { s with keys := t.keys, free := t.free } t slot) ∧
      (loaded → Completes (.keyGen path k v) s krefused)) ∧
    (s.accepts path kctrl (setBits v 31 30 2) = true →
      (s.kAvail path = true → ¬loaded → owner ≠ revokingId → Completes (.keyLoad path k v) s fun t => filled t s.keyData ∧
        (∀ w, w < 8 → t.reg (Reg.OBS_KEYDATA w) = 0) ∧
        AccessOnly { s with keys := t.keys } t fun a => slot a ∨ ∃ w, w < 8 ∧ a = Reg.OBS_KEYDATA w) ∧
      (loaded ∨ s.kAvail path = false → Completes (.keyLoad path k v) s krefused)) ∧
    (s.accepts path kctrl (setBits v 31 30 3) = true →
      (s.keyRefs k.val = 0 → owner = 0 ∨ owner = who → Completes (.keyZero path k v) s fun t => t.fld (Fld.OBS_KEY_CTRL_STATE k.val) = 0 ∧
        t.reg (Reg.OBS_KEY_OWNER k.val) = 0 ∧ t.slotKey k.val = 0 ∧ (∀ i, i ≠ k.val → t.slotKey i = s.slotKey i) ∧
        AccessOnly { s with keys := t.keys } t slot) ∧
      (s.keyRefs k.val ≠ 0 ∨ (owner ≠ 0 ∧ owner ≠ who) → Completes (.keyZero path k v) s krefused)) ∧
    (s.accepts path cmd 1 = true →
      (∀ b, st = 0 → s.initRoom r.val = some b → s.homes = [] → Completes (.init path r) s fun t => flushes t 1 ∧
        t.fld (Fld.OBS_RNG_TREE_TREEBASE r.val) = b % 2 ^ 32) ∧
      (st ≠ 0 ∨ s.initRoom r.val = none → Completes (.init path r) s refused)) ∧
    (s.accepts path cmd 2 = true →
      (st = 2 → nextKey 1 → Completes (.rekey path r) s fun t => t.rngState r.val = 3 ∧ t.fld (Fld.OBS_RNG_STAT_BOUNDARY r.val) = 0 ∧
        AccessOnly s t fun a => a = Reg.OBS_RNG_STAT r.val) ∧
      (¬(st = 2 ∧ nextKey 1) → Completes (.rekey path r) s refused)) ∧
    (s.accepts path cmd 3 = true →
      (st = 2 ∨ st = 6 → nextKey 0 → s.homes = [] → Completes (.retire path r) s fun t => flushes t 4) ∧
      (¬((st = 2 ∨ st = 6) ∧ nextKey 0) → Completes (.retire path r) s refused)) ∧
    (s.accepts path cmd 4 = true →
      (st = 2 ∨ st = 3 ∨ st = 6 → s.homes = [] → Completes (.disable path r) s fun t => flushes t 5) ∧
      (st ≠ 2 → st ≠ 3 → st ≠ 6 → Completes (.disable path r) s refused)) ∧
    (s.up = true →
      (st ≠ 3 → Completes (.rekeyBlockDone r) s fun t => t = s) ∧
      (st = 3 → s.ctr = [] → s.metaErr = [] → s.otree = [] → s.ocache = [] →
        let b := s.fld (Fld.OBS_RNG_STAT_BOUNDARY r.val)
        (b + 1 < s.rngPages r.val → b + 1 < 2 ^ 27 → Completes (.rekeyBlockDone r) s fun t => t.rngState r.val = 3 ∧
          t.fld (Fld.OBS_RNG_STAT_BOUNDARY r.val) = b + 1 ∧ t.ddr = s.ddr ∧ t.keys = s.keys ∧
          WritesOnly { s with ctr := t.ctr, maxMajor := t.maxMajor, ocache := t.ocache, free := t.free } t fun a => a = Reg.OBS_RNG_STAT r.val) ∧
        (s.rngPages r.val ≤ b + 1 → Completes (.rekeyBlockDone r) s fun t => t.rngState r.val = 2 ∧ t.fld (Fld.OBS_RNG_STAT_BOUNDARY r.val) = 0 ∧
          t.fld (Fld.OBS_RNG_KEYS_KEY r.val) = n ∧ SMap.get 0 t.maxMajor r.val = 0 ∧ t.fld Fld.OBS_IRQ_STATUS_OPDONE = 1)) ∧
      (SMap.find s.rangeFlush r.val = none → Completes (.rangeOperationDone r) s fun t => t = s) ∧
      (∀ f, SMap.find s.rangeFlush r.val = some f → f.todo = [] → s.rngFlushing r.val = false →
        let ends := fun (t : State) => t.fld Fld.OBS_IRQ_STATUS_OPDONE = 1 ∧ SMap.find t.rangeFlush r.val = none ∧ ∀ q ∈ t.broken, q.range ≠ r.val
        let cleared := fun (t : State) => t.rngState r.val = 2 ∧ SMap.get 0 t.maxMajor r.val = 0 ∧
          ∀ c p, c < 8 → s.rngPage0 r.val ≤ p → p < s.rngPage0 r.val + s.rngPages r.val → t.ctrBlk c p = { major := 0, minors := [] }
        (st = 1 → Completes (.rangeOperationDone r) s fun t => ends t ∧ cleared t ∧
          t.fld (Fld.OBS_RNG_KEYS_KEY r.val) = s.fld (Fld.OBS_RNG_KEYS_KEY r.val)) ∧
        (st = 4 → Completes (.rangeOperationDone r) s fun t => ends t ∧ cleared t ∧ t.fld (Fld.OBS_RNG_KEYS_KEY r.val) = n) ∧
        (st = 5 → Completes (.rangeOperationDone r) s fun t => ends t ∧ t.rngState r.val = 0 ∧ t.fld (Fld.OBS_RNG_TREE_TREEBASE r.val) = 0 ∧
          t.ddr = s.ddr)))

/-! ## The host interface (R483 to R513) -/

/-- R483 to R492, R494 to R498 and R509: links and resets of a PCIe port, window accesses, doorbells and the life of a queue pair. -/
def Obligations.HostPorts : Prop :=
  ∀ (s : State) (path : Path) (port : Bool) (q : Fin 256) (v : Word) (id off len rate width : Nat) (bytes : List (Option Byte)) (ep : Bool)
    (cfg : PcieCfg),
    let n := b2n port
    let e := s.pcieEp port
    let stat := Reg.PCI_STAT n
    let up := s.fld (Fld.PCI_STAT_LINKUP n) = 1
    let handed := s.fld Fld.FLN_STATUS_HANDED = 1
    let a := s.fld (Fld.PCI_WIN_WINBASE n) * 2 ^ 30 + off
    let quiet := s.wins = [] ∧ s.hostHeld = [] ∧ s.drains.contains e = false ∧ (∀ u ∈ s.tags, u.ep ≠ e) ∧ ∀ f ∈ s.fences, f.ep ≠ e
    let sent := fun (t : State) (p : Packet) => t.net = s.net ++ [{ loc := .ingressPort e.x.toNat e.y.toNat e.p.toNat, pkt := p }] ∧ p.cls = 0 ∧ p.src = e ∧
      p.dst = s.homeEp (homeOf (a / 64)) ∧ p.addr.toNat = a / 64 * 64 ∧ t = { s with net := t.net, tags := t.tags, wins := t.wins, winNext := t.winNext } ∧
      ∃ u w, t.tags = s.tags ++ [u] ∧ u.ep = e ∧ u.tag = p.tag ∧ u.live = true ∧ u.purpose = .window w.id ∧ t.wins = [w] ∧ w.port = port ∧ w.todo = [] ∧
        w.sent = [(a / 64, p.tag)]
    let ctrl := Reg.QUE_Q_CTRL q.val
    let qst := Reg.QUE_Q_STAT q.val
    let st := s.qState q.val
    let bell := fun (P : State → Prop) (ok : Bool) => Completes (.sqTail port q ok (.write v)) s P ∧ Completes (.cqHead port q ok (.write v)) s P
    let fits := fun (k : Nat) => off + k ≤ s.bar4Size port
    let en := setBits v 31 31 1
    let del := setBits v 31 31 0
    (s.up = true →
      (s.domOn (5 + n) = true → 1 ≤ rate → rate ≤ 6 → width = 1 ∨ width = 4 ∨ width = 8 ∨ width = 16 → Completes (.pcieLinkUp port rate ⟨width, cfg⟩) s fun t =>
        t.fld (Fld.PCI_STAT_LINKUP n) = 1 ∧ t.fld (Fld.PCI_STAT_RATE n) = rate ∧ t.fld (Fld.PCI_STAT_WIDTH n) = width ∧ t.pcieCfg port = cfg ∧
        WritesOnly { s with pcie := t.pcie } t fun x => x = stat) ∧
      (s.domOn (5 + n) = false → Completes (.pcieLinkUp port rate ⟨width, cfg⟩) s fun t => t = s) ∧
      (¬up → s.hostHeld = [] → Completes (.pcieLinkDown port) s fun t => t = s) ∧
      (up → s.hostHeld = [] → Completes (.pcieLinkDown port) s fun t => t.fld (Fld.PCI_STAT_LINKUP n) = 0 ∧
        t.fld (Fld.PCI_STAT_LINKDOWNS n) = min 65535 (s.fld (Fld.PCI_STAT_LINKDOWNS n) + 1) ∧
        (∀ k, k < 256 → s.qState k = 1 → s.qPort k = port → t.qState k = 2 ∧ t.fld (Fld.QUE_Q_STAT_ERRCAUSE k) = 3) ∧
        ∀ w ∈ t.wins, w.port = port → w.write = true) ∧
      (s.hostHeld = [] → Completes (.functionLevelReset port) s fun t =>
        (∀ k, k < 256 → s.qState k ≠ 0 → s.qPort k = port → t.qState k = 0 ∧ t.fld (Fld.QUE_Q_CTRL_EN k) = 0 ∧ (t.pair k).descs = []) ∧
        t.fld Fld.QUE_DBERR_LOSTCPL = min 65535 (s.fld Fld.QUE_DBERR_LOSTCPL + ((s.pairsOf port).map fun k => (s.pair k).descs.length).sum) ∧
        t.reg (Reg.PCI_WIN n) = 0 ∧ t.pcieCfg port = PcieCfg.fresh ∧ ∀ k w, k < 257 → w < 4 → t.reg (msixAddr port k w) = if w = 3 then 1 else 0) ∧
      (¬up → s.hostHeld = [] → (Completes (.windowRead port id off len) s fun t => t = s) ∧ (Completes (.windowWrite port off bytes ep) s fun t => t = s) ∧
        ∀ ok, bell (fun t => t = s) ok) ∧
      (Completes (.sqTail port q true (.read id)) s fun t => t = if up then s.emit (.cpl port id true false (bytesLE 4 0)) else s) ∧
      (Completes (.cqHead port q true (.read id)) s fun t => t = if up then s.emit (.cpl port id true false (bytesLE 4 0)) else s) ∧
      (s.hostHeld = [] → ¬fits len → Completes (.windowRead port id off len) s fun t => t = s) ∧
      (s.hostHeld = [] → ¬fits bytes.length → Completes (.windowWrite port off bytes ep) s fun t => t = s) ∧
      (up → s.hostHeld = [] → ¬handed → fits len → (∀ w ∈ s.wins, w.port ≠ port) →
        (Completes (.windowRead port id off len) s fun t => t = s.emit (.cpl port id false false [])) ∧
        (Completes (.windowWrite port off bytes ep) s fun t => t = s) ∧ bell (fun t => t = s) true) ∧
      (up → handed → s.hostHeld = [] → s.winBusy port = true → fits len → (∀ w ∈ s.wins, ¬(w.id = 2 * id ∧ w.port = port)) →
        Completes (.windowRead port id off len) s fun t => t = { s with hostHeld := [{ port := port, after := s.winWrites port, op := .read id a len }] }) ∧
      (up → handed → quiet → fits len → a < 2 ^ 48 → 1 ≤ len → a % 64 + len ≤ 64 → Completes (.windowRead port id off len) s fun t =>
        ∃ p, sent t p ∧ p.cmd = 8 ∧ p.spec = 2) ∧
      (up → handed → s.hostHeld = [] → fits bytes.length → partialGranule a bytes = true → Completes (.windowWrite port off bytes ep) s fun t =>
        t.fld (Fld.PCI_WINERRCNT_COUNT n) = min 65535 (s.fld (Fld.PCI_WINERRCNT_COUNT n) + 1) ∧
        (s.fld (Fld.PCI_WINERR_A_VALID n) = 0 → t.fld (Fld.PCI_WINERR_A_VALID n) = 1 ∧ t.fld (Fld.PCI_WINERR_A_WRITE n) = 1 ∧
          t.fld (Fld.PCI_WINERR_A_STATUS n) = 3) ∧
        WritesOnly s t fun x => x = Reg.PCI_WINERRCNT n ∨ x = Reg.PCI_WINERR_A n ∨ x = Reg.PCI_WINERR_B n) ∧
      (up → handed → s.hostHeld = [] → (∀ b ∈ bytes, b = none) → Completes (.windowWrite port off bytes ep) s fun t => t = s) ∧
      (up → handed → quiet → fits bytes.length → a < 2 ^ 48 → a % 64 + bytes.length ≤ 64 → partialGranule a bytes = false → (∃ b ∈ bytes, b.isSome = true) →
        Completes (.windowWrite port off bytes ep) s fun t => ∃ p, sent t p ∧
          let whole := bytes.length = 64 ∧ ∀ b ∈ bytes, b.isSome = true
          (whole → p.cmd = 9 ∧ p.len = 2 ∧ flitWords p.data = (bytesWords 8 (bytes.map fun b => b.getD 0)).map fun w => (w, ep)) ∧
          (¬whole → p.cmd = 4 ∧ p.len = 2 ∧ ∀ i, i < 8 → (p.gran.getLsbD i = true ↔ a % 64 ≤ 8 * i ∧ (bytes.getD (8 * i - a % 64) none).isSome = true))) ∧
      let waits := fun (at_ : Nat) => ({ port := port, after := s.winWrites port, op := .bell q.val at_ v } : HostHeld)
      (up → handed → s.winBusy port = true ∨ s.orderBusy port = true →
        (Completes (.sqTail port q true (.write v)) s fun t => t = { s with hostHeld := s.hostHeld ++ [waits 0] }) ∧
        Completes (.cqHead port q true (.write v)) s fun t => t = { s with hostHeld := s.hostHeld ++ [waits 4] }) ∧
      (up → handed → s.winBusy port = false → s.orderBusy port = false →
        (∀ ok, ok = false ∨ bits v 31 16 ≠ 0 ∨ s.qPort q.val ≠ port ∨ st ≠ 1 → bell (fun t =>
          t.fld Fld.QUE_DBERR_COUNT = min 65535 (s.fld Fld.QUE_DBERR_COUNT + 1) ∧ WritesOnly s t fun x => x = Reg.QUE_DBERR) ok) ∧
        (bits v 31 16 = 0 → s.qPort q.val = port → st = 1 →
          (v.toNat < s.sqSize q.val → Completes (.sqTail port q true (.write v)) s fun t => t.pair q.val = { s.pair q.val with sqTail := v.toNat } ∧
            WritesOnly { s with pairs := t.pairs } t fun x => x = qst) ∧
          (v.toNat < s.cqSize q.val → Completes (.cqHead port q true (.write v)) s fun t => t.pair q.val = { s.pair q.val with cqHead := v.toNat } ∧
            WritesOnly { s with pairs := t.pairs } t fun x => x = qst) ∧
          (s.sqSize q.val ≤ v.toNat → Completes (.sqTail port q true (.write v)) s fun t => t.qState q.val = 2 ∧ t.fld (Fld.QUE_Q_STAT_ERRCAUSE q.val) = 2) ∧
          (s.cqSize q.val ≤ v.toNat → Completes (.cqHead port q true (.write v)) s fun t => t.qState q.val = 2 ∧ t.fld (Fld.QUE_Q_STAT_ERRCAUSE q.val) = 2)))) ∧
    (s.accepts path ctrl en = true →
      let may := st = 0 ∧ 4 ≤ bits v 23 20 ∧ 4 ≤ bits v 19 16 ∧ s.linkUp (natBit v.toNat 30) = true ∧ ∀ r ∈ s.revs, r.owner ≠ s.qId q.val
      (may → Completes (.queueEnable path q v) s fun t => t.qState q.val = 1 ∧ t.fld (Fld.QUE_Q_CTRL_EN q.val) = 1 ∧
        t.qPort q.val = natBit v.toNat 30 ∧ t.fld (Fld.QUE_Q_CTRL_DOMAIN q.val) = bits v 29 26 ∧ t.fld (Fld.QUE_Q_CTRL_SQSIZE q.val) = bits v 23 20 ∧
        t.fld (Fld.QUE_Q_CTRL_CQSIZE q.val) = bits v 19 16 ∧ t.pair q.val = (s.pair q.val).again ∧ t.fld (Fld.QUE_Q_STAT_SQHEAD q.val) = 0 ∧
        (∃ l m, t.out = l ++ .memWrite (natBit v.toNat 30) (s.hostAddr (Reg.QUE_Q_HDB_LO q.val) (Reg.QUE_Q_HDB_HI q.val) 8) false (List.replicate 8 0) :: m) ∧
        AccessOnly { s with pairs := t.pairs } t fun x => x = ctrl ∨ x = qst) ∧
      (st ≠ 1 → ¬may → Completes (.queueEnable path q v) s fun t => t.qState q.val = st ∧ t.fld (Fld.QUE_Q_STAT_ERRCAUSE q.val) = 5 ∧
        AccessOnly s t fun x => x = qst) ∧
      (st = 1 → Completes (.queueEnable path q v) s fun t => AccessOnly s t fun _ => False)) ∧
    (s.accepts path ctrl del = true →
      (s.fld (Fld.QUE_Q_CTRL_EN q.val) = 1 → Completes (.queueDelete path q v) s fun t => t.qState q.val = 3 ∧ t.fld (Fld.QUE_Q_CTRL_EN q.val) = 0 ∧
        t.fld (Fld.QUE_Q_STAT_SQHEAD q.val) = s.fld (Fld.QUE_Q_STAT_SQHEAD q.val)) ∧
      (s.fld (Fld.QUE_Q_CTRL_EN q.val) = 0 → Completes (.queueDelete path q v) s fun t => t.qState q.val = st ∧ t.fld (Fld.QUE_Q_CTRL_EN q.val) = 0 ∧
        t.fld (Fld.QUE_Q_CTRL_VECTOR q.val) = bits v 7 0 ∧ AccessOnly s t fun x => x = ctrl))

/-- R499 to R509: fetching a submission entry, starting each kind of descriptor, the end of a host read, and the completion of a finished
descriptor. Where the round of the pairs starts is the model's choice (assumption 70). -/
def Obligations.DmaEngine : Prop :=
  ∀ (s : State) (q : Fin 256) (x : Desc) (id : Nat) (bs : List Byte),
    let p := s.pair q.val
    let port := s.qPort q.val
    let e := s.pcieEp port
    let qst := Reg.QUE_Q_STAT q.val
    let head := s.fld (Fld.QUE_Q_STAT_SQHEAD q.val)
    let sqAt := s.hostAddr (Reg.QUE_Q_SQBASE_LO q.val) (Reg.QUE_Q_SQBASE_HI q.val) 64 + 32 * head
    let cqAt := s.hostAddr (Reg.QUE_Q_CQBASE_LO q.val) (Reg.QUE_Q_CQBASE_HI q.val) 64 + 32 * p.cqTail
    let hdb := s.hostAddr (Reg.QUE_Q_HDB_LO q.val) (Reg.QUE_Q_HDB_HI q.val) 8
    let clear := s.drains.contains e = false ∧ (∀ u ∈ s.tags, u.ep ≠ e) ∧ ∀ f ∈ s.fences, f.ep ≠ e
    let asked := fun (t : State) (addr len : Nat) (why : HostWhy) => t.out = s.out ++ [.memRead port s.nextRead addr len] ∧
      t.hostReads = s.hostReads ++ [{ id := s.nextRead, port := port, len := len, why := why }] ∧ t.nextRead = s.nextRead + 1
    let only := fun (t : State) => WritesOnly { s with pairs := t.pairs, hostReads := t.hostReads, nextRead := t.nextRead, out := t.out, net := t.net, tags := t.tags } t
      fun a => a = qst
    let sent := fun (t : State) (r : Packet) => t.net = s.net ++ [{ loc := .ingressPort e.x.toNat e.y.toNat e.p.toNat, pkt := r }] ∧ r.src = e ∧ r.cls = 0 ∧
      t.out = s.out ∧ t.hostReads = s.hostReads ∧ ∃ u, t.tags = s.tags ++ [u] ∧ u.ep = e ∧ u.tag = r.tag ∧ u.live = true
    let first := p.descs = [x] ∧ x.started = false ∧ x.next = 0 ∧ x.chunks = [] ∧ x.fail = none ∧ x.stop = false ∧ s.domOn (5 + b2n port) = true
    let under := fun (t : State) (n : Nat) => (t.pair q.val).descs =
      [{ x with started := true, next := n, chunks := [{ off := 0, len := n, got := [], reads := 1, writes := 0 }] }]
    let byHost := fun (c : Instr) (n : Nat) => first → Completes c s fun t => asked t x.src n (.data q.val x.num 0) ∧ under t n ∧ only t ∧ t.net = s.net ∧ t.tags = s.tags
    let byLine := fun (c : Instr) (n : Nat) => first → clear → (x.src % 64 + n ≤ 64) → x.src < 2 ^ 48 → Completes c s fun t => ∃ r, sent t r ∧ r.cmd = 8 ∧
      r.spec = 2 ∧ r.dst = s.homeEp (homeOf (x.src / 64)) ∧ r.addr.toNat = x.src / 64 * 64 ∧ under t n ∧ only t
    s.up = true →
      (s.qState q.val = 1 → head ≠ p.sqTail → (∀ h ∈ s.hostReads, h.why ≠ .sq q.val) → s.descTotal < 64 → s.sqTurnOf q.val = true → p.descs.length < 8 →
        s.linkUp port = true → s.domOn (5 + b2n port) = true → Completes (.sqEntryFetch q) s fun t => asked t sqAt 32 (.sq q.val) ∧
          t = { s with out := t.out, hostReads := t.hostReads, nextRead := t.nextRead, sqTurn := (q.val + 1) % 256 }) ∧
      (head = p.sqTail ∨ s.qState q.val ≠ 1 ∨ 8 ≤ p.descs.length ∨ 64 ≤ s.descTotal ∨ s.sqTurnOf q.val = false → Completes (.sqEntryFetch q) s fun t => t = s) ∧
      (x.op = 1 → x.len ≠ 0 → byHost (.h2d q x.num) (min (64 - x.dst % 64) x.len)) ∧
      (x.op = 4 → x.len ≠ 0 → byHost (.h2p q x.num) (min 512 x.len)) ∧
      (x.op = 2 → x.len ≠ 0 → byLine (.d2h q x.num) (min (64 - x.src % 64) x.len)) ∧
      (x.op = 3 → x.len ≠ 0 → byLine (.d2d q x.num) (min (64 - x.dst % 64) x.len)) ∧
      (x.op = 5 → x.len ≠ 0 → x.len % 32 = 0 → x.ep.die.toNat ≤ 4 → x.src < 2 ^ 48 → first → clear → Completes (.p2h q x.num) s fun t => ∃ r, sent t r ∧
        r.cmd = 8 ∧ r.spec.toNat = min 512 x.len / 32 ∧ r.dst = x.ep ∧ r.addr.toNat = x.src ∧ under t (min 512 x.len) ∧ only t) ∧
      (x.op = 6 → x.len = 0 → x.ep.die.toNat ≤ 4 → x.dst < 2 ^ 48 → first → clear → Completes (.dmaDb q x.num) s fun t => ∃ r, sent t r ∧ r.cmd = 0x10 ∧
        r.spec.toNat = x.dw 2 ∧ r.dst = x.ep ∧ r.addr.toNat = x.dst ∧ only t) ∧
      (x.op = 7 → first → Completes (.dmaNop q x.num) s fun t => (t.pair q.val).descs = [{ x with started := true }] ∧
        WritesOnly { s with pairs := t.pairs } t fun a => a = qst) ∧
      (s.hostReads = [{ id := id, port := port, len := 32, why := .sq q.val }] → s.qState q.val = 1 →
        (bs.length = 32 → Completes (.hostReadCompletion id (.data bs)) s fun t => t.hostReads = [] ∧
          t.fld (Fld.QUE_Q_STAT_SQHEAD q.val) = (head + 1) % s.sqSize q.val ∧
          (∃ y, (t.pair q.val).descs = p.descs ++ [y] ∧ y.num = p.nextNum ∧ (∀ i, i < 8 → y.dw i = natLE ((bs.drop (4 * i)).take 4)) ∧
            (y.started = true ↔ (s.descCheck { y with started := false, fail := none }).isSome = true)) ∧
          WritesOnly { s with pairs := t.pairs, hostReads := [] } t fun a => a = qst) ∧
        (∀ r, r = .unsupported ∨ r = .abort ∨ r = .timeout → Completes (.hostReadCompletion id r) s fun t => t.qState q.val = 2 ∧
          t.fld (Fld.QUE_Q_STAT_ERRCAUSE q.val) = 1 ∧ (t.pair q.val).descs.length = p.descs.length) ∧
        (Completes (.hostReadTimeout id) s fun t => t.qState q.val = 2 ∧ t.fld (Fld.QUE_Q_STAT_ERRCAUSE q.val) = 1)) ∧
      ((∀ h ∈ s.hostReads, h.id ≠ id) → (Completes (.hostReadCompletion id (.data bs)) s fun t => t = s) ∧ Completes (.hostReadTimeout id) s fun t => t = s) ∧
      (∀ n, s.hostReads = [{ id := id, port := port, len := n, why := .data q.val x.num 0 }] → p.descs = [x] → x.op = 1 → x.fail = none →
        x.chunks = [{ off := 0, len := n, got := [], reads := 1, writes := 0 }] →
        (bs.length = n → clear → x.dst % 64 + n ≤ 64 → x.dst < 2 ^ 48 → n % 8 = 0 → x.dst % 8 = 0 → 0 < n → Completes (.hostReadCompletion id (.data bs)) s fun t =>
          ∃ r, t.net = s.net ++ [{ loc := .ingressPort e.x.toNat e.y.toNat e.p.toNat, pkt := r }] ∧ r.cmd = (if n = 64 then 9 else 4) ∧
            r.dst = s.homeEp (homeOf (x.dst / 64)) ∧ r.addr.toNat = x.dst / 64 * 64 ∧
            (n = 64 → flitWords r.data = (bytesWords 8 bs).map fun w => (w, false)) ∧
            (n ≠ 64 → ∀ i, i < 8 → (r.gran.getLsbD i = true ↔ x.dst % 64 ≤ 8 * i ∧ 8 * i < x.dst % 64 + n))) ∧
        (Completes (.hostReadTimeout id) s fun t => ∃ o, (t.pair q.val).descs = [{ x with chunks := [], fail := some (o, 10, 1) }])) ∧
      (p.descs = [x] → x.done = true →
        let code := x.result
        let full := (p.cqTail + 1) % s.cqSize q.val = p.cqHead
        let tail := (p.cqTail + 1) % s.cqSize q.val
        let entry := bytesLE 4 (x.sqHead * 65536 + x.dw 0 / 65536) ++ bytesLE 4 (code.2.1 * 16 + code.1) ++ bytesLE 4 code.2.2 ++ List.replicate 16 0 ++
          bytesLE 4 (if p.phase then 2 ^ 31 else 0)
        let vector := s.fld (Fld.QUE_Q_CTRL_VECTOR q.val)
        let message := if natBit (x.dw 0) 9 ∧ s.fld (Fld.QUE_Q_CTRL_NOIRQ q.val) = 0 then [Out.msix port vector] else []
        (s.linkUp port = true → full → Completes (.descriptorFinish q x.num) s fun t => t = s) ∧
        (s.linkUp port = true → ¬full → bits (s.reg (msixAddr port vector 3)) 0 0 = 0 → Completes (.descriptorFinish q x.num) s fun t =>
          t.out = s.out ++ [.memWrite port cqAt false entry, .memWrite port hdb false (bytesLE 8 (head + 65536 * tail))] ++ message ∧
          t.pair q.val = { p with descs := [], cqTail := tail, phase := if tail = 0 then !p.phase else p.phase } ∧
          WritesOnly { s with pairs := t.pairs, out := t.out } t fun a => a = qst) ∧
        (s.linkUp port = false → Completes (.descriptorFinish q x.num) s fun t => t.fld Fld.QUE_DBERR_LOSTCPL = min 65535 (s.fld Fld.QUE_DBERR_LOSTCPL + 1) ∧
          (t.pair q.val).descs = [] ∧ t.out = s.out))

/-! ## The configuration loader (R549 to R577) -/

/-- R555, R556, R558, R559, R561, R564, R566, R568, R570 and R571: the lock, and each command over a register path. The reasons for a
command that meets an open stream, or a FREEZE or CLEAR under way, are the model's choice (assumption 58). -/
def Obligations.LoaderCommands : Prop :=
  ∀ (s : State) (path : Path) (v : Word) (image : List Byte),
    let who := s.pathOwner path
    let lock := Reg.CFG_LOCK
    let r := bits v 23 16
    let stat := Reg.CFG_REG_STAT r
    let may := fun (op : Nat) => s.accepts path Reg.CFG_CMD (setBits v 31 28 op) = true
    let issued := fun (op : Nat) => may op ∧ s.reg lock = who ∧ s.loader.busy = none
    let fresh := fun (op : Nat) => issued op ∧ s.loader.stream = none
    let ends := fun (c : Instr) (region op reason : Nat) => Completes c s fun t => loaderResult t region op reason ∧ AccessOnly s t loaderMarks
    let st := s.regState r
    let frozen := st = 3 ∧ s.regFrozen r = true
    let waiting := ∃ c ∈ s.loader.commits, c.region = r
    let busy := fun (t : State) (clear : Bool) => t.loader = { s.loader with busy := some { clear := clear, region := r, src := .reg path } }
    let free := s.fld Fld.CFG_STATUS_CGFREE
    let n := (s.reg Reg.CFG_ARG1).toNat
    let at_ := (s.reg Reg.CFG_ARG0).toNat % 65536
    let next := s.fld Fld.CFG_EPOCH_EPOCH + 2
    let later := (at_ + 131072 - next) % 65536
    let hdr := slice image 0 64
    let mlen := leAt hdr 16 4
    let slen := leAt hdr 20 4
    let total := leAt hdr 8 8
    let view := natBit v.toNat 27
    (s.accepts path Reg.CFG_LOCK_OP 1 = true → Completes (.cfgLockAcquire path) s fun t =>
      t.reg lock = (if s.reg lock = 0 then who else s.reg lock) ∧ AccessOnly s t fun a => a = lock) ∧
    (s.accepts path Reg.CFG_LOCK_OP 0 = true → Completes (.cfgLockRelease path) s fun t =>
      t.reg lock = (if s.reg lock = who then 0 else s.reg lock) ∧ AccessOnly s t fun a => a = lock) ∧
    (∀ op, 1 ≤ op → op ≤ 7 → may op →
      (s.reg lock ≠ who → Completes (loaderRowOf op (some path) v image) s fun t => loaderResult t r op 24 ∧
        AccessOnly { s with loader := { s.loader with flash := t.loader.flash } } t loaderMarks) ∧
      (∀ b, s.reg lock = who → op ≠ 5 → s.loader.busy = some b → s.loader.stream = none →
        Completes (loaderRowOf op (some path) v image) s fun t => loaderResult t r op 7 ∧
          AccessOnly { s with loader := { s.loader with flash := t.loader.flash } } t loaderMarks) ∧
      (∀ x p, s.reg lock = who → s.loader.stream = some x → x.man = none → x.src = .reg p → op ≠ 1 → op ≠ 5 →
        Completes (loaderRowOf op (some path) v image) s fun t => loaderResult t x.region x.op 7 ∧ t.loader.stream = none ∧
          AccessOnly { s with loader := t.loader } t loaderMarks)) ∧
    (fresh 1 → Completes (.load (some path) v) s fun t => AccessOnly { s with loader := t.loader } t (fun _ => False) ∧ t.loader = { s.loader with
      stream := some { src := .reg path, region := r, op := 1, bytes := [], got := 0, total := 0, man := none, blk := 0 } }) ∧
    (fresh 2 →
      let pins := ∀ p, p < 6 → s.fld (Fld.PIN_CFG_FUNC p) = 2
      let fails := fun (reason : Nat) => Completes (.loadf (some path) v image) s fun t => loaderResult t r 2 reason ∧
        AccessOnly { s with loader := { s.loader with flash := none } } t loaderMarks
      (¬pins → fails 27) ∧ (pins → image.length < 64 → fails 27) ∧ (pins → 64 ≤ image.length → headerOk hdr = false → fails 1) ∧
      (∀ man, pins → headerOk hdr = true → total ≤ image.length → s.manifestCheck hdr (slice image 64 mlen) (slice image (64 + mlen) slen) = .inl man →
        man.blks ≠ [] → Completes (.loadf (some path) v image) s fun t => t.loader.stream = some { src := .reg path, region := r, op := 2
                                                                                                   bytes := (image.take total).drop (64 + mlen + slen)
                                                                                                   got := total, total := total, man := some man, blk := 0 } ∧
          (∀ q, t.regState q = s.regState q) ∧ AccessOnly { s with loader := t.loader, regions := t.regions } t fun _ => False)) ∧
    (fresh 3 →
      (s.feature 9 = false → ends (.freeze (some path) v) r 3 4) ∧
      (s.feature 9 = true → st = 3 → s.regFrozen r = false → ¬waiting → Completes (.freeze (some path) v) s fun t => busy t false ∧
        t.regFrozen r = true ∧ t.regState r = 3 ∧ (∀ e ∈ s.regPorts r, s.portFenced e = false → e ∈ t.drains) ∧
        (∀ x, x ∈ t.inbox ↔ x ∈ s.inbox ∧ ¬(x.ep ∈ s.regPorts r ∧ s.portFenced x.ep = false ∧ x.pkt.cls = 0)) ∧
        ((∀ x ∈ s.inbox, ¬(x.ep ∈ s.regPorts r ∧ s.portFenced x.ep = false ∧ x.pkt.cls = 0)) → t.net = s.net) ∧
        ((∃ e ∈ s.regPorts r, s.portFenced e = false) → t.ffs = s.ffs) ∧
        AccessOnly { s with loader := t.loader, drains := t.drains, latches := t.latches, padHold := t.padHold, micaOut := t.micaOut,
                            micaShown := t.micaShown, ffs := t.ffs, inbox := t.inbox, net := t.net } t fun a => a = stat) ∧
      (s.feature 9 = true → st ≠ 3 ∨ s.regFrozen r = true ∨ waiting → ends (.freeze (some path) v) r 3 7)) ∧
    (fresh 4 →
      let commit : Instr := .commit (some path) v
      let may := (st = 2 ∨ frozen) ∧ ¬waiting
      let ents := s.cgEntries n
      (¬may → ends commit r 4 7) ∧ (may → st = 2 → s.bit (Fld.CFG_REG_STAT_COMPLETE r) = false → ends commit r 4 23) ∧
      (may → (st = 2 ∧ s.bit (Fld.CFG_REG_STAT_COMPLETE r) = true) ∨ frozen → free ≤ 256 →
        (free < n → ends commit r 4 21) ∧
        (n ≤ free → (∀ e ∈ ents, s.entryOk (.reg path) e = true) → Completes commit s fun t => t.fld Fld.CFG_STATUS_CGFREE = free - n ∧
          t.loader = { s.loader with commits := s.loader.commits ++ [{ region := r, ents := ents, src := .reg path,
                                                                       epoch := if 1 ≤ later ∧ later ≤ 32768 then at_ else next % 65536 }] } ∧
          AccessOnly { s with loader := t.loader } t fun a => a = Reg.CFG_STATUS) ∧
        (∀ i e, n ≤ free → ents[i]? = some e → s.entryOk (.reg path) e = false → (∀ j, j < i → ∀ x, ents[j]? = some x → s.entryOk (.reg path) x = true) →
          Completes commit s fun t => loaderResult t r 4 22 ∧ t.reg Reg.CFG_FAULTFAR = BitVec.ofNat 32 i ∧
            AccessOnly s t fun a => loaderMarks a ∨ a = Reg.CFG_FAULTFAR))) ∧
    (may 5 → s.reg lock = who →
      (s.loader.stream = none → ends (.abort (some path) v) r 5 0) ∧
      (∀ x p, s.loader.stream = some x → x.src = .reg p → Completes (.abort (some path) v) s fun t => loaderResult t x.region x.op 25 ∧
        t.loader = { s.loader with stream := none } ∧
        (∀ m, x.man = some m → ∀ q ∈ m.regs, q.num < 256 → s.regState q.num = 1 → t.regState q.num = 2 ∧ t.fld (Fld.CFG_REG_STAT_COMPLETE q.num) = 0) ∧
        (x.man = none → AccessOnly { s with loader := t.loader } t loaderMarks))) ∧
    (fresh 6 →
      let may := (st = 2 ∨ st = 4 ∨ frozen) ∧ ¬waiting
      (may → s.regPinned r = false → Completes (.clear (some path) v) s fun t => busy t true ∧
        AccessOnly { s with loader := t.loader } t fun _ => False) ∧
      (may → s.regPinned r = true → ends (.clear (some path) v) r 6 4) ∧
      (¬may → ends (.clear (some path) v) r 6 7)) ∧
    (fresh 7 →
      let far := keyOfFar (s.reg Reg.CFG_ARG0).toNat
      let read : Instr := .read (some path) v
      (far = none → ends read 0 7 7) ∧
      (∀ k, far = some k →
        (384 * 192 < k % (384 * 192) + n ∨ s.dieOk (k / (16 * 192 * 384)) = false → ends read 0 7 7) ∧
        (k % (384 * 192) + n ≤ 384 * 192 → s.dieOk (k / (16 * 192 * 384)) = true → (∃ i, i < n ∧ s.readPermitted view (k + i) = false) → ends read 0 7 5) ∧
        (k % (384 * 192) + n ≤ 384 * 192 → s.dieOk (k / (16 * 192 * 384)) = true → (∀ i, i < n → s.readPermitted view (k + i) = true) →
          (view = true → (∃ i, i < n ∧ s.viewAllowed (k + i) = false) → ends read 0 7 7) ∧
          ((view = true → ∀ i, i < n → s.viewAllowed (k + i) = true) → Completes read s fun t => loaderResult t 0 7 0 ∧
            AccessOnly { s with loader := { s.loader with readBuf := t.loader.readBuf } } t loaderMarks ∧ t.loader.readBuf.length = 128 * n ∧
            ∀ i j, i < n → j < 128 → t.loader.readBuf[128 * i + j]? = some ((s.viewFrame view (k + i)).extractLsb' (32 * j) 32)))))

/-- R557 to R559, R566, R568 to R575: the loader queue, the stream's data and blocks, the ends of FREEZE and CLEAR, loader epochs, commits
that fall due, and the scrubber. That a stream which ends before its first frame leaves its regions as they were is the model's choice
(assumption 58). -/
def Obligations.LoaderProgress : Prop :=
  ∀ (s : State) (path p : Path) (v w : Word) (d : Fin 4) (flips : List (Nat × Nat × Nat)) (x : Stream) (man : Manifest) (b : ManBlk) (c : LoadBusy) (r id : Nat),
    let tail := bits v 9 0
    let head := s.fld Fld.CFG_LQ_HEAD_INDEX
    let port := s.lqPort
    let asked := fun (t : State) (addr len : Nat) (why : HostWhy) => (∃ l, t.out = s.out ++ .memRead port s.nextRead addr len :: l) ∧
      t.hostReads = s.hostReads ++ [{ id := s.nextRead, port := port, len := len, why := why }] ∧ t.nextRead = s.nextRead + 1
    let epoch := s.fld Fld.CFG_EPOCH_EPOCH
    let free := s.fld Fld.CFG_STATUS_CGFREE
    let base := d.val * (16 * 192 * 384)
    let key := base + SMap.get 0 s.scrub d.val
    let held := SMap.get [] s.upsets key
    let counted := fun (t : State) (f : RField) => t.fld f = min 65535 (s.fld f + 1)
    let checked := fun (e : Nat × Nat) => e.1 < 64 ∧ e.2 < 72 ∧ ¬(e.2 < 64 ∧ uncheckedBit key (flipFrame (s.frame key) (dataFlips held)) (64 * e.1 + e.2) = true)
    (s.accepts path Reg.CFG_LQ_TAIL v = true →
      let quiet := s.loader.ent = none ∧ ∀ h ∈ s.hostReads, h.why ≠ .lqEntry ∧ h.why ≠ .lqData ∧ h.why ≠ .lqList
      let on := s.bit Fld.CFG_LQ_CTRL_EN = true
      (on → quiet → head ≠ tail % s.lqSize → Completes (.cfgLqTail path v) s fun t => t.fld Fld.CFG_LQ_TAIL_INDEX = tail ∧
        asked t (s.lqAddr head) 32 .lqEntry ∧ AccessOnly { s with hostReads := t.hostReads, nextRead := t.nextRead } t fun a => a = Reg.CFG_LQ_TAIL) ∧
      (¬(on ∧ quiet ∧ head ≠ tail % s.lqSize) → Completes (.cfgLqTail path v) s fun t => t.fld Fld.CFG_LQ_TAIL_INDEX = tail ∧
        AccessOnly s t fun a => a = Reg.CFG_LQ_TAIL)) ∧
    (s.up = true → s.loader.ent = none → ∀ op, 1 ≤ op → op ≤ 7 → op ≠ 2 → Completes (loaderRowOf op none v []) s fun t => t = s) ∧
    (s.up = true → s.loader.ent.isSome = true → s.loader.started = false → s.loader.busy = none → s.loader.stream = none →
      s.reg Reg.CFG_LOCK = ownerId 1 s.odx s.ody (b2n port) → natBits (s.lqDw 0) 3 0 = 1 → s.lqDw 4 ≠ 0 → Completes (.load none v) s fun t =>
        asked t (s.lqDw 2 + 2 ^ 32 * s.lqDw 3) (min (s.lqDw 4) 4096) .lqData ∧
        t = { s with out := t.out, hostReads := t.hostReads, nextRead := t.nextRead, loader := { s.loader with
                started := true
                stream := some { src := .queue, region := natBits (s.lqDw 0) 15 8, op := 1, bytes := [], got := 0, total := 0, man := none, blk := 0 } } }) ∧
    (s.accepts path Reg.CFG_DATA v = true → s.loader.stream = some x → x.src = .reg p → x.op = 1 →
      (s.reg Reg.CFG_LOCK ≠ s.pathOwner path → Completes (.cfgData path (some v) id) s fun t => AccessOnly s t fun _ => False) ∧
      (s.reg Reg.CFG_LOCK = s.pathOwner path → x.man = none → x.total = 0 → x.bytes.length + 4 < 64 → Completes (.cfgData path (some v) id) s fun t =>
        t.loader = { s.loader with stream := some { x with bytes := x.bytes ++ bytesLE 4 v.toNat, got := x.got + 4 } } ∧
        AccessOnly { s with loader := t.loader } t fun _ => False)) ∧
    (∀ blk desc rest, s.up = true → s.lcState ≠ 4 → s.reach .mgmt Reg.CFG_DATA true false = .inl (blk, .reg desc) → desc.readMask = 0xFFFFFFFF#32 →
      s.loader.readBuf = w :: rest → Completes (.cfgData .mgmt none id) s fun t => (∃ l st, t.out = l ++ [.mgmt st (some w)]) ∧
        t.loader = { s.loader with readBuf := rest } ∧ AccessOnly { s with loader := t.loader } t fun _ => False) ∧
    (s.up = true →
      (s.loader.stream = none → Completes .loaderBlock s fun t => t = s) ∧
      (s.loader.stream = some x → x.man = some man → man.blks[x.blk]? = some b → ∀ k, keyOfFar b.far = some k →
        let len := blkBytes man.enc b
        let ended := fun (t : State) (opened : Prop) (reason : Nat) => x.src = .reg p → t.loader = { s.loader with stream := none } ∧ loaderResult t x.region x.op reason ∧
          ∀ q ∈ man.regs, q.num < 256 → s.regState q.num = 1 ∨ opened → t.regState q.num = 2 ∧
            t.fld (Fld.CFG_REG_STAT_COMPLETE q.num) = if reason = 0 then 1 else 0
        (x.bytes.length < len → Completes .loaderBlock s fun t => t = s) ∧
        (∀ reason, len ≤ x.bytes.length → s.blockPlain man x.blk b (x.bytes.take len) = .inr reason → Completes .loaderBlock s fun t =>
          ended t False reason ∧ t.frames = s.frames) ∧
        (∀ plain, len ≤ x.bytes.length → s.blockPlain man x.blk b (x.bytes.take len) = .inl plain →
          ((∀ i, i < b.count → frameBad plain k i = none) → Completes .loaderBlock s fun t =>
            (∀ i, i < b.count → t.frame (k + i) = blockFrame plain i) ∧ (∀ j, j < k ∨ k + b.count ≤ j → t.frame j = s.frame j) ∧
            (x.blk + 1 = man.blks.length → ended t (x.blk = 0) 0) ∧
            (x.blk + 1 < man.blks.length → t.loader = { s.loader with stream := some { x with bytes := x.bytes.drop len, blk := x.blk + 1 } } ∧
              (∀ i, i < b.count → SMap.get [] t.upsets (k + i) = []) ∧
              let wrote : State := { s with frames := t.frames, upsets := t.upsets, engines := t.engines, regions := t.regions, loader := t.loader }
              (x.blk ≠ 0 → WritesOnly wrote t fun _ => False) ∧
              (x.blk = 0 → (∀ q ∈ man.regs, q.num < 256) → (∀ q ∈ man.regs, t.regState q.num = 1) ∧ WritesOnly { wrote with ffs := t.ffs } t fun a =>
                ∃ q ∈ man.regs, a = Reg.CFG_REG_SECLO q.num ∨ a = Reg.CFG_REG_SECHI q.num ∨ a = Reg.CFG_REG_STAT q.num))) ∧
          (∀ i bit reason, i < b.count → frameBad plain k i = some (bit, reason) → (∀ j, j < i → frameBad plain k j = none) → Completes .loaderBlock s fun t =>
            (∀ j, j < i → t.frame (k + j) = blockFrame plain j) ∧ (∀ j, j < k ∨ k + i ≤ j → t.frame j = s.frame j) ∧
            ended t (x.blk = 0) reason ∧
            (x.src = .reg p → t.reg Reg.CFG_FAULTFAR = BitVec.ofNat 32 (farOfKey (k + i)) ∧ t.reg Reg.CFG_FAULTBIT = BitVec.ofNat 32 bit)))) ∧
      (s.loader.busy = none → (Completes .freezeComplete s fun t => t = s) ∧ Completes .clearComplete s fun t => t = s) ∧
      (s.loader.busy = some c → c.src = .reg p → c.region < 256 →
        let only := fun (t : State) => SignalsOnly { s with loader := { s.loader with busy := none } } t loaderMarks
        (c.clear = false → s.regionFenced c.region = false → Completes .freezeComplete s fun t => t = s) ∧
        (c.clear = false → s.regionFenced c.region = true → s.regState c.region = 3 → Completes .freezeComplete s fun t =>
          loaderResult t c.region 3 0 ∧ only t) ∧
        (c.clear = true → Completes .clearComplete s fun t => loaderResult t c.region 6 0 ∧ t.regState c.region = 0 ∧ t.regSectors c.region = 0 ∧
          t.loader = { s.loader with busy := none } ∧
          (∀ j, (∃ e ∈ sectorList (s.regSectors c.region), s.keyIn e.1 e.2 j = true) → t.frame j = 0) ∧
          (∀ j, (∀ e ∈ sectorList (s.regSectors c.region), s.keyIn e.1 e.2 j = false) → t.frame j = s.frame j))) ∧
      (s.lcs.attWait = false → (∀ q ∈ s.loader.commits, q.epoch ≠ epoch) →
        (Completes .commitEpoch s fun t => t = s) ∧
        Completes .loaderEpoch s fun t => t.fld Fld.CFG_EPOCH_EPOCH = (epoch + 1) % 65536 ∧ WritesOnly s t fun a => a = Reg.CFG_EPOCH) ∧
      (∀ ents, s.lcs.attWait = false → r < 256 → s.loader.commits = [{ region := r, epoch := epoch, ents := ents, src := .reg p }] →
        let done := fun (t : State) => t.loader = { s.loader with commits := [] } ∧ t.fld Fld.CFG_STATUS_CGFREE = (free + ents.length) % 512
        let only := fun (t : State) => SignalsOnly { s with loader := t.loader } t fun a => loaderMarks a ∨ a = Reg.CFG_STATUS ∨ a = Reg.CFG_FAULTFAR
        (s.regState r ≠ 2 → s.regState r ≠ 3 → Completes .commitEpoch s fun t => done t ∧ loaderResult t r 4 7 ∧ only t) ∧
        (∀ i e, s.regState r = 2 ∨ s.regState r = 3 → ents[i]? = some e → s.entryOk (.reg p) e = false →
          (∀ j, j < i → ∀ y, ents[j]? = some y → s.entryOk (.reg p) y = true) → Completes .commitEpoch s fun t => done t ∧ loaderResult t r 4 22 ∧
            t.reg Reg.CFG_FAULTFAR = BitVec.ofNat 32 i ∧ only t) ∧
        (s.ringQuiet → s.regState r = 2 ∨ s.regState r = 3 → ents = [] ∨ ents = [(Reg.CFG_ARG0, w)] →
          (∀ blk sel, regSel Reg.CFG_ARG0 = some (blk, sel) → s.blockOff blk = none ∧ s.featureOff blk = false) → Completes .commitEpoch s fun t =>
            done t ∧ loaderResult t r 4 0 ∧ t.regState r = 3 ∧ t.regFrozen r = false ∧ t.fld (Fld.CFG_REG_EPOCH_EPOCH r) = epoch ∧
            (∀ e ∈ s.regPorts r, t.fld (Fld.RTR_PORT_FENCED e.die.toNat e.router e.p.toNat) = 0) ∧
            t.reg Reg.CFG_ARG0 = if ents = [] then s.reg Reg.CFG_ARG0 else w)) ∧
      (s.bit Fld.CFG_SCRUB_EN = false ∨ s.dieOk d.val = false → Completes (.scrubFrame d flips) s fun t => t = s) ∧
      (s.bit Fld.CFG_SCRUB_EN = true → s.dieOk d.val = true → SMap.get 0 s.scrub d.val + 1 < 16 * 192 * 384 →
        let next := fun (t : State) => SMap.get 0 t.scrub d.val = SMap.get 0 s.scrub d.val + 1
        let idle := ∀ q, s.frameRegion key = some q → s.regState q ≠ 1
        let reads : Instr := .scrubFrame d []
        let clean := flipFrame (s.frame key) (dataFlips held)
        let stays := fun (t : State) => ∀ j, j ≠ key → t.frame j = s.frame j ∧ SMap.get [] t.upsets j = SMap.get [] s.upsets j
        let counts := fun a => a = Reg.CFG_SCRUBCNT ∨ a = Reg.CFG_IRQ_STATUS
        let touched := fun (t : State) => SignalsOnly { s with frames := t.frames, ffs := t.ffs, upsets := t.upsets, scrub := t.scrub } t counts
        (∀ q, s.frameRegion key = some q → s.regState q = 1 → Completes reads s fun t => next t ∧ t = { s with scrub := t.scrub }) ∧
        (idle → held = [] → Completes reads s fun t => next t ∧ t.frame key = s.frame key ∧ SMap.get [] t.upsets key = [] ∧ stays t ∧
          WritesOnly { s with frames := t.frames, ffs := t.ffs, upsets := t.upsets, scrub := t.scrub } t fun _ => False) ∧
        (∀ n word bit, idle → held = [] → SMap.get [] s.upsets (base + n) = [] → Completes (.scrubFrame d [(n, word, bit)]) s fun t => next t ∧
          t.frame (base + n) = flipFrame (s.frame (base + n)) (if bit < 64 then [64 * word + bit] else []) ∧
          SMap.get [] t.upsets (base + n) = [(word, bit)] ∧ (∀ j, j ≠ base + n → t.frame j = s.frame j) ∧
          WritesOnly { s with frames := t.frames, ffs := t.ffs, upsets := t.upsets, scrub := t.scrub } t fun _ => False) ∧
        (∀ e, idle → held = [e] → checked e →
          (frameTwoHot key clean = false → Completes reads s fun t => next t ∧ t.frame key = clean ∧ SMap.get [] t.upsets key = [] ∧ stays t ∧
            counted t Fld.CFG_SCRUBCNT_CORRECTED ∧ t.fld Fld.CFG_IRQ_STATUS_CORR = 1 ∧ touched t) ∧
          (∀ q, frameTwoHot key clean = true → s.frameRegion key = some q → s.regState q = 2 ∨ s.regState q = 3 → s.loader.stream = none →
            Completes reads s fun t => next t ∧ t.frame key = clean ∧ counted t Fld.CFG_SCRUBCNT_CORRECTED ∧ t.regState q = 4)) ∧
        (∀ e f, held = [e, f] → checked e → checked f → e.1 = f.1 → e.2 ≠ f.2 →
          (s.frameRegion key = none → Completes reads s fun t => next t ∧ t.frame key = s.frame key ∧ SMap.get [] t.upsets key = [e, f] ∧ stays t ∧
            counted t Fld.CFG_SCRUBCNT_UNCORR ∧ t.fld Fld.CFG_IRQ_STATUS_UNCORR = 1 ∧ touched t) ∧
          (∀ q, s.frameRegion key = some q → s.regState q = 2 ∨ s.regState q = 3 → s.loader.stream = none → Completes reads s fun t =>
            next t ∧ t.frame key = s.frame key ∧ counted t Fld.CFG_SCRUBCNT_UNCORR ∧ t.regState q = 4))))

/-! ## System pins and probes (R578 to R580, R636 to R651) -/

/-- R578 to R580, R637 and R639 to R648: the probe multiplexers, claims, pin frames, GPIO, filter timers, and the controllers behind the pins. -/
def Obligations.PinsAndProbes : Prop :=
  ∀ (s : State) (path : Path) (d k4 : Fin 4) (k8 : Fin 8) (u : Fin 2) (p : Fin 64) (slot : Fin 256) (v : Word) (id : Nat) (b : Byte) (drive level : BitVec 64),
    let who := s.pathOwner path
    let pinsOnly := fun (t : State) (regs : Nat → Prop) => AccessOnly { s with pins := t.pins } t regs
    let status := fun (t : State) => natBit (t.reg (if p.val < 32 then Reg.PIN_IRQ_STATUS_LO else Reg.PIN_IRQ_STATUS_HI)).toNat (p.val % 32)
    let irq := fun a => a = Reg.PIN_IRQ_STATUS_LO ∨ a = Reg.PIN_IRQ_STATUS_HI
    let mgmtReads := fun (addr : Nat) (mask : Word) => s.up = true ∧ s.lcState ≠ 4 ∧ ∃ blk desc, s.reach .mgmt addr true false = .inl (blk, .reg desc) ∧
      s.featureOff blk = false ∧ desc.readMask = mask
    let answers := fun (t : State) (w : Word) => ∃ l st, t.out = l ++ [.mgmt st (some w)]
    -- probes
    let owner := Reg.PRB_OWNER d.val
    let ctrl := Reg.PRB_CTRL d.val
    let stat := Reg.PRB_STAT d.val
    let arm := setBits v 31 31 1
    let at_ := s.fld (Fld.PRB_RDADDR_ADDR d.val)
    let next := s.fld (Fld.PRB_STAT_NEXT d.val)
    (s.dieOk d.val = true → (s.accepts path (Reg.PRB_OWNER_OP d.val) 1 = true → Completes (.prbOwnerOp path d true) s fun t =>
        t.reg owner = (if s.reg owner = 0 then who else s.reg owner) ∧ AccessOnly s t fun a => a = owner) ∧
      (s.accepts path (Reg.PRB_OWNER_OP d.val) 0 = true → Completes (.prbOwnerOp path d false) s fun t =>
        t.reg owner = (if s.reg owner = who then 0 else s.reg owner) ∧ AccessOnly s t fun a => a = owner) ∧
      (s.accepts path (Reg.PRB_SEL d.val slot.val) v = true →
        let isOpen := s.probesOpen d.val (bits v 30 21) (bits v 20 11)
        (s.reg owner ≠ who → Completes (.prbSel path d slot v) s fun t => AccessOnly s t fun _ => False) ∧
        (s.reg owner = who → isOpen = true → Completes (.prbSel path d slot v) s fun t => t.reg (Reg.PRB_SEL d.val slot.val) = v &&& 0xFFFFF81F#32 ∧
          AccessOnly s t fun a => a = Reg.PRB_SEL d.val slot.val) ∧
        (s.reg owner = who → isOpen = false → Completes (.prbSel path d slot v) s fun t => t.fld (Fld.PRB_STAT_REFUSED d.val) = 1 ∧
          AccessOnly s t fun a => a = stat)) ∧
      (s.accepts path ctrl arm = true →
        (s.reg owner ≠ who → Completes (.prbArm path d v) s fun t => AccessOnly s t fun _ => False) ∧
        (s.reg owner = who → s.bit (Fld.PRB_CTRL_ARM d.val) = false → Completes (.prbArm path d v) s fun t => t.reg ctrl = arm &&& 0x8F003FFF#32 ∧
          t.reg stat = s.reg stat &&& 0x20000000#32 ∧ SMap.find t.probeLeft d.val = none ∧
          AccessOnly { s with probeLeft := t.probeLeft } t fun a => a = ctrl ∨ a = stat) ∧
        (s.reg owner = who → s.bit (Fld.PRB_CTRL_ARM d.val) = true → Completes (.prbArm path d v) s fun t => t.reg ctrl = arm &&& 0x8F003FFF#32 ∧
          AccessOnly s t fun a => a = ctrl))) ∧
    (mgmtReads (Reg.PRB_RDDATA d.val) 0xFFFFFFFF → Completes (.prbRddata .mgmt d id) s fun t =>
      answers t ((SMap.get 0 s.probeBuf (16384 * d.val + at_ / 8)).extractLsb' (32 * (at_ % 8)) 32) ∧
      t.fld (Fld.PRB_RDADDR_ADDR d.val) = (at_ + 1) % 2 ^ 17 ∧ AccessOnly s t fun a => a = Reg.PRB_RDADDR d.val) ∧
    (s.up = true →
      let samples := s.feature 11 = true ∧ s.bit (Fld.PRB_CTRL_ARM d.val) = true ∧ s.spineRuns d.val (s.fld (Fld.PRB_CTRL_SPINE d.val)) = true
      let trig := s.bit (Fld.PRB_STAT_TRIGGERED d.val)
      let mask := s.reg (Reg.PRB_TRIGMASK d.val)
      let meets := mask = 0 ∨ BitVec.ofNat 32 (s.probeSlots d.val) &&& mask = s.reg (Reg.PRB_TRIGVAL d.val)
      let left := SMap.get 0 s.probeLeft d.val
      let post := s.fld (Fld.PRB_CTRL_POST d.val)
      let took := fun (t : State) => (∀ j, j < 256 → (SMap.get 0 t.probeBuf (16384 * d.val + next)).getLsbD j = s.probeSlot d.val j) ∧
        (∀ i, i ≠ 16384 * d.val + next → SMap.get 0 t.probeBuf i = SMap.get 0 s.probeBuf i) ∧ t.fld (Fld.PRB_STAT_NEXT d.val) = (next + 1) % 16384 ∧
        WritesOnly { s with probeBuf := t.probeBuf, probeLeft := t.probeLeft } t fun a => a = stat ∨ a = ctrl
      let armed := fun (t : State) => t.fld (Fld.PRB_CTRL_ARM d.val) = 1
      (¬samples → Completes (.probeSample d) s fun t => t = s) ∧
      (samples → trig = false → ¬meets → Completes (.probeSample d) s fun t => took t ∧ armed t ∧ t.bit (Fld.PRB_STAT_TRIGGERED d.val) = false) ∧
      (samples → trig = false → meets → Completes (.probeSample d) s fun t => took t ∧ t.bit (Fld.PRB_STAT_TRIGGERED d.val) = true ∧
        t.fld (Fld.PRB_STAT_TRIGIDX d.val) = next ∧ (post = 0 → ¬armed t) ∧ (post ≠ 0 → armed t ∧ SMap.get 0 t.probeLeft d.val = post)) ∧
      (samples → trig = true → Completes (.probeSample d) s fun t => took t ∧ t.bit (Fld.PRB_STAT_TRIGGERED d.val) = true ∧
        (left ≤ 1 → ¬armed t) ∧ (1 < left → armed t ∧ SMap.get 0 t.probeLeft d.val = left - 1))) ∧
    -- claims, GPIO and filter timers over a register path
    (s.accepts path (Reg.PIN_CFG p.val) v = true →
      let func := bits v 1 0
      let cur := s.curFunc p.val
      let other := if p.val < 56 then p.val + 32 else p.val - 32
      let taken := (pinTimer p.val func).isSome = true ∧ (pinTimer other (s.curFunc other)).isSome = true
      let reason := if func ≠ 0 ∧ cur ≠ 0 ∧ cur ≠ func then 1 else if func ≠ 0 ∧ cur ≠ func ∧ taken then 2
        else if noFunc p.val func = true then 3 else if bits v 31 29 ≠ 0 ∧ s.reg (Reg.PIN_FT_OWNER (bits v 28 27)) ≠ who then 4 else 0
      (reason = 0 → Completes (.pinClaim path p v) s fun t => SMap.find t.shadow (Reg.PIN_CFG p.val) = some (s.pullXor v &&& 0xF800003B#32) ∧
        (∀ a, a ≠ Reg.PIN_CFG p.val → SMap.find t.shadow a = SMap.find s.shadow a) ∧ AccessOnly { s with shadow := t.shadow } t fun _ => False) ∧
      (reason ≠ 0 → Completes (.pinClaim path p v) s fun t =>
        t.fld Fld.PIN_CLAIMERR_COUNT = min 65535 (s.fld Fld.PIN_CLAIMERR_COUNT + 1) ∧ t.fld Fld.PIN_CLAIMERR_VALID = 1 ∧
        (s.fld Fld.PIN_CLAIMERR_VALID = 0 → t.fld Fld.PIN_CLAIMERR_REASON = reason ∧ t.fld Fld.PIN_CLAIMERR_PIN = p.val) ∧
        AccessOnly s t fun a => a = Reg.PIN_CLAIMERR)) ∧
    (
      let old := fun (n : Nat) => SMap.get 0 s.pins.gpio n
      let masked := fun (t : State) (n : Nat) => (∀ j, j < 16 →
          natBit (SMap.get 0 t.pins.gpio n) (16 + j) = (natBit (old n) (16 + j) || natBit v.toNat (16 + j)) ∧
          natBit (SMap.get 0 t.pins.gpio n) j = if natBit v.toNat (16 + j) then natBit v.toNat j else natBit (old n) j) ∧
        (∀ i, i ≠ n → SMap.get 0 t.pins.gpio i = SMap.get 0 s.pins.gpio i) ∧ t.pins = { s.pins with gpio := t.pins.gpio } ∧ pinsOnly t fun _ => False
      (s.accepts path (Reg.GPIO_OUT_M k4.val) v = true → Completes (.gpioOut path k4 v) s fun t => masked t k4.val) ∧
      (s.accepts path (Reg.GPIO_OE_M k4.val) v = true → Completes (.gpioOe path k4 v) s fun t => masked t (4 + k4.val))) ∧
    (
      let held := Reg.PIN_FT_OWNER k4.val
      (s.accepts path (Reg.PIN_FT_OP k4.val) 1 = true → Completes (.ftAcquire path k4) s fun t =>
        t.reg held = (if s.reg held = 0 then who else s.reg held) ∧ AccessOnly s t fun a => a = held) ∧
      (s.accepts path (Reg.PIN_FT_OP k4.val) 0 = true → Completes (.ftRelease path k4) s fun t =>
        t.reg held = (if s.reg held = who then 0 else s.reg held) ∧ AccessOnly s t fun a => a = held)) ∧
    (s.up = true →
      (s.clk.aonClocked = false → Completes (.pinFrame drive level) s fun t => t = s) ∧
      (s.clk.aonClocked = true → Completes (.pinFrame drive level) s fun t =>
        t.reg Reg.PIN_TICKS = s.reg Reg.PIN_TICKS + 1 ∧ t.pins.drive = drive ∧ t.pins.sync2 = s.pins.sync1 ∧ t.pins.gpio = [] ∧
        SMap.find t.shadow (Reg.PIN_CFG p.val) = none ∧
        (∀ w, SMap.find s.shadow (Reg.PIN_CFG p.val) = some w → t.pinFunc p.val = bits w 1 0 ∧ t.fld (Fld.PIN_CFG_PULL p.val) = bits w 4 3 ∧
          t.fld (Fld.PIN_CFG_DRIVE p.val) = bits w 5 5 ∧ t.fld (Fld.PIN_CFG_IRQMODE p.val) = bits w 31 29 ∧ t.fld (Fld.PIN_CFG_FT p.val) = bits w 28 27 ∧
          (t.pinFree p.val = false ↔ bits w 1 0 ≠ s.pinFunc p.val)) ∧
        (SMap.find s.shadow (Reg.PIN_CFG p.val) = none → t.reg (Reg.PIN_CFG p.val) = s.reg (Reg.PIN_CFG p.val) ∧ t.pinFree p.val = true ∧
          (s.pinFree p.val = false → t.pins.filt.getLsbD p.val = s.pins.sync1.getLsbD p.val ∧ SMap.get 0 t.pins.cnt p.val = 0) ∧
          (s.pinFree p.val = true → t.pins.filt.getLsbD p.val = s.pins.filt.getLsbD p.val ∧
            ((s.fld (Fld.PIN_CFG_IRQMODE p.val) = 4 ∧ s.pins.filt.getLsbD p.val = true) ∨
              (s.fld (Fld.PIN_CFG_IRQMODE p.val) = 5 ∧ s.pins.filt.getLsbD p.val = false) → status t = true))) ∧
        (∀ e j, s.pins.gpio = [(k4.val, e)] → e < 2 ^ 32 → j < 16 → natBit (t.reg (Reg.GPIO_OUT_M k4.val)).toNat j =
          if natBit e (16 + j) then natBit e j else natBit (s.reg (Reg.GPIO_OUT_M k4.val)).toNat j) ∧
        (∀ e j, s.pins.gpio = [(4 + k4.val, e)] → e < 2 ^ 32 → j < 16 → natBit (t.reg (Reg.GPIO_OE_M k4.val)).toNat j =
          if natBit e (16 + j) then natBit e j else natBit (s.reg (Reg.GPIO_OE_M k4.val)).toNat j)) ∧
      (
        let period := s.fld (Fld.PIN_FT_PERIOD k4.val)
        let ticks := SMap.get 0 s.pins.strobe k4.val
        let need := max 1 (s.fld (Fld.PIN_FT_COUNT k4.val))
        let x := s.pins.sync2.getLsbD p.val
        let was := s.pins.filt.getLsbD p.val
        let n := SMap.get 0 s.pins.cnt p.val
        let mode := s.fld (Fld.PIN_CFG_IRQMODE p.val)
        let sampled := s.fld (Fld.PIN_CFG_FT p.val) = k4.val ∧ s.pinFree p.val = true
        let now := fun (t : State) (f : Bool) (m : Nat) => t.pins.filt.getLsbD p.val = f ∧ SMap.get 0 t.pins.cnt p.val = m
        (period = 0 ∨ ticks < period → Completes (.filterStrobe k4) s fun t => t = s) ∧
        (period ≠ 0 → period ≤ ticks → Completes (.filterStrobe k4) s fun t => SMap.get 0 t.pins.strobe k4.val = ticks - period ∧
          (¬sampled → now t was n) ∧ (sampled → x = was → now t was 0) ∧ (sampled → x ≠ was → n + 1 < need → now t was (n + 1)) ∧
          (sampled → x ≠ was → need ≤ n + 1 → now t x 0 ∧ (mode = 3 ∨ (mode = 1 ∧ x = true) ∨ (mode = 2 ∧ x = false) → status t = true)) ∧
          SignalsOnly { s with pins := { s.pins with strobe := t.pins.strobe, cnt := t.pins.cnt, filt := t.pins.filt } } t irq))) ∧
    -- controllers
    (
      let tx := s.fifo (2 * u.val)
      let rx := s.fifo (2 * u.val + 1)
      let rxPin := s.bit (Fld.UART_CTRL_EN u.val) = true ∧ s.pinFunc (13 + 2 * u.val) = 2 ∧ s.pinFree (13 + 2 * u.val) = true
      let txPin := s.pinFunc (12 + 2 * u.val) = 2 ∧ s.pinFree (12 + 2 * u.val) = true
      let fifoIs := fun (t : State) (n : Nat) (l : List Byte) => t.fifo n = l ∧ t.pins = { s.pins with fifo := t.pins.fifo } ∧ ∀ i, i ≠ n → t.fifo i = s.fifo i
      (s.accepts path (Reg.UART_DATA u.val) (b.setWidth 32) = true → Completes (.uartData path u (some b) id) s fun t =>
        fifoIs t (2 * u.val) (if tx.length < 16 then tx ++ [b] else tx) ∧ pinsOnly t fun _ => False) ∧
      (∀ y rest, mgmtReads (Reg.UART_DATA u.val) 0x1FF → rx = y :: rest → Completes (.uartData .mgmt u none id) s fun t =>
        answers t (BitVec.ofNat 32 (256 + y.toNat)) ∧ fifoIs t (2 * u.val + 1) rest ∧ pinsOnly t fun _ => False) ∧
      (mgmtReads (Reg.UART_DATA u.val) 0x1FF → rx = [] → Completes (.uartData .mgmt u none id) s fun t => ∃ w, answers t w ∧ natBit w.toNat 8 = false ∧
        AccessOnly { s with free := t.free } t fun _ => False) ∧
      (s.up = true →
        (¬rxPin → ∀ ok, Completes (.uartRxByte u b ok) s fun t => t = s) ∧
        (rxPin → Completes (.uartRxByte u b false) s fun t => t.fld (Fld.UART_STAT_FRAMING u.val) = 1 ∧ WritesOnly s t fun a => a = Reg.UART_STAT u.val) ∧
        (rxPin → rx.length < 16 → Completes (.uartRxByte u b true) s fun t => fifoIs t (2 * u.val + 1) (rx ++ [b]) ∧ t = { s with pins := t.pins }) ∧
        (rxPin → 16 ≤ rx.length → Completes (.uartRxByte u b true) s fun t => t.fld (Fld.UART_STAT_OVERRUN u.val) = 1 ∧
          WritesOnly s t fun a => a = Reg.UART_STAT u.val) ∧
        (tx = [] ∨ s.bit (Fld.UART_CTRL_EN u.val) = false → Completes (.uartTxByteSent u) s fun t => t = s) ∧
        (∀ y rest, tx = y :: rest → s.bit (Fld.UART_CTRL_EN u.val) = true → Completes (.uartTxByteSent u) s fun t => fifoIs t (2 * u.val) rest ∧
          (txPin → t = { s with pins := t.pins, out := s.out ++ [.uart u.val y] }) ∧ (¬txPin → t = { s with pins := t.pins })))) ∧
    (
      let cmd := Reg.I2C_CMD u.val
      let st := Reg.I2C_STAT u.val
      let ready := s.bit (Fld.I2C_STAT_BUSY u.val) = false ∧ s.bit (Fld.I2C_CTRL_EN u.val) = true
      let starts := fun (c : Instr) (op : Nat) => s.accepts path cmd (setBits v 9 8 op) = true →
        (ready → Completes c s fun t => SMap.find t.pins.i2c u.val = some (setBits v 9 8 op &&& 0xFFF#32) ∧ t.fld (Fld.I2C_STAT_BUSY u.val) = 1 ∧
          (s.i2cClaimed u.val = true → ∃ l, t.out = s.out ++ .i2c u.val (setBits v 9 8 op &&& 0xFFF#32) :: l) ∧
          AccessOnly { s with pins := { s.pins with i2c := t.pins.i2c } } t fun a => a = st) ∧
        (¬ready → Completes c s fun t => AccessOnly s t fun _ => False)
      starts (.i2cWrite path u v) 0 ∧ starts (.i2cReadAck path u v) 1 ∧ starts (.i2cReadNack path u v) 2 ∧
      (s.up = true →
        (SMap.find s.pins.i2c u.val = none → ∀ nack lost, Completes (.i2cByteDone u nack lost b) s fun t => t = s) ∧
        (∀ w, SMap.find s.pins.i2c u.val = some w →
          let ends := fun (t : State) => SMap.find t.pins.i2c u.val = none ∧ t.fld (Fld.I2C_STAT_BUSY u.val) = 0 ∧
            WritesOnly { s with pins := { s.pins with i2c := t.pins.i2c } } t fun a => a = st
          (s.i2cClaimed u.val = true → ∀ nack, Completes (.i2cByteDone u nack true b) s fun t => ends t ∧ t.fld (Fld.I2C_STAT_ARBLOST u.val) = 1) ∧
          (s.i2cClaimed u.val = true → bits w 9 8 = 0 → ∀ nack, Completes (.i2cByteDone u nack false b) s fun t => ends t ∧
            t.fld (Fld.I2C_STAT_NACK u.val) = if nack then 1 else s.fld (Fld.I2C_STAT_NACK u.val)) ∧
          (s.i2cClaimed u.val = true → bits w 9 8 ≠ 0 → ∀ nack, Completes (.i2cByteDone u nack false b) s fun t => ends t ∧
            t.fld (Fld.I2C_STAT_RXDATA u.val) = b.toNat)))) ∧
    (s.up = true →
      let tctrl := Reg.PIN_TMR_CTRL k8.val
      let val := Reg.PIN_TMR_VAL k8.val
      let m := s.fld (Fld.PIN_TMR_CTRL_MODE k8.val)
      let ticks := s.reg Reg.PIN_TICKS
      let on := ∃ q, s.timerPin k8.val = some q ∧ s.pinFree q = true
      let hit := fun (t : State) => t.fld (Fld.PIN_TMR_CTRL_HIT k8.val) = 1
      (∀ rising, on ∧ (m = 3 ∨ (m = 1 ∧ rising = true) ∨ (m = 2 ∧ rising = false)) → Completes (.timerCapture k8 rising) s fun t =>
        t.reg val = ticks ∧ hit t ∧ WritesOnly s t fun a => a = val ∨ a = tctrl) ∧
      (∀ rising, ¬(on ∧ (m = 3 ∨ (m = 1 ∧ rising = true) ∨ (m = 2 ∧ rising = false))) → Completes (.timerCapture k8 rising) s fun t => t = s) ∧
      (
        let matches_ := 4 ≤ m ∧ m ≤ 6 ∧ ticks = s.reg val ∧ s.pins.tmrHit.getLsbD k8.val = false
        (¬matches_ → Completes (.timerMatch k8) s fun t => t = s) ∧
        (matches_ → Completes (.timerMatch k8) s fun t => hit t ∧ t.pins.tmrHit.getLsbD k8.val = true ∧
          t.pins.tmr.getLsbD k8.val = (if m = 4 then true else if m = 5 then false else !s.pins.tmr.getLsbD k8.val) ∧
          (∀ j, j ≠ k8.val → t.pins.tmr.getLsbD j = s.pins.tmr.getLsbD j) ∧
          WritesOnly { s with pins := { s.pins with tmr := t.pins.tmr, tmrHit := t.pins.tmrHit } } t fun a => a = tctrl)) ∧
      Completes .tachWindow s fun t => (∀ f, f < 4 → t.fld (Fld.FAN_STAT_TACH f) = SMap.get 0 s.pins.tach f % 65536) ∧
        WritesOnly { s with pins := { s.pins with tach := [] } } t fun a => ∃ f, f < 4 ∧ a = Reg.FAN_STAT f)

/-! ## Life cycle, identity and attestation (R611 to R635) -/

/-- R611, R613 to R616, R619 to R621, R626, R629, R630 and R632 to R634: life-cycle commands, owner keys, attestation and patches. -/
def Obligations.LifeCycle : Prop :=
  ∀ (s : State) (path : Path) (op : Nat) (bad : List Nat) (rep : List Byte),
    let f := s.fuses
    let res := Reg.LCS_LC_RESULT
    let nonceRegs := fun a => ∃ w, w < 4 ∧ a = Reg.LCS_NONCE w
    let drawn := fun (t : State) => t.free = s.free + 1 ∧
      ∀ w, w < 4 → t.reg (Reg.LCS_NONCE w) = BitVec.ofNat 32 ((Config.freeW256 s.free).toNat / 2 ^ (32 * w))
    let result := fun (t : State) (r : Nat) => t.fld Fld.LCS_LC_RESULT_VALID = 1 ∧ t.fld Fld.LCS_LC_RESULT_RESULT = r
    let begins := fun (n : Nat) (c : Instr) => s.accepts path Reg.LCS_LC_CMD (BitVec.ofNat 32 n) = true →
      (s.lcs.op = none → Completes c s fun t => t.lcs = { s.lcs with op := some n } ∧ t.fld Fld.LCS_LC_RESULT_BUSY = 1 ∧
        AccessOnly { s with lcs := t.lcs } t fun a => a = res) ∧
      (s.lcs.op.isSome = true → Completes c s fun t => result t 5 ∧ drawn t ∧ AccessOnly { s with free := t.free } t fun a => a = res ∨ nonceRegs a)
    let shows := fun a => a = res ∨ nonceRegs a ∨ a = Reg.LCS_STATUS ∨ a = Reg.LCS_SIGN ∨ a = Reg.LCS_PATCH_STAT
    let ended := fun (t : State) (r : Nat) => t.lcs = { s.lcs with op := none } ∧ t.fld Fld.LCS_LC_RESULT_BUSY = 0 ∧ result t r ∧ drawn t
    let refused := fun (t : State) (r : Nat) => ended t r ∧ WritesOnly { s with lcs := t.lcs, free := t.free } t fun a => a = res ∨ nonceRegs a
    let allowed := (op = 1 ∧ f.state = 0) ∨ (op = 2 ∧ f.state = 1) ∨ (op = 3 ∧ (f.state = 1 ∨ f.state = 2)) ∨ (op = 4 ∧ f.state ≠ 4) ∨ (op = 5 ∧ f.state = 3)
    let ready := (op = 2 → s.ownerPkFused = true) ∧ (op = 5 → s.lcState = 3)
    let formed := ∀ n ∈ s.tokensOf op, s.tokenFormat n = true
    let signed := ∀ n ∈ s.tokensOf op, s.tokenSigned n = true
    let words := fun (n : Nat) => (List.range n).flatMap fun w => bytesLE 4 (SMap.get 0 s.lcs.fuseData w).toNat
    let open_ := s.lcState = 1 ∧ f.void = 0
    let fuseFrame := fun (t : State) => t.lcs = { s.lcs with fuseData := [] } ∧
      AccessOnly { s with lcs := t.lcs, fuses := t.fuses } t fun a => a = Reg.LCS_STATUS ∨ a = Reg.LCS_SIGN ∨ a = Reg.LCS_PATCH_STAT
    let q := s.fld Fld.LCS_SIGN_NEXTLEAF
    let att := Reg.LCS_ATT_STAT
    begins 1 (.testToDev path) ∧ begins 2 (.devToField path) ∧ begins 3 (.toReturn path) ∧ begins 4 (.toEnd path) ∧ begins 5 (.diagnosticSession path) ∧
    (s.up = true →
      (s.lcs.op = none → Completes .lcCommandDone s fun t => t = s) ∧
      (s.lcs.op = some op →
        (¬allowed → Completes .lcCommandDone s fun t => refused t 3) ∧
        (allowed → ¬ready → Completes .lcCommandDone s fun t => refused t 4) ∧
        (allowed → ready → ¬formed → Completes .lcCommandDone s fun t => refused t 1) ∧
        (allowed → ready → formed → ¬signed → Completes .lcCommandDone s fun t => refused t 2) ∧
        (allowed → ready → formed → signed → Completes .lcCommandDone s fun t => ended t 0 ∧
          t.fld Fld.LCS_STATUS_STATE = s.fld Fld.LCS_STATUS_STATE ∧ t.fld Fld.LCS_STATUS_FUSED = t.fuses.state ∧
          (op = 1 → t.fuses = { f with dev := 255 } ∧ t.fuses.state = 1) ∧ (op = 2 → t.fuses = { f with field := 255 } ∧ t.fuses.state = 2) ∧
          (op = 3 → t.fuses = { f with void := 255, ownerPk := List.replicate 56 255, ownerAes := BitVec.allOnes 256, ret := 255 } ∧ t.keys = [] ∧
            t.fuses.state = 3 ∧ ∀ k, k < 64 → t.fld (Fld.OBS_KEY_CTRL_STATE k) = 0 ∧ t.reg (Reg.OBS_KEY_OWNER k) = 0) ∧
          (op = 4 → t.fuses = { f with end_ := 255 } ∧ t.phase = .halted ∧ t.fld Fld.PWR_HALT_A_VALID = 1 ∧
            (s.fld Fld.PWR_HALT_A_VALID = 0 → t.fld Fld.PWR_HALT_A_CAUSE = 3)) ∧
          (op = 5 → t.fuses = f ∧ t.fld Fld.LCS_STATUS_DIAG = 1) ∧
          (op ≠ 3 → op ≠ 4 → WritesOnly { s with lcs := t.lcs, free := t.free, fuses := t.fuses } t shows)))) ∧
    (s.accepts path Reg.LCS_FUSE_CMD 1 = true →
      (open_ → s.ownerPkFused = false → Completes (.fuseOwnerPk path) s fun t => t.fuses = { f with ownerPk := words 14 } ∧ fuseFrame t) ∧
      (¬open_ ∨ s.ownerPkFused = true → Completes (.fuseOwnerPk path) s fun t => t.fuses = f ∧ t.fld Fld.LCS_STATUS_FUSEREFUSED = 1 ∧ fuseFrame t)) ∧
    (s.accepts path Reg.LCS_FUSE_CMD 2 = true →
      (open_ → f.ownerAes = 0 → Completes (.fuseOwnerAes path) s fun t => t.fuses = { f with ownerAes := BitVec.ofNat 256 (natLE (words 8)) } ∧ fuseFrame t) ∧
      (¬open_ ∨ f.ownerAes ≠ 0 → Completes (.fuseOwnerAes path) s fun t => t.fuses = f ∧ t.fld Fld.LCS_STATUS_FUSEREFUSED = 1 ∧ fuseFrame t)) ∧
    (s.accepts path Reg.LCS_ATT_CMD 0x80000000 = true →
      (s.bit Fld.LCS_ATT_STAT_BUSY = true → Completes (.attestation path) s fun t => t.fld Fld.LCS_ATT_STAT_VALID = 1 ∧
        t.fld Fld.LCS_ATT_STAT_STATUS = 9 ∧ AccessOnly s t fun a => a = att) ∧
      (s.bit Fld.LCS_ATT_STAT_BUSY = false → s.lcState ≠ 4 → Completes (.attestation path) s fun t => t.fld Fld.LCS_ATT_STAT_BUSY = 1 ∧
        t.lcs = { s.lcs with attWait := true } ∧ AccessOnly { s with lcs := t.lcs } t fun a => a = att)) ∧
    (s.up = true →
      (s.lcs.snap = none → Completes (.attestationDone bad) s fun t => t = s) ∧
      (s.lcs.snap = some rep →
        let signs := fun (t : State) (leaf : Nat) => t.fld Fld.LCS_ATT_STAT_BUSY = 0 ∧ t.fld Fld.LCS_ATT_STAT_VALID = 1 ∧
          t.fld Fld.LCS_ATT_STAT_STATUS = 0 ∧ t.fld Fld.LCS_SIGN_NEXTLEAF = leaf + 1 ∧ t.lcs.snap = none ∧ t.free = s.free + 1 ∧
          t.fld Fld.LCS_ATT_STAT_LENGTH = t.lcs.report.length % 16384 ∧
          ∃ hashes, t.lcs.report = rep.take 24 ++ bytesLE 4 leaf ++ rep.drop 28 ++ bytesBE 4 leaf ++ bytesBE 4 3 ++ hashes ∧ hashes.length = 2820
        let only := fun (t : State) => WritesOnly { s with lcs := t.lcs, free := t.free, fuses := t.fuses } t
          fun a => a = att ∨ a = Reg.LCS_SIGN ∨ a = Reg.LCS_STATUS ∨ a = Reg.LCS_PATCH_STAT
        (2 ^ 20 ≤ q → Completes (.attestationDone bad) s fun t => t.fld Fld.LCS_ATT_STAT_STATUS = 8 ∧ t.fld Fld.LCS_ATT_STAT_BUSY = 0 ∧
          t.fld Fld.LCS_ATT_STAT_VALID = 1 ∧ t.lcs = { s.lcs with snap := none } ∧ WritesOnly { s with lcs := t.lcs } t fun a => a = att) ∧
        (q < 2 ^ 20 → f.epochs.getLsbD (q / 4096) = true → Completes (.attestationDone bad) s fun t => signs t q ∧ t.fuses = f ∧ only t) ∧
        (q < 2 ^ 20 → f.epochs.getLsbD (q / 4096) = false → bad.contains (q / 4096) = false → Completes (.attestationDone bad) s fun t => signs t q ∧
          t.fuses = { f with epochs := f.epochs ||| BitVec.ofNat 256 (2 ^ (q / 4096)) } ∧ only t) ∧
        (∀ e, e = q / 4096 → e + 1 < 256 → f.epochs.getLsbD e = false → bad.contains e = true → f.epochs.getLsbD (e + 1) = true →
          Completes (.attestationDone bad) s fun t => signs t (4096 * (e + 1)) ∧ t.fuses = f ∧ only t))) ∧
    (s.accepts path Reg.LCS_PATCH_CMD 0x80000000 = true → s.flintUp = true →
      let b := s.lcs.staging.flatMap fun w => bytesLE 4 w.toNat
      let len := leAt b 12 4
      (∀ x, s.patchAccept b = some x → lmsVerify Config.oxtelvoPatchKey (slice b 0 (32 + len)) (b.drop (32 + len)) = true ∧ leAt b 0 4 = 0x4854504C ∧
        x.1 = leAt b 4 2 ∧ f.rollback ≤ x.1 ∧ s.lcState ≠ 4 ∧ x.2.1 = leAt b 8 4 ∧ x.2.2 = sha256 (slice b 0 (32 + len)) ∧
        Completes (.patchApply path) s fun t => t.lcs = { s.lcs with staging := [], patch := some (x.1, x.2.2) } ∧
          t.fuses = { f with rollback := max f.rollback x.2.1 } ∧ t.fld Fld.LCS_PATCH_STAT_ACTIVE = 1 ∧ t.fld Fld.LCS_PATCH_STAT_VERSION = x.1 ∧
          t.revs = s.revs.map (fun r => { r with restarted := true }) ∧
          AccessOnly { s with lcs := t.lcs, fuses := t.fuses, revs := t.revs } t fun a => a = Reg.LCS_STATUS ∨ a = Reg.LCS_SIGN ∨
            a = Reg.LCS_PATCH_STAT) ∧
      (s.patchAccept b = none → Completes (.patchApply path) s fun t => t.lcs = { s.lcs with staging := [] } ∧ t.fld Fld.LCS_PATCH_STAT_REFUSED = 1 ∧
        AccessOnly { s with lcs := t.lcs } t fun a => a = Reg.LCS_PATCH_STAT))

/-! ## User transceivers and the test access port (R533 to R542, R623) -/

/-- R534 to R540, R542 and R623: taps, word boundaries, loops, patterns, code words and errors of a transceiver, and each instruction of the
test access port. How patterns, loops and FEC meet is the model's choice (assumption 74), and the layout of the boundary register is free
(assumption 45). -/
def Obligations.TransceiversAndTap : Prop :=
  ∀ (s : State) (d : Fin 4) (t12 : Fin 12) (sel : BitVec 3) (word err : BitVec 160) (tdi : List Bool) (addr : BitVec 48) (v : Word) (n : Fin 16),
    let x := s.xcvSt d.val t12.val
    let on := s.xcvOn d.val t12.val
    let iface := s.xcvIface d.val t12.val
    let cdr := s.bit (Fld.XCV_STAT_CDR_LOCK d.val t12.val)
    let fec := s.bit (Fld.XCV_CTRL_FEC_EN d.val t12.val)
    let lock := s.bit (Fld.XCV_STAT_FEC_LOCK d.val t12.val)
    let stat := Reg.XCV_STAT d.val t12.val
    let cnt := Reg.XCV_FECCNT d.val t12.val
    let becomes := fun (t : State) (y : XcvSt) (regs : Nat → Prop) => t.xcvSt d.val t12.val = y ∧
      (∀ i, i ≠ 12 * d.val + t12.val → SMap.get XcvSt.fresh t.xcv i = SMap.get XcvSt.fresh s.xcv i) ∧ WritesOnly { s with xcv := t.xcv } t regs
    let none_ := fun (_ : Nat) => False
    let txeq := Reg.XCV_TXEQ d.val t12.val
    let lo := 24 - 6 * sel.toNat
    let tap := bits (s.reg txeq) (lo + 5) lo
    let num : Int := if sel = 3 then (tap : Int) else signed 6 tap
    let stepped := fun (t : State) (y : Int) => t.reg txeq = setBits (s.reg txeq) (lo + 5) lo (y % 64).toNat ∧ WritesOnly s t fun a => a = txeq
    let top : Int := if sel = 3 then 63 else 31
    let bottom : Int := if sel = 3 then 0 else -32
    let power := s.phase ≠ .off ∧ s.phase ≠ .hold
    let bypass := fun (c : Instr) (ir : JtagIr) => power → Completes c s fun t =>
      t = { s with jtag := { s.jtag with ir := ir }, out := s.out ++ [.jtag ((false :: tdi).take (max 1 tdi.length))] }
    let boundary := fun (c : Instr) (ir : JtagIr) => power → Completes c s fun t => ∃ cap : List Bool, cap.length = s.boundary.length ∧
      (∀ (i : Nat) (c : BCell), s.boundary[i]? = some c → (s.ballDead c.ball = true → cap[i]? = some false) ∧
        ∀ q, c = { ball := .pin q, role := .input } → cap[i]? = some (s.padLevel q)) ∧
      t = { s with free := s.free + 1, jtag := { ir := ir, cells := (cap ++ tdi).drop tdi.length }
                   out := s.out ++ [.jtag ((cap ++ tdi).take (max 1 tdi.length))] }
    let loop := s.fld (Fld.XCV_CTRL_LOOP d.val t12.val)
    let chk := s.bit (Fld.XCV_PRBS_CHK d.val t12.val)
    let pat := s.fld (Fld.XCV_PRBS_PATTERN d.val t12.val)
    let sends := fun (t : State) (bits : BitVec 160) (y : XcvSt) => t.out = s.out ++ [.xcvTx d.val t12.val (s.xcvLine d.val t12.val bits).1
      (s.xcvTaps d.val t12.val) (s.xcvSwing d.val t12.val)] ∧ t.xcvSt d.val t12.val = { y with txSym := (s.xcvLine d.val t12.val bits).2 }
    let heard := on = true ∧ cdr = true ∧ loop ≠ 1 ∧ loop ≠ 2
    let y : XcvSt := { x with chk := none, prev := some (word, err) }
    (s.up = true →
      (iface = false ∨ 5 ≤ sel.toNat → Completes (.tapInc d t12 sel) s (fun t => t = s) ∧ Completes (.tapDec d t12 sel) s fun t => t = s) ∧
      (iface = true → sel.toNat < 5 →
        (num < top → Completes (.tapInc d t12 sel) s fun t => stepped t (num + 1)) ∧ (num = top → Completes (.tapInc d t12 sel) s fun t => t = s) ∧
        (bottom < num → Completes (.tapDec d t12 sel) s fun t => stepped t (num - 1)) ∧ (num = bottom → Completes (.tapDec d t12 sel) s fun t => t = s)) ∧
      (iface = false → Completes (.rxSlip d t12) s (fun t => t = s) ∧ Completes (.txCwstart d t12) s (fun t => t = s) ∧
        Completes (.rxCwset d t12) s fun t => t = s) ∧
      (iface = true → Completes (.rxSlip d t12) s (fun t => becomes t x.slipped none_) ∧
        Completes (.txCwstart d t12) s fun t => becomes t { x with txPos := 1, txCode := x.txCode.getLast?.toList } none_) ∧
      (iface = true → fec = true → Completes (.rxCwset d t12) s fun t => t.fld (Fld.XCV_STAT_FEC_LOCK d.val t12.val) = 0 ∧
        becomes t { x with line := [(x.rx, x.rxErr)], pos := 0, left := 67 } fun a => a = stat) ∧
      (on = true → s.bit (Fld.XCV_CTRL_TXIDLE d.val t12.val) = false → loop ≠ 1 → loop ≠ 2 →
        (s.bit (Fld.XCV_PRBS_GEN d.val t12.val) = false → Completes (.txUnderrun d t12) s fun t =>
          t.fld (Fld.XCV_STAT_UNDERRUN d.val t12.val) = min 65535 (s.fld (Fld.XCV_STAT_UNDERRUN d.val t12.val) + 1) ∧
          sends t 0 (x.code x.txPos 0) ∧ WritesOnly { s with xcv := t.xcv, out := t.out } t fun a => a = stat) ∧
        (∀ h, s.bit (Fld.XCV_PRBS_GEN d.val t12.val) = true → x.gen = some (pat, h) → Completes (.txUnderrun d t12) s fun t =>
          sends t (wordOf (prbsBits pat 160 h).1) { x with gen := some (pat, (prbsBits pat 160 h).2) } ∧
          WritesOnly { s with xcv := t.xcv, out := t.out } t none_)) ∧
      (loop = 2 → Completes (.txUnderrun d t12) s fun t => t = s) ∧
      (on = false → Completes (.txUnderrun d t12) s (fun t => t = s) ∧ Completes (.cdrLock d t12) s (fun t => t = s) ∧
        Completes (.cdrLockLoss d t12) s fun t => t = s) ∧
      (on = true → Completes (.cdrLock d t12) s (fun t => t.fld (Fld.XCV_STAT_CDR_LOCK d.val t12.val) = 1 ∧ WritesOnly s t fun a => a = stat) ∧
        Completes (.cdrLockLoss d t12) s fun t => t.fld (Fld.XCV_STAT_CDR_LOCK d.val t12.val) = 0 ∧ t.fld (Fld.XCV_STAT_FEC_LOCK d.val t12.val) = 0 ∧
          becomes t { x with line := [], pos := 0, left := 0, chk := none, prev := none } fun a => a = stat) ∧
      (on = false ∨ cdr = false ∨ loop = 1 → Completes (.xcvRxWord d t12 word err) s fun t => t = s) ∧
      (on = true → cdr = true → loop = 2 → s.bit (Fld.XCV_CTRL_TXIDLE d.val t12.val) = false → chk = false → fec = false → x.slip = 0 →
        Completes (.xcvRxWord d t12 word err) s fun t =>
          sends t word { y with rx := word, rxErr := err, cwStart := false, uncorr := false, valid := true } ∧
          WritesOnly { s with xcv := t.xcv, out := t.out } t none_) ∧
      (heard → chk = true → fec = false → x.slip = 0 → Completes (.xcvRxWord d t12 word err) s fun t =>
        let found := prbsCheck pat x.chk word
        t.fld (Fld.XCV_PRBS_ERRORS d.val t12.val) = min 65535 (s.fld (Fld.XCV_PRBS_ERRORS d.val t12.val) + found.1) ∧
        becomes t { y with chk := some (pat, found.2), rx := word, rxErr := err, cwStart := false, uncorr := false, valid := true }
          fun a => a = Reg.XCV_PRBS d.val t12.val) ∧
      (heard → chk = false → fec = false → x.slip ≠ 0 →
        (x.prev = none → Completes (.xcvRxWord d t12 word err) s fun t => becomes t y none_) ∧
        (∀ w e, x.prev = some (w, e) → Completes (.xcvRxWord d t12 word err) s fun t => becomes t { y with
          rx := shifted x.slip w word, rxErr := shifted x.slip e err, cwStart := false, uncorr := false, valid := true } none_)) ∧
      (heard → chk = false → x.slip = 0 →
        (fec = false ∨ (x.left = 0 ∧ lock = false) → Completes (.xcvRxWord d t12 word err) s fun t =>
          becomes t { y with rx := word, rxErr := err, cwStart := false, uncorr := false, valid := true } none_) ∧
        (fec = true → x.left ≠ 0 → Completes (.xcvRxWord d t12 word err) s fun t =>
          (x.left = 1 → t.fld (Fld.XCV_STAT_FEC_LOCK d.val t12.val) = 1) ∧
          becomes t { y with line := x.line ++ [(word, err)], left := x.left - 1, rx := word, rxErr := err, cwStart := false, uncorr := false, valid := true }
            fun a => x.left = 1 ∧ a = stat) ∧
        (∀ w e rest, fec = true → x.left = 0 → lock = true → x.line = (w, e) :: rest →
          let bad := symErrors (((x.line ++ [(word, err)]).take 34).map fun p => p.2)
          let shown := fun (first unc : Bool) => { y with line := rest ++ [(word, err)], pos := (x.pos + 1) % 34, rx := (if unc then w else w ^^^ e)
                                                          rxErr := (if unc then e else 0), cwStart := first, uncorr := unc, valid := true }
          (x.pos ≠ 0 → Completes (.xcvRxWord d t12 word err) s fun t => becomes t (shown false x.uncorr) none_) ∧
          (x.pos = 0 → bad ≤ 15 → Completes (.xcvRxWord d t12 word err) s fun t => becomes t (shown true false) (fun a => a = cnt) ∧
            t.fld (Fld.XCV_FECCNT_CORRECTED d.val t12.val) = min 65535 (s.fld (Fld.XCV_FECCNT_CORRECTED d.val t12.val) + bad)) ∧
          (x.pos = 0 → 15 < bad → Completes (.xcvRxWord d t12 word err) s fun t => becomes t (shown true true) (fun a => a = cnt) ∧
            t.fld (Fld.XCV_FECCNT_UNCORR d.val t12.val) = min 65535 (s.fld (Fld.XCV_FECCNT_UNCORR d.val t12.val) + 1))))) ∧
    bypass (.bypass tdi) .bypass ∧ bypass (.clamp tdi) .clamp ∧ bypass (.highz tdi) .highz ∧
    (power → (Completes (.clamp tdi) s fun t => ∀ q, t.pinOut q = s.cellDrive (.pin q)) ∧ Completes (.highz tdi) s fun t => ∀ q, t.pinOut q = none) ∧
    (power → Completes (.idcode tdi) s fun t => t = { s with jtag := { s.jtag with ir := .idcode }, out := s.out ++
      [.jtag ((((List.range 32).map fun i => Config.idcode.getLsbD i) ++ tdi).take (max 1 tdi.length))] }) ∧
    boundary (.samplePreload tdi) .sample ∧ boundary (.extest tdi) .extest ∧ boundary (.extestPulse tdi) .pulse ∧ boundary (.extestTrain tdi) .train ∧
    (∀ o, s.up = false ∨ s.debugOpen = false → bypass (.dbgacc tdi o) .dbgacc) ∧
    (s.up = true → s.debugOpen = true →
      let jtag := { s.jtag with ir := .dbgacc }
      let e := s.hubRegEp
      Completes (.dbgacc tdi .idle) s (fun t => t = { s with jtag := jtag }) ∧
      (s.accepts .mgmt Reg.CFG_ARG0 v = true → Completes (.dbgacc tdi (.reg (BitVec.ofNat 32 Reg.CFG_ARG0) (some v))) s fun t => t.reg Reg.CFG_ARG0 = v ∧
        AccessOnly { s with jtag := jtag } t fun a => a = Reg.CFG_ARG0) ∧
      (s.drains.contains e = false → (∀ u ∈ s.tags, u.ep ≠ e) → (∀ f ∈ s.fences, f.ep ≠ e) →
        Completes (.dbgacc tdi (.mem 8 addr 0xFF (BitVec.ofNat 74 (n.val + 1)) [])) s fun t => ∃ r u,
          t = { s with jtag := jtag, net := s.net ++ [{ loc := .ingressPort e.x.toNat e.y.toNat e.p.toNat, pkt := r }], tags := s.tags ++ [u] } ∧
          r.cmd = 8 ∧ r.dst = s.homeDst (addr.toNat / 64) ∧ r.src = e ∧ r.addr = addr ∧ r.spec.toNat = n.val + 1 ∧ u.ep = e ∧ u.tag = r.tag ∧
          u.live = true ∧ u.purpose = .debug))
end

