-- ==== Sys2Proof/Laws/Map.lean ====
section
/-! SUPPORT. Reading and writing sparse tables: a read after a write, other keys, and the canonical form. -/

namespace Sys2Proof.Machine

variable {α : Type}

theorem SMap.find_drop_same (m : SMap α) (k : Nat) : SMap.find (SMap.drop m k) k = none := by
  induction m with
  | nil => rfl
  | cons e m ih =>
    obtain ⟨j, v⟩ := e
    by_cases h : j = k <;> simp [SMap.drop, SMap.find, h, ih]

theorem SMap.find_drop_other (m : SMap α) {j k : Nat} (h : j ≠ k) : SMap.find (SMap.drop m k) j = SMap.find m j := by
  induction m with
  | nil => rfl
  | cons e m ih =>
    obtain ⟨i, v⟩ := e
    by_cases hi : i = k
    · have hij : i ≠ j := by omega
      simp [SMap.drop, SMap.find, hi, ih, show k ≠ j by omega]
    · by_cases hij : i = j
      · subst hij; simp [SMap.drop, SMap.find, hi]
      · simp [SMap.drop, SMap.find, hi, hij, ih]

theorem SMap.find_insert_same (m : SMap α) (k : Nat) (v : α) (h : SMap.find m k = none) : SMap.find (SMap.insert m k v) k = some v := by
  induction m with
  | nil => simp [SMap.insert, SMap.find]
  | cons e m ih =>
    obtain ⟨j, w⟩ := e
    by_cases hj : j = k
    · simp [SMap.find, hj] at h
    · simp only [SMap.find, hj, if_false] at h
      by_cases hlt : k < j <;> simp [SMap.insert, SMap.find, hlt, hj, ih h]

theorem SMap.find_insert_other (m : SMap α) {j k : Nat} (v : α) (h : j ≠ k) : SMap.find (SMap.insert m k v) j = SMap.find m j := by
  induction m with
  | nil => simp [SMap.insert, SMap.find, Ne.symm h]
  | cons e m ih =>
    obtain ⟨i, w⟩ := e
    by_cases hlt : k < i
    · simp [SMap.insert, SMap.find, hlt, Ne.symm h]
    · by_cases hi : i = j
      · subst hi; simp [SMap.insert, SMap.find, hlt]
      · simp [SMap.insert, SMap.find, hlt, hi, ih]

theorem SMap.find_set_same (m : SMap α) (k : Nat) (v : α) : SMap.find (SMap.set m k v) k = some v :=
  SMap.find_insert_same _ _ _ (SMap.find_drop_same m k)

theorem SMap.find_set_other (m : SMap α) {j k : Nat} (v : α) (h : j ≠ k) : SMap.find (SMap.set m k v) j = SMap.find m j := by
  rw [SMap.set, SMap.find_insert_other _ _ h, SMap.find_drop_other _ h]

theorem SMap.get_put_same [DecidableEq α] (d : α) (m : SMap α) (k : Nat) (v : α) : SMap.get d (SMap.put d m k v) k = v := by
  by_cases h : v = d <;> simp [SMap.put, SMap.get, h, SMap.find_drop_same, SMap.find_set_same]

theorem SMap.get_put_other [DecidableEq α] (d : α) (m : SMap α) {j k : Nat} (v : α) (h : j ≠ k) :
    SMap.get d (SMap.put d m k v) j = SMap.get d m j := by
  by_cases hv : v = d <;> simp [SMap.put, SMap.get, hv, SMap.find_drop_other _ h, SMap.find_set_other _ _ h]

/-! ## The canonical form -/

theorem SMap.rising_le (m : SMap α) {a b : Nat} (hab : a ≤ b) (h : SMap.risingFrom m b = true) : SMap.risingFrom m a = true := by
  cases m with
  | nil => rfl
  | cons e m => simp only [SMap.risingFrom, Bool.and_eq_true, decide_eq_true_eq] at h ⊢; exact ⟨by omega, h.2⟩

theorem SMap.rising_drop (m : SMap α) (k a : Nat) (h : SMap.risingFrom m a = true) : SMap.risingFrom (SMap.drop m k) a = true := by
  induction m generalizing a with
  | nil => rfl
  | cons e m ih =>
    obtain ⟨j, v⟩ := e
    simp only [SMap.risingFrom, Bool.and_eq_true, decide_eq_true_eq] at h
    by_cases hj : j = k
    · simp only [SMap.drop, hj, if_true]; exact ih _ (SMap.rising_le _ (by omega) h.2)
    · simp only [SMap.drop, hj, if_false, SMap.risingFrom, Bool.and_eq_true, decide_eq_true_eq]; exact ⟨h.1, ih _ h.2⟩

theorem SMap.rising_insert (m : SMap α) (k a : Nat) (v : α) (hk : a ≤ k) (hn : SMap.find m k = none)
    (h : SMap.risingFrom m a = true) : SMap.risingFrom (SMap.insert m k v) a = true := by
  induction m generalizing a with
  | nil => simp [SMap.insert, SMap.risingFrom, hk]
  | cons e m ih =>
    obtain ⟨j, w⟩ := e
    simp only [SMap.risingFrom, Bool.and_eq_true, decide_eq_true_eq] at h
    by_cases hj : j = k
    · simp [SMap.find, hj] at hn
    · simp only [SMap.find, hj, if_false] at hn
      by_cases hlt : k < j
      · simp only [SMap.insert, hlt, if_true, SMap.risingFrom, Bool.and_eq_true, decide_eq_true_eq]
        exact ⟨hk, by omega, h.2⟩
      · simp only [SMap.insert, hlt, if_false, SMap.risingFrom, Bool.and_eq_true, decide_eq_true_eq]
        exact ⟨h.1, ih _ (by omega) hn h.2⟩

theorem SMap.mem_drop (m : SMap α) (k : Nat) (e : Nat × α) (h : e ∈ SMap.drop m k) : e ∈ m := by
  induction m with
  | nil => exact h
  | cons f m ih =>
    obtain ⟨j, v⟩ := f
    by_cases hj : j = k
    · simp only [SMap.drop, hj, if_true] at h; exact .tail _ (ih h)
    · simp only [SMap.drop, hj, if_false, List.mem_cons] at h
      rcases h with h | h
      · simp [h]
      · exact .tail _ (ih h)

theorem SMap.mem_insert (m : SMap α) (k : Nat) (v : α) (e : Nat × α) (h : e ∈ SMap.insert m k v) : e = (k, v) ∨ e ∈ m := by
  induction m with
  | nil => simpa [SMap.insert] using h
  | cons f m ih =>
    obtain ⟨j, w⟩ := f
    by_cases hlt : k < j
    · simpa [SMap.insert, hlt] using h
    · simp only [SMap.insert, hlt, if_false, List.mem_cons] at h
      rcases h with h | h
      · simp [h]
      · rcases ih h with h | h <;> simp [h]

/-- A write keeps the canonical form. -/
theorem SMap.wf_put [DecidableEq α] (d : Nat → α) (m : SMap α) (k : Nat) (v : α) (h : SMap.wf d m = true) :
    SMap.wf d (SMap.put (d k) m k v) = true := by
  simp only [SMap.wf, Bool.and_eq_true, List.all_eq_true, decide_eq_true_eq] at h ⊢
  obtain ⟨hr, ha⟩ := h
  by_cases hv : v = d k
  · simp only [SMap.put, hv, if_true]
    exact ⟨SMap.rising_drop m k 0 hr, fun e he => ha e (SMap.mem_drop m k e he)⟩
  · simp only [SMap.put, hv, if_false, SMap.set]
    refine ⟨SMap.rising_insert _ k 0 v (Nat.zero_le k) (SMap.find_drop_same m k) (SMap.rising_drop m k 0 hr), fun e he => ?_⟩
    rcases SMap.mem_insert _ k v e he with rfl | he
    · exact hv
    · exact ha e (SMap.mem_drop m k e he)

end Sys2Proof.Machine
end

