-- ==== Sys2Proof/Laws/State.lean ====
section
/-! SUPPORT. What each named update of the state leaves alone: one lemma for each field. -/

namespace Sys2Proof.Machine

/-! ## setReg -/

@[simp] theorem State.setReg_phase (s : State) (a : Nat) (v : Word) : (s.setReg a v).phase = s.phase := rfl
@[simp] theorem State.setReg_shadow (s : State) (a : Nat) (v : Word) : (s.setReg a v).shadow = s.shadow := rfl
@[simp] theorem State.setReg_locks (s : State) (a : Nat) (v : Word) : (s.setReg a v).locks = s.locks := rfl
@[simp] theorem State.setReg_arms (s : State) (a : Nat) (v : Word) : (s.setReg a v).arms = s.arms := rfl
@[simp] theorem State.setReg_heldAcc (s : State) (a : Nat) (v : Word) : (s.setReg a v).heldAcc = s.heldAcc := rfl
@[simp] theorem State.setReg_flintUp (s : State) (a : Nat) (v : Word) : (s.setReg a v).flintUp = s.flintUp := rfl
@[simp] theorem State.setReg_wdog (s : State) (a : Nat) (v : Word) : (s.setReg a v).wdog = s.wdog := rfl
@[simp] theorem State.setReg_revs (s : State) (a : Nat) (v : Word) : (s.setReg a v).revs = s.revs := rfl
@[simp] theorem State.setReg_straps (s : State) (a : Nat) (v : Word) : (s.setReg a v).straps = s.straps := rfl
@[simp] theorem State.setReg_clk (s : State) (a : Nat) (v : Word) : (s.setReg a v).clk = s.clk := rfl
@[simp] theorem State.setReg_treeClosed (s : State) (a : Nat) (v : Word) : (s.setReg a v).treeClosed = s.treeClosed := rfl
@[simp] theorem State.setReg_spines (s : State) (a : Nat) (v : Word) : (s.setReg a v).spines = s.spines := rfl
@[simp] theorem State.setReg_trees (s : State) (a : Nat) (v : Word) : (s.setReg a v).trees = s.trees := rfl
@[simp] theorem State.setReg_drefPhase (s : State) (a : Nat) (v : Word) : (s.setReg a v).drefPhase = s.drefPhase := rfl
@[simp] theorem State.setReg_uports (s : State) (a : Nat) (v : Word) : (s.setReg a v).uports = s.uports := rfl
@[simp] theorem State.setReg_net (s : State) (a : Nat) (v : Word) : (s.setReg a v).net = s.net := rfl
@[simp] theorem State.setReg_inbox (s : State) (a : Nat) (v : Word) : (s.setReg a v).inbox = s.inbox := rfl
@[simp] theorem State.setReg_tags (s : State) (a : Nat) (v : Word) : (s.setReg a v).tags = s.tags := rfl
@[simp] theorem State.setReg_unanswered (s : State) (a : Nat) (v : Word) : (s.setReg a v).unanswered = s.unanswered := rfl
@[simp] theorem State.setReg_fences (s : State) (a : Nat) (v : Word) : (s.setReg a v).fences = s.fences := rfl
@[simp] theorem State.setReg_drains (s : State) (a : Nat) (v : Word) : (s.setReg a v).drains = s.drains := rfl
@[simp] theorem State.setReg_waking (s : State) (a : Nat) (v : Word) : (s.setReg a v).waking = s.waking := rfl
@[simp] theorem State.setReg_wakeFail (s : State) (a : Nat) (v : Word) : (s.setReg a v).wakeFail = s.wakeFail := rfl
@[simp] theorem State.setReg_slices (s : State) (a : Nat) (v : Word) : (s.setReg a v).slices = s.slices := rfl
@[simp] theorem State.setReg_homes (s : State) (a : Nat) (v : Word) : (s.setReg a v).homes = s.homes := rfl
@[simp] theorem State.setReg_dieDown (s : State) (a : Nat) (v : Word) : (s.setReg a v).dieDown = s.dieDown := rfl
@[simp] theorem State.setReg_flush (s : State) (a : Nat) (v : Word) : (s.setReg a v).flush = s.flush := rfl
@[simp] theorem State.setReg_rangeFlush (s : State) (a : Nat) (v : Word) : (s.setReg a v).rangeFlush = s.rangeFlush := rfl
@[simp] theorem State.setReg_links (s : State) (a : Nat) (v : Word) : (s.setReg a v).links = s.links := rfl
@[simp] theorem State.setReg_minbox (s : State) (a : Nat) (v : Word) : (s.setReg a v).minbox = s.minbox := rfl
@[simp] theorem State.setReg_arrivals (s : State) (a : Nat) (v : Word) : (s.setReg a v).arrivals = s.arrivals := rfl
@[simp] theorem State.setReg_wire (s : State) (a : Nat) (v : Word) : (s.setReg a v).wire = s.wire := rfl
@[simp] theorem State.setReg_strips (s : State) (a : Nat) (v : Word) : (s.setReg a v).strips = s.strips := rfl
@[simp] theorem State.setReg_strata (s : State) (a : Nat) (v : Word) : (s.setReg a v).strata = s.strata := rfl
@[simp] theorem State.setReg_cap (s : State) (a : Nat) (v : Word) : (s.setReg a v).cap = s.cap := rfl
@[simp] theorem State.setReg_lode (s : State) (a : Nat) (v : Word) : (s.setReg a v).lode = s.lode := rfl
@[simp] theorem State.setReg_xcv (s : State) (a : Nat) (v : Word) : (s.setReg a v).xcv = s.xcv := rfl
@[simp] theorem State.setReg_jtag (s : State) (a : Nat) (v : Word) : (s.setReg a v).jtag = s.jtag := rfl
@[simp] theorem State.setReg_mica (s : State) (a : Nat) (v : Word) : (s.setReg a v).mica = s.mica := rfl
@[simp] theorem State.setReg_vein (s : State) (a : Nat) (v : Word) : (s.setReg a v).vein = s.vein := rfl
@[simp] theorem State.setReg_micaOut (s : State) (a : Nat) (v : Word) : (s.setReg a v).micaOut = s.micaOut := rfl
@[simp] theorem State.setReg_micaShown (s : State) (a : Nat) (v : Word) : (s.setReg a v).micaShown = s.micaShown := rfl
@[simp] theorem State.setReg_mports (s : State) (a : Nat) (v : Word) : (s.setReg a v).mports = s.mports := rfl
@[simp] theorem State.setReg_erasing (s : State) (a : Nat) (v : Word) : (s.setReg a v).erasing = s.erasing := rfl
@[simp] theorem State.setReg_ddr (s : State) (a : Nat) (v : Word) : (s.setReg a v).ddr = s.ddr := rfl
@[simp] theorem State.setReg_ctr (s : State) (a : Nat) (v : Word) : (s.setReg a v).ctr = s.ctr := rfl
@[simp] theorem State.setReg_otag (s : State) (a : Nat) (v : Word) : (s.setReg a v).otag = s.otag := rfl
@[simp] theorem State.setReg_otree (s : State) (a : Nat) (v : Word) : (s.setReg a v).otree = s.otree := rfl
@[simp] theorem State.setReg_ocache (s : State) (a : Nat) (v : Word) : (s.setReg a v).ocache = s.ocache := rfl
@[simp] theorem State.setReg_metaErr (s : State) (a : Nat) (v : Word) : (s.setReg a v).metaErr = s.metaErr := rfl
@[simp] theorem State.setReg_broken (s : State) (a : Nat) (v : Word) : (s.setReg a v).broken = s.broken := rfl
@[simp] theorem State.setReg_keys (s : State) (a : Nat) (v : Word) : (s.setReg a v).keys = s.keys := rfl
@[simp] theorem State.setReg_treeKey (s : State) (a : Nat) (v : Word) : (s.setReg a v).treeKey = s.treeKey := rfl
@[simp] theorem State.setReg_maxMajor (s : State) (a : Nat) (v : Word) : (s.setReg a v).maxMajor = s.maxMajor := rfl
@[simp] theorem State.setReg_patrol (s : State) (a : Nat) (v : Word) : (s.setReg a v).patrol = s.patrol := rfl
@[simp] theorem State.setReg_frames (s : State) (a : Nat) (v : Word) : (s.setReg a v).frames = s.frames := rfl
@[simp] theorem State.setReg_engines (s : State) (a : Nat) (v : Word) : (s.setReg a v).engines = s.engines := rfl
@[simp] theorem State.setReg_grpNext (s : State) (a : Nat) (v : Word) : (s.setReg a v).grpNext = s.grpNext := rfl
@[simp] theorem State.setReg_engRsp (s : State) (a : Nat) (v : Word) : (s.setReg a v).engRsp = s.engRsp := rfl
@[simp] theorem State.setReg_ffs (s : State) (a : Nat) (v : Word) : (s.setReg a v).ffs = s.ffs := rfl
@[simp] theorem State.setReg_latches (s : State) (a : Nat) (v : Word) : (s.setReg a v).latches = s.latches := rfl
@[simp] theorem State.setReg_padHold (s : State) (a : Nat) (v : Word) : (s.setReg a v).padHold = s.padHold := rfl
@[simp] theorem State.setReg_pads (s : State) (a : Nat) (v : Word) : (s.setReg a v).pads = s.pads := rfl
@[simp] theorem State.setReg_loader (s : State) (a : Nat) (v : Word) : (s.setReg a v).loader = s.loader := rfl
@[simp] theorem State.setReg_regions (s : State) (a : Nat) (v : Word) : (s.setReg a v).regions = s.regions := rfl
@[simp] theorem State.setReg_scrub (s : State) (a : Nat) (v : Word) : (s.setReg a v).scrub = s.scrub := rfl
@[simp] theorem State.setReg_upsets (s : State) (a : Nat) (v : Word) : (s.setReg a v).upsets = s.upsets := rfl
@[simp] theorem State.setReg_probeBuf (s : State) (a : Nat) (v : Word) : (s.setReg a v).probeBuf = s.probeBuf := rfl
@[simp] theorem State.setReg_probeLeft (s : State) (a : Nat) (v : Word) : (s.setReg a v).probeLeft = s.probeLeft := rfl
@[simp] theorem State.setReg_pairs (s : State) (a : Nat) (v : Word) : (s.setReg a v).pairs = s.pairs := rfl
@[simp] theorem State.setReg_hostReads (s : State) (a : Nat) (v : Word) : (s.setReg a v).hostReads = s.hostReads := rfl
@[simp] theorem State.setReg_nextRead (s : State) (a : Nat) (v : Word) : (s.setReg a v).nextRead = s.nextRead := rfl
@[simp] theorem State.setReg_wins (s : State) (a : Nat) (v : Word) : (s.setReg a v).wins = s.wins := rfl
@[simp] theorem State.setReg_hostHeld (s : State) (a : Nat) (v : Word) : (s.setReg a v).hostHeld = s.hostHeld := rfl
@[simp] theorem State.setReg_winNext (s : State) (a : Nat) (v : Word) : (s.setReg a v).winNext = s.winNext := rfl
@[simp] theorem State.setReg_pcie (s : State) (a : Nat) (v : Word) : (s.setReg a v).pcie = s.pcie := rfl
@[simp] theorem State.setReg_sqTurn (s : State) (a : Nat) (v : Word) : (s.setReg a v).sqTurn = s.sqTurn := rfl
@[simp] theorem State.setReg_fuses (s : State) (a : Nat) (v : Word) : (s.setReg a v).fuses = s.fuses := rfl
@[simp] theorem State.setReg_lcs (s : State) (a : Nat) (v : Word) : (s.setReg a v).lcs = s.lcs := rfl
@[simp] theorem State.setReg_pins (s : State) (a : Nat) (v : Word) : (s.setReg a v).pins = s.pins := rfl
@[simp] theorem State.setReg_warned (s : State) (a : Nat) (v : Word) : (s.setReg a v).warned = s.warned := rfl
@[simp] theorem State.setReg_haltDone (s : State) (a : Nat) (v : Word) : (s.setReg a v).haltDone = s.haltDone := rfl
@[simp] theorem State.setReg_out (s : State) (a : Nat) (v : Word) : (s.setReg a v).out = s.out := rfl
@[simp] theorem State.setReg_pending (s : State) (a : Nat) (v : Word) : (s.setReg a v).pending = s.pending := rfl
@[simp] theorem State.setReg_free (s : State) (a : Nat) (v : Word) : (s.setReg a v).free = s.free := rfl

/-! ## setFld -/

@[simp] theorem State.setFld_phase (s : State) (f : RField) (x : Nat) : (s.setFld f x).phase = s.phase := rfl
@[simp] theorem State.setFld_shadow (s : State) (f : RField) (x : Nat) : (s.setFld f x).shadow = s.shadow := rfl
@[simp] theorem State.setFld_locks (s : State) (f : RField) (x : Nat) : (s.setFld f x).locks = s.locks := rfl
@[simp] theorem State.setFld_arms (s : State) (f : RField) (x : Nat) : (s.setFld f x).arms = s.arms := rfl
@[simp] theorem State.setFld_heldAcc (s : State) (f : RField) (x : Nat) : (s.setFld f x).heldAcc = s.heldAcc := rfl
@[simp] theorem State.setFld_flintUp (s : State) (f : RField) (x : Nat) : (s.setFld f x).flintUp = s.flintUp := rfl
@[simp] theorem State.setFld_wdog (s : State) (f : RField) (x : Nat) : (s.setFld f x).wdog = s.wdog := rfl
@[simp] theorem State.setFld_revs (s : State) (f : RField) (x : Nat) : (s.setFld f x).revs = s.revs := rfl
@[simp] theorem State.setFld_straps (s : State) (f : RField) (x : Nat) : (s.setFld f x).straps = s.straps := rfl
@[simp] theorem State.setFld_clk (s : State) (f : RField) (x : Nat) : (s.setFld f x).clk = s.clk := rfl
@[simp] theorem State.setFld_treeClosed (s : State) (f : RField) (x : Nat) : (s.setFld f x).treeClosed = s.treeClosed := rfl
@[simp] theorem State.setFld_spines (s : State) (f : RField) (x : Nat) : (s.setFld f x).spines = s.spines := rfl
@[simp] theorem State.setFld_trees (s : State) (f : RField) (x : Nat) : (s.setFld f x).trees = s.trees := rfl
@[simp] theorem State.setFld_drefPhase (s : State) (f : RField) (x : Nat) : (s.setFld f x).drefPhase = s.drefPhase := rfl
@[simp] theorem State.setFld_uports (s : State) (f : RField) (x : Nat) : (s.setFld f x).uports = s.uports := rfl
@[simp] theorem State.setFld_net (s : State) (f : RField) (x : Nat) : (s.setFld f x).net = s.net := rfl
@[simp] theorem State.setFld_inbox (s : State) (f : RField) (x : Nat) : (s.setFld f x).inbox = s.inbox := rfl
@[simp] theorem State.setFld_tags (s : State) (f : RField) (x : Nat) : (s.setFld f x).tags = s.tags := rfl
@[simp] theorem State.setFld_unanswered (s : State) (f : RField) (x : Nat) : (s.setFld f x).unanswered = s.unanswered := rfl
@[simp] theorem State.setFld_fences (s : State) (f : RField) (x : Nat) : (s.setFld f x).fences = s.fences := rfl
@[simp] theorem State.setFld_drains (s : State) (f : RField) (x : Nat) : (s.setFld f x).drains = s.drains := rfl
@[simp] theorem State.setFld_waking (s : State) (f : RField) (x : Nat) : (s.setFld f x).waking = s.waking := rfl
@[simp] theorem State.setFld_wakeFail (s : State) (f : RField) (x : Nat) : (s.setFld f x).wakeFail = s.wakeFail := rfl
@[simp] theorem State.setFld_slices (s : State) (f : RField) (x : Nat) : (s.setFld f x).slices = s.slices := rfl
@[simp] theorem State.setFld_homes (s : State) (f : RField) (x : Nat) : (s.setFld f x).homes = s.homes := rfl
@[simp] theorem State.setFld_dieDown (s : State) (f : RField) (x : Nat) : (s.setFld f x).dieDown = s.dieDown := rfl
@[simp] theorem State.setFld_flush (s : State) (f : RField) (x : Nat) : (s.setFld f x).flush = s.flush := rfl
@[simp] theorem State.setFld_rangeFlush (s : State) (f : RField) (x : Nat) : (s.setFld f x).rangeFlush = s.rangeFlush := rfl
@[simp] theorem State.setFld_links (s : State) (f : RField) (x : Nat) : (s.setFld f x).links = s.links := rfl
@[simp] theorem State.setFld_minbox (s : State) (f : RField) (x : Nat) : (s.setFld f x).minbox = s.minbox := rfl
@[simp] theorem State.setFld_arrivals (s : State) (f : RField) (x : Nat) : (s.setFld f x).arrivals = s.arrivals := rfl
@[simp] theorem State.setFld_wire (s : State) (f : RField) (x : Nat) : (s.setFld f x).wire = s.wire := rfl
@[simp] theorem State.setFld_strips (s : State) (f : RField) (x : Nat) : (s.setFld f x).strips = s.strips := rfl
@[simp] theorem State.setFld_strata (s : State) (f : RField) (x : Nat) : (s.setFld f x).strata = s.strata := rfl
@[simp] theorem State.setFld_cap (s : State) (f : RField) (x : Nat) : (s.setFld f x).cap = s.cap := rfl
@[simp] theorem State.setFld_lode (s : State) (f : RField) (x : Nat) : (s.setFld f x).lode = s.lode := rfl
@[simp] theorem State.setFld_xcv (s : State) (f : RField) (x : Nat) : (s.setFld f x).xcv = s.xcv := rfl
@[simp] theorem State.setFld_jtag (s : State) (f : RField) (x : Nat) : (s.setFld f x).jtag = s.jtag := rfl
@[simp] theorem State.setFld_mica (s : State) (f : RField) (x : Nat) : (s.setFld f x).mica = s.mica := rfl
@[simp] theorem State.setFld_vein (s : State) (f : RField) (x : Nat) : (s.setFld f x).vein = s.vein := rfl
@[simp] theorem State.setFld_micaOut (s : State) (f : RField) (x : Nat) : (s.setFld f x).micaOut = s.micaOut := rfl
@[simp] theorem State.setFld_micaShown (s : State) (f : RField) (x : Nat) : (s.setFld f x).micaShown = s.micaShown := rfl
@[simp] theorem State.setFld_mports (s : State) (f : RField) (x : Nat) : (s.setFld f x).mports = s.mports := rfl
@[simp] theorem State.setFld_erasing (s : State) (f : RField) (x : Nat) : (s.setFld f x).erasing = s.erasing := rfl
@[simp] theorem State.setFld_ddr (s : State) (f : RField) (x : Nat) : (s.setFld f x).ddr = s.ddr := rfl
@[simp] theorem State.setFld_ctr (s : State) (f : RField) (x : Nat) : (s.setFld f x).ctr = s.ctr := rfl
@[simp] theorem State.setFld_otag (s : State) (f : RField) (x : Nat) : (s.setFld f x).otag = s.otag := rfl
@[simp] theorem State.setFld_otree (s : State) (f : RField) (x : Nat) : (s.setFld f x).otree = s.otree := rfl
@[simp] theorem State.setFld_ocache (s : State) (f : RField) (x : Nat) : (s.setFld f x).ocache = s.ocache := rfl
@[simp] theorem State.setFld_metaErr (s : State) (f : RField) (x : Nat) : (s.setFld f x).metaErr = s.metaErr := rfl
@[simp] theorem State.setFld_broken (s : State) (f : RField) (x : Nat) : (s.setFld f x).broken = s.broken := rfl
@[simp] theorem State.setFld_keys (s : State) (f : RField) (x : Nat) : (s.setFld f x).keys = s.keys := rfl
@[simp] theorem State.setFld_treeKey (s : State) (f : RField) (x : Nat) : (s.setFld f x).treeKey = s.treeKey := rfl
@[simp] theorem State.setFld_maxMajor (s : State) (f : RField) (x : Nat) : (s.setFld f x).maxMajor = s.maxMajor := rfl
@[simp] theorem State.setFld_patrol (s : State) (f : RField) (x : Nat) : (s.setFld f x).patrol = s.patrol := rfl
@[simp] theorem State.setFld_frames (s : State) (f : RField) (x : Nat) : (s.setFld f x).frames = s.frames := rfl
@[simp] theorem State.setFld_engines (s : State) (f : RField) (x : Nat) : (s.setFld f x).engines = s.engines := rfl
@[simp] theorem State.setFld_grpNext (s : State) (f : RField) (x : Nat) : (s.setFld f x).grpNext = s.grpNext := rfl
@[simp] theorem State.setFld_engRsp (s : State) (f : RField) (x : Nat) : (s.setFld f x).engRsp = s.engRsp := rfl
@[simp] theorem State.setFld_ffs (s : State) (f : RField) (x : Nat) : (s.setFld f x).ffs = s.ffs := rfl
@[simp] theorem State.setFld_latches (s : State) (f : RField) (x : Nat) : (s.setFld f x).latches = s.latches := rfl
@[simp] theorem State.setFld_padHold (s : State) (f : RField) (x : Nat) : (s.setFld f x).padHold = s.padHold := rfl
@[simp] theorem State.setFld_pads (s : State) (f : RField) (x : Nat) : (s.setFld f x).pads = s.pads := rfl
@[simp] theorem State.setFld_loader (s : State) (f : RField) (x : Nat) : (s.setFld f x).loader = s.loader := rfl
@[simp] theorem State.setFld_regions (s : State) (f : RField) (x : Nat) : (s.setFld f x).regions = s.regions := rfl
@[simp] theorem State.setFld_scrub (s : State) (f : RField) (x : Nat) : (s.setFld f x).scrub = s.scrub := rfl
@[simp] theorem State.setFld_upsets (s : State) (f : RField) (x : Nat) : (s.setFld f x).upsets = s.upsets := rfl
@[simp] theorem State.setFld_probeBuf (s : State) (f : RField) (x : Nat) : (s.setFld f x).probeBuf = s.probeBuf := rfl
@[simp] theorem State.setFld_probeLeft (s : State) (f : RField) (x : Nat) : (s.setFld f x).probeLeft = s.probeLeft := rfl
@[simp] theorem State.setFld_pairs (s : State) (f : RField) (x : Nat) : (s.setFld f x).pairs = s.pairs := rfl
@[simp] theorem State.setFld_hostReads (s : State) (f : RField) (x : Nat) : (s.setFld f x).hostReads = s.hostReads := rfl
@[simp] theorem State.setFld_nextRead (s : State) (f : RField) (x : Nat) : (s.setFld f x).nextRead = s.nextRead := rfl
@[simp] theorem State.setFld_wins (s : State) (f : RField) (x : Nat) : (s.setFld f x).wins = s.wins := rfl
@[simp] theorem State.setFld_hostHeld (s : State) (f : RField) (x : Nat) : (s.setFld f x).hostHeld = s.hostHeld := rfl
@[simp] theorem State.setFld_winNext (s : State) (f : RField) (x : Nat) : (s.setFld f x).winNext = s.winNext := rfl
@[simp] theorem State.setFld_pcie (s : State) (f : RField) (x : Nat) : (s.setFld f x).pcie = s.pcie := rfl
@[simp] theorem State.setFld_sqTurn (s : State) (f : RField) (x : Nat) : (s.setFld f x).sqTurn = s.sqTurn := rfl
@[simp] theorem State.setFld_fuses (s : State) (f : RField) (x : Nat) : (s.setFld f x).fuses = s.fuses := rfl
@[simp] theorem State.setFld_lcs (s : State) (f : RField) (x : Nat) : (s.setFld f x).lcs = s.lcs := rfl
@[simp] theorem State.setFld_pins (s : State) (f : RField) (x : Nat) : (s.setFld f x).pins = s.pins := rfl
@[simp] theorem State.setFld_warned (s : State) (f : RField) (x : Nat) : (s.setFld f x).warned = s.warned := rfl
@[simp] theorem State.setFld_haltDone (s : State) (f : RField) (x : Nat) : (s.setFld f x).haltDone = s.haltDone := rfl
@[simp] theorem State.setFld_out (s : State) (f : RField) (x : Nat) : (s.setFld f x).out = s.out := rfl
@[simp] theorem State.setFld_pending (s : State) (f : RField) (x : Nat) : (s.setFld f x).pending = s.pending := rfl
@[simp] theorem State.setFld_free (s : State) (f : RField) (x : Nat) : (s.setFld f x).free = s.free := rfl

/-! ## emit -/

@[simp] theorem State.emit_phase (s : State) (o : Out) : (s.emit o).phase = s.phase := rfl
@[simp] theorem State.emit_regs (s : State) (o : Out) : (s.emit o).regs = s.regs := rfl
@[simp] theorem State.emit_shadow (s : State) (o : Out) : (s.emit o).shadow = s.shadow := rfl
@[simp] theorem State.emit_locks (s : State) (o : Out) : (s.emit o).locks = s.locks := rfl
@[simp] theorem State.emit_arms (s : State) (o : Out) : (s.emit o).arms = s.arms := rfl
@[simp] theorem State.emit_heldAcc (s : State) (o : Out) : (s.emit o).heldAcc = s.heldAcc := rfl
@[simp] theorem State.emit_flintUp (s : State) (o : Out) : (s.emit o).flintUp = s.flintUp := rfl
@[simp] theorem State.emit_wdog (s : State) (o : Out) : (s.emit o).wdog = s.wdog := rfl
@[simp] theorem State.emit_revs (s : State) (o : Out) : (s.emit o).revs = s.revs := rfl
@[simp] theorem State.emit_straps (s : State) (o : Out) : (s.emit o).straps = s.straps := rfl
@[simp] theorem State.emit_clk (s : State) (o : Out) : (s.emit o).clk = s.clk := rfl
@[simp] theorem State.emit_treeClosed (s : State) (o : Out) : (s.emit o).treeClosed = s.treeClosed := rfl
@[simp] theorem State.emit_spines (s : State) (o : Out) : (s.emit o).spines = s.spines := rfl
@[simp] theorem State.emit_trees (s : State) (o : Out) : (s.emit o).trees = s.trees := rfl
@[simp] theorem State.emit_drefPhase (s : State) (o : Out) : (s.emit o).drefPhase = s.drefPhase := rfl
@[simp] theorem State.emit_uports (s : State) (o : Out) : (s.emit o).uports = s.uports := rfl
@[simp] theorem State.emit_net (s : State) (o : Out) : (s.emit o).net = s.net := rfl
@[simp] theorem State.emit_inbox (s : State) (o : Out) : (s.emit o).inbox = s.inbox := rfl
@[simp] theorem State.emit_tags (s : State) (o : Out) : (s.emit o).tags = s.tags := rfl
@[simp] theorem State.emit_unanswered (s : State) (o : Out) : (s.emit o).unanswered = s.unanswered := rfl
@[simp] theorem State.emit_fences (s : State) (o : Out) : (s.emit o).fences = s.fences := rfl
@[simp] theorem State.emit_drains (s : State) (o : Out) : (s.emit o).drains = s.drains := rfl
@[simp] theorem State.emit_waking (s : State) (o : Out) : (s.emit o).waking = s.waking := rfl
@[simp] theorem State.emit_wakeFail (s : State) (o : Out) : (s.emit o).wakeFail = s.wakeFail := rfl
@[simp] theorem State.emit_slices (s : State) (o : Out) : (s.emit o).slices = s.slices := rfl
@[simp] theorem State.emit_homes (s : State) (o : Out) : (s.emit o).homes = s.homes := rfl
@[simp] theorem State.emit_dieDown (s : State) (o : Out) : (s.emit o).dieDown = s.dieDown := rfl
@[simp] theorem State.emit_flush (s : State) (o : Out) : (s.emit o).flush = s.flush := rfl
@[simp] theorem State.emit_rangeFlush (s : State) (o : Out) : (s.emit o).rangeFlush = s.rangeFlush := rfl
@[simp] theorem State.emit_links (s : State) (o : Out) : (s.emit o).links = s.links := rfl
@[simp] theorem State.emit_minbox (s : State) (o : Out) : (s.emit o).minbox = s.minbox := rfl
@[simp] theorem State.emit_arrivals (s : State) (o : Out) : (s.emit o).arrivals = s.arrivals := rfl
@[simp] theorem State.emit_wire (s : State) (o : Out) : (s.emit o).wire = s.wire := rfl
@[simp] theorem State.emit_strips (s : State) (o : Out) : (s.emit o).strips = s.strips := rfl
@[simp] theorem State.emit_strata (s : State) (o : Out) : (s.emit o).strata = s.strata := rfl
@[simp] theorem State.emit_cap (s : State) (o : Out) : (s.emit o).cap = s.cap := rfl
@[simp] theorem State.emit_lode (s : State) (o : Out) : (s.emit o).lode = s.lode := rfl
@[simp] theorem State.emit_xcv (s : State) (o : Out) : (s.emit o).xcv = s.xcv := rfl
@[simp] theorem State.emit_jtag (s : State) (o : Out) : (s.emit o).jtag = s.jtag := rfl
@[simp] theorem State.emit_mica (s : State) (o : Out) : (s.emit o).mica = s.mica := rfl
@[simp] theorem State.emit_vein (s : State) (o : Out) : (s.emit o).vein = s.vein := rfl
@[simp] theorem State.emit_micaOut (s : State) (o : Out) : (s.emit o).micaOut = s.micaOut := rfl
@[simp] theorem State.emit_micaShown (s : State) (o : Out) : (s.emit o).micaShown = s.micaShown := rfl
@[simp] theorem State.emit_mports (s : State) (o : Out) : (s.emit o).mports = s.mports := rfl
@[simp] theorem State.emit_erasing (s : State) (o : Out) : (s.emit o).erasing = s.erasing := rfl
@[simp] theorem State.emit_ddr (s : State) (o : Out) : (s.emit o).ddr = s.ddr := rfl
@[simp] theorem State.emit_ctr (s : State) (o : Out) : (s.emit o).ctr = s.ctr := rfl
@[simp] theorem State.emit_otag (s : State) (o : Out) : (s.emit o).otag = s.otag := rfl
@[simp] theorem State.emit_otree (s : State) (o : Out) : (s.emit o).otree = s.otree := rfl
@[simp] theorem State.emit_ocache (s : State) (o : Out) : (s.emit o).ocache = s.ocache := rfl
@[simp] theorem State.emit_metaErr (s : State) (o : Out) : (s.emit o).metaErr = s.metaErr := rfl
@[simp] theorem State.emit_broken (s : State) (o : Out) : (s.emit o).broken = s.broken := rfl
@[simp] theorem State.emit_keys (s : State) (o : Out) : (s.emit o).keys = s.keys := rfl
@[simp] theorem State.emit_treeKey (s : State) (o : Out) : (s.emit o).treeKey = s.treeKey := rfl
@[simp] theorem State.emit_maxMajor (s : State) (o : Out) : (s.emit o).maxMajor = s.maxMajor := rfl
@[simp] theorem State.emit_patrol (s : State) (o : Out) : (s.emit o).patrol = s.patrol := rfl
@[simp] theorem State.emit_frames (s : State) (o : Out) : (s.emit o).frames = s.frames := rfl
@[simp] theorem State.emit_engines (s : State) (o : Out) : (s.emit o).engines = s.engines := rfl
@[simp] theorem State.emit_grpNext (s : State) (o : Out) : (s.emit o).grpNext = s.grpNext := rfl
@[simp] theorem State.emit_engRsp (s : State) (o : Out) : (s.emit o).engRsp = s.engRsp := rfl
@[simp] theorem State.emit_ffs (s : State) (o : Out) : (s.emit o).ffs = s.ffs := rfl
@[simp] theorem State.emit_latches (s : State) (o : Out) : (s.emit o).latches = s.latches := rfl
@[simp] theorem State.emit_padHold (s : State) (o : Out) : (s.emit o).padHold = s.padHold := rfl
@[simp] theorem State.emit_pads (s : State) (o : Out) : (s.emit o).pads = s.pads := rfl
@[simp] theorem State.emit_loader (s : State) (o : Out) : (s.emit o).loader = s.loader := rfl
@[simp] theorem State.emit_regions (s : State) (o : Out) : (s.emit o).regions = s.regions := rfl
@[simp] theorem State.emit_scrub (s : State) (o : Out) : (s.emit o).scrub = s.scrub := rfl
@[simp] theorem State.emit_upsets (s : State) (o : Out) : (s.emit o).upsets = s.upsets := rfl
@[simp] theorem State.emit_probeBuf (s : State) (o : Out) : (s.emit o).probeBuf = s.probeBuf := rfl
@[simp] theorem State.emit_probeLeft (s : State) (o : Out) : (s.emit o).probeLeft = s.probeLeft := rfl
@[simp] theorem State.emit_pairs (s : State) (o : Out) : (s.emit o).pairs = s.pairs := rfl
@[simp] theorem State.emit_hostReads (s : State) (o : Out) : (s.emit o).hostReads = s.hostReads := rfl
@[simp] theorem State.emit_nextRead (s : State) (o : Out) : (s.emit o).nextRead = s.nextRead := rfl
@[simp] theorem State.emit_wins (s : State) (o : Out) : (s.emit o).wins = s.wins := rfl
@[simp] theorem State.emit_hostHeld (s : State) (o : Out) : (s.emit o).hostHeld = s.hostHeld := rfl
@[simp] theorem State.emit_winNext (s : State) (o : Out) : (s.emit o).winNext = s.winNext := rfl
@[simp] theorem State.emit_pcie (s : State) (o : Out) : (s.emit o).pcie = s.pcie := rfl
@[simp] theorem State.emit_sqTurn (s : State) (o : Out) : (s.emit o).sqTurn = s.sqTurn := rfl
@[simp] theorem State.emit_fuses (s : State) (o : Out) : (s.emit o).fuses = s.fuses := rfl
@[simp] theorem State.emit_lcs (s : State) (o : Out) : (s.emit o).lcs = s.lcs := rfl
@[simp] theorem State.emit_pins (s : State) (o : Out) : (s.emit o).pins = s.pins := rfl
@[simp] theorem State.emit_warned (s : State) (o : Out) : (s.emit o).warned = s.warned := rfl
@[simp] theorem State.emit_haltDone (s : State) (o : Out) : (s.emit o).haltDone = s.haltDone := rfl
@[simp] theorem State.emit_pending (s : State) (o : Out) : (s.emit o).pending = s.pending := rfl
@[simp] theorem State.emit_free (s : State) (o : Out) : (s.emit o).free = s.free := rfl

/-! ## useFree -/

@[simp] theorem State.useFree_phase (s : State) : (s.useFree).phase = s.phase := rfl
@[simp] theorem State.useFree_regs (s : State) : (s.useFree).regs = s.regs := rfl
@[simp] theorem State.useFree_shadow (s : State) : (s.useFree).shadow = s.shadow := rfl
@[simp] theorem State.useFree_locks (s : State) : (s.useFree).locks = s.locks := rfl
@[simp] theorem State.useFree_arms (s : State) : (s.useFree).arms = s.arms := rfl
@[simp] theorem State.useFree_heldAcc (s : State) : (s.useFree).heldAcc = s.heldAcc := rfl
@[simp] theorem State.useFree_flintUp (s : State) : (s.useFree).flintUp = s.flintUp := rfl
@[simp] theorem State.useFree_wdog (s : State) : (s.useFree).wdog = s.wdog := rfl
@[simp] theorem State.useFree_revs (s : State) : (s.useFree).revs = s.revs := rfl
@[simp] theorem State.useFree_straps (s : State) : (s.useFree).straps = s.straps := rfl
@[simp] theorem State.useFree_clk (s : State) : (s.useFree).clk = s.clk := rfl
@[simp] theorem State.useFree_treeClosed (s : State) : (s.useFree).treeClosed = s.treeClosed := rfl
@[simp] theorem State.useFree_spines (s : State) : (s.useFree).spines = s.spines := rfl
@[simp] theorem State.useFree_trees (s : State) : (s.useFree).trees = s.trees := rfl
@[simp] theorem State.useFree_drefPhase (s : State) : (s.useFree).drefPhase = s.drefPhase := rfl
@[simp] theorem State.useFree_uports (s : State) : (s.useFree).uports = s.uports := rfl
@[simp] theorem State.useFree_net (s : State) : (s.useFree).net = s.net := rfl
@[simp] theorem State.useFree_inbox (s : State) : (s.useFree).inbox = s.inbox := rfl
@[simp] theorem State.useFree_tags (s : State) : (s.useFree).tags = s.tags := rfl
@[simp] theorem State.useFree_unanswered (s : State) : (s.useFree).unanswered = s.unanswered := rfl
@[simp] theorem State.useFree_fences (s : State) : (s.useFree).fences = s.fences := rfl
@[simp] theorem State.useFree_drains (s : State) : (s.useFree).drains = s.drains := rfl
@[simp] theorem State.useFree_waking (s : State) : (s.useFree).waking = s.waking := rfl
@[simp] theorem State.useFree_wakeFail (s : State) : (s.useFree).wakeFail = s.wakeFail := rfl
@[simp] theorem State.useFree_slices (s : State) : (s.useFree).slices = s.slices := rfl
@[simp] theorem State.useFree_homes (s : State) : (s.useFree).homes = s.homes := rfl
@[simp] theorem State.useFree_dieDown (s : State) : (s.useFree).dieDown = s.dieDown := rfl
@[simp] theorem State.useFree_flush (s : State) : (s.useFree).flush = s.flush := rfl
@[simp] theorem State.useFree_rangeFlush (s : State) : (s.useFree).rangeFlush = s.rangeFlush := rfl
@[simp] theorem State.useFree_links (s : State) : (s.useFree).links = s.links := rfl
@[simp] theorem State.useFree_minbox (s : State) : (s.useFree).minbox = s.minbox := rfl
@[simp] theorem State.useFree_arrivals (s : State) : (s.useFree).arrivals = s.arrivals := rfl
@[simp] theorem State.useFree_wire (s : State) : (s.useFree).wire = s.wire := rfl
@[simp] theorem State.useFree_strips (s : State) : (s.useFree).strips = s.strips := rfl
@[simp] theorem State.useFree_strata (s : State) : (s.useFree).strata = s.strata := rfl
@[simp] theorem State.useFree_cap (s : State) : (s.useFree).cap = s.cap := rfl
@[simp] theorem State.useFree_lode (s : State) : (s.useFree).lode = s.lode := rfl
@[simp] theorem State.useFree_xcv (s : State) : (s.useFree).xcv = s.xcv := rfl
@[simp] theorem State.useFree_jtag (s : State) : (s.useFree).jtag = s.jtag := rfl
@[simp] theorem State.useFree_mica (s : State) : (s.useFree).mica = s.mica := rfl
@[simp] theorem State.useFree_vein (s : State) : (s.useFree).vein = s.vein := rfl
@[simp] theorem State.useFree_micaOut (s : State) : (s.useFree).micaOut = s.micaOut := rfl
@[simp] theorem State.useFree_micaShown (s : State) : (s.useFree).micaShown = s.micaShown := rfl
@[simp] theorem State.useFree_mports (s : State) : (s.useFree).mports = s.mports := rfl
@[simp] theorem State.useFree_erasing (s : State) : (s.useFree).erasing = s.erasing := rfl
@[simp] theorem State.useFree_ddr (s : State) : (s.useFree).ddr = s.ddr := rfl
@[simp] theorem State.useFree_ctr (s : State) : (s.useFree).ctr = s.ctr := rfl
@[simp] theorem State.useFree_otag (s : State) : (s.useFree).otag = s.otag := rfl
@[simp] theorem State.useFree_otree (s : State) : (s.useFree).otree = s.otree := rfl
@[simp] theorem State.useFree_ocache (s : State) : (s.useFree).ocache = s.ocache := rfl
@[simp] theorem State.useFree_metaErr (s : State) : (s.useFree).metaErr = s.metaErr := rfl
@[simp] theorem State.useFree_broken (s : State) : (s.useFree).broken = s.broken := rfl
@[simp] theorem State.useFree_keys (s : State) : (s.useFree).keys = s.keys := rfl
@[simp] theorem State.useFree_treeKey (s : State) : (s.useFree).treeKey = s.treeKey := rfl
@[simp] theorem State.useFree_maxMajor (s : State) : (s.useFree).maxMajor = s.maxMajor := rfl
@[simp] theorem State.useFree_patrol (s : State) : (s.useFree).patrol = s.patrol := rfl
@[simp] theorem State.useFree_frames (s : State) : (s.useFree).frames = s.frames := rfl
@[simp] theorem State.useFree_engines (s : State) : (s.useFree).engines = s.engines := rfl
@[simp] theorem State.useFree_grpNext (s : State) : (s.useFree).grpNext = s.grpNext := rfl
@[simp] theorem State.useFree_engRsp (s : State) : (s.useFree).engRsp = s.engRsp := rfl
@[simp] theorem State.useFree_ffs (s : State) : (s.useFree).ffs = s.ffs := rfl
@[simp] theorem State.useFree_latches (s : State) : (s.useFree).latches = s.latches := rfl
@[simp] theorem State.useFree_padHold (s : State) : (s.useFree).padHold = s.padHold := rfl
@[simp] theorem State.useFree_pads (s : State) : (s.useFree).pads = s.pads := rfl
@[simp] theorem State.useFree_loader (s : State) : (s.useFree).loader = s.loader := rfl
@[simp] theorem State.useFree_regions (s : State) : (s.useFree).regions = s.regions := rfl
@[simp] theorem State.useFree_scrub (s : State) : (s.useFree).scrub = s.scrub := rfl
@[simp] theorem State.useFree_upsets (s : State) : (s.useFree).upsets = s.upsets := rfl
@[simp] theorem State.useFree_probeBuf (s : State) : (s.useFree).probeBuf = s.probeBuf := rfl
@[simp] theorem State.useFree_probeLeft (s : State) : (s.useFree).probeLeft = s.probeLeft := rfl
@[simp] theorem State.useFree_pairs (s : State) : (s.useFree).pairs = s.pairs := rfl
@[simp] theorem State.useFree_hostReads (s : State) : (s.useFree).hostReads = s.hostReads := rfl
@[simp] theorem State.useFree_nextRead (s : State) : (s.useFree).nextRead = s.nextRead := rfl
@[simp] theorem State.useFree_wins (s : State) : (s.useFree).wins = s.wins := rfl
@[simp] theorem State.useFree_hostHeld (s : State) : (s.useFree).hostHeld = s.hostHeld := rfl
@[simp] theorem State.useFree_winNext (s : State) : (s.useFree).winNext = s.winNext := rfl
@[simp] theorem State.useFree_pcie (s : State) : (s.useFree).pcie = s.pcie := rfl
@[simp] theorem State.useFree_sqTurn (s : State) : (s.useFree).sqTurn = s.sqTurn := rfl
@[simp] theorem State.useFree_fuses (s : State) : (s.useFree).fuses = s.fuses := rfl
@[simp] theorem State.useFree_lcs (s : State) : (s.useFree).lcs = s.lcs := rfl
@[simp] theorem State.useFree_pins (s : State) : (s.useFree).pins = s.pins := rfl
@[simp] theorem State.useFree_warned (s : State) : (s.useFree).warned = s.warned := rfl
@[simp] theorem State.useFree_haltDone (s : State) : (s.useFree).haltDone = s.haltDone := rfl
@[simp] theorem State.useFree_out (s : State) : (s.useFree).out = s.out := rfl
@[simp] theorem State.useFree_pending (s : State) : (s.useFree).pending = s.pending := rfl

/-! ## setEng -/

@[simp] theorem State.setEng_phase (s : State) (k : Nat) (v : EngSt) : (s.setEng k v).phase = s.phase := rfl
@[simp] theorem State.setEng_regs (s : State) (k : Nat) (v : EngSt) : (s.setEng k v).regs = s.regs := rfl
@[simp] theorem State.setEng_shadow (s : State) (k : Nat) (v : EngSt) : (s.setEng k v).shadow = s.shadow := rfl
@[simp] theorem State.setEng_locks (s : State) (k : Nat) (v : EngSt) : (s.setEng k v).locks = s.locks := rfl
@[simp] theorem State.setEng_arms (s : State) (k : Nat) (v : EngSt) : (s.setEng k v).arms = s.arms := rfl
@[simp] theorem State.setEng_heldAcc (s : State) (k : Nat) (v : EngSt) : (s.setEng k v).heldAcc = s.heldAcc := rfl
@[simp] theorem State.setEng_flintUp (s : State) (k : Nat) (v : EngSt) : (s.setEng k v).flintUp = s.flintUp := rfl
@[simp] theorem State.setEng_wdog (s : State) (k : Nat) (v : EngSt) : (s.setEng k v).wdog = s.wdog := rfl
@[simp] theorem State.setEng_revs (s : State) (k : Nat) (v : EngSt) : (s.setEng k v).revs = s.revs := rfl
@[simp] theorem State.setEng_straps (s : State) (k : Nat) (v : EngSt) : (s.setEng k v).straps = s.straps := rfl
@[simp] theorem State.setEng_clk (s : State) (k : Nat) (v : EngSt) : (s.setEng k v).clk = s.clk := rfl
@[simp] theorem State.setEng_treeClosed (s : State) (k : Nat) (v : EngSt) : (s.setEng k v).treeClosed = s.treeClosed := rfl
@[simp] theorem State.setEng_spines (s : State) (k : Nat) (v : EngSt) : (s.setEng k v).spines = s.spines := rfl
@[simp] theorem State.setEng_trees (s : State) (k : Nat) (v : EngSt) : (s.setEng k v).trees = s.trees := rfl
@[simp] theorem State.setEng_drefPhase (s : State) (k : Nat) (v : EngSt) : (s.setEng k v).drefPhase = s.drefPhase := rfl
@[simp] theorem State.setEng_uports (s : State) (k : Nat) (v : EngSt) : (s.setEng k v).uports = s.uports := rfl
@[simp] theorem State.setEng_net (s : State) (k : Nat) (v : EngSt) : (s.setEng k v).net = s.net := rfl
@[simp] theorem State.setEng_inbox (s : State) (k : Nat) (v : EngSt) : (s.setEng k v).inbox = s.inbox := rfl
@[simp] theorem State.setEng_tags (s : State) (k : Nat) (v : EngSt) : (s.setEng k v).tags = s.tags := rfl
@[simp] theorem State.setEng_unanswered (s : State) (k : Nat) (v : EngSt) : (s.setEng k v).unanswered = s.unanswered := rfl
@[simp] theorem State.setEng_fences (s : State) (k : Nat) (v : EngSt) : (s.setEng k v).fences = s.fences := rfl
@[simp] theorem State.setEng_drains (s : State) (k : Nat) (v : EngSt) : (s.setEng k v).drains = s.drains := rfl
@[simp] theorem State.setEng_waking (s : State) (k : Nat) (v : EngSt) : (s.setEng k v).waking = s.waking := rfl
@[simp] theorem State.setEng_wakeFail (s : State) (k : Nat) (v : EngSt) : (s.setEng k v).wakeFail = s.wakeFail := rfl
@[simp] theorem State.setEng_slices (s : State) (k : Nat) (v : EngSt) : (s.setEng k v).slices = s.slices := rfl
@[simp] theorem State.setEng_homes (s : State) (k : Nat) (v : EngSt) : (s.setEng k v).homes = s.homes := rfl
@[simp] theorem State.setEng_dieDown (s : State) (k : Nat) (v : EngSt) : (s.setEng k v).dieDown = s.dieDown := rfl
@[simp] theorem State.setEng_flush (s : State) (k : Nat) (v : EngSt) : (s.setEng k v).flush = s.flush := rfl
@[simp] theorem State.setEng_rangeFlush (s : State) (k : Nat) (v : EngSt) : (s.setEng k v).rangeFlush = s.rangeFlush := rfl
@[simp] theorem State.setEng_links (s : State) (k : Nat) (v : EngSt) : (s.setEng k v).links = s.links := rfl
@[simp] theorem State.setEng_minbox (s : State) (k : Nat) (v : EngSt) : (s.setEng k v).minbox = s.minbox := rfl
@[simp] theorem State.setEng_arrivals (s : State) (k : Nat) (v : EngSt) : (s.setEng k v).arrivals = s.arrivals := rfl
@[simp] theorem State.setEng_wire (s : State) (k : Nat) (v : EngSt) : (s.setEng k v).wire = s.wire := rfl
@[simp] theorem State.setEng_strips (s : State) (k : Nat) (v : EngSt) : (s.setEng k v).strips = s.strips := rfl
@[simp] theorem State.setEng_strata (s : State) (k : Nat) (v : EngSt) : (s.setEng k v).strata = s.strata := rfl
@[simp] theorem State.setEng_cap (s : State) (k : Nat) (v : EngSt) : (s.setEng k v).cap = s.cap := rfl
@[simp] theorem State.setEng_lode (s : State) (k : Nat) (v : EngSt) : (s.setEng k v).lode = s.lode := rfl
@[simp] theorem State.setEng_xcv (s : State) (k : Nat) (v : EngSt) : (s.setEng k v).xcv = s.xcv := rfl
@[simp] theorem State.setEng_jtag (s : State) (k : Nat) (v : EngSt) : (s.setEng k v).jtag = s.jtag := rfl
@[simp] theorem State.setEng_mica (s : State) (k : Nat) (v : EngSt) : (s.setEng k v).mica = s.mica := rfl
@[simp] theorem State.setEng_vein (s : State) (k : Nat) (v : EngSt) : (s.setEng k v).vein = s.vein := rfl
@[simp] theorem State.setEng_micaOut (s : State) (k : Nat) (v : EngSt) : (s.setEng k v).micaOut = s.micaOut := rfl
@[simp] theorem State.setEng_micaShown (s : State) (k : Nat) (v : EngSt) : (s.setEng k v).micaShown = s.micaShown := rfl
@[simp] theorem State.setEng_mports (s : State) (k : Nat) (v : EngSt) : (s.setEng k v).mports = s.mports := rfl
@[simp] theorem State.setEng_erasing (s : State) (k : Nat) (v : EngSt) : (s.setEng k v).erasing = s.erasing := rfl
@[simp] theorem State.setEng_ddr (s : State) (k : Nat) (v : EngSt) : (s.setEng k v).ddr = s.ddr := rfl
@[simp] theorem State.setEng_ctr (s : State) (k : Nat) (v : EngSt) : (s.setEng k v).ctr = s.ctr := rfl
@[simp] theorem State.setEng_otag (s : State) (k : Nat) (v : EngSt) : (s.setEng k v).otag = s.otag := rfl
@[simp] theorem State.setEng_otree (s : State) (k : Nat) (v : EngSt) : (s.setEng k v).otree = s.otree := rfl
@[simp] theorem State.setEng_ocache (s : State) (k : Nat) (v : EngSt) : (s.setEng k v).ocache = s.ocache := rfl
@[simp] theorem State.setEng_metaErr (s : State) (k : Nat) (v : EngSt) : (s.setEng k v).metaErr = s.metaErr := rfl
@[simp] theorem State.setEng_broken (s : State) (k : Nat) (v : EngSt) : (s.setEng k v).broken = s.broken := rfl
@[simp] theorem State.setEng_keys (s : State) (k : Nat) (v : EngSt) : (s.setEng k v).keys = s.keys := rfl
@[simp] theorem State.setEng_treeKey (s : State) (k : Nat) (v : EngSt) : (s.setEng k v).treeKey = s.treeKey := rfl
@[simp] theorem State.setEng_maxMajor (s : State) (k : Nat) (v : EngSt) : (s.setEng k v).maxMajor = s.maxMajor := rfl
@[simp] theorem State.setEng_patrol (s : State) (k : Nat) (v : EngSt) : (s.setEng k v).patrol = s.patrol := rfl
@[simp] theorem State.setEng_frames (s : State) (k : Nat) (v : EngSt) : (s.setEng k v).frames = s.frames := rfl
@[simp] theorem State.setEng_grpNext (s : State) (k : Nat) (v : EngSt) : (s.setEng k v).grpNext = s.grpNext := rfl
@[simp] theorem State.setEng_engRsp (s : State) (k : Nat) (v : EngSt) : (s.setEng k v).engRsp = s.engRsp := rfl
@[simp] theorem State.setEng_ffs (s : State) (k : Nat) (v : EngSt) : (s.setEng k v).ffs = s.ffs := rfl
@[simp] theorem State.setEng_latches (s : State) (k : Nat) (v : EngSt) : (s.setEng k v).latches = s.latches := rfl
@[simp] theorem State.setEng_padHold (s : State) (k : Nat) (v : EngSt) : (s.setEng k v).padHold = s.padHold := rfl
@[simp] theorem State.setEng_pads (s : State) (k : Nat) (v : EngSt) : (s.setEng k v).pads = s.pads := rfl
@[simp] theorem State.setEng_loader (s : State) (k : Nat) (v : EngSt) : (s.setEng k v).loader = s.loader := rfl
@[simp] theorem State.setEng_regions (s : State) (k : Nat) (v : EngSt) : (s.setEng k v).regions = s.regions := rfl
@[simp] theorem State.setEng_scrub (s : State) (k : Nat) (v : EngSt) : (s.setEng k v).scrub = s.scrub := rfl
@[simp] theorem State.setEng_upsets (s : State) (k : Nat) (v : EngSt) : (s.setEng k v).upsets = s.upsets := rfl
@[simp] theorem State.setEng_probeBuf (s : State) (k : Nat) (v : EngSt) : (s.setEng k v).probeBuf = s.probeBuf := rfl
@[simp] theorem State.setEng_probeLeft (s : State) (k : Nat) (v : EngSt) : (s.setEng k v).probeLeft = s.probeLeft := rfl
@[simp] theorem State.setEng_pairs (s : State) (k : Nat) (v : EngSt) : (s.setEng k v).pairs = s.pairs := rfl
@[simp] theorem State.setEng_hostReads (s : State) (k : Nat) (v : EngSt) : (s.setEng k v).hostReads = s.hostReads := rfl
@[simp] theorem State.setEng_nextRead (s : State) (k : Nat) (v : EngSt) : (s.setEng k v).nextRead = s.nextRead := rfl
@[simp] theorem State.setEng_wins (s : State) (k : Nat) (v : EngSt) : (s.setEng k v).wins = s.wins := rfl
@[simp] theorem State.setEng_hostHeld (s : State) (k : Nat) (v : EngSt) : (s.setEng k v).hostHeld = s.hostHeld := rfl
@[simp] theorem State.setEng_winNext (s : State) (k : Nat) (v : EngSt) : (s.setEng k v).winNext = s.winNext := rfl
@[simp] theorem State.setEng_pcie (s : State) (k : Nat) (v : EngSt) : (s.setEng k v).pcie = s.pcie := rfl
@[simp] theorem State.setEng_sqTurn (s : State) (k : Nat) (v : EngSt) : (s.setEng k v).sqTurn = s.sqTurn := rfl
@[simp] theorem State.setEng_fuses (s : State) (k : Nat) (v : EngSt) : (s.setEng k v).fuses = s.fuses := rfl
@[simp] theorem State.setEng_lcs (s : State) (k : Nat) (v : EngSt) : (s.setEng k v).lcs = s.lcs := rfl
@[simp] theorem State.setEng_pins (s : State) (k : Nat) (v : EngSt) : (s.setEng k v).pins = s.pins := rfl
@[simp] theorem State.setEng_warned (s : State) (k : Nat) (v : EngSt) : (s.setEng k v).warned = s.warned := rfl
@[simp] theorem State.setEng_haltDone (s : State) (k : Nat) (v : EngSt) : (s.setEng k v).haltDone = s.haltDone := rfl
@[simp] theorem State.setEng_out (s : State) (k : Nat) (v : EngSt) : (s.setEng k v).out = s.out := rfl
@[simp] theorem State.setEng_pending (s : State) (k : Nat) (v : EngSt) : (s.setEng k v).pending = s.pending := rfl
@[simp] theorem State.setEng_free (s : State) (k : Nat) (v : EngSt) : (s.setEng k v).free = s.free := rfl

/-! ## setLink -/

@[simp] theorem State.setLink_phase (s : State) (l : LinkRef) (v : Link) : (s.setLink l v).phase = s.phase := rfl
@[simp] theorem State.setLink_regs (s : State) (l : LinkRef) (v : Link) : (s.setLink l v).regs = s.regs := rfl
@[simp] theorem State.setLink_shadow (s : State) (l : LinkRef) (v : Link) : (s.setLink l v).shadow = s.shadow := rfl
@[simp] theorem State.setLink_locks (s : State) (l : LinkRef) (v : Link) : (s.setLink l v).locks = s.locks := rfl
@[simp] theorem State.setLink_arms (s : State) (l : LinkRef) (v : Link) : (s.setLink l v).arms = s.arms := rfl
@[simp] theorem State.setLink_heldAcc (s : State) (l : LinkRef) (v : Link) : (s.setLink l v).heldAcc = s.heldAcc := rfl
@[simp] theorem State.setLink_flintUp (s : State) (l : LinkRef) (v : Link) : (s.setLink l v).flintUp = s.flintUp := rfl
@[simp] theorem State.setLink_wdog (s : State) (l : LinkRef) (v : Link) : (s.setLink l v).wdog = s.wdog := rfl
@[simp] theorem State.setLink_revs (s : State) (l : LinkRef) (v : Link) : (s.setLink l v).revs = s.revs := rfl
@[simp] theorem State.setLink_straps (s : State) (l : LinkRef) (v : Link) : (s.setLink l v).straps = s.straps := rfl
@[simp] theorem State.setLink_clk (s : State) (l : LinkRef) (v : Link) : (s.setLink l v).clk = s.clk := rfl
@[simp] theorem State.setLink_treeClosed (s : State) (l : LinkRef) (v : Link) : (s.setLink l v).treeClosed = s.treeClosed := rfl
@[simp] theorem State.setLink_spines (s : State) (l : LinkRef) (v : Link) : (s.setLink l v).spines = s.spines := rfl
@[simp] theorem State.setLink_trees (s : State) (l : LinkRef) (v : Link) : (s.setLink l v).trees = s.trees := rfl
@[simp] theorem State.setLink_drefPhase (s : State) (l : LinkRef) (v : Link) : (s.setLink l v).drefPhase = s.drefPhase := rfl
@[simp] theorem State.setLink_uports (s : State) (l : LinkRef) (v : Link) : (s.setLink l v).uports = s.uports := rfl
@[simp] theorem State.setLink_net (s : State) (l : LinkRef) (v : Link) : (s.setLink l v).net = s.net := rfl
@[simp] theorem State.setLink_inbox (s : State) (l : LinkRef) (v : Link) : (s.setLink l v).inbox = s.inbox := rfl
@[simp] theorem State.setLink_tags (s : State) (l : LinkRef) (v : Link) : (s.setLink l v).tags = s.tags := rfl
@[simp] theorem State.setLink_unanswered (s : State) (l : LinkRef) (v : Link) : (s.setLink l v).unanswered = s.unanswered := rfl
@[simp] theorem State.setLink_fences (s : State) (l : LinkRef) (v : Link) : (s.setLink l v).fences = s.fences := rfl
@[simp] theorem State.setLink_drains (s : State) (l : LinkRef) (v : Link) : (s.setLink l v).drains = s.drains := rfl
@[simp] theorem State.setLink_waking (s : State) (l : LinkRef) (v : Link) : (s.setLink l v).waking = s.waking := rfl
@[simp] theorem State.setLink_wakeFail (s : State) (l : LinkRef) (v : Link) : (s.setLink l v).wakeFail = s.wakeFail := rfl
@[simp] theorem State.setLink_slices (s : State) (l : LinkRef) (v : Link) : (s.setLink l v).slices = s.slices := rfl
@[simp] theorem State.setLink_homes (s : State) (l : LinkRef) (v : Link) : (s.setLink l v).homes = s.homes := rfl
@[simp] theorem State.setLink_dieDown (s : State) (l : LinkRef) (v : Link) : (s.setLink l v).dieDown = s.dieDown := rfl
@[simp] theorem State.setLink_flush (s : State) (l : LinkRef) (v : Link) : (s.setLink l v).flush = s.flush := rfl
@[simp] theorem State.setLink_rangeFlush (s : State) (l : LinkRef) (v : Link) : (s.setLink l v).rangeFlush = s.rangeFlush := rfl
@[simp] theorem State.setLink_minbox (s : State) (l : LinkRef) (v : Link) : (s.setLink l v).minbox = s.minbox := rfl
@[simp] theorem State.setLink_arrivals (s : State) (l : LinkRef) (v : Link) : (s.setLink l v).arrivals = s.arrivals := rfl
@[simp] theorem State.setLink_wire (s : State) (l : LinkRef) (v : Link) : (s.setLink l v).wire = s.wire := rfl
@[simp] theorem State.setLink_strips (s : State) (l : LinkRef) (v : Link) : (s.setLink l v).strips = s.strips := rfl
@[simp] theorem State.setLink_strata (s : State) (l : LinkRef) (v : Link) : (s.setLink l v).strata = s.strata := rfl
@[simp] theorem State.setLink_cap (s : State) (l : LinkRef) (v : Link) : (s.setLink l v).cap = s.cap := rfl
@[simp] theorem State.setLink_lode (s : State) (l : LinkRef) (v : Link) : (s.setLink l v).lode = s.lode := rfl
@[simp] theorem State.setLink_xcv (s : State) (l : LinkRef) (v : Link) : (s.setLink l v).xcv = s.xcv := rfl
@[simp] theorem State.setLink_jtag (s : State) (l : LinkRef) (v : Link) : (s.setLink l v).jtag = s.jtag := rfl
@[simp] theorem State.setLink_mica (s : State) (l : LinkRef) (v : Link) : (s.setLink l v).mica = s.mica := rfl
@[simp] theorem State.setLink_vein (s : State) (l : LinkRef) (v : Link) : (s.setLink l v).vein = s.vein := rfl
@[simp] theorem State.setLink_micaOut (s : State) (l : LinkRef) (v : Link) : (s.setLink l v).micaOut = s.micaOut := rfl
@[simp] theorem State.setLink_micaShown (s : State) (l : LinkRef) (v : Link) : (s.setLink l v).micaShown = s.micaShown := rfl
@[simp] theorem State.setLink_mports (s : State) (l : LinkRef) (v : Link) : (s.setLink l v).mports = s.mports := rfl
@[simp] theorem State.setLink_erasing (s : State) (l : LinkRef) (v : Link) : (s.setLink l v).erasing = s.erasing := rfl
@[simp] theorem State.setLink_ddr (s : State) (l : LinkRef) (v : Link) : (s.setLink l v).ddr = s.ddr := rfl
@[simp] theorem State.setLink_ctr (s : State) (l : LinkRef) (v : Link) : (s.setLink l v).ctr = s.ctr := rfl
@[simp] theorem State.setLink_otag (s : State) (l : LinkRef) (v : Link) : (s.setLink l v).otag = s.otag := rfl
@[simp] theorem State.setLink_otree (s : State) (l : LinkRef) (v : Link) : (s.setLink l v).otree = s.otree := rfl
@[simp] theorem State.setLink_ocache (s : State) (l : LinkRef) (v : Link) : (s.setLink l v).ocache = s.ocache := rfl
@[simp] theorem State.setLink_metaErr (s : State) (l : LinkRef) (v : Link) : (s.setLink l v).metaErr = s.metaErr := rfl
@[simp] theorem State.setLink_broken (s : State) (l : LinkRef) (v : Link) : (s.setLink l v).broken = s.broken := rfl
@[simp] theorem State.setLink_keys (s : State) (l : LinkRef) (v : Link) : (s.setLink l v).keys = s.keys := rfl
@[simp] theorem State.setLink_treeKey (s : State) (l : LinkRef) (v : Link) : (s.setLink l v).treeKey = s.treeKey := rfl
@[simp] theorem State.setLink_maxMajor (s : State) (l : LinkRef) (v : Link) : (s.setLink l v).maxMajor = s.maxMajor := rfl
@[simp] theorem State.setLink_patrol (s : State) (l : LinkRef) (v : Link) : (s.setLink l v).patrol = s.patrol := rfl
@[simp] theorem State.setLink_frames (s : State) (l : LinkRef) (v : Link) : (s.setLink l v).frames = s.frames := rfl
@[simp] theorem State.setLink_engines (s : State) (l : LinkRef) (v : Link) : (s.setLink l v).engines = s.engines := rfl
@[simp] theorem State.setLink_grpNext (s : State) (l : LinkRef) (v : Link) : (s.setLink l v).grpNext = s.grpNext := rfl
@[simp] theorem State.setLink_engRsp (s : State) (l : LinkRef) (v : Link) : (s.setLink l v).engRsp = s.engRsp := rfl
@[simp] theorem State.setLink_ffs (s : State) (l : LinkRef) (v : Link) : (s.setLink l v).ffs = s.ffs := rfl
@[simp] theorem State.setLink_latches (s : State) (l : LinkRef) (v : Link) : (s.setLink l v).latches = s.latches := rfl
@[simp] theorem State.setLink_padHold (s : State) (l : LinkRef) (v : Link) : (s.setLink l v).padHold = s.padHold := rfl
@[simp] theorem State.setLink_pads (s : State) (l : LinkRef) (v : Link) : (s.setLink l v).pads = s.pads := rfl
@[simp] theorem State.setLink_loader (s : State) (l : LinkRef) (v : Link) : (s.setLink l v).loader = s.loader := rfl
@[simp] theorem State.setLink_regions (s : State) (l : LinkRef) (v : Link) : (s.setLink l v).regions = s.regions := rfl
@[simp] theorem State.setLink_scrub (s : State) (l : LinkRef) (v : Link) : (s.setLink l v).scrub = s.scrub := rfl
@[simp] theorem State.setLink_upsets (s : State) (l : LinkRef) (v : Link) : (s.setLink l v).upsets = s.upsets := rfl
@[simp] theorem State.setLink_probeBuf (s : State) (l : LinkRef) (v : Link) : (s.setLink l v).probeBuf = s.probeBuf := rfl
@[simp] theorem State.setLink_probeLeft (s : State) (l : LinkRef) (v : Link) : (s.setLink l v).probeLeft = s.probeLeft := rfl
@[simp] theorem State.setLink_pairs (s : State) (l : LinkRef) (v : Link) : (s.setLink l v).pairs = s.pairs := rfl
@[simp] theorem State.setLink_hostReads (s : State) (l : LinkRef) (v : Link) : (s.setLink l v).hostReads = s.hostReads := rfl
@[simp] theorem State.setLink_nextRead (s : State) (l : LinkRef) (v : Link) : (s.setLink l v).nextRead = s.nextRead := rfl
@[simp] theorem State.setLink_wins (s : State) (l : LinkRef) (v : Link) : (s.setLink l v).wins = s.wins := rfl
@[simp] theorem State.setLink_hostHeld (s : State) (l : LinkRef) (v : Link) : (s.setLink l v).hostHeld = s.hostHeld := rfl
@[simp] theorem State.setLink_winNext (s : State) (l : LinkRef) (v : Link) : (s.setLink l v).winNext = s.winNext := rfl
@[simp] theorem State.setLink_pcie (s : State) (l : LinkRef) (v : Link) : (s.setLink l v).pcie = s.pcie := rfl
@[simp] theorem State.setLink_sqTurn (s : State) (l : LinkRef) (v : Link) : (s.setLink l v).sqTurn = s.sqTurn := rfl
@[simp] theorem State.setLink_fuses (s : State) (l : LinkRef) (v : Link) : (s.setLink l v).fuses = s.fuses := rfl
@[simp] theorem State.setLink_lcs (s : State) (l : LinkRef) (v : Link) : (s.setLink l v).lcs = s.lcs := rfl
@[simp] theorem State.setLink_pins (s : State) (l : LinkRef) (v : Link) : (s.setLink l v).pins = s.pins := rfl
@[simp] theorem State.setLink_warned (s : State) (l : LinkRef) (v : Link) : (s.setLink l v).warned = s.warned := rfl
@[simp] theorem State.setLink_haltDone (s : State) (l : LinkRef) (v : Link) : (s.setLink l v).haltDone = s.haltDone := rfl
@[simp] theorem State.setLink_out (s : State) (l : LinkRef) (v : Link) : (s.setLink l v).out = s.out := rfl
@[simp] theorem State.setLink_pending (s : State) (l : LinkRef) (v : Link) : (s.setLink l v).pending = s.pending := rfl
@[simp] theorem State.setLink_free (s : State) (l : LinkRef) (v : Link) : (s.setLink l v).free = s.free := rfl

/-! ## setHome -/

@[simp] theorem State.setHome_phase (s : State) (h : Nat) (v : Home) : (s.setHome h v).phase = s.phase := rfl
@[simp] theorem State.setHome_regs (s : State) (h : Nat) (v : Home) : (s.setHome h v).regs = s.regs := rfl
@[simp] theorem State.setHome_shadow (s : State) (h : Nat) (v : Home) : (s.setHome h v).shadow = s.shadow := rfl
@[simp] theorem State.setHome_locks (s : State) (h : Nat) (v : Home) : (s.setHome h v).locks = s.locks := rfl
@[simp] theorem State.setHome_arms (s : State) (h : Nat) (v : Home) : (s.setHome h v).arms = s.arms := rfl
@[simp] theorem State.setHome_heldAcc (s : State) (h : Nat) (v : Home) : (s.setHome h v).heldAcc = s.heldAcc := rfl
@[simp] theorem State.setHome_flintUp (s : State) (h : Nat) (v : Home) : (s.setHome h v).flintUp = s.flintUp := rfl
@[simp] theorem State.setHome_wdog (s : State) (h : Nat) (v : Home) : (s.setHome h v).wdog = s.wdog := rfl
@[simp] theorem State.setHome_revs (s : State) (h : Nat) (v : Home) : (s.setHome h v).revs = s.revs := rfl
@[simp] theorem State.setHome_straps (s : State) (h : Nat) (v : Home) : (s.setHome h v).straps = s.straps := rfl
@[simp] theorem State.setHome_clk (s : State) (h : Nat) (v : Home) : (s.setHome h v).clk = s.clk := rfl
@[simp] theorem State.setHome_treeClosed (s : State) (h : Nat) (v : Home) : (s.setHome h v).treeClosed = s.treeClosed := rfl
@[simp] theorem State.setHome_spines (s : State) (h : Nat) (v : Home) : (s.setHome h v).spines = s.spines := rfl
@[simp] theorem State.setHome_trees (s : State) (h : Nat) (v : Home) : (s.setHome h v).trees = s.trees := rfl
@[simp] theorem State.setHome_drefPhase (s : State) (h : Nat) (v : Home) : (s.setHome h v).drefPhase = s.drefPhase := rfl
@[simp] theorem State.setHome_uports (s : State) (h : Nat) (v : Home) : (s.setHome h v).uports = s.uports := rfl
@[simp] theorem State.setHome_net (s : State) (h : Nat) (v : Home) : (s.setHome h v).net = s.net := rfl
@[simp] theorem State.setHome_inbox (s : State) (h : Nat) (v : Home) : (s.setHome h v).inbox = s.inbox := rfl
@[simp] theorem State.setHome_tags (s : State) (h : Nat) (v : Home) : (s.setHome h v).tags = s.tags := rfl
@[simp] theorem State.setHome_unanswered (s : State) (h : Nat) (v : Home) : (s.setHome h v).unanswered = s.unanswered := rfl
@[simp] theorem State.setHome_fences (s : State) (h : Nat) (v : Home) : (s.setHome h v).fences = s.fences := rfl
@[simp] theorem State.setHome_drains (s : State) (h : Nat) (v : Home) : (s.setHome h v).drains = s.drains := rfl
@[simp] theorem State.setHome_waking (s : State) (h : Nat) (v : Home) : (s.setHome h v).waking = s.waking := rfl
@[simp] theorem State.setHome_wakeFail (s : State) (h : Nat) (v : Home) : (s.setHome h v).wakeFail = s.wakeFail := rfl
@[simp] theorem State.setHome_slices (s : State) (h : Nat) (v : Home) : (s.setHome h v).slices = s.slices := rfl
@[simp] theorem State.setHome_dieDown (s : State) (h : Nat) (v : Home) : (s.setHome h v).dieDown = s.dieDown := rfl
@[simp] theorem State.setHome_flush (s : State) (h : Nat) (v : Home) : (s.setHome h v).flush = s.flush := rfl
@[simp] theorem State.setHome_rangeFlush (s : State) (h : Nat) (v : Home) : (s.setHome h v).rangeFlush = s.rangeFlush := rfl
@[simp] theorem State.setHome_links (s : State) (h : Nat) (v : Home) : (s.setHome h v).links = s.links := rfl
@[simp] theorem State.setHome_minbox (s : State) (h : Nat) (v : Home) : (s.setHome h v).minbox = s.minbox := rfl
@[simp] theorem State.setHome_arrivals (s : State) (h : Nat) (v : Home) : (s.setHome h v).arrivals = s.arrivals := rfl
@[simp] theorem State.setHome_wire (s : State) (h : Nat) (v : Home) : (s.setHome h v).wire = s.wire := rfl
@[simp] theorem State.setHome_strips (s : State) (h : Nat) (v : Home) : (s.setHome h v).strips = s.strips := rfl
@[simp] theorem State.setHome_strata (s : State) (h : Nat) (v : Home) : (s.setHome h v).strata = s.strata := rfl
@[simp] theorem State.setHome_cap (s : State) (h : Nat) (v : Home) : (s.setHome h v).cap = s.cap := rfl
@[simp] theorem State.setHome_lode (s : State) (h : Nat) (v : Home) : (s.setHome h v).lode = s.lode := rfl
@[simp] theorem State.setHome_xcv (s : State) (h : Nat) (v : Home) : (s.setHome h v).xcv = s.xcv := rfl
@[simp] theorem State.setHome_jtag (s : State) (h : Nat) (v : Home) : (s.setHome h v).jtag = s.jtag := rfl
@[simp] theorem State.setHome_mica (s : State) (h : Nat) (v : Home) : (s.setHome h v).mica = s.mica := rfl
@[simp] theorem State.setHome_vein (s : State) (h : Nat) (v : Home) : (s.setHome h v).vein = s.vein := rfl
@[simp] theorem State.setHome_micaOut (s : State) (h : Nat) (v : Home) : (s.setHome h v).micaOut = s.micaOut := rfl
@[simp] theorem State.setHome_micaShown (s : State) (h : Nat) (v : Home) : (s.setHome h v).micaShown = s.micaShown := rfl
@[simp] theorem State.setHome_mports (s : State) (h : Nat) (v : Home) : (s.setHome h v).mports = s.mports := rfl
@[simp] theorem State.setHome_erasing (s : State) (h : Nat) (v : Home) : (s.setHome h v).erasing = s.erasing := rfl
@[simp] theorem State.setHome_ddr (s : State) (h : Nat) (v : Home) : (s.setHome h v).ddr = s.ddr := rfl
@[simp] theorem State.setHome_ctr (s : State) (h : Nat) (v : Home) : (s.setHome h v).ctr = s.ctr := rfl
@[simp] theorem State.setHome_otag (s : State) (h : Nat) (v : Home) : (s.setHome h v).otag = s.otag := rfl
@[simp] theorem State.setHome_otree (s : State) (h : Nat) (v : Home) : (s.setHome h v).otree = s.otree := rfl
@[simp] theorem State.setHome_ocache (s : State) (h : Nat) (v : Home) : (s.setHome h v).ocache = s.ocache := rfl
@[simp] theorem State.setHome_metaErr (s : State) (h : Nat) (v : Home) : (s.setHome h v).metaErr = s.metaErr := rfl
@[simp] theorem State.setHome_broken (s : State) (h : Nat) (v : Home) : (s.setHome h v).broken = s.broken := rfl
@[simp] theorem State.setHome_keys (s : State) (h : Nat) (v : Home) : (s.setHome h v).keys = s.keys := rfl
@[simp] theorem State.setHome_treeKey (s : State) (h : Nat) (v : Home) : (s.setHome h v).treeKey = s.treeKey := rfl
@[simp] theorem State.setHome_maxMajor (s : State) (h : Nat) (v : Home) : (s.setHome h v).maxMajor = s.maxMajor := rfl
@[simp] theorem State.setHome_patrol (s : State) (h : Nat) (v : Home) : (s.setHome h v).patrol = s.patrol := rfl
@[simp] theorem State.setHome_frames (s : State) (h : Nat) (v : Home) : (s.setHome h v).frames = s.frames := rfl
@[simp] theorem State.setHome_engines (s : State) (h : Nat) (v : Home) : (s.setHome h v).engines = s.engines := rfl
@[simp] theorem State.setHome_grpNext (s : State) (h : Nat) (v : Home) : (s.setHome h v).grpNext = s.grpNext := rfl
@[simp] theorem State.setHome_engRsp (s : State) (h : Nat) (v : Home) : (s.setHome h v).engRsp = s.engRsp := rfl
@[simp] theorem State.setHome_ffs (s : State) (h : Nat) (v : Home) : (s.setHome h v).ffs = s.ffs := rfl
@[simp] theorem State.setHome_latches (s : State) (h : Nat) (v : Home) : (s.setHome h v).latches = s.latches := rfl
@[simp] theorem State.setHome_padHold (s : State) (h : Nat) (v : Home) : (s.setHome h v).padHold = s.padHold := rfl
@[simp] theorem State.setHome_pads (s : State) (h : Nat) (v : Home) : (s.setHome h v).pads = s.pads := rfl
@[simp] theorem State.setHome_loader (s : State) (h : Nat) (v : Home) : (s.setHome h v).loader = s.loader := rfl
@[simp] theorem State.setHome_regions (s : State) (h : Nat) (v : Home) : (s.setHome h v).regions = s.regions := rfl
@[simp] theorem State.setHome_scrub (s : State) (h : Nat) (v : Home) : (s.setHome h v).scrub = s.scrub := rfl
@[simp] theorem State.setHome_upsets (s : State) (h : Nat) (v : Home) : (s.setHome h v).upsets = s.upsets := rfl
@[simp] theorem State.setHome_probeBuf (s : State) (h : Nat) (v : Home) : (s.setHome h v).probeBuf = s.probeBuf := rfl
@[simp] theorem State.setHome_probeLeft (s : State) (h : Nat) (v : Home) : (s.setHome h v).probeLeft = s.probeLeft := rfl
@[simp] theorem State.setHome_pairs (s : State) (h : Nat) (v : Home) : (s.setHome h v).pairs = s.pairs := rfl
@[simp] theorem State.setHome_hostReads (s : State) (h : Nat) (v : Home) : (s.setHome h v).hostReads = s.hostReads := rfl
@[simp] theorem State.setHome_nextRead (s : State) (h : Nat) (v : Home) : (s.setHome h v).nextRead = s.nextRead := rfl
@[simp] theorem State.setHome_wins (s : State) (h : Nat) (v : Home) : (s.setHome h v).wins = s.wins := rfl
@[simp] theorem State.setHome_hostHeld (s : State) (h : Nat) (v : Home) : (s.setHome h v).hostHeld = s.hostHeld := rfl
@[simp] theorem State.setHome_winNext (s : State) (h : Nat) (v : Home) : (s.setHome h v).winNext = s.winNext := rfl
@[simp] theorem State.setHome_pcie (s : State) (h : Nat) (v : Home) : (s.setHome h v).pcie = s.pcie := rfl
@[simp] theorem State.setHome_sqTurn (s : State) (h : Nat) (v : Home) : (s.setHome h v).sqTurn = s.sqTurn := rfl
@[simp] theorem State.setHome_fuses (s : State) (h : Nat) (v : Home) : (s.setHome h v).fuses = s.fuses := rfl
@[simp] theorem State.setHome_lcs (s : State) (h : Nat) (v : Home) : (s.setHome h v).lcs = s.lcs := rfl
@[simp] theorem State.setHome_pins (s : State) (h : Nat) (v : Home) : (s.setHome h v).pins = s.pins := rfl
@[simp] theorem State.setHome_warned (s : State) (h : Nat) (v : Home) : (s.setHome h v).warned = s.warned := rfl
@[simp] theorem State.setHome_haltDone (s : State) (h : Nat) (v : Home) : (s.setHome h v).haltDone = s.haltDone := rfl
@[simp] theorem State.setHome_out (s : State) (h : Nat) (v : Home) : (s.setHome h v).out = s.out := rfl
@[simp] theorem State.setHome_pending (s : State) (h : Nat) (v : Home) : (s.setHome h v).pending = s.pending := rfl
@[simp] theorem State.setHome_free (s : State) (h : Nat) (v : Home) : (s.setHome h v).free = s.free := rfl

/-! ## setSlice -/

@[simp] theorem State.setSlice_phase (s : State) (d r : Nat) (v : Slice) : (s.setSlice d r v).phase = s.phase := rfl
@[simp] theorem State.setSlice_regs (s : State) (d r : Nat) (v : Slice) : (s.setSlice d r v).regs = s.regs := rfl
@[simp] theorem State.setSlice_shadow (s : State) (d r : Nat) (v : Slice) : (s.setSlice d r v).shadow = s.shadow := rfl
@[simp] theorem State.setSlice_locks (s : State) (d r : Nat) (v : Slice) : (s.setSlice d r v).locks = s.locks := rfl
@[simp] theorem State.setSlice_arms (s : State) (d r : Nat) (v : Slice) : (s.setSlice d r v).arms = s.arms := rfl
@[simp] theorem State.setSlice_heldAcc (s : State) (d r : Nat) (v : Slice) : (s.setSlice d r v).heldAcc = s.heldAcc := rfl
@[simp] theorem State.setSlice_flintUp (s : State) (d r : Nat) (v : Slice) : (s.setSlice d r v).flintUp = s.flintUp := rfl
@[simp] theorem State.setSlice_wdog (s : State) (d r : Nat) (v : Slice) : (s.setSlice d r v).wdog = s.wdog := rfl
@[simp] theorem State.setSlice_revs (s : State) (d r : Nat) (v : Slice) : (s.setSlice d r v).revs = s.revs := rfl
@[simp] theorem State.setSlice_straps (s : State) (d r : Nat) (v : Slice) : (s.setSlice d r v).straps = s.straps := rfl
@[simp] theorem State.setSlice_clk (s : State) (d r : Nat) (v : Slice) : (s.setSlice d r v).clk = s.clk := rfl
@[simp] theorem State.setSlice_treeClosed (s : State) (d r : Nat) (v : Slice) : (s.setSlice d r v).treeClosed = s.treeClosed := rfl
@[simp] theorem State.setSlice_spines (s : State) (d r : Nat) (v : Slice) : (s.setSlice d r v).spines = s.spines := rfl
@[simp] theorem State.setSlice_trees (s : State) (d r : Nat) (v : Slice) : (s.setSlice d r v).trees = s.trees := rfl
@[simp] theorem State.setSlice_drefPhase (s : State) (d r : Nat) (v : Slice) : (s.setSlice d r v).drefPhase = s.drefPhase := rfl
@[simp] theorem State.setSlice_uports (s : State) (d r : Nat) (v : Slice) : (s.setSlice d r v).uports = s.uports := rfl
@[simp] theorem State.setSlice_net (s : State) (d r : Nat) (v : Slice) : (s.setSlice d r v).net = s.net := rfl
@[simp] theorem State.setSlice_inbox (s : State) (d r : Nat) (v : Slice) : (s.setSlice d r v).inbox = s.inbox := rfl
@[simp] theorem State.setSlice_tags (s : State) (d r : Nat) (v : Slice) : (s.setSlice d r v).tags = s.tags := rfl
@[simp] theorem State.setSlice_unanswered (s : State) (d r : Nat) (v : Slice) : (s.setSlice d r v).unanswered = s.unanswered := rfl
@[simp] theorem State.setSlice_fences (s : State) (d r : Nat) (v : Slice) : (s.setSlice d r v).fences = s.fences := rfl
@[simp] theorem State.setSlice_drains (s : State) (d r : Nat) (v : Slice) : (s.setSlice d r v).drains = s.drains := rfl
@[simp] theorem State.setSlice_waking (s : State) (d r : Nat) (v : Slice) : (s.setSlice d r v).waking = s.waking := rfl
@[simp] theorem State.setSlice_wakeFail (s : State) (d r : Nat) (v : Slice) : (s.setSlice d r v).wakeFail = s.wakeFail := rfl
@[simp] theorem State.setSlice_homes (s : State) (d r : Nat) (v : Slice) : (s.setSlice d r v).homes = s.homes := rfl
@[simp] theorem State.setSlice_dieDown (s : State) (d r : Nat) (v : Slice) : (s.setSlice d r v).dieDown = s.dieDown := rfl
@[simp] theorem State.setSlice_flush (s : State) (d r : Nat) (v : Slice) : (s.setSlice d r v).flush = s.flush := rfl
@[simp] theorem State.setSlice_rangeFlush (s : State) (d r : Nat) (v : Slice) : (s.setSlice d r v).rangeFlush = s.rangeFlush := rfl
@[simp] theorem State.setSlice_links (s : State) (d r : Nat) (v : Slice) : (s.setSlice d r v).links = s.links := rfl
@[simp] theorem State.setSlice_minbox (s : State) (d r : Nat) (v : Slice) : (s.setSlice d r v).minbox = s.minbox := rfl
@[simp] theorem State.setSlice_arrivals (s : State) (d r : Nat) (v : Slice) : (s.setSlice d r v).arrivals = s.arrivals := rfl
@[simp] theorem State.setSlice_wire (s : State) (d r : Nat) (v : Slice) : (s.setSlice d r v).wire = s.wire := rfl
@[simp] theorem State.setSlice_strips (s : State) (d r : Nat) (v : Slice) : (s.setSlice d r v).strips = s.strips := rfl
@[simp] theorem State.setSlice_strata (s : State) (d r : Nat) (v : Slice) : (s.setSlice d r v).strata = s.strata := rfl
@[simp] theorem State.setSlice_cap (s : State) (d r : Nat) (v : Slice) : (s.setSlice d r v).cap = s.cap := rfl
@[simp] theorem State.setSlice_lode (s : State) (d r : Nat) (v : Slice) : (s.setSlice d r v).lode = s.lode := rfl
@[simp] theorem State.setSlice_xcv (s : State) (d r : Nat) (v : Slice) : (s.setSlice d r v).xcv = s.xcv := rfl
@[simp] theorem State.setSlice_jtag (s : State) (d r : Nat) (v : Slice) : (s.setSlice d r v).jtag = s.jtag := rfl
@[simp] theorem State.setSlice_mica (s : State) (d r : Nat) (v : Slice) : (s.setSlice d r v).mica = s.mica := rfl
@[simp] theorem State.setSlice_vein (s : State) (d r : Nat) (v : Slice) : (s.setSlice d r v).vein = s.vein := rfl
@[simp] theorem State.setSlice_micaOut (s : State) (d r : Nat) (v : Slice) : (s.setSlice d r v).micaOut = s.micaOut := rfl
@[simp] theorem State.setSlice_micaShown (s : State) (d r : Nat) (v : Slice) : (s.setSlice d r v).micaShown = s.micaShown := rfl
@[simp] theorem State.setSlice_mports (s : State) (d r : Nat) (v : Slice) : (s.setSlice d r v).mports = s.mports := rfl
@[simp] theorem State.setSlice_erasing (s : State) (d r : Nat) (v : Slice) : (s.setSlice d r v).erasing = s.erasing := rfl
@[simp] theorem State.setSlice_ddr (s : State) (d r : Nat) (v : Slice) : (s.setSlice d r v).ddr = s.ddr := rfl
@[simp] theorem State.setSlice_ctr (s : State) (d r : Nat) (v : Slice) : (s.setSlice d r v).ctr = s.ctr := rfl
@[simp] theorem State.setSlice_otag (s : State) (d r : Nat) (v : Slice) : (s.setSlice d r v).otag = s.otag := rfl
@[simp] theorem State.setSlice_otree (s : State) (d r : Nat) (v : Slice) : (s.setSlice d r v).otree = s.otree := rfl
@[simp] theorem State.setSlice_ocache (s : State) (d r : Nat) (v : Slice) : (s.setSlice d r v).ocache = s.ocache := rfl
@[simp] theorem State.setSlice_metaErr (s : State) (d r : Nat) (v : Slice) : (s.setSlice d r v).metaErr = s.metaErr := rfl
@[simp] theorem State.setSlice_broken (s : State) (d r : Nat) (v : Slice) : (s.setSlice d r v).broken = s.broken := rfl
@[simp] theorem State.setSlice_keys (s : State) (d r : Nat) (v : Slice) : (s.setSlice d r v).keys = s.keys := rfl
@[simp] theorem State.setSlice_treeKey (s : State) (d r : Nat) (v : Slice) : (s.setSlice d r v).treeKey = s.treeKey := rfl
@[simp] theorem State.setSlice_maxMajor (s : State) (d r : Nat) (v : Slice) : (s.setSlice d r v).maxMajor = s.maxMajor := rfl
@[simp] theorem State.setSlice_patrol (s : State) (d r : Nat) (v : Slice) : (s.setSlice d r v).patrol = s.patrol := rfl
@[simp] theorem State.setSlice_frames (s : State) (d r : Nat) (v : Slice) : (s.setSlice d r v).frames = s.frames := rfl
@[simp] theorem State.setSlice_engines (s : State) (d r : Nat) (v : Slice) : (s.setSlice d r v).engines = s.engines := rfl
@[simp] theorem State.setSlice_grpNext (s : State) (d r : Nat) (v : Slice) : (s.setSlice d r v).grpNext = s.grpNext := rfl
@[simp] theorem State.setSlice_engRsp (s : State) (d r : Nat) (v : Slice) : (s.setSlice d r v).engRsp = s.engRsp := rfl
@[simp] theorem State.setSlice_ffs (s : State) (d r : Nat) (v : Slice) : (s.setSlice d r v).ffs = s.ffs := rfl
@[simp] theorem State.setSlice_latches (s : State) (d r : Nat) (v : Slice) : (s.setSlice d r v).latches = s.latches := rfl
@[simp] theorem State.setSlice_padHold (s : State) (d r : Nat) (v : Slice) : (s.setSlice d r v).padHold = s.padHold := rfl
@[simp] theorem State.setSlice_pads (s : State) (d r : Nat) (v : Slice) : (s.setSlice d r v).pads = s.pads := rfl
@[simp] theorem State.setSlice_loader (s : State) (d r : Nat) (v : Slice) : (s.setSlice d r v).loader = s.loader := rfl
@[simp] theorem State.setSlice_regions (s : State) (d r : Nat) (v : Slice) : (s.setSlice d r v).regions = s.regions := rfl
@[simp] theorem State.setSlice_scrub (s : State) (d r : Nat) (v : Slice) : (s.setSlice d r v).scrub = s.scrub := rfl
@[simp] theorem State.setSlice_upsets (s : State) (d r : Nat) (v : Slice) : (s.setSlice d r v).upsets = s.upsets := rfl
@[simp] theorem State.setSlice_probeBuf (s : State) (d r : Nat) (v : Slice) : (s.setSlice d r v).probeBuf = s.probeBuf := rfl
@[simp] theorem State.setSlice_probeLeft (s : State) (d r : Nat) (v : Slice) : (s.setSlice d r v).probeLeft = s.probeLeft := rfl
@[simp] theorem State.setSlice_pairs (s : State) (d r : Nat) (v : Slice) : (s.setSlice d r v).pairs = s.pairs := rfl
@[simp] theorem State.setSlice_hostReads (s : State) (d r : Nat) (v : Slice) : (s.setSlice d r v).hostReads = s.hostReads := rfl
@[simp] theorem State.setSlice_nextRead (s : State) (d r : Nat) (v : Slice) : (s.setSlice d r v).nextRead = s.nextRead := rfl
@[simp] theorem State.setSlice_wins (s : State) (d r : Nat) (v : Slice) : (s.setSlice d r v).wins = s.wins := rfl
@[simp] theorem State.setSlice_hostHeld (s : State) (d r : Nat) (v : Slice) : (s.setSlice d r v).hostHeld = s.hostHeld := rfl
@[simp] theorem State.setSlice_winNext (s : State) (d r : Nat) (v : Slice) : (s.setSlice d r v).winNext = s.winNext := rfl
@[simp] theorem State.setSlice_pcie (s : State) (d r : Nat) (v : Slice) : (s.setSlice d r v).pcie = s.pcie := rfl
@[simp] theorem State.setSlice_sqTurn (s : State) (d r : Nat) (v : Slice) : (s.setSlice d r v).sqTurn = s.sqTurn := rfl
@[simp] theorem State.setSlice_fuses (s : State) (d r : Nat) (v : Slice) : (s.setSlice d r v).fuses = s.fuses := rfl
@[simp] theorem State.setSlice_lcs (s : State) (d r : Nat) (v : Slice) : (s.setSlice d r v).lcs = s.lcs := rfl
@[simp] theorem State.setSlice_pins (s : State) (d r : Nat) (v : Slice) : (s.setSlice d r v).pins = s.pins := rfl
@[simp] theorem State.setSlice_warned (s : State) (d r : Nat) (v : Slice) : (s.setSlice d r v).warned = s.warned := rfl
@[simp] theorem State.setSlice_haltDone (s : State) (d r : Nat) (v : Slice) : (s.setSlice d r v).haltDone = s.haltDone := rfl
@[simp] theorem State.setSlice_out (s : State) (d r : Nat) (v : Slice) : (s.setSlice d r v).out = s.out := rfl
@[simp] theorem State.setSlice_pending (s : State) (d r : Nat) (v : Slice) : (s.setSlice d r v).pending = s.pending := rfl
@[simp] theorem State.setSlice_free (s : State) (d r : Nat) (v : Slice) : (s.setSlice d r v).free = s.free := rfl

/-! ## setFrame -/

@[simp] theorem State.setFrame_phase (s : State) (k : Nat) (v : BitVec 4096) : (s.setFrame k v).phase = s.phase := rfl
@[simp] theorem State.setFrame_regs (s : State) (k : Nat) (v : BitVec 4096) : (s.setFrame k v).regs = s.regs := rfl
@[simp] theorem State.setFrame_shadow (s : State) (k : Nat) (v : BitVec 4096) : (s.setFrame k v).shadow = s.shadow := rfl
@[simp] theorem State.setFrame_locks (s : State) (k : Nat) (v : BitVec 4096) : (s.setFrame k v).locks = s.locks := rfl
@[simp] theorem State.setFrame_arms (s : State) (k : Nat) (v : BitVec 4096) : (s.setFrame k v).arms = s.arms := rfl
@[simp] theorem State.setFrame_heldAcc (s : State) (k : Nat) (v : BitVec 4096) : (s.setFrame k v).heldAcc = s.heldAcc := rfl
@[simp] theorem State.setFrame_flintUp (s : State) (k : Nat) (v : BitVec 4096) : (s.setFrame k v).flintUp = s.flintUp := rfl
@[simp] theorem State.setFrame_wdog (s : State) (k : Nat) (v : BitVec 4096) : (s.setFrame k v).wdog = s.wdog := rfl
@[simp] theorem State.setFrame_revs (s : State) (k : Nat) (v : BitVec 4096) : (s.setFrame k v).revs = s.revs := rfl
@[simp] theorem State.setFrame_straps (s : State) (k : Nat) (v : BitVec 4096) : (s.setFrame k v).straps = s.straps := rfl
@[simp] theorem State.setFrame_clk (s : State) (k : Nat) (v : BitVec 4096) : (s.setFrame k v).clk = s.clk := rfl
@[simp] theorem State.setFrame_treeClosed (s : State) (k : Nat) (v : BitVec 4096) : (s.setFrame k v).treeClosed = s.treeClosed := rfl
@[simp] theorem State.setFrame_spines (s : State) (k : Nat) (v : BitVec 4096) : (s.setFrame k v).spines = s.spines := rfl
@[simp] theorem State.setFrame_trees (s : State) (k : Nat) (v : BitVec 4096) : (s.setFrame k v).trees = s.trees := rfl
@[simp] theorem State.setFrame_drefPhase (s : State) (k : Nat) (v : BitVec 4096) : (s.setFrame k v).drefPhase = s.drefPhase := rfl
@[simp] theorem State.setFrame_uports (s : State) (k : Nat) (v : BitVec 4096) : (s.setFrame k v).uports = s.uports := rfl
@[simp] theorem State.setFrame_net (s : State) (k : Nat) (v : BitVec 4096) : (s.setFrame k v).net = s.net := rfl
@[simp] theorem State.setFrame_inbox (s : State) (k : Nat) (v : BitVec 4096) : (s.setFrame k v).inbox = s.inbox := rfl
@[simp] theorem State.setFrame_tags (s : State) (k : Nat) (v : BitVec 4096) : (s.setFrame k v).tags = s.tags := rfl
@[simp] theorem State.setFrame_unanswered (s : State) (k : Nat) (v : BitVec 4096) : (s.setFrame k v).unanswered = s.unanswered := rfl
@[simp] theorem State.setFrame_fences (s : State) (k : Nat) (v : BitVec 4096) : (s.setFrame k v).fences = s.fences := rfl
@[simp] theorem State.setFrame_drains (s : State) (k : Nat) (v : BitVec 4096) : (s.setFrame k v).drains = s.drains := rfl
@[simp] theorem State.setFrame_waking (s : State) (k : Nat) (v : BitVec 4096) : (s.setFrame k v).waking = s.waking := rfl
@[simp] theorem State.setFrame_wakeFail (s : State) (k : Nat) (v : BitVec 4096) : (s.setFrame k v).wakeFail = s.wakeFail := rfl
@[simp] theorem State.setFrame_slices (s : State) (k : Nat) (v : BitVec 4096) : (s.setFrame k v).slices = s.slices := rfl
@[simp] theorem State.setFrame_homes (s : State) (k : Nat) (v : BitVec 4096) : (s.setFrame k v).homes = s.homes := rfl
@[simp] theorem State.setFrame_dieDown (s : State) (k : Nat) (v : BitVec 4096) : (s.setFrame k v).dieDown = s.dieDown := rfl
@[simp] theorem State.setFrame_flush (s : State) (k : Nat) (v : BitVec 4096) : (s.setFrame k v).flush = s.flush := rfl
@[simp] theorem State.setFrame_rangeFlush (s : State) (k : Nat) (v : BitVec 4096) : (s.setFrame k v).rangeFlush = s.rangeFlush := rfl
@[simp] theorem State.setFrame_links (s : State) (k : Nat) (v : BitVec 4096) : (s.setFrame k v).links = s.links := rfl
@[simp] theorem State.setFrame_minbox (s : State) (k : Nat) (v : BitVec 4096) : (s.setFrame k v).minbox = s.minbox := rfl
@[simp] theorem State.setFrame_arrivals (s : State) (k : Nat) (v : BitVec 4096) : (s.setFrame k v).arrivals = s.arrivals := rfl
@[simp] theorem State.setFrame_wire (s : State) (k : Nat) (v : BitVec 4096) : (s.setFrame k v).wire = s.wire := rfl
@[simp] theorem State.setFrame_strips (s : State) (k : Nat) (v : BitVec 4096) : (s.setFrame k v).strips = s.strips := rfl
@[simp] theorem State.setFrame_strata (s : State) (k : Nat) (v : BitVec 4096) : (s.setFrame k v).strata = s.strata := rfl
@[simp] theorem State.setFrame_cap (s : State) (k : Nat) (v : BitVec 4096) : (s.setFrame k v).cap = s.cap := rfl
@[simp] theorem State.setFrame_lode (s : State) (k : Nat) (v : BitVec 4096) : (s.setFrame k v).lode = s.lode := rfl
@[simp] theorem State.setFrame_xcv (s : State) (k : Nat) (v : BitVec 4096) : (s.setFrame k v).xcv = s.xcv := rfl
@[simp] theorem State.setFrame_jtag (s : State) (k : Nat) (v : BitVec 4096) : (s.setFrame k v).jtag = s.jtag := rfl
@[simp] theorem State.setFrame_mica (s : State) (k : Nat) (v : BitVec 4096) : (s.setFrame k v).mica = s.mica := rfl
@[simp] theorem State.setFrame_vein (s : State) (k : Nat) (v : BitVec 4096) : (s.setFrame k v).vein = s.vein := rfl
@[simp] theorem State.setFrame_micaOut (s : State) (k : Nat) (v : BitVec 4096) : (s.setFrame k v).micaOut = s.micaOut := rfl
@[simp] theorem State.setFrame_micaShown (s : State) (k : Nat) (v : BitVec 4096) : (s.setFrame k v).micaShown = s.micaShown := rfl
@[simp] theorem State.setFrame_mports (s : State) (k : Nat) (v : BitVec 4096) : (s.setFrame k v).mports = s.mports := rfl
@[simp] theorem State.setFrame_erasing (s : State) (k : Nat) (v : BitVec 4096) : (s.setFrame k v).erasing = s.erasing := rfl
@[simp] theorem State.setFrame_ddr (s : State) (k : Nat) (v : BitVec 4096) : (s.setFrame k v).ddr = s.ddr := rfl
@[simp] theorem State.setFrame_ctr (s : State) (k : Nat) (v : BitVec 4096) : (s.setFrame k v).ctr = s.ctr := rfl
@[simp] theorem State.setFrame_otag (s : State) (k : Nat) (v : BitVec 4096) : (s.setFrame k v).otag = s.otag := rfl
@[simp] theorem State.setFrame_otree (s : State) (k : Nat) (v : BitVec 4096) : (s.setFrame k v).otree = s.otree := rfl
@[simp] theorem State.setFrame_ocache (s : State) (k : Nat) (v : BitVec 4096) : (s.setFrame k v).ocache = s.ocache := rfl
@[simp] theorem State.setFrame_metaErr (s : State) (k : Nat) (v : BitVec 4096) : (s.setFrame k v).metaErr = s.metaErr := rfl
@[simp] theorem State.setFrame_broken (s : State) (k : Nat) (v : BitVec 4096) : (s.setFrame k v).broken = s.broken := rfl
@[simp] theorem State.setFrame_keys (s : State) (k : Nat) (v : BitVec 4096) : (s.setFrame k v).keys = s.keys := rfl
@[simp] theorem State.setFrame_treeKey (s : State) (k : Nat) (v : BitVec 4096) : (s.setFrame k v).treeKey = s.treeKey := rfl
@[simp] theorem State.setFrame_maxMajor (s : State) (k : Nat) (v : BitVec 4096) : (s.setFrame k v).maxMajor = s.maxMajor := rfl
@[simp] theorem State.setFrame_patrol (s : State) (k : Nat) (v : BitVec 4096) : (s.setFrame k v).patrol = s.patrol := rfl
@[simp] theorem State.setFrame_engines (s : State) (k : Nat) (v : BitVec 4096) : (s.setFrame k v).engines = s.engines := rfl
@[simp] theorem State.setFrame_grpNext (s : State) (k : Nat) (v : BitVec 4096) : (s.setFrame k v).grpNext = s.grpNext := rfl
@[simp] theorem State.setFrame_engRsp (s : State) (k : Nat) (v : BitVec 4096) : (s.setFrame k v).engRsp = s.engRsp := rfl
@[simp] theorem State.setFrame_ffs (s : State) (k : Nat) (v : BitVec 4096) : (s.setFrame k v).ffs = s.ffs := rfl
@[simp] theorem State.setFrame_latches (s : State) (k : Nat) (v : BitVec 4096) : (s.setFrame k v).latches = s.latches := rfl
@[simp] theorem State.setFrame_padHold (s : State) (k : Nat) (v : BitVec 4096) : (s.setFrame k v).padHold = s.padHold := rfl
@[simp] theorem State.setFrame_pads (s : State) (k : Nat) (v : BitVec 4096) : (s.setFrame k v).pads = s.pads := rfl
@[simp] theorem State.setFrame_loader (s : State) (k : Nat) (v : BitVec 4096) : (s.setFrame k v).loader = s.loader := rfl
@[simp] theorem State.setFrame_regions (s : State) (k : Nat) (v : BitVec 4096) : (s.setFrame k v).regions = s.regions := rfl
@[simp] theorem State.setFrame_scrub (s : State) (k : Nat) (v : BitVec 4096) : (s.setFrame k v).scrub = s.scrub := rfl
@[simp] theorem State.setFrame_upsets (s : State) (k : Nat) (v : BitVec 4096) : (s.setFrame k v).upsets = s.upsets := rfl
@[simp] theorem State.setFrame_probeBuf (s : State) (k : Nat) (v : BitVec 4096) : (s.setFrame k v).probeBuf = s.probeBuf := rfl
@[simp] theorem State.setFrame_probeLeft (s : State) (k : Nat) (v : BitVec 4096) : (s.setFrame k v).probeLeft = s.probeLeft := rfl
@[simp] theorem State.setFrame_pairs (s : State) (k : Nat) (v : BitVec 4096) : (s.setFrame k v).pairs = s.pairs := rfl
@[simp] theorem State.setFrame_hostReads (s : State) (k : Nat) (v : BitVec 4096) : (s.setFrame k v).hostReads = s.hostReads := rfl
@[simp] theorem State.setFrame_nextRead (s : State) (k : Nat) (v : BitVec 4096) : (s.setFrame k v).nextRead = s.nextRead := rfl
@[simp] theorem State.setFrame_wins (s : State) (k : Nat) (v : BitVec 4096) : (s.setFrame k v).wins = s.wins := rfl
@[simp] theorem State.setFrame_hostHeld (s : State) (k : Nat) (v : BitVec 4096) : (s.setFrame k v).hostHeld = s.hostHeld := rfl
@[simp] theorem State.setFrame_winNext (s : State) (k : Nat) (v : BitVec 4096) : (s.setFrame k v).winNext = s.winNext := rfl
@[simp] theorem State.setFrame_pcie (s : State) (k : Nat) (v : BitVec 4096) : (s.setFrame k v).pcie = s.pcie := rfl
@[simp] theorem State.setFrame_sqTurn (s : State) (k : Nat) (v : BitVec 4096) : (s.setFrame k v).sqTurn = s.sqTurn := rfl
@[simp] theorem State.setFrame_fuses (s : State) (k : Nat) (v : BitVec 4096) : (s.setFrame k v).fuses = s.fuses := rfl
@[simp] theorem State.setFrame_lcs (s : State) (k : Nat) (v : BitVec 4096) : (s.setFrame k v).lcs = s.lcs := rfl
@[simp] theorem State.setFrame_pins (s : State) (k : Nat) (v : BitVec 4096) : (s.setFrame k v).pins = s.pins := rfl
@[simp] theorem State.setFrame_warned (s : State) (k : Nat) (v : BitVec 4096) : (s.setFrame k v).warned = s.warned := rfl
@[simp] theorem State.setFrame_haltDone (s : State) (k : Nat) (v : BitVec 4096) : (s.setFrame k v).haltDone = s.haltDone := rfl
@[simp] theorem State.setFrame_out (s : State) (k : Nat) (v : BitVec 4096) : (s.setFrame k v).out = s.out := rfl
@[simp] theorem State.setFrame_pending (s : State) (k : Nat) (v : BitVec 4096) : (s.setFrame k v).pending = s.pending := rfl
@[simp] theorem State.setFrame_free (s : State) (k : Nat) (v : BitVec 4096) : (s.setFrame k v).free = s.free := rfl

/-! ## setMica -/

@[simp] theorem State.setMica_phase (s : State) (d p w : Nat) (c : Cell) : (s.setMica d p w c).phase = s.phase := rfl
@[simp] theorem State.setMica_regs (s : State) (d p w : Nat) (c : Cell) : (s.setMica d p w c).regs = s.regs := rfl
@[simp] theorem State.setMica_shadow (s : State) (d p w : Nat) (c : Cell) : (s.setMica d p w c).shadow = s.shadow := rfl
@[simp] theorem State.setMica_locks (s : State) (d p w : Nat) (c : Cell) : (s.setMica d p w c).locks = s.locks := rfl
@[simp] theorem State.setMica_arms (s : State) (d p w : Nat) (c : Cell) : (s.setMica d p w c).arms = s.arms := rfl
@[simp] theorem State.setMica_heldAcc (s : State) (d p w : Nat) (c : Cell) : (s.setMica d p w c).heldAcc = s.heldAcc := rfl
@[simp] theorem State.setMica_flintUp (s : State) (d p w : Nat) (c : Cell) : (s.setMica d p w c).flintUp = s.flintUp := rfl
@[simp] theorem State.setMica_wdog (s : State) (d p w : Nat) (c : Cell) : (s.setMica d p w c).wdog = s.wdog := rfl
@[simp] theorem State.setMica_revs (s : State) (d p w : Nat) (c : Cell) : (s.setMica d p w c).revs = s.revs := rfl
@[simp] theorem State.setMica_straps (s : State) (d p w : Nat) (c : Cell) : (s.setMica d p w c).straps = s.straps := rfl
@[simp] theorem State.setMica_clk (s : State) (d p w : Nat) (c : Cell) : (s.setMica d p w c).clk = s.clk := rfl
@[simp] theorem State.setMica_treeClosed (s : State) (d p w : Nat) (c : Cell) : (s.setMica d p w c).treeClosed = s.treeClosed := rfl
@[simp] theorem State.setMica_spines (s : State) (d p w : Nat) (c : Cell) : (s.setMica d p w c).spines = s.spines := rfl
@[simp] theorem State.setMica_trees (s : State) (d p w : Nat) (c : Cell) : (s.setMica d p w c).trees = s.trees := rfl
@[simp] theorem State.setMica_drefPhase (s : State) (d p w : Nat) (c : Cell) : (s.setMica d p w c).drefPhase = s.drefPhase := rfl
@[simp] theorem State.setMica_uports (s : State) (d p w : Nat) (c : Cell) : (s.setMica d p w c).uports = s.uports := rfl
@[simp] theorem State.setMica_net (s : State) (d p w : Nat) (c : Cell) : (s.setMica d p w c).net = s.net := rfl
@[simp] theorem State.setMica_inbox (s : State) (d p w : Nat) (c : Cell) : (s.setMica d p w c).inbox = s.inbox := rfl
@[simp] theorem State.setMica_tags (s : State) (d p w : Nat) (c : Cell) : (s.setMica d p w c).tags = s.tags := rfl
@[simp] theorem State.setMica_unanswered (s : State) (d p w : Nat) (c : Cell) : (s.setMica d p w c).unanswered = s.unanswered := rfl
@[simp] theorem State.setMica_fences (s : State) (d p w : Nat) (c : Cell) : (s.setMica d p w c).fences = s.fences := rfl
@[simp] theorem State.setMica_drains (s : State) (d p w : Nat) (c : Cell) : (s.setMica d p w c).drains = s.drains := rfl
@[simp] theorem State.setMica_waking (s : State) (d p w : Nat) (c : Cell) : (s.setMica d p w c).waking = s.waking := rfl
@[simp] theorem State.setMica_wakeFail (s : State) (d p w : Nat) (c : Cell) : (s.setMica d p w c).wakeFail = s.wakeFail := rfl
@[simp] theorem State.setMica_slices (s : State) (d p w : Nat) (c : Cell) : (s.setMica d p w c).slices = s.slices := rfl
@[simp] theorem State.setMica_homes (s : State) (d p w : Nat) (c : Cell) : (s.setMica d p w c).homes = s.homes := rfl
@[simp] theorem State.setMica_dieDown (s : State) (d p w : Nat) (c : Cell) : (s.setMica d p w c).dieDown = s.dieDown := rfl
@[simp] theorem State.setMica_flush (s : State) (d p w : Nat) (c : Cell) : (s.setMica d p w c).flush = s.flush := rfl
@[simp] theorem State.setMica_rangeFlush (s : State) (d p w : Nat) (c : Cell) : (s.setMica d p w c).rangeFlush = s.rangeFlush := rfl
@[simp] theorem State.setMica_links (s : State) (d p w : Nat) (c : Cell) : (s.setMica d p w c).links = s.links := rfl
@[simp] theorem State.setMica_minbox (s : State) (d p w : Nat) (c : Cell) : (s.setMica d p w c).minbox = s.minbox := rfl
@[simp] theorem State.setMica_arrivals (s : State) (d p w : Nat) (c : Cell) : (s.setMica d p w c).arrivals = s.arrivals := rfl
@[simp] theorem State.setMica_wire (s : State) (d p w : Nat) (c : Cell) : (s.setMica d p w c).wire = s.wire := rfl
@[simp] theorem State.setMica_strips (s : State) (d p w : Nat) (c : Cell) : (s.setMica d p w c).strips = s.strips := rfl
@[simp] theorem State.setMica_strata (s : State) (d p w : Nat) (c : Cell) : (s.setMica d p w c).strata = s.strata := rfl
@[simp] theorem State.setMica_cap (s : State) (d p w : Nat) (c : Cell) : (s.setMica d p w c).cap = s.cap := rfl
@[simp] theorem State.setMica_lode (s : State) (d p w : Nat) (c : Cell) : (s.setMica d p w c).lode = s.lode := rfl
@[simp] theorem State.setMica_xcv (s : State) (d p w : Nat) (c : Cell) : (s.setMica d p w c).xcv = s.xcv := rfl
@[simp] theorem State.setMica_jtag (s : State) (d p w : Nat) (c : Cell) : (s.setMica d p w c).jtag = s.jtag := rfl
@[simp] theorem State.setMica_vein (s : State) (d p w : Nat) (c : Cell) : (s.setMica d p w c).vein = s.vein := rfl
@[simp] theorem State.setMica_micaOut (s : State) (d p w : Nat) (c : Cell) : (s.setMica d p w c).micaOut = s.micaOut := rfl
@[simp] theorem State.setMica_micaShown (s : State) (d p w : Nat) (c : Cell) : (s.setMica d p w c).micaShown = s.micaShown := rfl
@[simp] theorem State.setMica_mports (s : State) (d p w : Nat) (c : Cell) : (s.setMica d p w c).mports = s.mports := rfl
@[simp] theorem State.setMica_erasing (s : State) (d p w : Nat) (c : Cell) : (s.setMica d p w c).erasing = s.erasing := rfl
@[simp] theorem State.setMica_ddr (s : State) (d p w : Nat) (c : Cell) : (s.setMica d p w c).ddr = s.ddr := rfl
@[simp] theorem State.setMica_ctr (s : State) (d p w : Nat) (c : Cell) : (s.setMica d p w c).ctr = s.ctr := rfl
@[simp] theorem State.setMica_otag (s : State) (d p w : Nat) (c : Cell) : (s.setMica d p w c).otag = s.otag := rfl
@[simp] theorem State.setMica_otree (s : State) (d p w : Nat) (c : Cell) : (s.setMica d p w c).otree = s.otree := rfl
@[simp] theorem State.setMica_ocache (s : State) (d p w : Nat) (c : Cell) : (s.setMica d p w c).ocache = s.ocache := rfl
@[simp] theorem State.setMica_metaErr (s : State) (d p w : Nat) (c : Cell) : (s.setMica d p w c).metaErr = s.metaErr := rfl
@[simp] theorem State.setMica_broken (s : State) (d p w : Nat) (c : Cell) : (s.setMica d p w c).broken = s.broken := rfl
@[simp] theorem State.setMica_keys (s : State) (d p w : Nat) (c : Cell) : (s.setMica d p w c).keys = s.keys := rfl
@[simp] theorem State.setMica_treeKey (s : State) (d p w : Nat) (c : Cell) : (s.setMica d p w c).treeKey = s.treeKey := rfl
@[simp] theorem State.setMica_maxMajor (s : State) (d p w : Nat) (c : Cell) : (s.setMica d p w c).maxMajor = s.maxMajor := rfl
@[simp] theorem State.setMica_patrol (s : State) (d p w : Nat) (c : Cell) : (s.setMica d p w c).patrol = s.patrol := rfl
@[simp] theorem State.setMica_frames (s : State) (d p w : Nat) (c : Cell) : (s.setMica d p w c).frames = s.frames := rfl
@[simp] theorem State.setMica_engines (s : State) (d p w : Nat) (c : Cell) : (s.setMica d p w c).engines = s.engines := rfl
@[simp] theorem State.setMica_grpNext (s : State) (d p w : Nat) (c : Cell) : (s.setMica d p w c).grpNext = s.grpNext := rfl
@[simp] theorem State.setMica_engRsp (s : State) (d p w : Nat) (c : Cell) : (s.setMica d p w c).engRsp = s.engRsp := rfl
@[simp] theorem State.setMica_ffs (s : State) (d p w : Nat) (c : Cell) : (s.setMica d p w c).ffs = s.ffs := rfl
@[simp] theorem State.setMica_latches (s : State) (d p w : Nat) (c : Cell) : (s.setMica d p w c).latches = s.latches := rfl
@[simp] theorem State.setMica_padHold (s : State) (d p w : Nat) (c : Cell) : (s.setMica d p w c).padHold = s.padHold := rfl
@[simp] theorem State.setMica_pads (s : State) (d p w : Nat) (c : Cell) : (s.setMica d p w c).pads = s.pads := rfl
@[simp] theorem State.setMica_loader (s : State) (d p w : Nat) (c : Cell) : (s.setMica d p w c).loader = s.loader := rfl
@[simp] theorem State.setMica_regions (s : State) (d p w : Nat) (c : Cell) : (s.setMica d p w c).regions = s.regions := rfl
@[simp] theorem State.setMica_scrub (s : State) (d p w : Nat) (c : Cell) : (s.setMica d p w c).scrub = s.scrub := rfl
@[simp] theorem State.setMica_upsets (s : State) (d p w : Nat) (c : Cell) : (s.setMica d p w c).upsets = s.upsets := rfl
@[simp] theorem State.setMica_probeBuf (s : State) (d p w : Nat) (c : Cell) : (s.setMica d p w c).probeBuf = s.probeBuf := rfl
@[simp] theorem State.setMica_probeLeft (s : State) (d p w : Nat) (c : Cell) : (s.setMica d p w c).probeLeft = s.probeLeft := rfl
@[simp] theorem State.setMica_pairs (s : State) (d p w : Nat) (c : Cell) : (s.setMica d p w c).pairs = s.pairs := rfl
@[simp] theorem State.setMica_hostReads (s : State) (d p w : Nat) (c : Cell) : (s.setMica d p w c).hostReads = s.hostReads := rfl
@[simp] theorem State.setMica_nextRead (s : State) (d p w : Nat) (c : Cell) : (s.setMica d p w c).nextRead = s.nextRead := rfl
@[simp] theorem State.setMica_wins (s : State) (d p w : Nat) (c : Cell) : (s.setMica d p w c).wins = s.wins := rfl
@[simp] theorem State.setMica_hostHeld (s : State) (d p w : Nat) (c : Cell) : (s.setMica d p w c).hostHeld = s.hostHeld := rfl
@[simp] theorem State.setMica_winNext (s : State) (d p w : Nat) (c : Cell) : (s.setMica d p w c).winNext = s.winNext := rfl
@[simp] theorem State.setMica_pcie (s : State) (d p w : Nat) (c : Cell) : (s.setMica d p w c).pcie = s.pcie := rfl
@[simp] theorem State.setMica_sqTurn (s : State) (d p w : Nat) (c : Cell) : (s.setMica d p w c).sqTurn = s.sqTurn := rfl
@[simp] theorem State.setMica_fuses (s : State) (d p w : Nat) (c : Cell) : (s.setMica d p w c).fuses = s.fuses := rfl
@[simp] theorem State.setMica_lcs (s : State) (d p w : Nat) (c : Cell) : (s.setMica d p w c).lcs = s.lcs := rfl
@[simp] theorem State.setMica_pins (s : State) (d p w : Nat) (c : Cell) : (s.setMica d p w c).pins = s.pins := rfl
@[simp] theorem State.setMica_warned (s : State) (d p w : Nat) (c : Cell) : (s.setMica d p w c).warned = s.warned := rfl
@[simp] theorem State.setMica_haltDone (s : State) (d p w : Nat) (c : Cell) : (s.setMica d p w c).haltDone = s.haltDone := rfl
@[simp] theorem State.setMica_out (s : State) (d p w : Nat) (c : Cell) : (s.setMica d p w c).out = s.out := rfl
@[simp] theorem State.setMica_pending (s : State) (d p w : Nat) (c : Cell) : (s.setMica d p w c).pending = s.pending := rfl
@[simp] theorem State.setMica_free (s : State) (d p w : Nat) (c : Cell) : (s.setMica d p w c).free = s.free := rfl

/-! ## setVein -/

@[simp] theorem State.setVein_phase (s : State) (d i : Nat) (c : Cell) : (s.setVein d i c).phase = s.phase := rfl
@[simp] theorem State.setVein_regs (s : State) (d i : Nat) (c : Cell) : (s.setVein d i c).regs = s.regs := rfl
@[simp] theorem State.setVein_shadow (s : State) (d i : Nat) (c : Cell) : (s.setVein d i c).shadow = s.shadow := rfl
@[simp] theorem State.setVein_locks (s : State) (d i : Nat) (c : Cell) : (s.setVein d i c).locks = s.locks := rfl
@[simp] theorem State.setVein_arms (s : State) (d i : Nat) (c : Cell) : (s.setVein d i c).arms = s.arms := rfl
@[simp] theorem State.setVein_heldAcc (s : State) (d i : Nat) (c : Cell) : (s.setVein d i c).heldAcc = s.heldAcc := rfl
@[simp] theorem State.setVein_flintUp (s : State) (d i : Nat) (c : Cell) : (s.setVein d i c).flintUp = s.flintUp := rfl
@[simp] theorem State.setVein_wdog (s : State) (d i : Nat) (c : Cell) : (s.setVein d i c).wdog = s.wdog := rfl
@[simp] theorem State.setVein_revs (s : State) (d i : Nat) (c : Cell) : (s.setVein d i c).revs = s.revs := rfl
@[simp] theorem State.setVein_straps (s : State) (d i : Nat) (c : Cell) : (s.setVein d i c).straps = s.straps := rfl
@[simp] theorem State.setVein_clk (s : State) (d i : Nat) (c : Cell) : (s.setVein d i c).clk = s.clk := rfl
@[simp] theorem State.setVein_treeClosed (s : State) (d i : Nat) (c : Cell) : (s.setVein d i c).treeClosed = s.treeClosed := rfl
@[simp] theorem State.setVein_spines (s : State) (d i : Nat) (c : Cell) : (s.setVein d i c).spines = s.spines := rfl
@[simp] theorem State.setVein_trees (s : State) (d i : Nat) (c : Cell) : (s.setVein d i c).trees = s.trees := rfl
@[simp] theorem State.setVein_drefPhase (s : State) (d i : Nat) (c : Cell) : (s.setVein d i c).drefPhase = s.drefPhase := rfl
@[simp] theorem State.setVein_uports (s : State) (d i : Nat) (c : Cell) : (s.setVein d i c).uports = s.uports := rfl
@[simp] theorem State.setVein_net (s : State) (d i : Nat) (c : Cell) : (s.setVein d i c).net = s.net := rfl
@[simp] theorem State.setVein_inbox (s : State) (d i : Nat) (c : Cell) : (s.setVein d i c).inbox = s.inbox := rfl
@[simp] theorem State.setVein_tags (s : State) (d i : Nat) (c : Cell) : (s.setVein d i c).tags = s.tags := rfl
@[simp] theorem State.setVein_unanswered (s : State) (d i : Nat) (c : Cell) : (s.setVein d i c).unanswered = s.unanswered := rfl
@[simp] theorem State.setVein_fences (s : State) (d i : Nat) (c : Cell) : (s.setVein d i c).fences = s.fences := rfl
@[simp] theorem State.setVein_drains (s : State) (d i : Nat) (c : Cell) : (s.setVein d i c).drains = s.drains := rfl
@[simp] theorem State.setVein_waking (s : State) (d i : Nat) (c : Cell) : (s.setVein d i c).waking = s.waking := rfl
@[simp] theorem State.setVein_wakeFail (s : State) (d i : Nat) (c : Cell) : (s.setVein d i c).wakeFail = s.wakeFail := rfl
@[simp] theorem State.setVein_slices (s : State) (d i : Nat) (c : Cell) : (s.setVein d i c).slices = s.slices := rfl
@[simp] theorem State.setVein_homes (s : State) (d i : Nat) (c : Cell) : (s.setVein d i c).homes = s.homes := rfl
@[simp] theorem State.setVein_dieDown (s : State) (d i : Nat) (c : Cell) : (s.setVein d i c).dieDown = s.dieDown := rfl
@[simp] theorem State.setVein_flush (s : State) (d i : Nat) (c : Cell) : (s.setVein d i c).flush = s.flush := rfl
@[simp] theorem State.setVein_rangeFlush (s : State) (d i : Nat) (c : Cell) : (s.setVein d i c).rangeFlush = s.rangeFlush := rfl
@[simp] theorem State.setVein_links (s : State) (d i : Nat) (c : Cell) : (s.setVein d i c).links = s.links := rfl
@[simp] theorem State.setVein_minbox (s : State) (d i : Nat) (c : Cell) : (s.setVein d i c).minbox = s.minbox := rfl
@[simp] theorem State.setVein_arrivals (s : State) (d i : Nat) (c : Cell) : (s.setVein d i c).arrivals = s.arrivals := rfl
@[simp] theorem State.setVein_wire (s : State) (d i : Nat) (c : Cell) : (s.setVein d i c).wire = s.wire := rfl
@[simp] theorem State.setVein_strips (s : State) (d i : Nat) (c : Cell) : (s.setVein d i c).strips = s.strips := rfl
@[simp] theorem State.setVein_strata (s : State) (d i : Nat) (c : Cell) : (s.setVein d i c).strata = s.strata := rfl
@[simp] theorem State.setVein_cap (s : State) (d i : Nat) (c : Cell) : (s.setVein d i c).cap = s.cap := rfl
@[simp] theorem State.setVein_lode (s : State) (d i : Nat) (c : Cell) : (s.setVein d i c).lode = s.lode := rfl
@[simp] theorem State.setVein_xcv (s : State) (d i : Nat) (c : Cell) : (s.setVein d i c).xcv = s.xcv := rfl
@[simp] theorem State.setVein_jtag (s : State) (d i : Nat) (c : Cell) : (s.setVein d i c).jtag = s.jtag := rfl
@[simp] theorem State.setVein_mica (s : State) (d i : Nat) (c : Cell) : (s.setVein d i c).mica = s.mica := rfl
@[simp] theorem State.setVein_micaOut (s : State) (d i : Nat) (c : Cell) : (s.setVein d i c).micaOut = s.micaOut := rfl
@[simp] theorem State.setVein_micaShown (s : State) (d i : Nat) (c : Cell) : (s.setVein d i c).micaShown = s.micaShown := rfl
@[simp] theorem State.setVein_mports (s : State) (d i : Nat) (c : Cell) : (s.setVein d i c).mports = s.mports := rfl
@[simp] theorem State.setVein_erasing (s : State) (d i : Nat) (c : Cell) : (s.setVein d i c).erasing = s.erasing := rfl
@[simp] theorem State.setVein_ddr (s : State) (d i : Nat) (c : Cell) : (s.setVein d i c).ddr = s.ddr := rfl
@[simp] theorem State.setVein_ctr (s : State) (d i : Nat) (c : Cell) : (s.setVein d i c).ctr = s.ctr := rfl
@[simp] theorem State.setVein_otag (s : State) (d i : Nat) (c : Cell) : (s.setVein d i c).otag = s.otag := rfl
@[simp] theorem State.setVein_otree (s : State) (d i : Nat) (c : Cell) : (s.setVein d i c).otree = s.otree := rfl
@[simp] theorem State.setVein_ocache (s : State) (d i : Nat) (c : Cell) : (s.setVein d i c).ocache = s.ocache := rfl
@[simp] theorem State.setVein_metaErr (s : State) (d i : Nat) (c : Cell) : (s.setVein d i c).metaErr = s.metaErr := rfl
@[simp] theorem State.setVein_broken (s : State) (d i : Nat) (c : Cell) : (s.setVein d i c).broken = s.broken := rfl
@[simp] theorem State.setVein_keys (s : State) (d i : Nat) (c : Cell) : (s.setVein d i c).keys = s.keys := rfl
@[simp] theorem State.setVein_treeKey (s : State) (d i : Nat) (c : Cell) : (s.setVein d i c).treeKey = s.treeKey := rfl
@[simp] theorem State.setVein_maxMajor (s : State) (d i : Nat) (c : Cell) : (s.setVein d i c).maxMajor = s.maxMajor := rfl
@[simp] theorem State.setVein_patrol (s : State) (d i : Nat) (c : Cell) : (s.setVein d i c).patrol = s.patrol := rfl
@[simp] theorem State.setVein_frames (s : State) (d i : Nat) (c : Cell) : (s.setVein d i c).frames = s.frames := rfl
@[simp] theorem State.setVein_engines (s : State) (d i : Nat) (c : Cell) : (s.setVein d i c).engines = s.engines := rfl
@[simp] theorem State.setVein_grpNext (s : State) (d i : Nat) (c : Cell) : (s.setVein d i c).grpNext = s.grpNext := rfl
@[simp] theorem State.setVein_engRsp (s : State) (d i : Nat) (c : Cell) : (s.setVein d i c).engRsp = s.engRsp := rfl
@[simp] theorem State.setVein_ffs (s : State) (d i : Nat) (c : Cell) : (s.setVein d i c).ffs = s.ffs := rfl
@[simp] theorem State.setVein_latches (s : State) (d i : Nat) (c : Cell) : (s.setVein d i c).latches = s.latches := rfl
@[simp] theorem State.setVein_padHold (s : State) (d i : Nat) (c : Cell) : (s.setVein d i c).padHold = s.padHold := rfl
@[simp] theorem State.setVein_pads (s : State) (d i : Nat) (c : Cell) : (s.setVein d i c).pads = s.pads := rfl
@[simp] theorem State.setVein_loader (s : State) (d i : Nat) (c : Cell) : (s.setVein d i c).loader = s.loader := rfl
@[simp] theorem State.setVein_regions (s : State) (d i : Nat) (c : Cell) : (s.setVein d i c).regions = s.regions := rfl
@[simp] theorem State.setVein_scrub (s : State) (d i : Nat) (c : Cell) : (s.setVein d i c).scrub = s.scrub := rfl
@[simp] theorem State.setVein_upsets (s : State) (d i : Nat) (c : Cell) : (s.setVein d i c).upsets = s.upsets := rfl
@[simp] theorem State.setVein_probeBuf (s : State) (d i : Nat) (c : Cell) : (s.setVein d i c).probeBuf = s.probeBuf := rfl
@[simp] theorem State.setVein_probeLeft (s : State) (d i : Nat) (c : Cell) : (s.setVein d i c).probeLeft = s.probeLeft := rfl
@[simp] theorem State.setVein_pairs (s : State) (d i : Nat) (c : Cell) : (s.setVein d i c).pairs = s.pairs := rfl
@[simp] theorem State.setVein_hostReads (s : State) (d i : Nat) (c : Cell) : (s.setVein d i c).hostReads = s.hostReads := rfl
@[simp] theorem State.setVein_nextRead (s : State) (d i : Nat) (c : Cell) : (s.setVein d i c).nextRead = s.nextRead := rfl
@[simp] theorem State.setVein_wins (s : State) (d i : Nat) (c : Cell) : (s.setVein d i c).wins = s.wins := rfl
@[simp] theorem State.setVein_hostHeld (s : State) (d i : Nat) (c : Cell) : (s.setVein d i c).hostHeld = s.hostHeld := rfl
@[simp] theorem State.setVein_winNext (s : State) (d i : Nat) (c : Cell) : (s.setVein d i c).winNext = s.winNext := rfl
@[simp] theorem State.setVein_pcie (s : State) (d i : Nat) (c : Cell) : (s.setVein d i c).pcie = s.pcie := rfl
@[simp] theorem State.setVein_sqTurn (s : State) (d i : Nat) (c : Cell) : (s.setVein d i c).sqTurn = s.sqTurn := rfl
@[simp] theorem State.setVein_fuses (s : State) (d i : Nat) (c : Cell) : (s.setVein d i c).fuses = s.fuses := rfl
@[simp] theorem State.setVein_lcs (s : State) (d i : Nat) (c : Cell) : (s.setVein d i c).lcs = s.lcs := rfl
@[simp] theorem State.setVein_pins (s : State) (d i : Nat) (c : Cell) : (s.setVein d i c).pins = s.pins := rfl
@[simp] theorem State.setVein_warned (s : State) (d i : Nat) (c : Cell) : (s.setVein d i c).warned = s.warned := rfl
@[simp] theorem State.setVein_haltDone (s : State) (d i : Nat) (c : Cell) : (s.setVein d i c).haltDone = s.haltDone := rfl
@[simp] theorem State.setVein_out (s : State) (d i : Nat) (c : Cell) : (s.setVein d i c).out = s.out := rfl
@[simp] theorem State.setVein_pending (s : State) (d i : Nat) (c : Cell) : (s.setVein d i c).pending = s.pending := rfl
@[simp] theorem State.setVein_free (s : State) (d i : Nat) (c : Cell) : (s.setVein d i c).free = s.free := rfl

/-! ## setWire -/

@[simp] theorem State.setWire_phase (s : State) (k : Nat) (w : WireSt) : (s.setWire k w).phase = s.phase := rfl
@[simp] theorem State.setWire_regs (s : State) (k : Nat) (w : WireSt) : (s.setWire k w).regs = s.regs := rfl
@[simp] theorem State.setWire_shadow (s : State) (k : Nat) (w : WireSt) : (s.setWire k w).shadow = s.shadow := rfl
@[simp] theorem State.setWire_locks (s : State) (k : Nat) (w : WireSt) : (s.setWire k w).locks = s.locks := rfl
@[simp] theorem State.setWire_arms (s : State) (k : Nat) (w : WireSt) : (s.setWire k w).arms = s.arms := rfl
@[simp] theorem State.setWire_heldAcc (s : State) (k : Nat) (w : WireSt) : (s.setWire k w).heldAcc = s.heldAcc := rfl
@[simp] theorem State.setWire_flintUp (s : State) (k : Nat) (w : WireSt) : (s.setWire k w).flintUp = s.flintUp := rfl
@[simp] theorem State.setWire_wdog (s : State) (k : Nat) (w : WireSt) : (s.setWire k w).wdog = s.wdog := rfl
@[simp] theorem State.setWire_revs (s : State) (k : Nat) (w : WireSt) : (s.setWire k w).revs = s.revs := rfl
@[simp] theorem State.setWire_straps (s : State) (k : Nat) (w : WireSt) : (s.setWire k w).straps = s.straps := rfl
@[simp] theorem State.setWire_clk (s : State) (k : Nat) (w : WireSt) : (s.setWire k w).clk = s.clk := rfl
@[simp] theorem State.setWire_treeClosed (s : State) (k : Nat) (w : WireSt) : (s.setWire k w).treeClosed = s.treeClosed := rfl
@[simp] theorem State.setWire_spines (s : State) (k : Nat) (w : WireSt) : (s.setWire k w).spines = s.spines := rfl
@[simp] theorem State.setWire_trees (s : State) (k : Nat) (w : WireSt) : (s.setWire k w).trees = s.trees := rfl
@[simp] theorem State.setWire_drefPhase (s : State) (k : Nat) (w : WireSt) : (s.setWire k w).drefPhase = s.drefPhase := rfl
@[simp] theorem State.setWire_uports (s : State) (k : Nat) (w : WireSt) : (s.setWire k w).uports = s.uports := rfl
@[simp] theorem State.setWire_net (s : State) (k : Nat) (w : WireSt) : (s.setWire k w).net = s.net := rfl
@[simp] theorem State.setWire_inbox (s : State) (k : Nat) (w : WireSt) : (s.setWire k w).inbox = s.inbox := rfl
@[simp] theorem State.setWire_tags (s : State) (k : Nat) (w : WireSt) : (s.setWire k w).tags = s.tags := rfl
@[simp] theorem State.setWire_unanswered (s : State) (k : Nat) (w : WireSt) : (s.setWire k w).unanswered = s.unanswered := rfl
@[simp] theorem State.setWire_fences (s : State) (k : Nat) (w : WireSt) : (s.setWire k w).fences = s.fences := rfl
@[simp] theorem State.setWire_drains (s : State) (k : Nat) (w : WireSt) : (s.setWire k w).drains = s.drains := rfl
@[simp] theorem State.setWire_waking (s : State) (k : Nat) (w : WireSt) : (s.setWire k w).waking = s.waking := rfl
@[simp] theorem State.setWire_wakeFail (s : State) (k : Nat) (w : WireSt) : (s.setWire k w).wakeFail = s.wakeFail := rfl
@[simp] theorem State.setWire_slices (s : State) (k : Nat) (w : WireSt) : (s.setWire k w).slices = s.slices := rfl
@[simp] theorem State.setWire_homes (s : State) (k : Nat) (w : WireSt) : (s.setWire k w).homes = s.homes := rfl
@[simp] theorem State.setWire_dieDown (s : State) (k : Nat) (w : WireSt) : (s.setWire k w).dieDown = s.dieDown := rfl
@[simp] theorem State.setWire_flush (s : State) (k : Nat) (w : WireSt) : (s.setWire k w).flush = s.flush := rfl
@[simp] theorem State.setWire_rangeFlush (s : State) (k : Nat) (w : WireSt) : (s.setWire k w).rangeFlush = s.rangeFlush := rfl
@[simp] theorem State.setWire_links (s : State) (k : Nat) (w : WireSt) : (s.setWire k w).links = s.links := rfl
@[simp] theorem State.setWire_minbox (s : State) (k : Nat) (w : WireSt) : (s.setWire k w).minbox = s.minbox := rfl
@[simp] theorem State.setWire_arrivals (s : State) (k : Nat) (w : WireSt) : (s.setWire k w).arrivals = s.arrivals := rfl
@[simp] theorem State.setWire_strips (s : State) (k : Nat) (w : WireSt) : (s.setWire k w).strips = s.strips := rfl
@[simp] theorem State.setWire_strata (s : State) (k : Nat) (w : WireSt) : (s.setWire k w).strata = s.strata := rfl
@[simp] theorem State.setWire_cap (s : State) (k : Nat) (w : WireSt) : (s.setWire k w).cap = s.cap := rfl
@[simp] theorem State.setWire_lode (s : State) (k : Nat) (w : WireSt) : (s.setWire k w).lode = s.lode := rfl
@[simp] theorem State.setWire_xcv (s : State) (k : Nat) (w : WireSt) : (s.setWire k w).xcv = s.xcv := rfl
@[simp] theorem State.setWire_jtag (s : State) (k : Nat) (w : WireSt) : (s.setWire k w).jtag = s.jtag := rfl
@[simp] theorem State.setWire_mica (s : State) (k : Nat) (w : WireSt) : (s.setWire k w).mica = s.mica := rfl
@[simp] theorem State.setWire_vein (s : State) (k : Nat) (w : WireSt) : (s.setWire k w).vein = s.vein := rfl
@[simp] theorem State.setWire_micaOut (s : State) (k : Nat) (w : WireSt) : (s.setWire k w).micaOut = s.micaOut := rfl
@[simp] theorem State.setWire_micaShown (s : State) (k : Nat) (w : WireSt) : (s.setWire k w).micaShown = s.micaShown := rfl
@[simp] theorem State.setWire_mports (s : State) (k : Nat) (w : WireSt) : (s.setWire k w).mports = s.mports := rfl
@[simp] theorem State.setWire_erasing (s : State) (k : Nat) (w : WireSt) : (s.setWire k w).erasing = s.erasing := rfl
@[simp] theorem State.setWire_ddr (s : State) (k : Nat) (w : WireSt) : (s.setWire k w).ddr = s.ddr := rfl
@[simp] theorem State.setWire_ctr (s : State) (k : Nat) (w : WireSt) : (s.setWire k w).ctr = s.ctr := rfl
@[simp] theorem State.setWire_otag (s : State) (k : Nat) (w : WireSt) : (s.setWire k w).otag = s.otag := rfl
@[simp] theorem State.setWire_otree (s : State) (k : Nat) (w : WireSt) : (s.setWire k w).otree = s.otree := rfl
@[simp] theorem State.setWire_ocache (s : State) (k : Nat) (w : WireSt) : (s.setWire k w).ocache = s.ocache := rfl
@[simp] theorem State.setWire_metaErr (s : State) (k : Nat) (w : WireSt) : (s.setWire k w).metaErr = s.metaErr := rfl
@[simp] theorem State.setWire_broken (s : State) (k : Nat) (w : WireSt) : (s.setWire k w).broken = s.broken := rfl
@[simp] theorem State.setWire_keys (s : State) (k : Nat) (w : WireSt) : (s.setWire k w).keys = s.keys := rfl
@[simp] theorem State.setWire_treeKey (s : State) (k : Nat) (w : WireSt) : (s.setWire k w).treeKey = s.treeKey := rfl
@[simp] theorem State.setWire_maxMajor (s : State) (k : Nat) (w : WireSt) : (s.setWire k w).maxMajor = s.maxMajor := rfl
@[simp] theorem State.setWire_patrol (s : State) (k : Nat) (w : WireSt) : (s.setWire k w).patrol = s.patrol := rfl
@[simp] theorem State.setWire_frames (s : State) (k : Nat) (w : WireSt) : (s.setWire k w).frames = s.frames := rfl
@[simp] theorem State.setWire_engines (s : State) (k : Nat) (w : WireSt) : (s.setWire k w).engines = s.engines := rfl
@[simp] theorem State.setWire_grpNext (s : State) (k : Nat) (w : WireSt) : (s.setWire k w).grpNext = s.grpNext := rfl
@[simp] theorem State.setWire_engRsp (s : State) (k : Nat) (w : WireSt) : (s.setWire k w).engRsp = s.engRsp := rfl
@[simp] theorem State.setWire_ffs (s : State) (k : Nat) (w : WireSt) : (s.setWire k w).ffs = s.ffs := rfl
@[simp] theorem State.setWire_latches (s : State) (k : Nat) (w : WireSt) : (s.setWire k w).latches = s.latches := rfl
@[simp] theorem State.setWire_padHold (s : State) (k : Nat) (w : WireSt) : (s.setWire k w).padHold = s.padHold := rfl
@[simp] theorem State.setWire_pads (s : State) (k : Nat) (w : WireSt) : (s.setWire k w).pads = s.pads := rfl
@[simp] theorem State.setWire_loader (s : State) (k : Nat) (w : WireSt) : (s.setWire k w).loader = s.loader := rfl
@[simp] theorem State.setWire_regions (s : State) (k : Nat) (w : WireSt) : (s.setWire k w).regions = s.regions := rfl
@[simp] theorem State.setWire_scrub (s : State) (k : Nat) (w : WireSt) : (s.setWire k w).scrub = s.scrub := rfl
@[simp] theorem State.setWire_upsets (s : State) (k : Nat) (w : WireSt) : (s.setWire k w).upsets = s.upsets := rfl
@[simp] theorem State.setWire_probeBuf (s : State) (k : Nat) (w : WireSt) : (s.setWire k w).probeBuf = s.probeBuf := rfl
@[simp] theorem State.setWire_probeLeft (s : State) (k : Nat) (w : WireSt) : (s.setWire k w).probeLeft = s.probeLeft := rfl
@[simp] theorem State.setWire_pairs (s : State) (k : Nat) (w : WireSt) : (s.setWire k w).pairs = s.pairs := rfl
@[simp] theorem State.setWire_hostReads (s : State) (k : Nat) (w : WireSt) : (s.setWire k w).hostReads = s.hostReads := rfl
@[simp] theorem State.setWire_nextRead (s : State) (k : Nat) (w : WireSt) : (s.setWire k w).nextRead = s.nextRead := rfl
@[simp] theorem State.setWire_wins (s : State) (k : Nat) (w : WireSt) : (s.setWire k w).wins = s.wins := rfl
@[simp] theorem State.setWire_hostHeld (s : State) (k : Nat) (w : WireSt) : (s.setWire k w).hostHeld = s.hostHeld := rfl
@[simp] theorem State.setWire_winNext (s : State) (k : Nat) (w : WireSt) : (s.setWire k w).winNext = s.winNext := rfl
@[simp] theorem State.setWire_pcie (s : State) (k : Nat) (w : WireSt) : (s.setWire k w).pcie = s.pcie := rfl
@[simp] theorem State.setWire_sqTurn (s : State) (k : Nat) (w : WireSt) : (s.setWire k w).sqTurn = s.sqTurn := rfl
@[simp] theorem State.setWire_fuses (s : State) (k : Nat) (w : WireSt) : (s.setWire k w).fuses = s.fuses := rfl
@[simp] theorem State.setWire_lcs (s : State) (k : Nat) (w : WireSt) : (s.setWire k w).lcs = s.lcs := rfl
@[simp] theorem State.setWire_pins (s : State) (k : Nat) (w : WireSt) : (s.setWire k w).pins = s.pins := rfl
@[simp] theorem State.setWire_warned (s : State) (k : Nat) (w : WireSt) : (s.setWire k w).warned = s.warned := rfl
@[simp] theorem State.setWire_haltDone (s : State) (k : Nat) (w : WireSt) : (s.setWire k w).haltDone = s.haltDone := rfl
@[simp] theorem State.setWire_out (s : State) (k : Nat) (w : WireSt) : (s.setWire k w).out = s.out := rfl
@[simp] theorem State.setWire_pending (s : State) (k : Nat) (w : WireSt) : (s.setWire k w).pending = s.pending := rfl
@[simp] theorem State.setWire_free (s : State) (k : Nat) (w : WireSt) : (s.setWire k w).free = s.free := rfl

/-! ## setStrip -/

@[simp] theorem State.setStrip_phase (s : State) (i : Nat) (v : StripSt) : (s.setStrip i v).phase = s.phase := rfl
@[simp] theorem State.setStrip_regs (s : State) (i : Nat) (v : StripSt) : (s.setStrip i v).regs = s.regs := rfl
@[simp] theorem State.setStrip_shadow (s : State) (i : Nat) (v : StripSt) : (s.setStrip i v).shadow = s.shadow := rfl
@[simp] theorem State.setStrip_locks (s : State) (i : Nat) (v : StripSt) : (s.setStrip i v).locks = s.locks := rfl
@[simp] theorem State.setStrip_arms (s : State) (i : Nat) (v : StripSt) : (s.setStrip i v).arms = s.arms := rfl
@[simp] theorem State.setStrip_heldAcc (s : State) (i : Nat) (v : StripSt) : (s.setStrip i v).heldAcc = s.heldAcc := rfl
@[simp] theorem State.setStrip_flintUp (s : State) (i : Nat) (v : StripSt) : (s.setStrip i v).flintUp = s.flintUp := rfl
@[simp] theorem State.setStrip_wdog (s : State) (i : Nat) (v : StripSt) : (s.setStrip i v).wdog = s.wdog := rfl
@[simp] theorem State.setStrip_revs (s : State) (i : Nat) (v : StripSt) : (s.setStrip i v).revs = s.revs := rfl
@[simp] theorem State.setStrip_straps (s : State) (i : Nat) (v : StripSt) : (s.setStrip i v).straps = s.straps := rfl
@[simp] theorem State.setStrip_clk (s : State) (i : Nat) (v : StripSt) : (s.setStrip i v).clk = s.clk := rfl
@[simp] theorem State.setStrip_treeClosed (s : State) (i : Nat) (v : StripSt) : (s.setStrip i v).treeClosed = s.treeClosed := rfl
@[simp] theorem State.setStrip_spines (s : State) (i : Nat) (v : StripSt) : (s.setStrip i v).spines = s.spines := rfl
@[simp] theorem State.setStrip_trees (s : State) (i : Nat) (v : StripSt) : (s.setStrip i v).trees = s.trees := rfl
@[simp] theorem State.setStrip_drefPhase (s : State) (i : Nat) (v : StripSt) : (s.setStrip i v).drefPhase = s.drefPhase := rfl
@[simp] theorem State.setStrip_uports (s : State) (i : Nat) (v : StripSt) : (s.setStrip i v).uports = s.uports := rfl
@[simp] theorem State.setStrip_net (s : State) (i : Nat) (v : StripSt) : (s.setStrip i v).net = s.net := rfl
@[simp] theorem State.setStrip_inbox (s : State) (i : Nat) (v : StripSt) : (s.setStrip i v).inbox = s.inbox := rfl
@[simp] theorem State.setStrip_tags (s : State) (i : Nat) (v : StripSt) : (s.setStrip i v).tags = s.tags := rfl
@[simp] theorem State.setStrip_unanswered (s : State) (i : Nat) (v : StripSt) : (s.setStrip i v).unanswered = s.unanswered := rfl
@[simp] theorem State.setStrip_fences (s : State) (i : Nat) (v : StripSt) : (s.setStrip i v).fences = s.fences := rfl
@[simp] theorem State.setStrip_drains (s : State) (i : Nat) (v : StripSt) : (s.setStrip i v).drains = s.drains := rfl
@[simp] theorem State.setStrip_waking (s : State) (i : Nat) (v : StripSt) : (s.setStrip i v).waking = s.waking := rfl
@[simp] theorem State.setStrip_wakeFail (s : State) (i : Nat) (v : StripSt) : (s.setStrip i v).wakeFail = s.wakeFail := rfl
@[simp] theorem State.setStrip_slices (s : State) (i : Nat) (v : StripSt) : (s.setStrip i v).slices = s.slices := rfl
@[simp] theorem State.setStrip_homes (s : State) (i : Nat) (v : StripSt) : (s.setStrip i v).homes = s.homes := rfl
@[simp] theorem State.setStrip_dieDown (s : State) (i : Nat) (v : StripSt) : (s.setStrip i v).dieDown = s.dieDown := rfl
@[simp] theorem State.setStrip_flush (s : State) (i : Nat) (v : StripSt) : (s.setStrip i v).flush = s.flush := rfl
@[simp] theorem State.setStrip_rangeFlush (s : State) (i : Nat) (v : StripSt) : (s.setStrip i v).rangeFlush = s.rangeFlush := rfl
@[simp] theorem State.setStrip_links (s : State) (i : Nat) (v : StripSt) : (s.setStrip i v).links = s.links := rfl
@[simp] theorem State.setStrip_minbox (s : State) (i : Nat) (v : StripSt) : (s.setStrip i v).minbox = s.minbox := rfl
@[simp] theorem State.setStrip_arrivals (s : State) (i : Nat) (v : StripSt) : (s.setStrip i v).arrivals = s.arrivals := rfl
@[simp] theorem State.setStrip_wire (s : State) (i : Nat) (v : StripSt) : (s.setStrip i v).wire = s.wire := rfl
@[simp] theorem State.setStrip_strata (s : State) (i : Nat) (v : StripSt) : (s.setStrip i v).strata = s.strata := rfl
@[simp] theorem State.setStrip_cap (s : State) (i : Nat) (v : StripSt) : (s.setStrip i v).cap = s.cap := rfl
@[simp] theorem State.setStrip_lode (s : State) (i : Nat) (v : StripSt) : (s.setStrip i v).lode = s.lode := rfl
@[simp] theorem State.setStrip_xcv (s : State) (i : Nat) (v : StripSt) : (s.setStrip i v).xcv = s.xcv := rfl
@[simp] theorem State.setStrip_jtag (s : State) (i : Nat) (v : StripSt) : (s.setStrip i v).jtag = s.jtag := rfl
@[simp] theorem State.setStrip_mica (s : State) (i : Nat) (v : StripSt) : (s.setStrip i v).mica = s.mica := rfl
@[simp] theorem State.setStrip_vein (s : State) (i : Nat) (v : StripSt) : (s.setStrip i v).vein = s.vein := rfl
@[simp] theorem State.setStrip_micaOut (s : State) (i : Nat) (v : StripSt) : (s.setStrip i v).micaOut = s.micaOut := rfl
@[simp] theorem State.setStrip_micaShown (s : State) (i : Nat) (v : StripSt) : (s.setStrip i v).micaShown = s.micaShown := rfl
@[simp] theorem State.setStrip_mports (s : State) (i : Nat) (v : StripSt) : (s.setStrip i v).mports = s.mports := rfl
@[simp] theorem State.setStrip_erasing (s : State) (i : Nat) (v : StripSt) : (s.setStrip i v).erasing = s.erasing := rfl
@[simp] theorem State.setStrip_ddr (s : State) (i : Nat) (v : StripSt) : (s.setStrip i v).ddr = s.ddr := rfl
@[simp] theorem State.setStrip_ctr (s : State) (i : Nat) (v : StripSt) : (s.setStrip i v).ctr = s.ctr := rfl
@[simp] theorem State.setStrip_otag (s : State) (i : Nat) (v : StripSt) : (s.setStrip i v).otag = s.otag := rfl
@[simp] theorem State.setStrip_otree (s : State) (i : Nat) (v : StripSt) : (s.setStrip i v).otree = s.otree := rfl
@[simp] theorem State.setStrip_ocache (s : State) (i : Nat) (v : StripSt) : (s.setStrip i v).ocache = s.ocache := rfl
@[simp] theorem State.setStrip_metaErr (s : State) (i : Nat) (v : StripSt) : (s.setStrip i v).metaErr = s.metaErr := rfl
@[simp] theorem State.setStrip_broken (s : State) (i : Nat) (v : StripSt) : (s.setStrip i v).broken = s.broken := rfl
@[simp] theorem State.setStrip_keys (s : State) (i : Nat) (v : StripSt) : (s.setStrip i v).keys = s.keys := rfl
@[simp] theorem State.setStrip_treeKey (s : State) (i : Nat) (v : StripSt) : (s.setStrip i v).treeKey = s.treeKey := rfl
@[simp] theorem State.setStrip_maxMajor (s : State) (i : Nat) (v : StripSt) : (s.setStrip i v).maxMajor = s.maxMajor := rfl
@[simp] theorem State.setStrip_patrol (s : State) (i : Nat) (v : StripSt) : (s.setStrip i v).patrol = s.patrol := rfl
@[simp] theorem State.setStrip_frames (s : State) (i : Nat) (v : StripSt) : (s.setStrip i v).frames = s.frames := rfl
@[simp] theorem State.setStrip_engines (s : State) (i : Nat) (v : StripSt) : (s.setStrip i v).engines = s.engines := rfl
@[simp] theorem State.setStrip_grpNext (s : State) (i : Nat) (v : StripSt) : (s.setStrip i v).grpNext = s.grpNext := rfl
@[simp] theorem State.setStrip_engRsp (s : State) (i : Nat) (v : StripSt) : (s.setStrip i v).engRsp = s.engRsp := rfl
@[simp] theorem State.setStrip_ffs (s : State) (i : Nat) (v : StripSt) : (s.setStrip i v).ffs = s.ffs := rfl
@[simp] theorem State.setStrip_latches (s : State) (i : Nat) (v : StripSt) : (s.setStrip i v).latches = s.latches := rfl
@[simp] theorem State.setStrip_padHold (s : State) (i : Nat) (v : StripSt) : (s.setStrip i v).padHold = s.padHold := rfl
@[simp] theorem State.setStrip_pads (s : State) (i : Nat) (v : StripSt) : (s.setStrip i v).pads = s.pads := rfl
@[simp] theorem State.setStrip_loader (s : State) (i : Nat) (v : StripSt) : (s.setStrip i v).loader = s.loader := rfl
@[simp] theorem State.setStrip_regions (s : State) (i : Nat) (v : StripSt) : (s.setStrip i v).regions = s.regions := rfl
@[simp] theorem State.setStrip_scrub (s : State) (i : Nat) (v : StripSt) : (s.setStrip i v).scrub = s.scrub := rfl
@[simp] theorem State.setStrip_upsets (s : State) (i : Nat) (v : StripSt) : (s.setStrip i v).upsets = s.upsets := rfl
@[simp] theorem State.setStrip_probeBuf (s : State) (i : Nat) (v : StripSt) : (s.setStrip i v).probeBuf = s.probeBuf := rfl
@[simp] theorem State.setStrip_probeLeft (s : State) (i : Nat) (v : StripSt) : (s.setStrip i v).probeLeft = s.probeLeft := rfl
@[simp] theorem State.setStrip_pairs (s : State) (i : Nat) (v : StripSt) : (s.setStrip i v).pairs = s.pairs := rfl
@[simp] theorem State.setStrip_hostReads (s : State) (i : Nat) (v : StripSt) : (s.setStrip i v).hostReads = s.hostReads := rfl
@[simp] theorem State.setStrip_nextRead (s : State) (i : Nat) (v : StripSt) : (s.setStrip i v).nextRead = s.nextRead := rfl
@[simp] theorem State.setStrip_wins (s : State) (i : Nat) (v : StripSt) : (s.setStrip i v).wins = s.wins := rfl
@[simp] theorem State.setStrip_hostHeld (s : State) (i : Nat) (v : StripSt) : (s.setStrip i v).hostHeld = s.hostHeld := rfl
@[simp] theorem State.setStrip_winNext (s : State) (i : Nat) (v : StripSt) : (s.setStrip i v).winNext = s.winNext := rfl
@[simp] theorem State.setStrip_pcie (s : State) (i : Nat) (v : StripSt) : (s.setStrip i v).pcie = s.pcie := rfl
@[simp] theorem State.setStrip_sqTurn (s : State) (i : Nat) (v : StripSt) : (s.setStrip i v).sqTurn = s.sqTurn := rfl
@[simp] theorem State.setStrip_fuses (s : State) (i : Nat) (v : StripSt) : (s.setStrip i v).fuses = s.fuses := rfl
@[simp] theorem State.setStrip_lcs (s : State) (i : Nat) (v : StripSt) : (s.setStrip i v).lcs = s.lcs := rfl
@[simp] theorem State.setStrip_pins (s : State) (i : Nat) (v : StripSt) : (s.setStrip i v).pins = s.pins := rfl
@[simp] theorem State.setStrip_warned (s : State) (i : Nat) (v : StripSt) : (s.setStrip i v).warned = s.warned := rfl
@[simp] theorem State.setStrip_haltDone (s : State) (i : Nat) (v : StripSt) : (s.setStrip i v).haltDone = s.haltDone := rfl
@[simp] theorem State.setStrip_out (s : State) (i : Nat) (v : StripSt) : (s.setStrip i v).out = s.out := rfl
@[simp] theorem State.setStrip_pending (s : State) (i : Nat) (v : StripSt) : (s.setStrip i v).pending = s.pending := rfl
@[simp] theorem State.setStrip_free (s : State) (i : Nat) (v : StripSt) : (s.setStrip i v).free = s.free := rfl

/-! ## setTree -/

@[simp] theorem State.setTree_phase (s : State) (d sec t : Nat) (v : TreeSt) : (s.setTree d sec t v).phase = s.phase := rfl
@[simp] theorem State.setTree_regs (s : State) (d sec t : Nat) (v : TreeSt) : (s.setTree d sec t v).regs = s.regs := rfl
@[simp] theorem State.setTree_shadow (s : State) (d sec t : Nat) (v : TreeSt) : (s.setTree d sec t v).shadow = s.shadow := rfl
@[simp] theorem State.setTree_locks (s : State) (d sec t : Nat) (v : TreeSt) : (s.setTree d sec t v).locks = s.locks := rfl
@[simp] theorem State.setTree_arms (s : State) (d sec t : Nat) (v : TreeSt) : (s.setTree d sec t v).arms = s.arms := rfl
@[simp] theorem State.setTree_heldAcc (s : State) (d sec t : Nat) (v : TreeSt) : (s.setTree d sec t v).heldAcc = s.heldAcc := rfl
@[simp] theorem State.setTree_flintUp (s : State) (d sec t : Nat) (v : TreeSt) : (s.setTree d sec t v).flintUp = s.flintUp := rfl
@[simp] theorem State.setTree_wdog (s : State) (d sec t : Nat) (v : TreeSt) : (s.setTree d sec t v).wdog = s.wdog := rfl
@[simp] theorem State.setTree_revs (s : State) (d sec t : Nat) (v : TreeSt) : (s.setTree d sec t v).revs = s.revs := rfl
@[simp] theorem State.setTree_straps (s : State) (d sec t : Nat) (v : TreeSt) : (s.setTree d sec t v).straps = s.straps := rfl
@[simp] theorem State.setTree_clk (s : State) (d sec t : Nat) (v : TreeSt) : (s.setTree d sec t v).clk = s.clk := rfl
@[simp] theorem State.setTree_treeClosed (s : State) (d sec t : Nat) (v : TreeSt) : (s.setTree d sec t v).treeClosed = s.treeClosed := rfl
@[simp] theorem State.setTree_spines (s : State) (d sec t : Nat) (v : TreeSt) : (s.setTree d sec t v).spines = s.spines := rfl
@[simp] theorem State.setTree_drefPhase (s : State) (d sec t : Nat) (v : TreeSt) : (s.setTree d sec t v).drefPhase = s.drefPhase := rfl
@[simp] theorem State.setTree_uports (s : State) (d sec t : Nat) (v : TreeSt) : (s.setTree d sec t v).uports = s.uports := rfl
@[simp] theorem State.setTree_net (s : State) (d sec t : Nat) (v : TreeSt) : (s.setTree d sec t v).net = s.net := rfl
@[simp] theorem State.setTree_inbox (s : State) (d sec t : Nat) (v : TreeSt) : (s.setTree d sec t v).inbox = s.inbox := rfl
@[simp] theorem State.setTree_tags (s : State) (d sec t : Nat) (v : TreeSt) : (s.setTree d sec t v).tags = s.tags := rfl
@[simp] theorem State.setTree_unanswered (s : State) (d sec t : Nat) (v : TreeSt) : (s.setTree d sec t v).unanswered = s.unanswered := rfl
@[simp] theorem State.setTree_fences (s : State) (d sec t : Nat) (v : TreeSt) : (s.setTree d sec t v).fences = s.fences := rfl
@[simp] theorem State.setTree_drains (s : State) (d sec t : Nat) (v : TreeSt) : (s.setTree d sec t v).drains = s.drains := rfl
@[simp] theorem State.setTree_waking (s : State) (d sec t : Nat) (v : TreeSt) : (s.setTree d sec t v).waking = s.waking := rfl
@[simp] theorem State.setTree_wakeFail (s : State) (d sec t : Nat) (v : TreeSt) : (s.setTree d sec t v).wakeFail = s.wakeFail := rfl
@[simp] theorem State.setTree_slices (s : State) (d sec t : Nat) (v : TreeSt) : (s.setTree d sec t v).slices = s.slices := rfl
@[simp] theorem State.setTree_homes (s : State) (d sec t : Nat) (v : TreeSt) : (s.setTree d sec t v).homes = s.homes := rfl
@[simp] theorem State.setTree_dieDown (s : State) (d sec t : Nat) (v : TreeSt) : (s.setTree d sec t v).dieDown = s.dieDown := rfl
@[simp] theorem State.setTree_flush (s : State) (d sec t : Nat) (v : TreeSt) : (s.setTree d sec t v).flush = s.flush := rfl
@[simp] theorem State.setTree_rangeFlush (s : State) (d sec t : Nat) (v : TreeSt) : (s.setTree d sec t v).rangeFlush = s.rangeFlush := rfl
@[simp] theorem State.setTree_links (s : State) (d sec t : Nat) (v : TreeSt) : (s.setTree d sec t v).links = s.links := rfl
@[simp] theorem State.setTree_minbox (s : State) (d sec t : Nat) (v : TreeSt) : (s.setTree d sec t v).minbox = s.minbox := rfl
@[simp] theorem State.setTree_arrivals (s : State) (d sec t : Nat) (v : TreeSt) : (s.setTree d sec t v).arrivals = s.arrivals := rfl
@[simp] theorem State.setTree_wire (s : State) (d sec t : Nat) (v : TreeSt) : (s.setTree d sec t v).wire = s.wire := rfl
@[simp] theorem State.setTree_strips (s : State) (d sec t : Nat) (v : TreeSt) : (s.setTree d sec t v).strips = s.strips := rfl
@[simp] theorem State.setTree_strata (s : State) (d sec t : Nat) (v : TreeSt) : (s.setTree d sec t v).strata = s.strata := rfl
@[simp] theorem State.setTree_cap (s : State) (d sec t : Nat) (v : TreeSt) : (s.setTree d sec t v).cap = s.cap := rfl
@[simp] theorem State.setTree_lode (s : State) (d sec t : Nat) (v : TreeSt) : (s.setTree d sec t v).lode = s.lode := rfl
@[simp] theorem State.setTree_xcv (s : State) (d sec t : Nat) (v : TreeSt) : (s.setTree d sec t v).xcv = s.xcv := rfl
@[simp] theorem State.setTree_jtag (s : State) (d sec t : Nat) (v : TreeSt) : (s.setTree d sec t v).jtag = s.jtag := rfl
@[simp] theorem State.setTree_mica (s : State) (d sec t : Nat) (v : TreeSt) : (s.setTree d sec t v).mica = s.mica := rfl
@[simp] theorem State.setTree_vein (s : State) (d sec t : Nat) (v : TreeSt) : (s.setTree d sec t v).vein = s.vein := rfl
@[simp] theorem State.setTree_micaOut (s : State) (d sec t : Nat) (v : TreeSt) : (s.setTree d sec t v).micaOut = s.micaOut := rfl
@[simp] theorem State.setTree_micaShown (s : State) (d sec t : Nat) (v : TreeSt) : (s.setTree d sec t v).micaShown = s.micaShown := rfl
@[simp] theorem State.setTree_mports (s : State) (d sec t : Nat) (v : TreeSt) : (s.setTree d sec t v).mports = s.mports := rfl
@[simp] theorem State.setTree_erasing (s : State) (d sec t : Nat) (v : TreeSt) : (s.setTree d sec t v).erasing = s.erasing := rfl
@[simp] theorem State.setTree_ddr (s : State) (d sec t : Nat) (v : TreeSt) : (s.setTree d sec t v).ddr = s.ddr := rfl
@[simp] theorem State.setTree_ctr (s : State) (d sec t : Nat) (v : TreeSt) : (s.setTree d sec t v).ctr = s.ctr := rfl
@[simp] theorem State.setTree_otag (s : State) (d sec t : Nat) (v : TreeSt) : (s.setTree d sec t v).otag = s.otag := rfl
@[simp] theorem State.setTree_otree (s : State) (d sec t : Nat) (v : TreeSt) : (s.setTree d sec t v).otree = s.otree := rfl
@[simp] theorem State.setTree_ocache (s : State) (d sec t : Nat) (v : TreeSt) : (s.setTree d sec t v).ocache = s.ocache := rfl
@[simp] theorem State.setTree_metaErr (s : State) (d sec t : Nat) (v : TreeSt) : (s.setTree d sec t v).metaErr = s.metaErr := rfl
@[simp] theorem State.setTree_broken (s : State) (d sec t : Nat) (v : TreeSt) : (s.setTree d sec t v).broken = s.broken := rfl
@[simp] theorem State.setTree_keys (s : State) (d sec t : Nat) (v : TreeSt) : (s.setTree d sec t v).keys = s.keys := rfl
@[simp] theorem State.setTree_treeKey (s : State) (d sec t : Nat) (v : TreeSt) : (s.setTree d sec t v).treeKey = s.treeKey := rfl
@[simp] theorem State.setTree_maxMajor (s : State) (d sec t : Nat) (v : TreeSt) : (s.setTree d sec t v).maxMajor = s.maxMajor := rfl
@[simp] theorem State.setTree_patrol (s : State) (d sec t : Nat) (v : TreeSt) : (s.setTree d sec t v).patrol = s.patrol := rfl
@[simp] theorem State.setTree_frames (s : State) (d sec t : Nat) (v : TreeSt) : (s.setTree d sec t v).frames = s.frames := rfl
@[simp] theorem State.setTree_engines (s : State) (d sec t : Nat) (v : TreeSt) : (s.setTree d sec t v).engines = s.engines := rfl
@[simp] theorem State.setTree_grpNext (s : State) (d sec t : Nat) (v : TreeSt) : (s.setTree d sec t v).grpNext = s.grpNext := rfl
@[simp] theorem State.setTree_engRsp (s : State) (d sec t : Nat) (v : TreeSt) : (s.setTree d sec t v).engRsp = s.engRsp := rfl
@[simp] theorem State.setTree_ffs (s : State) (d sec t : Nat) (v : TreeSt) : (s.setTree d sec t v).ffs = s.ffs := rfl
@[simp] theorem State.setTree_latches (s : State) (d sec t : Nat) (v : TreeSt) : (s.setTree d sec t v).latches = s.latches := rfl
@[simp] theorem State.setTree_padHold (s : State) (d sec t : Nat) (v : TreeSt) : (s.setTree d sec t v).padHold = s.padHold := rfl
@[simp] theorem State.setTree_pads (s : State) (d sec t : Nat) (v : TreeSt) : (s.setTree d sec t v).pads = s.pads := rfl
@[simp] theorem State.setTree_loader (s : State) (d sec t : Nat) (v : TreeSt) : (s.setTree d sec t v).loader = s.loader := rfl
@[simp] theorem State.setTree_regions (s : State) (d sec t : Nat) (v : TreeSt) : (s.setTree d sec t v).regions = s.regions := rfl
@[simp] theorem State.setTree_scrub (s : State) (d sec t : Nat) (v : TreeSt) : (s.setTree d sec t v).scrub = s.scrub := rfl
@[simp] theorem State.setTree_upsets (s : State) (d sec t : Nat) (v : TreeSt) : (s.setTree d sec t v).upsets = s.upsets := rfl
@[simp] theorem State.setTree_probeBuf (s : State) (d sec t : Nat) (v : TreeSt) : (s.setTree d sec t v).probeBuf = s.probeBuf := rfl
@[simp] theorem State.setTree_probeLeft (s : State) (d sec t : Nat) (v : TreeSt) : (s.setTree d sec t v).probeLeft = s.probeLeft := rfl
@[simp] theorem State.setTree_pairs (s : State) (d sec t : Nat) (v : TreeSt) : (s.setTree d sec t v).pairs = s.pairs := rfl
@[simp] theorem State.setTree_hostReads (s : State) (d sec t : Nat) (v : TreeSt) : (s.setTree d sec t v).hostReads = s.hostReads := rfl
@[simp] theorem State.setTree_nextRead (s : State) (d sec t : Nat) (v : TreeSt) : (s.setTree d sec t v).nextRead = s.nextRead := rfl
@[simp] theorem State.setTree_wins (s : State) (d sec t : Nat) (v : TreeSt) : (s.setTree d sec t v).wins = s.wins := rfl
@[simp] theorem State.setTree_hostHeld (s : State) (d sec t : Nat) (v : TreeSt) : (s.setTree d sec t v).hostHeld = s.hostHeld := rfl
@[simp] theorem State.setTree_winNext (s : State) (d sec t : Nat) (v : TreeSt) : (s.setTree d sec t v).winNext = s.winNext := rfl
@[simp] theorem State.setTree_pcie (s : State) (d sec t : Nat) (v : TreeSt) : (s.setTree d sec t v).pcie = s.pcie := rfl
@[simp] theorem State.setTree_sqTurn (s : State) (d sec t : Nat) (v : TreeSt) : (s.setTree d sec t v).sqTurn = s.sqTurn := rfl
@[simp] theorem State.setTree_fuses (s : State) (d sec t : Nat) (v : TreeSt) : (s.setTree d sec t v).fuses = s.fuses := rfl
@[simp] theorem State.setTree_lcs (s : State) (d sec t : Nat) (v : TreeSt) : (s.setTree d sec t v).lcs = s.lcs := rfl
@[simp] theorem State.setTree_pins (s : State) (d sec t : Nat) (v : TreeSt) : (s.setTree d sec t v).pins = s.pins := rfl
@[simp] theorem State.setTree_warned (s : State) (d sec t : Nat) (v : TreeSt) : (s.setTree d sec t v).warned = s.warned := rfl
@[simp] theorem State.setTree_haltDone (s : State) (d sec t : Nat) (v : TreeSt) : (s.setTree d sec t v).haltDone = s.haltDone := rfl
@[simp] theorem State.setTree_out (s : State) (d sec t : Nat) (v : TreeSt) : (s.setTree d sec t v).out = s.out := rfl
@[simp] theorem State.setTree_pending (s : State) (d sec t : Nat) (v : TreeSt) : (s.setTree d sec t v).pending = s.pending := rfl
@[simp] theorem State.setTree_free (s : State) (d sec t : Nat) (v : TreeSt) : (s.setTree d sec t v).free = s.free := rfl

/-! ## setUport -/

@[simp] theorem State.setUport_phase (s : State) (e : Ep) (u : UPort) : (s.setUport e u).phase = s.phase := rfl
@[simp] theorem State.setUport_regs (s : State) (e : Ep) (u : UPort) : (s.setUport e u).regs = s.regs := rfl
@[simp] theorem State.setUport_shadow (s : State) (e : Ep) (u : UPort) : (s.setUport e u).shadow = s.shadow := rfl
@[simp] theorem State.setUport_locks (s : State) (e : Ep) (u : UPort) : (s.setUport e u).locks = s.locks := rfl
@[simp] theorem State.setUport_arms (s : State) (e : Ep) (u : UPort) : (s.setUport e u).arms = s.arms := rfl
@[simp] theorem State.setUport_heldAcc (s : State) (e : Ep) (u : UPort) : (s.setUport e u).heldAcc = s.heldAcc := rfl
@[simp] theorem State.setUport_flintUp (s : State) (e : Ep) (u : UPort) : (s.setUport e u).flintUp = s.flintUp := rfl
@[simp] theorem State.setUport_wdog (s : State) (e : Ep) (u : UPort) : (s.setUport e u).wdog = s.wdog := rfl
@[simp] theorem State.setUport_revs (s : State) (e : Ep) (u : UPort) : (s.setUport e u).revs = s.revs := rfl
@[simp] theorem State.setUport_straps (s : State) (e : Ep) (u : UPort) : (s.setUport e u).straps = s.straps := rfl
@[simp] theorem State.setUport_clk (s : State) (e : Ep) (u : UPort) : (s.setUport e u).clk = s.clk := rfl
@[simp] theorem State.setUport_treeClosed (s : State) (e : Ep) (u : UPort) : (s.setUport e u).treeClosed = s.treeClosed := rfl
@[simp] theorem State.setUport_spines (s : State) (e : Ep) (u : UPort) : (s.setUport e u).spines = s.spines := rfl
@[simp] theorem State.setUport_trees (s : State) (e : Ep) (u : UPort) : (s.setUport e u).trees = s.trees := rfl
@[simp] theorem State.setUport_drefPhase (s : State) (e : Ep) (u : UPort) : (s.setUport e u).drefPhase = s.drefPhase := rfl
@[simp] theorem State.setUport_net (s : State) (e : Ep) (u : UPort) : (s.setUport e u).net = s.net := rfl
@[simp] theorem State.setUport_inbox (s : State) (e : Ep) (u : UPort) : (s.setUport e u).inbox = s.inbox := rfl
@[simp] theorem State.setUport_tags (s : State) (e : Ep) (u : UPort) : (s.setUport e u).tags = s.tags := rfl
@[simp] theorem State.setUport_unanswered (s : State) (e : Ep) (u : UPort) : (s.setUport e u).unanswered = s.unanswered := rfl
@[simp] theorem State.setUport_fences (s : State) (e : Ep) (u : UPort) : (s.setUport e u).fences = s.fences := rfl
@[simp] theorem State.setUport_drains (s : State) (e : Ep) (u : UPort) : (s.setUport e u).drains = s.drains := rfl
@[simp] theorem State.setUport_waking (s : State) (e : Ep) (u : UPort) : (s.setUport e u).waking = s.waking := rfl
@[simp] theorem State.setUport_wakeFail (s : State) (e : Ep) (u : UPort) : (s.setUport e u).wakeFail = s.wakeFail := rfl
@[simp] theorem State.setUport_slices (s : State) (e : Ep) (u : UPort) : (s.setUport e u).slices = s.slices := rfl
@[simp] theorem State.setUport_homes (s : State) (e : Ep) (u : UPort) : (s.setUport e u).homes = s.homes := rfl
@[simp] theorem State.setUport_dieDown (s : State) (e : Ep) (u : UPort) : (s.setUport e u).dieDown = s.dieDown := rfl
@[simp] theorem State.setUport_flush (s : State) (e : Ep) (u : UPort) : (s.setUport e u).flush = s.flush := rfl
@[simp] theorem State.setUport_rangeFlush (s : State) (e : Ep) (u : UPort) : (s.setUport e u).rangeFlush = s.rangeFlush := rfl
@[simp] theorem State.setUport_links (s : State) (e : Ep) (u : UPort) : (s.setUport e u).links = s.links := rfl
@[simp] theorem State.setUport_minbox (s : State) (e : Ep) (u : UPort) : (s.setUport e u).minbox = s.minbox := rfl
@[simp] theorem State.setUport_arrivals (s : State) (e : Ep) (u : UPort) : (s.setUport e u).arrivals = s.arrivals := rfl
@[simp] theorem State.setUport_wire (s : State) (e : Ep) (u : UPort) : (s.setUport e u).wire = s.wire := rfl
@[simp] theorem State.setUport_strips (s : State) (e : Ep) (u : UPort) : (s.setUport e u).strips = s.strips := rfl
@[simp] theorem State.setUport_strata (s : State) (e : Ep) (u : UPort) : (s.setUport e u).strata = s.strata := rfl
@[simp] theorem State.setUport_cap (s : State) (e : Ep) (u : UPort) : (s.setUport e u).cap = s.cap := rfl
@[simp] theorem State.setUport_lode (s : State) (e : Ep) (u : UPort) : (s.setUport e u).lode = s.lode := rfl
@[simp] theorem State.setUport_xcv (s : State) (e : Ep) (u : UPort) : (s.setUport e u).xcv = s.xcv := rfl
@[simp] theorem State.setUport_jtag (s : State) (e : Ep) (u : UPort) : (s.setUport e u).jtag = s.jtag := rfl
@[simp] theorem State.setUport_mica (s : State) (e : Ep) (u : UPort) : (s.setUport e u).mica = s.mica := rfl
@[simp] theorem State.setUport_vein (s : State) (e : Ep) (u : UPort) : (s.setUport e u).vein = s.vein := rfl
@[simp] theorem State.setUport_micaOut (s : State) (e : Ep) (u : UPort) : (s.setUport e u).micaOut = s.micaOut := rfl
@[simp] theorem State.setUport_micaShown (s : State) (e : Ep) (u : UPort) : (s.setUport e u).micaShown = s.micaShown := rfl
@[simp] theorem State.setUport_mports (s : State) (e : Ep) (u : UPort) : (s.setUport e u).mports = s.mports := rfl
@[simp] theorem State.setUport_erasing (s : State) (e : Ep) (u : UPort) : (s.setUport e u).erasing = s.erasing := rfl
@[simp] theorem State.setUport_ddr (s : State) (e : Ep) (u : UPort) : (s.setUport e u).ddr = s.ddr := rfl
@[simp] theorem State.setUport_ctr (s : State) (e : Ep) (u : UPort) : (s.setUport e u).ctr = s.ctr := rfl
@[simp] theorem State.setUport_otag (s : State) (e : Ep) (u : UPort) : (s.setUport e u).otag = s.otag := rfl
@[simp] theorem State.setUport_otree (s : State) (e : Ep) (u : UPort) : (s.setUport e u).otree = s.otree := rfl
@[simp] theorem State.setUport_ocache (s : State) (e : Ep) (u : UPort) : (s.setUport e u).ocache = s.ocache := rfl
@[simp] theorem State.setUport_metaErr (s : State) (e : Ep) (u : UPort) : (s.setUport e u).metaErr = s.metaErr := rfl
@[simp] theorem State.setUport_broken (s : State) (e : Ep) (u : UPort) : (s.setUport e u).broken = s.broken := rfl
@[simp] theorem State.setUport_keys (s : State) (e : Ep) (u : UPort) : (s.setUport e u).keys = s.keys := rfl
@[simp] theorem State.setUport_treeKey (s : State) (e : Ep) (u : UPort) : (s.setUport e u).treeKey = s.treeKey := rfl
@[simp] theorem State.setUport_maxMajor (s : State) (e : Ep) (u : UPort) : (s.setUport e u).maxMajor = s.maxMajor := rfl
@[simp] theorem State.setUport_patrol (s : State) (e : Ep) (u : UPort) : (s.setUport e u).patrol = s.patrol := rfl
@[simp] theorem State.setUport_frames (s : State) (e : Ep) (u : UPort) : (s.setUport e u).frames = s.frames := rfl
@[simp] theorem State.setUport_engines (s : State) (e : Ep) (u : UPort) : (s.setUport e u).engines = s.engines := rfl
@[simp] theorem State.setUport_grpNext (s : State) (e : Ep) (u : UPort) : (s.setUport e u).grpNext = s.grpNext := rfl
@[simp] theorem State.setUport_engRsp (s : State) (e : Ep) (u : UPort) : (s.setUport e u).engRsp = s.engRsp := rfl
@[simp] theorem State.setUport_ffs (s : State) (e : Ep) (u : UPort) : (s.setUport e u).ffs = s.ffs := rfl
@[simp] theorem State.setUport_latches (s : State) (e : Ep) (u : UPort) : (s.setUport e u).latches = s.latches := rfl
@[simp] theorem State.setUport_padHold (s : State) (e : Ep) (u : UPort) : (s.setUport e u).padHold = s.padHold := rfl
@[simp] theorem State.setUport_pads (s : State) (e : Ep) (u : UPort) : (s.setUport e u).pads = s.pads := rfl
@[simp] theorem State.setUport_loader (s : State) (e : Ep) (u : UPort) : (s.setUport e u).loader = s.loader := rfl
@[simp] theorem State.setUport_regions (s : State) (e : Ep) (u : UPort) : (s.setUport e u).regions = s.regions := rfl
@[simp] theorem State.setUport_scrub (s : State) (e : Ep) (u : UPort) : (s.setUport e u).scrub = s.scrub := rfl
@[simp] theorem State.setUport_upsets (s : State) (e : Ep) (u : UPort) : (s.setUport e u).upsets = s.upsets := rfl
@[simp] theorem State.setUport_probeBuf (s : State) (e : Ep) (u : UPort) : (s.setUport e u).probeBuf = s.probeBuf := rfl
@[simp] theorem State.setUport_probeLeft (s : State) (e : Ep) (u : UPort) : (s.setUport e u).probeLeft = s.probeLeft := rfl
@[simp] theorem State.setUport_pairs (s : State) (e : Ep) (u : UPort) : (s.setUport e u).pairs = s.pairs := rfl
@[simp] theorem State.setUport_hostReads (s : State) (e : Ep) (u : UPort) : (s.setUport e u).hostReads = s.hostReads := rfl
@[simp] theorem State.setUport_nextRead (s : State) (e : Ep) (u : UPort) : (s.setUport e u).nextRead = s.nextRead := rfl
@[simp] theorem State.setUport_wins (s : State) (e : Ep) (u : UPort) : (s.setUport e u).wins = s.wins := rfl
@[simp] theorem State.setUport_hostHeld (s : State) (e : Ep) (u : UPort) : (s.setUport e u).hostHeld = s.hostHeld := rfl
@[simp] theorem State.setUport_winNext (s : State) (e : Ep) (u : UPort) : (s.setUport e u).winNext = s.winNext := rfl
@[simp] theorem State.setUport_pcie (s : State) (e : Ep) (u : UPort) : (s.setUport e u).pcie = s.pcie := rfl
@[simp] theorem State.setUport_sqTurn (s : State) (e : Ep) (u : UPort) : (s.setUport e u).sqTurn = s.sqTurn := rfl
@[simp] theorem State.setUport_fuses (s : State) (e : Ep) (u : UPort) : (s.setUport e u).fuses = s.fuses := rfl
@[simp] theorem State.setUport_lcs (s : State) (e : Ep) (u : UPort) : (s.setUport e u).lcs = s.lcs := rfl
@[simp] theorem State.setUport_pins (s : State) (e : Ep) (u : UPort) : (s.setUport e u).pins = s.pins := rfl
@[simp] theorem State.setUport_warned (s : State) (e : Ep) (u : UPort) : (s.setUport e u).warned = s.warned := rfl
@[simp] theorem State.setUport_haltDone (s : State) (e : Ep) (u : UPort) : (s.setUport e u).haltDone = s.haltDone := rfl
@[simp] theorem State.setUport_out (s : State) (e : Ep) (u : UPort) : (s.setUport e u).out = s.out := rfl
@[simp] theorem State.setUport_pending (s : State) (e : Ep) (u : UPort) : (s.setUport e u).pending = s.pending := rfl
@[simp] theorem State.setUport_free (s : State) (e : Ep) (u : UPort) : (s.setUport e u).free = s.free := rfl

/-! ## setXcv -/

@[simp] theorem State.setXcv_phase (s : State) (d t : Nat) (v : XcvSt) : (s.setXcv d t v).phase = s.phase := rfl
@[simp] theorem State.setXcv_regs (s : State) (d t : Nat) (v : XcvSt) : (s.setXcv d t v).regs = s.regs := rfl
@[simp] theorem State.setXcv_shadow (s : State) (d t : Nat) (v : XcvSt) : (s.setXcv d t v).shadow = s.shadow := rfl
@[simp] theorem State.setXcv_locks (s : State) (d t : Nat) (v : XcvSt) : (s.setXcv d t v).locks = s.locks := rfl
@[simp] theorem State.setXcv_arms (s : State) (d t : Nat) (v : XcvSt) : (s.setXcv d t v).arms = s.arms := rfl
@[simp] theorem State.setXcv_heldAcc (s : State) (d t : Nat) (v : XcvSt) : (s.setXcv d t v).heldAcc = s.heldAcc := rfl
@[simp] theorem State.setXcv_flintUp (s : State) (d t : Nat) (v : XcvSt) : (s.setXcv d t v).flintUp = s.flintUp := rfl
@[simp] theorem State.setXcv_wdog (s : State) (d t : Nat) (v : XcvSt) : (s.setXcv d t v).wdog = s.wdog := rfl
@[simp] theorem State.setXcv_revs (s : State) (d t : Nat) (v : XcvSt) : (s.setXcv d t v).revs = s.revs := rfl
@[simp] theorem State.setXcv_straps (s : State) (d t : Nat) (v : XcvSt) : (s.setXcv d t v).straps = s.straps := rfl
@[simp] theorem State.setXcv_clk (s : State) (d t : Nat) (v : XcvSt) : (s.setXcv d t v).clk = s.clk := rfl
@[simp] theorem State.setXcv_treeClosed (s : State) (d t : Nat) (v : XcvSt) : (s.setXcv d t v).treeClosed = s.treeClosed := rfl
@[simp] theorem State.setXcv_spines (s : State) (d t : Nat) (v : XcvSt) : (s.setXcv d t v).spines = s.spines := rfl
@[simp] theorem State.setXcv_trees (s : State) (d t : Nat) (v : XcvSt) : (s.setXcv d t v).trees = s.trees := rfl
@[simp] theorem State.setXcv_drefPhase (s : State) (d t : Nat) (v : XcvSt) : (s.setXcv d t v).drefPhase = s.drefPhase := rfl
@[simp] theorem State.setXcv_uports (s : State) (d t : Nat) (v : XcvSt) : (s.setXcv d t v).uports = s.uports := rfl
@[simp] theorem State.setXcv_net (s : State) (d t : Nat) (v : XcvSt) : (s.setXcv d t v).net = s.net := rfl
@[simp] theorem State.setXcv_inbox (s : State) (d t : Nat) (v : XcvSt) : (s.setXcv d t v).inbox = s.inbox := rfl
@[simp] theorem State.setXcv_tags (s : State) (d t : Nat) (v : XcvSt) : (s.setXcv d t v).tags = s.tags := rfl
@[simp] theorem State.setXcv_unanswered (s : State) (d t : Nat) (v : XcvSt) : (s.setXcv d t v).unanswered = s.unanswered := rfl
@[simp] theorem State.setXcv_fences (s : State) (d t : Nat) (v : XcvSt) : (s.setXcv d t v).fences = s.fences := rfl
@[simp] theorem State.setXcv_drains (s : State) (d t : Nat) (v : XcvSt) : (s.setXcv d t v).drains = s.drains := rfl
@[simp] theorem State.setXcv_waking (s : State) (d t : Nat) (v : XcvSt) : (s.setXcv d t v).waking = s.waking := rfl
@[simp] theorem State.setXcv_wakeFail (s : State) (d t : Nat) (v : XcvSt) : (s.setXcv d t v).wakeFail = s.wakeFail := rfl
@[simp] theorem State.setXcv_slices (s : State) (d t : Nat) (v : XcvSt) : (s.setXcv d t v).slices = s.slices := rfl
@[simp] theorem State.setXcv_homes (s : State) (d t : Nat) (v : XcvSt) : (s.setXcv d t v).homes = s.homes := rfl
@[simp] theorem State.setXcv_dieDown (s : State) (d t : Nat) (v : XcvSt) : (s.setXcv d t v).dieDown = s.dieDown := rfl
@[simp] theorem State.setXcv_flush (s : State) (d t : Nat) (v : XcvSt) : (s.setXcv d t v).flush = s.flush := rfl
@[simp] theorem State.setXcv_rangeFlush (s : State) (d t : Nat) (v : XcvSt) : (s.setXcv d t v).rangeFlush = s.rangeFlush := rfl
@[simp] theorem State.setXcv_links (s : State) (d t : Nat) (v : XcvSt) : (s.setXcv d t v).links = s.links := rfl
@[simp] theorem State.setXcv_minbox (s : State) (d t : Nat) (v : XcvSt) : (s.setXcv d t v).minbox = s.minbox := rfl
@[simp] theorem State.setXcv_arrivals (s : State) (d t : Nat) (v : XcvSt) : (s.setXcv d t v).arrivals = s.arrivals := rfl
@[simp] theorem State.setXcv_wire (s : State) (d t : Nat) (v : XcvSt) : (s.setXcv d t v).wire = s.wire := rfl
@[simp] theorem State.setXcv_strips (s : State) (d t : Nat) (v : XcvSt) : (s.setXcv d t v).strips = s.strips := rfl
@[simp] theorem State.setXcv_strata (s : State) (d t : Nat) (v : XcvSt) : (s.setXcv d t v).strata = s.strata := rfl
@[simp] theorem State.setXcv_cap (s : State) (d t : Nat) (v : XcvSt) : (s.setXcv d t v).cap = s.cap := rfl
@[simp] theorem State.setXcv_lode (s : State) (d t : Nat) (v : XcvSt) : (s.setXcv d t v).lode = s.lode := rfl
@[simp] theorem State.setXcv_jtag (s : State) (d t : Nat) (v : XcvSt) : (s.setXcv d t v).jtag = s.jtag := rfl
@[simp] theorem State.setXcv_mica (s : State) (d t : Nat) (v : XcvSt) : (s.setXcv d t v).mica = s.mica := rfl
@[simp] theorem State.setXcv_vein (s : State) (d t : Nat) (v : XcvSt) : (s.setXcv d t v).vein = s.vein := rfl
@[simp] theorem State.setXcv_micaOut (s : State) (d t : Nat) (v : XcvSt) : (s.setXcv d t v).micaOut = s.micaOut := rfl
@[simp] theorem State.setXcv_micaShown (s : State) (d t : Nat) (v : XcvSt) : (s.setXcv d t v).micaShown = s.micaShown := rfl
@[simp] theorem State.setXcv_mports (s : State) (d t : Nat) (v : XcvSt) : (s.setXcv d t v).mports = s.mports := rfl
@[simp] theorem State.setXcv_erasing (s : State) (d t : Nat) (v : XcvSt) : (s.setXcv d t v).erasing = s.erasing := rfl
@[simp] theorem State.setXcv_ddr (s : State) (d t : Nat) (v : XcvSt) : (s.setXcv d t v).ddr = s.ddr := rfl
@[simp] theorem State.setXcv_ctr (s : State) (d t : Nat) (v : XcvSt) : (s.setXcv d t v).ctr = s.ctr := rfl
@[simp] theorem State.setXcv_otag (s : State) (d t : Nat) (v : XcvSt) : (s.setXcv d t v).otag = s.otag := rfl
@[simp] theorem State.setXcv_otree (s : State) (d t : Nat) (v : XcvSt) : (s.setXcv d t v).otree = s.otree := rfl
@[simp] theorem State.setXcv_ocache (s : State) (d t : Nat) (v : XcvSt) : (s.setXcv d t v).ocache = s.ocache := rfl
@[simp] theorem State.setXcv_metaErr (s : State) (d t : Nat) (v : XcvSt) : (s.setXcv d t v).metaErr = s.metaErr := rfl
@[simp] theorem State.setXcv_broken (s : State) (d t : Nat) (v : XcvSt) : (s.setXcv d t v).broken = s.broken := rfl
@[simp] theorem State.setXcv_keys (s : State) (d t : Nat) (v : XcvSt) : (s.setXcv d t v).keys = s.keys := rfl
@[simp] theorem State.setXcv_treeKey (s : State) (d t : Nat) (v : XcvSt) : (s.setXcv d t v).treeKey = s.treeKey := rfl
@[simp] theorem State.setXcv_maxMajor (s : State) (d t : Nat) (v : XcvSt) : (s.setXcv d t v).maxMajor = s.maxMajor := rfl
@[simp] theorem State.setXcv_patrol (s : State) (d t : Nat) (v : XcvSt) : (s.setXcv d t v).patrol = s.patrol := rfl
@[simp] theorem State.setXcv_frames (s : State) (d t : Nat) (v : XcvSt) : (s.setXcv d t v).frames = s.frames := rfl
@[simp] theorem State.setXcv_engines (s : State) (d t : Nat) (v : XcvSt) : (s.setXcv d t v).engines = s.engines := rfl
@[simp] theorem State.setXcv_grpNext (s : State) (d t : Nat) (v : XcvSt) : (s.setXcv d t v).grpNext = s.grpNext := rfl
@[simp] theorem State.setXcv_engRsp (s : State) (d t : Nat) (v : XcvSt) : (s.setXcv d t v).engRsp = s.engRsp := rfl
@[simp] theorem State.setXcv_ffs (s : State) (d t : Nat) (v : XcvSt) : (s.setXcv d t v).ffs = s.ffs := rfl
@[simp] theorem State.setXcv_latches (s : State) (d t : Nat) (v : XcvSt) : (s.setXcv d t v).latches = s.latches := rfl
@[simp] theorem State.setXcv_padHold (s : State) (d t : Nat) (v : XcvSt) : (s.setXcv d t v).padHold = s.padHold := rfl
@[simp] theorem State.setXcv_pads (s : State) (d t : Nat) (v : XcvSt) : (s.setXcv d t v).pads = s.pads := rfl
@[simp] theorem State.setXcv_loader (s : State) (d t : Nat) (v : XcvSt) : (s.setXcv d t v).loader = s.loader := rfl
@[simp] theorem State.setXcv_regions (s : State) (d t : Nat) (v : XcvSt) : (s.setXcv d t v).regions = s.regions := rfl
@[simp] theorem State.setXcv_scrub (s : State) (d t : Nat) (v : XcvSt) : (s.setXcv d t v).scrub = s.scrub := rfl
@[simp] theorem State.setXcv_upsets (s : State) (d t : Nat) (v : XcvSt) : (s.setXcv d t v).upsets = s.upsets := rfl
@[simp] theorem State.setXcv_probeBuf (s : State) (d t : Nat) (v : XcvSt) : (s.setXcv d t v).probeBuf = s.probeBuf := rfl
@[simp] theorem State.setXcv_probeLeft (s : State) (d t : Nat) (v : XcvSt) : (s.setXcv d t v).probeLeft = s.probeLeft := rfl
@[simp] theorem State.setXcv_pairs (s : State) (d t : Nat) (v : XcvSt) : (s.setXcv d t v).pairs = s.pairs := rfl
@[simp] theorem State.setXcv_hostReads (s : State) (d t : Nat) (v : XcvSt) : (s.setXcv d t v).hostReads = s.hostReads := rfl
@[simp] theorem State.setXcv_nextRead (s : State) (d t : Nat) (v : XcvSt) : (s.setXcv d t v).nextRead = s.nextRead := rfl
@[simp] theorem State.setXcv_wins (s : State) (d t : Nat) (v : XcvSt) : (s.setXcv d t v).wins = s.wins := rfl
@[simp] theorem State.setXcv_hostHeld (s : State) (d t : Nat) (v : XcvSt) : (s.setXcv d t v).hostHeld = s.hostHeld := rfl
@[simp] theorem State.setXcv_winNext (s : State) (d t : Nat) (v : XcvSt) : (s.setXcv d t v).winNext = s.winNext := rfl
@[simp] theorem State.setXcv_pcie (s : State) (d t : Nat) (v : XcvSt) : (s.setXcv d t v).pcie = s.pcie := rfl
@[simp] theorem State.setXcv_sqTurn (s : State) (d t : Nat) (v : XcvSt) : (s.setXcv d t v).sqTurn = s.sqTurn := rfl
@[simp] theorem State.setXcv_fuses (s : State) (d t : Nat) (v : XcvSt) : (s.setXcv d t v).fuses = s.fuses := rfl
@[simp] theorem State.setXcv_lcs (s : State) (d t : Nat) (v : XcvSt) : (s.setXcv d t v).lcs = s.lcs := rfl
@[simp] theorem State.setXcv_pins (s : State) (d t : Nat) (v : XcvSt) : (s.setXcv d t v).pins = s.pins := rfl
@[simp] theorem State.setXcv_warned (s : State) (d t : Nat) (v : XcvSt) : (s.setXcv d t v).warned = s.warned := rfl
@[simp] theorem State.setXcv_haltDone (s : State) (d t : Nat) (v : XcvSt) : (s.setXcv d t v).haltDone = s.haltDone := rfl
@[simp] theorem State.setXcv_out (s : State) (d t : Nat) (v : XcvSt) : (s.setXcv d t v).out = s.out := rfl
@[simp] theorem State.setXcv_pending (s : State) (d t : Nat) (v : XcvSt) : (s.setXcv d t v).pending = s.pending := rfl
@[simp] theorem State.setXcv_free (s : State) (d t : Nat) (v : XcvSt) : (s.setXcv d t v).free = s.free := rfl

/-! ## setPad -/

@[simp] theorem State.setPad_phase (s : State) (d k : Nat) (x : PadSt) : (s.setPad d k x).phase = s.phase := rfl
@[simp] theorem State.setPad_regs (s : State) (d k : Nat) (x : PadSt) : (s.setPad d k x).regs = s.regs := rfl
@[simp] theorem State.setPad_shadow (s : State) (d k : Nat) (x : PadSt) : (s.setPad d k x).shadow = s.shadow := rfl
@[simp] theorem State.setPad_locks (s : State) (d k : Nat) (x : PadSt) : (s.setPad d k x).locks = s.locks := rfl
@[simp] theorem State.setPad_arms (s : State) (d k : Nat) (x : PadSt) : (s.setPad d k x).arms = s.arms := rfl
@[simp] theorem State.setPad_heldAcc (s : State) (d k : Nat) (x : PadSt) : (s.setPad d k x).heldAcc = s.heldAcc := rfl
@[simp] theorem State.setPad_flintUp (s : State) (d k : Nat) (x : PadSt) : (s.setPad d k x).flintUp = s.flintUp := rfl
@[simp] theorem State.setPad_wdog (s : State) (d k : Nat) (x : PadSt) : (s.setPad d k x).wdog = s.wdog := rfl
@[simp] theorem State.setPad_revs (s : State) (d k : Nat) (x : PadSt) : (s.setPad d k x).revs = s.revs := rfl
@[simp] theorem State.setPad_straps (s : State) (d k : Nat) (x : PadSt) : (s.setPad d k x).straps = s.straps := rfl
@[simp] theorem State.setPad_clk (s : State) (d k : Nat) (x : PadSt) : (s.setPad d k x).clk = s.clk := rfl
@[simp] theorem State.setPad_treeClosed (s : State) (d k : Nat) (x : PadSt) : (s.setPad d k x).treeClosed = s.treeClosed := rfl
@[simp] theorem State.setPad_spines (s : State) (d k : Nat) (x : PadSt) : (s.setPad d k x).spines = s.spines := rfl
@[simp] theorem State.setPad_trees (s : State) (d k : Nat) (x : PadSt) : (s.setPad d k x).trees = s.trees := rfl
@[simp] theorem State.setPad_drefPhase (s : State) (d k : Nat) (x : PadSt) : (s.setPad d k x).drefPhase = s.drefPhase := rfl
@[simp] theorem State.setPad_uports (s : State) (d k : Nat) (x : PadSt) : (s.setPad d k x).uports = s.uports := rfl
@[simp] theorem State.setPad_net (s : State) (d k : Nat) (x : PadSt) : (s.setPad d k x).net = s.net := rfl
@[simp] theorem State.setPad_inbox (s : State) (d k : Nat) (x : PadSt) : (s.setPad d k x).inbox = s.inbox := rfl
@[simp] theorem State.setPad_tags (s : State) (d k : Nat) (x : PadSt) : (s.setPad d k x).tags = s.tags := rfl
@[simp] theorem State.setPad_unanswered (s : State) (d k : Nat) (x : PadSt) : (s.setPad d k x).unanswered = s.unanswered := rfl
@[simp] theorem State.setPad_fences (s : State) (d k : Nat) (x : PadSt) : (s.setPad d k x).fences = s.fences := rfl
@[simp] theorem State.setPad_drains (s : State) (d k : Nat) (x : PadSt) : (s.setPad d k x).drains = s.drains := rfl
@[simp] theorem State.setPad_waking (s : State) (d k : Nat) (x : PadSt) : (s.setPad d k x).waking = s.waking := rfl
@[simp] theorem State.setPad_wakeFail (s : State) (d k : Nat) (x : PadSt) : (s.setPad d k x).wakeFail = s.wakeFail := rfl
@[simp] theorem State.setPad_slices (s : State) (d k : Nat) (x : PadSt) : (s.setPad d k x).slices = s.slices := rfl
@[simp] theorem State.setPad_homes (s : State) (d k : Nat) (x : PadSt) : (s.setPad d k x).homes = s.homes := rfl
@[simp] theorem State.setPad_dieDown (s : State) (d k : Nat) (x : PadSt) : (s.setPad d k x).dieDown = s.dieDown := rfl
@[simp] theorem State.setPad_flush (s : State) (d k : Nat) (x : PadSt) : (s.setPad d k x).flush = s.flush := rfl
@[simp] theorem State.setPad_rangeFlush (s : State) (d k : Nat) (x : PadSt) : (s.setPad d k x).rangeFlush = s.rangeFlush := rfl
@[simp] theorem State.setPad_links (s : State) (d k : Nat) (x : PadSt) : (s.setPad d k x).links = s.links := rfl
@[simp] theorem State.setPad_minbox (s : State) (d k : Nat) (x : PadSt) : (s.setPad d k x).minbox = s.minbox := rfl
@[simp] theorem State.setPad_arrivals (s : State) (d k : Nat) (x : PadSt) : (s.setPad d k x).arrivals = s.arrivals := rfl
@[simp] theorem State.setPad_wire (s : State) (d k : Nat) (x : PadSt) : (s.setPad d k x).wire = s.wire := rfl
@[simp] theorem State.setPad_strips (s : State) (d k : Nat) (x : PadSt) : (s.setPad d k x).strips = s.strips := rfl
@[simp] theorem State.setPad_strata (s : State) (d k : Nat) (x : PadSt) : (s.setPad d k x).strata = s.strata := rfl
@[simp] theorem State.setPad_cap (s : State) (d k : Nat) (x : PadSt) : (s.setPad d k x).cap = s.cap := rfl
@[simp] theorem State.setPad_lode (s : State) (d k : Nat) (x : PadSt) : (s.setPad d k x).lode = s.lode := rfl
@[simp] theorem State.setPad_xcv (s : State) (d k : Nat) (x : PadSt) : (s.setPad d k x).xcv = s.xcv := rfl
@[simp] theorem State.setPad_jtag (s : State) (d k : Nat) (x : PadSt) : (s.setPad d k x).jtag = s.jtag := rfl
@[simp] theorem State.setPad_mica (s : State) (d k : Nat) (x : PadSt) : (s.setPad d k x).mica = s.mica := rfl
@[simp] theorem State.setPad_vein (s : State) (d k : Nat) (x : PadSt) : (s.setPad d k x).vein = s.vein := rfl
@[simp] theorem State.setPad_micaOut (s : State) (d k : Nat) (x : PadSt) : (s.setPad d k x).micaOut = s.micaOut := rfl
@[simp] theorem State.setPad_micaShown (s : State) (d k : Nat) (x : PadSt) : (s.setPad d k x).micaShown = s.micaShown := rfl
@[simp] theorem State.setPad_mports (s : State) (d k : Nat) (x : PadSt) : (s.setPad d k x).mports = s.mports := rfl
@[simp] theorem State.setPad_erasing (s : State) (d k : Nat) (x : PadSt) : (s.setPad d k x).erasing = s.erasing := rfl
@[simp] theorem State.setPad_ddr (s : State) (d k : Nat) (x : PadSt) : (s.setPad d k x).ddr = s.ddr := rfl
@[simp] theorem State.setPad_ctr (s : State) (d k : Nat) (x : PadSt) : (s.setPad d k x).ctr = s.ctr := rfl
@[simp] theorem State.setPad_otag (s : State) (d k : Nat) (x : PadSt) : (s.setPad d k x).otag = s.otag := rfl
@[simp] theorem State.setPad_otree (s : State) (d k : Nat) (x : PadSt) : (s.setPad d k x).otree = s.otree := rfl
@[simp] theorem State.setPad_ocache (s : State) (d k : Nat) (x : PadSt) : (s.setPad d k x).ocache = s.ocache := rfl
@[simp] theorem State.setPad_metaErr (s : State) (d k : Nat) (x : PadSt) : (s.setPad d k x).metaErr = s.metaErr := rfl
@[simp] theorem State.setPad_broken (s : State) (d k : Nat) (x : PadSt) : (s.setPad d k x).broken = s.broken := rfl
@[simp] theorem State.setPad_keys (s : State) (d k : Nat) (x : PadSt) : (s.setPad d k x).keys = s.keys := rfl
@[simp] theorem State.setPad_treeKey (s : State) (d k : Nat) (x : PadSt) : (s.setPad d k x).treeKey = s.treeKey := rfl
@[simp] theorem State.setPad_maxMajor (s : State) (d k : Nat) (x : PadSt) : (s.setPad d k x).maxMajor = s.maxMajor := rfl
@[simp] theorem State.setPad_patrol (s : State) (d k : Nat) (x : PadSt) : (s.setPad d k x).patrol = s.patrol := rfl
@[simp] theorem State.setPad_frames (s : State) (d k : Nat) (x : PadSt) : (s.setPad d k x).frames = s.frames := rfl
@[simp] theorem State.setPad_engines (s : State) (d k : Nat) (x : PadSt) : (s.setPad d k x).engines = s.engines := rfl
@[simp] theorem State.setPad_grpNext (s : State) (d k : Nat) (x : PadSt) : (s.setPad d k x).grpNext = s.grpNext := rfl
@[simp] theorem State.setPad_engRsp (s : State) (d k : Nat) (x : PadSt) : (s.setPad d k x).engRsp = s.engRsp := rfl
@[simp] theorem State.setPad_ffs (s : State) (d k : Nat) (x : PadSt) : (s.setPad d k x).ffs = s.ffs := rfl
@[simp] theorem State.setPad_latches (s : State) (d k : Nat) (x : PadSt) : (s.setPad d k x).latches = s.latches := rfl
@[simp] theorem State.setPad_padHold (s : State) (d k : Nat) (x : PadSt) : (s.setPad d k x).padHold = s.padHold := rfl
@[simp] theorem State.setPad_loader (s : State) (d k : Nat) (x : PadSt) : (s.setPad d k x).loader = s.loader := rfl
@[simp] theorem State.setPad_regions (s : State) (d k : Nat) (x : PadSt) : (s.setPad d k x).regions = s.regions := rfl
@[simp] theorem State.setPad_scrub (s : State) (d k : Nat) (x : PadSt) : (s.setPad d k x).scrub = s.scrub := rfl
@[simp] theorem State.setPad_upsets (s : State) (d k : Nat) (x : PadSt) : (s.setPad d k x).upsets = s.upsets := rfl
@[simp] theorem State.setPad_probeBuf (s : State) (d k : Nat) (x : PadSt) : (s.setPad d k x).probeBuf = s.probeBuf := rfl
@[simp] theorem State.setPad_probeLeft (s : State) (d k : Nat) (x : PadSt) : (s.setPad d k x).probeLeft = s.probeLeft := rfl
@[simp] theorem State.setPad_pairs (s : State) (d k : Nat) (x : PadSt) : (s.setPad d k x).pairs = s.pairs := rfl
@[simp] theorem State.setPad_hostReads (s : State) (d k : Nat) (x : PadSt) : (s.setPad d k x).hostReads = s.hostReads := rfl
@[simp] theorem State.setPad_nextRead (s : State) (d k : Nat) (x : PadSt) : (s.setPad d k x).nextRead = s.nextRead := rfl
@[simp] theorem State.setPad_wins (s : State) (d k : Nat) (x : PadSt) : (s.setPad d k x).wins = s.wins := rfl
@[simp] theorem State.setPad_hostHeld (s : State) (d k : Nat) (x : PadSt) : (s.setPad d k x).hostHeld = s.hostHeld := rfl
@[simp] theorem State.setPad_winNext (s : State) (d k : Nat) (x : PadSt) : (s.setPad d k x).winNext = s.winNext := rfl
@[simp] theorem State.setPad_pcie (s : State) (d k : Nat) (x : PadSt) : (s.setPad d k x).pcie = s.pcie := rfl
@[simp] theorem State.setPad_sqTurn (s : State) (d k : Nat) (x : PadSt) : (s.setPad d k x).sqTurn = s.sqTurn := rfl
@[simp] theorem State.setPad_fuses (s : State) (d k : Nat) (x : PadSt) : (s.setPad d k x).fuses = s.fuses := rfl
@[simp] theorem State.setPad_lcs (s : State) (d k : Nat) (x : PadSt) : (s.setPad d k x).lcs = s.lcs := rfl
@[simp] theorem State.setPad_pins (s : State) (d k : Nat) (x : PadSt) : (s.setPad d k x).pins = s.pins := rfl
@[simp] theorem State.setPad_warned (s : State) (d k : Nat) (x : PadSt) : (s.setPad d k x).warned = s.warned := rfl
@[simp] theorem State.setPad_haltDone (s : State) (d k : Nat) (x : PadSt) : (s.setPad d k x).haltDone = s.haltDone := rfl
@[simp] theorem State.setPad_out (s : State) (d k : Nat) (x : PadSt) : (s.setPad d k x).out = s.out := rfl
@[simp] theorem State.setPad_pending (s : State) (d k : Nat) (x : PadSt) : (s.setPad d k x).pending = s.pending := rfl
@[simp] theorem State.setPad_free (s : State) (d k : Nat) (x : PadSt) : (s.setPad d k x).free = s.free := rfl

/-! ## take -/

@[simp] theorem State.take_phase (s : State) (n : Nat) : (s.take n).phase = s.phase := rfl
@[simp] theorem State.take_regs (s : State) (n : Nat) : (s.take n).regs = s.regs := rfl
@[simp] theorem State.take_shadow (s : State) (n : Nat) : (s.take n).shadow = s.shadow := rfl
@[simp] theorem State.take_locks (s : State) (n : Nat) : (s.take n).locks = s.locks := rfl
@[simp] theorem State.take_arms (s : State) (n : Nat) : (s.take n).arms = s.arms := rfl
@[simp] theorem State.take_heldAcc (s : State) (n : Nat) : (s.take n).heldAcc = s.heldAcc := rfl
@[simp] theorem State.take_flintUp (s : State) (n : Nat) : (s.take n).flintUp = s.flintUp := rfl
@[simp] theorem State.take_wdog (s : State) (n : Nat) : (s.take n).wdog = s.wdog := rfl
@[simp] theorem State.take_revs (s : State) (n : Nat) : (s.take n).revs = s.revs := rfl
@[simp] theorem State.take_straps (s : State) (n : Nat) : (s.take n).straps = s.straps := rfl
@[simp] theorem State.take_clk (s : State) (n : Nat) : (s.take n).clk = s.clk := rfl
@[simp] theorem State.take_treeClosed (s : State) (n : Nat) : (s.take n).treeClosed = s.treeClosed := rfl
@[simp] theorem State.take_spines (s : State) (n : Nat) : (s.take n).spines = s.spines := rfl
@[simp] theorem State.take_trees (s : State) (n : Nat) : (s.take n).trees = s.trees := rfl
@[simp] theorem State.take_drefPhase (s : State) (n : Nat) : (s.take n).drefPhase = s.drefPhase := rfl
@[simp] theorem State.take_uports (s : State) (n : Nat) : (s.take n).uports = s.uports := rfl
@[simp] theorem State.take_net (s : State) (n : Nat) : (s.take n).net = s.net := rfl
@[simp] theorem State.take_tags (s : State) (n : Nat) : (s.take n).tags = s.tags := rfl
@[simp] theorem State.take_unanswered (s : State) (n : Nat) : (s.take n).unanswered = s.unanswered := rfl
@[simp] theorem State.take_fences (s : State) (n : Nat) : (s.take n).fences = s.fences := rfl
@[simp] theorem State.take_drains (s : State) (n : Nat) : (s.take n).drains = s.drains := rfl
@[simp] theorem State.take_waking (s : State) (n : Nat) : (s.take n).waking = s.waking := rfl
@[simp] theorem State.take_wakeFail (s : State) (n : Nat) : (s.take n).wakeFail = s.wakeFail := rfl
@[simp] theorem State.take_slices (s : State) (n : Nat) : (s.take n).slices = s.slices := rfl
@[simp] theorem State.take_homes (s : State) (n : Nat) : (s.take n).homes = s.homes := rfl
@[simp] theorem State.take_dieDown (s : State) (n : Nat) : (s.take n).dieDown = s.dieDown := rfl
@[simp] theorem State.take_flush (s : State) (n : Nat) : (s.take n).flush = s.flush := rfl
@[simp] theorem State.take_rangeFlush (s : State) (n : Nat) : (s.take n).rangeFlush = s.rangeFlush := rfl
@[simp] theorem State.take_links (s : State) (n : Nat) : (s.take n).links = s.links := rfl
@[simp] theorem State.take_minbox (s : State) (n : Nat) : (s.take n).minbox = s.minbox := rfl
@[simp] theorem State.take_arrivals (s : State) (n : Nat) : (s.take n).arrivals = s.arrivals := rfl
@[simp] theorem State.take_wire (s : State) (n : Nat) : (s.take n).wire = s.wire := rfl
@[simp] theorem State.take_strips (s : State) (n : Nat) : (s.take n).strips = s.strips := rfl
@[simp] theorem State.take_strata (s : State) (n : Nat) : (s.take n).strata = s.strata := rfl
@[simp] theorem State.take_cap (s : State) (n : Nat) : (s.take n).cap = s.cap := rfl
@[simp] theorem State.take_lode (s : State) (n : Nat) : (s.take n).lode = s.lode := rfl
@[simp] theorem State.take_xcv (s : State) (n : Nat) : (s.take n).xcv = s.xcv := rfl
@[simp] theorem State.take_jtag (s : State) (n : Nat) : (s.take n).jtag = s.jtag := rfl
@[simp] theorem State.take_mica (s : State) (n : Nat) : (s.take n).mica = s.mica := rfl
@[simp] theorem State.take_vein (s : State) (n : Nat) : (s.take n).vein = s.vein := rfl
@[simp] theorem State.take_micaOut (s : State) (n : Nat) : (s.take n).micaOut = s.micaOut := rfl
@[simp] theorem State.take_micaShown (s : State) (n : Nat) : (s.take n).micaShown = s.micaShown := rfl
@[simp] theorem State.take_mports (s : State) (n : Nat) : (s.take n).mports = s.mports := rfl
@[simp] theorem State.take_erasing (s : State) (n : Nat) : (s.take n).erasing = s.erasing := rfl
@[simp] theorem State.take_ddr (s : State) (n : Nat) : (s.take n).ddr = s.ddr := rfl
@[simp] theorem State.take_ctr (s : State) (n : Nat) : (s.take n).ctr = s.ctr := rfl
@[simp] theorem State.take_otag (s : State) (n : Nat) : (s.take n).otag = s.otag := rfl
@[simp] theorem State.take_otree (s : State) (n : Nat) : (s.take n).otree = s.otree := rfl
@[simp] theorem State.take_ocache (s : State) (n : Nat) : (s.take n).ocache = s.ocache := rfl
@[simp] theorem State.take_metaErr (s : State) (n : Nat) : (s.take n).metaErr = s.metaErr := rfl
@[simp] theorem State.take_broken (s : State) (n : Nat) : (s.take n).broken = s.broken := rfl
@[simp] theorem State.take_keys (s : State) (n : Nat) : (s.take n).keys = s.keys := rfl
@[simp] theorem State.take_treeKey (s : State) (n : Nat) : (s.take n).treeKey = s.treeKey := rfl
@[simp] theorem State.take_maxMajor (s : State) (n : Nat) : (s.take n).maxMajor = s.maxMajor := rfl
@[simp] theorem State.take_patrol (s : State) (n : Nat) : (s.take n).patrol = s.patrol := rfl
@[simp] theorem State.take_frames (s : State) (n : Nat) : (s.take n).frames = s.frames := rfl
@[simp] theorem State.take_engines (s : State) (n : Nat) : (s.take n).engines = s.engines := rfl
@[simp] theorem State.take_grpNext (s : State) (n : Nat) : (s.take n).grpNext = s.grpNext := rfl
@[simp] theorem State.take_engRsp (s : State) (n : Nat) : (s.take n).engRsp = s.engRsp := rfl
@[simp] theorem State.take_ffs (s : State) (n : Nat) : (s.take n).ffs = s.ffs := rfl
@[simp] theorem State.take_latches (s : State) (n : Nat) : (s.take n).latches = s.latches := rfl
@[simp] theorem State.take_padHold (s : State) (n : Nat) : (s.take n).padHold = s.padHold := rfl
@[simp] theorem State.take_pads (s : State) (n : Nat) : (s.take n).pads = s.pads := rfl
@[simp] theorem State.take_loader (s : State) (n : Nat) : (s.take n).loader = s.loader := rfl
@[simp] theorem State.take_regions (s : State) (n : Nat) : (s.take n).regions = s.regions := rfl
@[simp] theorem State.take_scrub (s : State) (n : Nat) : (s.take n).scrub = s.scrub := rfl
@[simp] theorem State.take_upsets (s : State) (n : Nat) : (s.take n).upsets = s.upsets := rfl
@[simp] theorem State.take_probeBuf (s : State) (n : Nat) : (s.take n).probeBuf = s.probeBuf := rfl
@[simp] theorem State.take_probeLeft (s : State) (n : Nat) : (s.take n).probeLeft = s.probeLeft := rfl
@[simp] theorem State.take_pairs (s : State) (n : Nat) : (s.take n).pairs = s.pairs := rfl
@[simp] theorem State.take_hostReads (s : State) (n : Nat) : (s.take n).hostReads = s.hostReads := rfl
@[simp] theorem State.take_nextRead (s : State) (n : Nat) : (s.take n).nextRead = s.nextRead := rfl
@[simp] theorem State.take_wins (s : State) (n : Nat) : (s.take n).wins = s.wins := rfl
@[simp] theorem State.take_hostHeld (s : State) (n : Nat) : (s.take n).hostHeld = s.hostHeld := rfl
@[simp] theorem State.take_winNext (s : State) (n : Nat) : (s.take n).winNext = s.winNext := rfl
@[simp] theorem State.take_pcie (s : State) (n : Nat) : (s.take n).pcie = s.pcie := rfl
@[simp] theorem State.take_sqTurn (s : State) (n : Nat) : (s.take n).sqTurn = s.sqTurn := rfl
@[simp] theorem State.take_fuses (s : State) (n : Nat) : (s.take n).fuses = s.fuses := rfl
@[simp] theorem State.take_lcs (s : State) (n : Nat) : (s.take n).lcs = s.lcs := rfl
@[simp] theorem State.take_pins (s : State) (n : Nat) : (s.take n).pins = s.pins := rfl
@[simp] theorem State.take_warned (s : State) (n : Nat) : (s.take n).warned = s.warned := rfl
@[simp] theorem State.take_haltDone (s : State) (n : Nat) : (s.take n).haltDone = s.haltDone := rfl
@[simp] theorem State.take_out (s : State) (n : Nat) : (s.take n).out = s.out := rfl
@[simp] theorem State.take_pending (s : State) (n : Nat) : (s.take n).pending = s.pending := rfl
@[simp] theorem State.take_free (s : State) (n : Nat) : (s.take n).free = s.free := rfl

/-! ## deliver -/

@[simp] theorem State.deliver_phase (s : State) (e : Ep) (p : Packet) : (s.deliver e p).phase = s.phase := rfl
@[simp] theorem State.deliver_regs (s : State) (e : Ep) (p : Packet) : (s.deliver e p).regs = s.regs := rfl
@[simp] theorem State.deliver_shadow (s : State) (e : Ep) (p : Packet) : (s.deliver e p).shadow = s.shadow := rfl
@[simp] theorem State.deliver_locks (s : State) (e : Ep) (p : Packet) : (s.deliver e p).locks = s.locks := rfl
@[simp] theorem State.deliver_arms (s : State) (e : Ep) (p : Packet) : (s.deliver e p).arms = s.arms := rfl
@[simp] theorem State.deliver_heldAcc (s : State) (e : Ep) (p : Packet) : (s.deliver e p).heldAcc = s.heldAcc := rfl
@[simp] theorem State.deliver_flintUp (s : State) (e : Ep) (p : Packet) : (s.deliver e p).flintUp = s.flintUp := rfl
@[simp] theorem State.deliver_wdog (s : State) (e : Ep) (p : Packet) : (s.deliver e p).wdog = s.wdog := rfl
@[simp] theorem State.deliver_revs (s : State) (e : Ep) (p : Packet) : (s.deliver e p).revs = s.revs := rfl
@[simp] theorem State.deliver_straps (s : State) (e : Ep) (p : Packet) : (s.deliver e p).straps = s.straps := rfl
@[simp] theorem State.deliver_clk (s : State) (e : Ep) (p : Packet) : (s.deliver e p).clk = s.clk := rfl
@[simp] theorem State.deliver_treeClosed (s : State) (e : Ep) (p : Packet) : (s.deliver e p).treeClosed = s.treeClosed := rfl
@[simp] theorem State.deliver_spines (s : State) (e : Ep) (p : Packet) : (s.deliver e p).spines = s.spines := rfl
@[simp] theorem State.deliver_trees (s : State) (e : Ep) (p : Packet) : (s.deliver e p).trees = s.trees := rfl
@[simp] theorem State.deliver_drefPhase (s : State) (e : Ep) (p : Packet) : (s.deliver e p).drefPhase = s.drefPhase := rfl
@[simp] theorem State.deliver_uports (s : State) (e : Ep) (p : Packet) : (s.deliver e p).uports = s.uports := rfl
@[simp] theorem State.deliver_net (s : State) (e : Ep) (p : Packet) : (s.deliver e p).net = s.net := rfl
@[simp] theorem State.deliver_tags (s : State) (e : Ep) (p : Packet) : (s.deliver e p).tags = s.tags := rfl
@[simp] theorem State.deliver_unanswered (s : State) (e : Ep) (p : Packet) : (s.deliver e p).unanswered = s.unanswered := rfl
@[simp] theorem State.deliver_fences (s : State) (e : Ep) (p : Packet) : (s.deliver e p).fences = s.fences := rfl
@[simp] theorem State.deliver_drains (s : State) (e : Ep) (p : Packet) : (s.deliver e p).drains = s.drains := rfl
@[simp] theorem State.deliver_waking (s : State) (e : Ep) (p : Packet) : (s.deliver e p).waking = s.waking := rfl
@[simp] theorem State.deliver_wakeFail (s : State) (e : Ep) (p : Packet) : (s.deliver e p).wakeFail = s.wakeFail := rfl
@[simp] theorem State.deliver_slices (s : State) (e : Ep) (p : Packet) : (s.deliver e p).slices = s.slices := rfl
@[simp] theorem State.deliver_homes (s : State) (e : Ep) (p : Packet) : (s.deliver e p).homes = s.homes := rfl
@[simp] theorem State.deliver_dieDown (s : State) (e : Ep) (p : Packet) : (s.deliver e p).dieDown = s.dieDown := rfl
@[simp] theorem State.deliver_flush (s : State) (e : Ep) (p : Packet) : (s.deliver e p).flush = s.flush := rfl
@[simp] theorem State.deliver_rangeFlush (s : State) (e : Ep) (p : Packet) : (s.deliver e p).rangeFlush = s.rangeFlush := rfl
@[simp] theorem State.deliver_links (s : State) (e : Ep) (p : Packet) : (s.deliver e p).links = s.links := rfl
@[simp] theorem State.deliver_minbox (s : State) (e : Ep) (p : Packet) : (s.deliver e p).minbox = s.minbox := rfl
@[simp] theorem State.deliver_arrivals (s : State) (e : Ep) (p : Packet) : (s.deliver e p).arrivals = s.arrivals := rfl
@[simp] theorem State.deliver_wire (s : State) (e : Ep) (p : Packet) : (s.deliver e p).wire = s.wire := rfl
@[simp] theorem State.deliver_strips (s : State) (e : Ep) (p : Packet) : (s.deliver e p).strips = s.strips := rfl
@[simp] theorem State.deliver_strata (s : State) (e : Ep) (p : Packet) : (s.deliver e p).strata = s.strata := rfl
@[simp] theorem State.deliver_cap (s : State) (e : Ep) (p : Packet) : (s.deliver e p).cap = s.cap := rfl
@[simp] theorem State.deliver_lode (s : State) (e : Ep) (p : Packet) : (s.deliver e p).lode = s.lode := rfl
@[simp] theorem State.deliver_xcv (s : State) (e : Ep) (p : Packet) : (s.deliver e p).xcv = s.xcv := rfl
@[simp] theorem State.deliver_jtag (s : State) (e : Ep) (p : Packet) : (s.deliver e p).jtag = s.jtag := rfl
@[simp] theorem State.deliver_mica (s : State) (e : Ep) (p : Packet) : (s.deliver e p).mica = s.mica := rfl
@[simp] theorem State.deliver_vein (s : State) (e : Ep) (p : Packet) : (s.deliver e p).vein = s.vein := rfl
@[simp] theorem State.deliver_micaOut (s : State) (e : Ep) (p : Packet) : (s.deliver e p).micaOut = s.micaOut := rfl
@[simp] theorem State.deliver_micaShown (s : State) (e : Ep) (p : Packet) : (s.deliver e p).micaShown = s.micaShown := rfl
@[simp] theorem State.deliver_mports (s : State) (e : Ep) (p : Packet) : (s.deliver e p).mports = s.mports := rfl
@[simp] theorem State.deliver_erasing (s : State) (e : Ep) (p : Packet) : (s.deliver e p).erasing = s.erasing := rfl
@[simp] theorem State.deliver_ddr (s : State) (e : Ep) (p : Packet) : (s.deliver e p).ddr = s.ddr := rfl
@[simp] theorem State.deliver_ctr (s : State) (e : Ep) (p : Packet) : (s.deliver e p).ctr = s.ctr := rfl
@[simp] theorem State.deliver_otag (s : State) (e : Ep) (p : Packet) : (s.deliver e p).otag = s.otag := rfl
@[simp] theorem State.deliver_otree (s : State) (e : Ep) (p : Packet) : (s.deliver e p).otree = s.otree := rfl
@[simp] theorem State.deliver_ocache (s : State) (e : Ep) (p : Packet) : (s.deliver e p).ocache = s.ocache := rfl
@[simp] theorem State.deliver_metaErr (s : State) (e : Ep) (p : Packet) : (s.deliver e p).metaErr = s.metaErr := rfl
@[simp] theorem State.deliver_broken (s : State) (e : Ep) (p : Packet) : (s.deliver e p).broken = s.broken := rfl
@[simp] theorem State.deliver_keys (s : State) (e : Ep) (p : Packet) : (s.deliver e p).keys = s.keys := rfl
@[simp] theorem State.deliver_treeKey (s : State) (e : Ep) (p : Packet) : (s.deliver e p).treeKey = s.treeKey := rfl
@[simp] theorem State.deliver_maxMajor (s : State) (e : Ep) (p : Packet) : (s.deliver e p).maxMajor = s.maxMajor := rfl
@[simp] theorem State.deliver_patrol (s : State) (e : Ep) (p : Packet) : (s.deliver e p).patrol = s.patrol := rfl
@[simp] theorem State.deliver_frames (s : State) (e : Ep) (p : Packet) : (s.deliver e p).frames = s.frames := rfl
@[simp] theorem State.deliver_engines (s : State) (e : Ep) (p : Packet) : (s.deliver e p).engines = s.engines := rfl
@[simp] theorem State.deliver_grpNext (s : State) (e : Ep) (p : Packet) : (s.deliver e p).grpNext = s.grpNext := rfl
@[simp] theorem State.deliver_engRsp (s : State) (e : Ep) (p : Packet) : (s.deliver e p).engRsp = s.engRsp := rfl
@[simp] theorem State.deliver_ffs (s : State) (e : Ep) (p : Packet) : (s.deliver e p).ffs = s.ffs := rfl
@[simp] theorem State.deliver_latches (s : State) (e : Ep) (p : Packet) : (s.deliver e p).latches = s.latches := rfl
@[simp] theorem State.deliver_padHold (s : State) (e : Ep) (p : Packet) : (s.deliver e p).padHold = s.padHold := rfl
@[simp] theorem State.deliver_pads (s : State) (e : Ep) (p : Packet) : (s.deliver e p).pads = s.pads := rfl
@[simp] theorem State.deliver_loader (s : State) (e : Ep) (p : Packet) : (s.deliver e p).loader = s.loader := rfl
@[simp] theorem State.deliver_regions (s : State) (e : Ep) (p : Packet) : (s.deliver e p).regions = s.regions := rfl
@[simp] theorem State.deliver_scrub (s : State) (e : Ep) (p : Packet) : (s.deliver e p).scrub = s.scrub := rfl
@[simp] theorem State.deliver_upsets (s : State) (e : Ep) (p : Packet) : (s.deliver e p).upsets = s.upsets := rfl
@[simp] theorem State.deliver_probeBuf (s : State) (e : Ep) (p : Packet) : (s.deliver e p).probeBuf = s.probeBuf := rfl
@[simp] theorem State.deliver_probeLeft (s : State) (e : Ep) (p : Packet) : (s.deliver e p).probeLeft = s.probeLeft := rfl
@[simp] theorem State.deliver_pairs (s : State) (e : Ep) (p : Packet) : (s.deliver e p).pairs = s.pairs := rfl
@[simp] theorem State.deliver_hostReads (s : State) (e : Ep) (p : Packet) : (s.deliver e p).hostReads = s.hostReads := rfl
@[simp] theorem State.deliver_nextRead (s : State) (e : Ep) (p : Packet) : (s.deliver e p).nextRead = s.nextRead := rfl
@[simp] theorem State.deliver_wins (s : State) (e : Ep) (p : Packet) : (s.deliver e p).wins = s.wins := rfl
@[simp] theorem State.deliver_hostHeld (s : State) (e : Ep) (p : Packet) : (s.deliver e p).hostHeld = s.hostHeld := rfl
@[simp] theorem State.deliver_winNext (s : State) (e : Ep) (p : Packet) : (s.deliver e p).winNext = s.winNext := rfl
@[simp] theorem State.deliver_pcie (s : State) (e : Ep) (p : Packet) : (s.deliver e p).pcie = s.pcie := rfl
@[simp] theorem State.deliver_sqTurn (s : State) (e : Ep) (p : Packet) : (s.deliver e p).sqTurn = s.sqTurn := rfl
@[simp] theorem State.deliver_fuses (s : State) (e : Ep) (p : Packet) : (s.deliver e p).fuses = s.fuses := rfl
@[simp] theorem State.deliver_lcs (s : State) (e : Ep) (p : Packet) : (s.deliver e p).lcs = s.lcs := rfl
@[simp] theorem State.deliver_pins (s : State) (e : Ep) (p : Packet) : (s.deliver e p).pins = s.pins := rfl
@[simp] theorem State.deliver_warned (s : State) (e : Ep) (p : Packet) : (s.deliver e p).warned = s.warned := rfl
@[simp] theorem State.deliver_haltDone (s : State) (e : Ep) (p : Packet) : (s.deliver e p).haltDone = s.haltDone := rfl
@[simp] theorem State.deliver_out (s : State) (e : Ep) (p : Packet) : (s.deliver e p).out = s.out := rfl
@[simp] theorem State.deliver_pending (s : State) (e : Ep) (p : Packet) : (s.deliver e p).pending = s.pending := rfl
@[simp] theorem State.deliver_free (s : State) (e : Ep) (p : Packet) : (s.deliver e p).free = s.free := rfl

/-! ## keep -/

@[simp] theorem keep_phase (s t : State) : (keep s t).phase = t.phase := rfl
@[simp] theorem keep_regs (s t : State) : (keep s t).regs = t.regs := rfl
@[simp] theorem keep_shadow (s t : State) : (keep s t).shadow = t.shadow := rfl
@[simp] theorem keep_locks (s t : State) : (keep s t).locks = t.locks := rfl
@[simp] theorem keep_arms (s t : State) : (keep s t).arms = t.arms := rfl
@[simp] theorem keep_heldAcc (s t : State) : (keep s t).heldAcc = t.heldAcc := rfl
@[simp] theorem keep_flintUp (s t : State) : (keep s t).flintUp = t.flintUp := rfl
@[simp] theorem keep_wdog (s t : State) : (keep s t).wdog = t.wdog := rfl
@[simp] theorem keep_revs (s t : State) : (keep s t).revs = t.revs := rfl
@[simp] theorem keep_straps (s t : State) : (keep s t).straps = t.straps := rfl
@[simp] theorem keep_clk (s t : State) : (keep s t).clk = t.clk := rfl
@[simp] theorem keep_treeClosed (s t : State) : (keep s t).treeClosed = t.treeClosed := rfl
@[simp] theorem keep_spines (s t : State) : (keep s t).spines = t.spines := rfl
@[simp] theorem keep_trees (s t : State) : (keep s t).trees = t.trees := rfl
@[simp] theorem keep_drefPhase (s t : State) : (keep s t).drefPhase = t.drefPhase := rfl
@[simp] theorem keep_uports (s t : State) : (keep s t).uports = t.uports := rfl
@[simp] theorem keep_net (s t : State) : (keep s t).net = t.net := rfl
@[simp] theorem keep_inbox (s t : State) : (keep s t).inbox = t.inbox := rfl
@[simp] theorem keep_tags (s t : State) : (keep s t).tags = t.tags := rfl
@[simp] theorem keep_unanswered (s t : State) : (keep s t).unanswered = t.unanswered := rfl
@[simp] theorem keep_fences (s t : State) : (keep s t).fences = t.fences := rfl
@[simp] theorem keep_drains (s t : State) : (keep s t).drains = t.drains := rfl
@[simp] theorem keep_waking (s t : State) : (keep s t).waking = t.waking := rfl
@[simp] theorem keep_wakeFail (s t : State) : (keep s t).wakeFail = t.wakeFail := rfl
@[simp] theorem keep_slices (s t : State) : (keep s t).slices = t.slices := rfl
@[simp] theorem keep_homes (s t : State) : (keep s t).homes = t.homes := rfl
@[simp] theorem keep_dieDown (s t : State) : (keep s t).dieDown = t.dieDown := rfl
@[simp] theorem keep_flush (s t : State) : (keep s t).flush = t.flush := rfl
@[simp] theorem keep_rangeFlush (s t : State) : (keep s t).rangeFlush = t.rangeFlush := rfl
@[simp] theorem keep_links (s t : State) : (keep s t).links = t.links := rfl
@[simp] theorem keep_minbox (s t : State) : (keep s t).minbox = t.minbox := rfl
@[simp] theorem keep_arrivals (s t : State) : (keep s t).arrivals = t.arrivals := rfl
@[simp] theorem keep_wire (s t : State) : (keep s t).wire = t.wire := rfl
@[simp] theorem keep_strips (s t : State) : (keep s t).strips = t.strips := rfl
@[simp] theorem keep_strata (s t : State) : (keep s t).strata = t.strata := rfl
@[simp] theorem keep_cap (s t : State) : (keep s t).cap = t.cap := rfl
@[simp] theorem keep_lode (s t : State) : (keep s t).lode = t.lode := rfl
@[simp] theorem keep_xcv (s t : State) : (keep s t).xcv = t.xcv := rfl
@[simp] theorem keep_jtag (s t : State) : (keep s t).jtag = t.jtag := rfl
@[simp] theorem keep_mica (s t : State) : (keep s t).mica = t.mica := rfl
@[simp] theorem keep_vein (s t : State) : (keep s t).vein = t.vein := rfl
@[simp] theorem keep_micaOut (s t : State) : (keep s t).micaOut = t.micaOut := rfl
@[simp] theorem keep_micaShown (s t : State) : (keep s t).micaShown = t.micaShown := rfl
@[simp] theorem keep_mports (s t : State) : (keep s t).mports = t.mports := rfl
@[simp] theorem keep_erasing (s t : State) : (keep s t).erasing = t.erasing := rfl
@[simp] theorem keep_ddr (s t : State) : (keep s t).ddr = t.ddr := rfl
@[simp] theorem keep_ctr (s t : State) : (keep s t).ctr = t.ctr := rfl
@[simp] theorem keep_otag (s t : State) : (keep s t).otag = t.otag := rfl
@[simp] theorem keep_otree (s t : State) : (keep s t).otree = t.otree := rfl
@[simp] theorem keep_ocache (s t : State) : (keep s t).ocache = t.ocache := rfl
@[simp] theorem keep_metaErr (s t : State) : (keep s t).metaErr = t.metaErr := rfl
@[simp] theorem keep_broken (s t : State) : (keep s t).broken = t.broken := rfl
@[simp] theorem keep_keys (s t : State) : (keep s t).keys = t.keys := rfl
@[simp] theorem keep_treeKey (s t : State) : (keep s t).treeKey = t.treeKey := rfl
@[simp] theorem keep_maxMajor (s t : State) : (keep s t).maxMajor = t.maxMajor := rfl
@[simp] theorem keep_patrol (s t : State) : (keep s t).patrol = t.patrol := rfl
@[simp] theorem keep_frames (s t : State) : (keep s t).frames = t.frames := rfl
@[simp] theorem keep_engines (s t : State) : (keep s t).engines = t.engines := rfl
@[simp] theorem keep_grpNext (s t : State) : (keep s t).grpNext = t.grpNext := rfl
@[simp] theorem keep_engRsp (s t : State) : (keep s t).engRsp = t.engRsp := rfl
@[simp] theorem keep_ffs (s t : State) : (keep s t).ffs = t.ffs := rfl
@[simp] theorem keep_latches (s t : State) : (keep s t).latches = t.latches := rfl
@[simp] theorem keep_padHold (s t : State) : (keep s t).padHold = t.padHold := rfl
@[simp] theorem keep_pads (s t : State) : (keep s t).pads = t.pads := rfl
@[simp] theorem keep_loader (s t : State) : (keep s t).loader = t.loader := rfl
@[simp] theorem keep_regions (s t : State) : (keep s t).regions = t.regions := rfl
@[simp] theorem keep_scrub (s t : State) : (keep s t).scrub = t.scrub := rfl
@[simp] theorem keep_upsets (s t : State) : (keep s t).upsets = t.upsets := rfl
@[simp] theorem keep_probeBuf (s t : State) : (keep s t).probeBuf = t.probeBuf := rfl
@[simp] theorem keep_probeLeft (s t : State) : (keep s t).probeLeft = t.probeLeft := rfl
@[simp] theorem keep_pairs (s t : State) : (keep s t).pairs = t.pairs := rfl
@[simp] theorem keep_hostReads (s t : State) : (keep s t).hostReads = t.hostReads := rfl
@[simp] theorem keep_nextRead (s t : State) : (keep s t).nextRead = t.nextRead := rfl
@[simp] theorem keep_wins (s t : State) : (keep s t).wins = t.wins := rfl
@[simp] theorem keep_hostHeld (s t : State) : (keep s t).hostHeld = t.hostHeld := rfl
@[simp] theorem keep_winNext (s t : State) : (keep s t).winNext = t.winNext := rfl
@[simp] theorem keep_pcie (s t : State) : (keep s t).pcie = t.pcie := rfl
@[simp] theorem keep_sqTurn (s t : State) : (keep s t).sqTurn = t.sqTurn := rfl
@[simp] theorem keep_fuses (s t : State) : (keep s t).fuses = t.fuses := rfl
@[simp] theorem keep_lcs (s t : State) : (keep s t).lcs = t.lcs := rfl
@[simp] theorem keep_pins (s t : State) : (keep s t).pins = t.pins := rfl
@[simp] theorem keep_warned (s t : State) : (keep s t).warned = t.warned := rfl
@[simp] theorem keep_haltDone (s t : State) : (keep s t).haltDone = s.haltDone := rfl
@[simp] theorem keep_out (s t : State) : (keep s t).out = t.out := rfl
@[simp] theorem keep_pending (s t : State) : (keep s t).pending = s.pending := rfl
@[simp] theorem keep_free (s t : State) : (keep s t).free = t.free := rfl

end Sys2Proof.Machine
end

