-- ==== Sys2Proof/Laws/Regs.lean ====
section
/-! SUPPORT. Registers and fields: a read after a write, and what a write leaves alone. -/

namespace Sys2Proof.Machine

/-! ## Registers -/

theorem State.reg_setReg_same (s : State) (a : Nat) (v : Word) : (s.setReg a v).reg a = v := by
  unfold State.reg State.setReg SMap.put
  by_cases hv : v = regReset a <;> simp [hv, SMap.find_drop_same, SMap.find_set_same]

theorem State.reg_setReg_other (s : State) {a b : Nat} (v : Word) (h : b ≠ a) : (s.setReg a v).reg b = s.reg b := by
  unfold State.reg State.setReg SMap.put
  by_cases hv : v = regReset a <;> simp [hv, SMap.find_drop_other _ h, SMap.find_set_other _ _ h]

theorem State.reg_setReg (s : State) (a b : Nat) (v : Word) : (s.setReg a v).reg b = if b = a then v else s.reg b := by
  by_cases h : b = a
  · subst h; simp [State.reg_setReg_same]
  · simp [h, State.reg_setReg_other]

/-- A write of a register keeps the register table in its canonical form. -/
theorem State.setReg_wf (s : State) (a : Nat) (v : Word) (h : SMap.wf regReset s.regs = true) : SMap.wf regReset (s.setReg a v).regs = true :=
  SMap.wf_put regReset s.regs a v h

/-! ## Bit fields -/

theorem setBits_toNat (v : Word) (hi lo x : Nat) (h1 : lo ≤ hi) (h2 : hi < 32) :
    (setBits v hi lo x).toNat = 2 ^ lo * (2 ^ (hi + 1 - lo) * (v.toNat / 2 ^ (hi + 1)) + x % 2 ^ (hi + 1 - lo)) + v.toNat % 2 ^ lo := by
  have hp : 2 ^ (hi + 1) = 2 ^ lo * 2 ^ (hi + 1 - lo) := by rw [← Nat.pow_add]; congr 1; omega
  have hb : x % 2 ^ (hi + 1 - lo) < 2 ^ (hi + 1 - lo) := Nat.mod_lt _ (Nat.two_pow_pos _)
  have hc : v.toNat % 2 ^ lo < 2 ^ lo := Nat.mod_lt _ (Nat.two_pow_pos _)
  have hd : v.toNat / 2 ^ (hi + 1) < 2 ^ (32 - (hi + 1)) := by
    apply Nat.div_lt_of_lt_mul
    rw [← Nat.pow_add, show hi + 1 + (32 - (hi + 1)) = 32 by omega]; exact v.isLt
  have e : v.toNat / 2 ^ (hi + 1) * 2 ^ (hi + 1) + x % 2 ^ (hi + 1 - lo) * 2 ^ lo + v.toNat % 2 ^ lo
      = 2 ^ lo * (2 ^ (hi + 1 - lo) * (v.toNat / 2 ^ (hi + 1)) + x % 2 ^ (hi + 1 - lo)) + v.toNat % 2 ^ lo := by
    generalize v.toNat / 2 ^ (hi + 1) = A
    rw [hp, Nat.mul_comm A, Nat.mul_assoc, Nat.mul_add, Nat.mul_comm (x % _)]
  have hlt : 2 ^ lo * (2 ^ (hi + 1 - lo) * (v.toNat / 2 ^ (hi + 1)) + x % 2 ^ (hi + 1 - lo)) + v.toNat % 2 ^ lo < 2 ^ 32 := by
    generalize v.toNat / 2 ^ (hi + 1) = A at hd ⊢
    generalize x % 2 ^ (hi + 1 - lo) = B at hb ⊢
    generalize v.toNat % 2 ^ lo = C at hc ⊢
    have h3 : 2 ^ (hi + 1 - lo) * A + B + 1 ≤ 2 ^ (hi + 1 - lo) * 2 ^ (32 - (hi + 1)) := by
      calc 2 ^ (hi + 1 - lo) * A + B + 1 ≤ 2 ^ (hi + 1 - lo) * A + 2 ^ (hi + 1 - lo) := by omega
        _ = 2 ^ (hi + 1 - lo) * (A + 1) := (Nat.mul_succ _ _).symm
        _ ≤ _ := Nat.mul_le_mul_left _ hd
    calc 2 ^ lo * (2 ^ (hi + 1 - lo) * A + B) + C < 2 ^ lo * (2 ^ (hi + 1 - lo) * A + B) + 2 ^ lo := by omega
      _ = 2 ^ lo * (2 ^ (hi + 1 - lo) * A + B + 1) := (Nat.mul_succ _ _).symm
      _ ≤ 2 ^ lo * (2 ^ (hi + 1 - lo) * 2 ^ (32 - (hi + 1))) := Nat.mul_le_mul_left _ h3
      _ = 2 ^ 32 := by rw [← Nat.pow_add, ← Nat.pow_add]; congr 1; omega
  unfold setBits
  rw [BitVec.toNat_ofNat, e, Nat.mod_eq_of_lt hlt]

/-- What a bit-field write makes of each bit. -/
theorem setBits_testBit (v : Word) (hi lo x j : Nat) (h1 : lo ≤ hi) (h2 : hi < 32) :
    (setBits v hi lo x).toNat.testBit j =
      if j < lo then v.toNat.testBit j else if j ≤ hi then x.testBit (j - lo) else v.toNat.testBit j := by
  have hb : x % 2 ^ (hi + 1 - lo) < 2 ^ (hi + 1 - lo) := Nat.mod_lt _ (Nat.two_pow_pos _)
  have hc : v.toNat % 2 ^ lo < 2 ^ lo := Nat.mod_lt _ (Nat.two_pow_pos _)
  rw [setBits_toNat v hi lo x h1 h2, Nat.testBit_two_pow_mul_add _ hc]
  by_cases hj : j < lo
  · simp [hj, Nat.testBit_mod_two_pow]
  · rw [if_neg hj, if_neg hj, Nat.testBit_two_pow_mul_add _ hb]
    by_cases hk : j ≤ hi
    · simp [hk, show j - lo < hi + 1 - lo by omega, Nat.testBit_mod_two_pow]
    · rw [if_neg (by omega), if_neg hk, Nat.testBit_div_two_pow]; congr 1; omega

theorem natBits_testBit (v hi lo i : Nat) : (natBits v hi lo).testBit i = (decide (i < hi + 1 - lo) && v.testBit (i + lo)) := by
  unfold natBits; rw [Nat.testBit_mod_two_pow, Nat.testBit_div_two_pow]

/-- A field reads back what was written to it. -/
theorem bits_setBits_same (v : Word) (hi lo x : Nat) (h1 : lo ≤ hi) (h2 : hi < 32) : bits (setBits v hi lo x) hi lo = x % 2 ^ (hi + 1 - lo) := by
  apply Nat.eq_of_testBit_eq; intro i
  unfold bits
  rw [natBits_testBit, setBits_testBit _ _ _ _ _ h1 h2, Nat.testBit_mod_two_pow]
  by_cases hi' : i < hi + 1 - lo
  · simp [hi', show ¬ (i + lo < lo) by omega, show i + lo ≤ hi by omega]
  · simp [hi']

/-- Another field of the word keeps its value. -/
theorem bits_setBits_other (v : Word) (hi lo x h l : Nat) (h1 : lo ≤ hi) (h2 : hi < 32) (hd : h < lo ∨ hi < l) :
    bits (setBits v hi lo x) h l = bits v h l := by
  apply Nat.eq_of_testBit_eq; intro i
  unfold bits
  rw [natBits_testBit, natBits_testBit, setBits_testBit _ _ _ _ _ h1 h2]
  by_cases hi' : i < h + 1 - l
  · rcases hd with hd | hd
    · simp [show i + l < lo by omega]
    · simp [show ¬ (i + l < lo) by omega, show ¬ (i + l ≤ hi) by omega]
  · simp [hi']

/-! ## Fields -/

theorem State.fld_setReg_same (s : State) (f : RField) (a : Nat) (v : Word) (h : f.addr = a) : (s.setReg a v).fld f = bits v f.hi f.lo := by
  subst h; unfold State.fld; rw [State.reg_setReg_same]

theorem State.fld_setReg_other (s : State) (f : RField) (a : Nat) (v : Word) (h : f.addr ≠ a) : (s.setReg a v).fld f = s.fld f := by
  unfold State.fld; rw [State.reg_setReg_other _ _ h]

theorem State.fld_setFld_same (s : State) (f : RField) (x : Nat) (h1 : f.lo ≤ f.hi) (h2 : f.hi < 32) :
    (s.setFld f x).fld f = x % 2 ^ (f.hi + 1 - f.lo) := by
  unfold State.setFld; rw [State.fld_setReg_same _ _ _ _ rfl, bits_setBits_same _ _ _ _ h1 h2]

theorem State.fld_setFld_other (s : State) (f g : RField) (x : Nat) (h : g.addr ≠ f.addr) : (s.setFld f x).fld g = s.fld g := by
  unfold State.setFld; rw [State.fld_setReg_other _ _ _ _ h]

/-- A field of the same register that does not overlap keeps its value. -/
theorem State.fld_setFld_beside (s : State) (f g : RField) (x : Nat) (ha : g.addr = f.addr) (h1 : f.lo ≤ f.hi) (h2 : f.hi < 32)
    (hd : g.hi < f.lo ∨ f.hi < g.lo) : (s.setFld f x).fld g = s.fld g := by
  unfold State.setFld; rw [State.fld_setReg_same _ _ _ _ ha, bits_setBits_other _ _ _ _ _ _ h1 h2 hd]; unfold State.fld; rw [ha]

theorem State.reg_setFld_other (s : State) (f : RField) (x a : Nat) (h : a ≠ f.addr) : (s.setFld f x).reg a = s.reg a := by
  unfold State.setFld; rw [State.reg_setReg_other _ _ h]

theorem State.reg_eq (s t : State) (h : s.regs = t.regs) (a : Nat) : s.reg a = t.reg a := by unfold State.reg; rw [h]

theorem State.fld_eq (s t : State) (h : s.regs = t.regs) (f : RField) : s.fld f = t.fld f := by
  unfold State.fld; rw [State.reg_eq s t h]

end Sys2Proof.Machine
end

