-- ==== Sys2Proof/Laws/Select.lean ====
section
/-! SUPPORT. The block and table entry of each register that a row names, and the windows of the large blocks. -/

namespace Sys2Proof.Machine

set_option maxRecDepth 100000

theorem sel_FLN_SEM_OP (k : Fin 64) : regSel (Reg.FLN_SEM_OP k.val) =
    some (⟨⟨.fln, 0x10000, 0x10000, 0x0, 1, false⟩, 0x10000, 0x200 + 4 * k.val, 0, 0⟩, .reg (regsFLN[9]'(by decide))) := by
  revert k; decide

theorem keyed_FLN_SEM_OP : (regsFLN[9]'(by decide)).keyed = false := by decide

theorem sel_FLN_REVOKE : regSel Reg.FLN_REVOKE =
    some (⟨⟨.fln, 0x10000, 0x10000, 0x0, 1, false⟩, 0x10000, 0x14, 0, 0⟩, .reg (regsFLN[5]'(by decide))) := by
  decide

theorem keyed_FLN_REVOKE : (regsFLN[5]'(by decide)).keyed = false := by decide

theorem sel_CLK_CTRL : regSel Reg.CLK_CTRL =
    some (⟨⟨.clk, 0x30000, 0x10000, 0x0, 1, false⟩, 0x30000, 4, 0, 0⟩, .reg (regsCLK[1]'(by decide))) := by
  decide

theorem keyed_CLK_CTRL : (regsCLK[1]'(by decide)).keyed = false := by decide

theorem sel_PWR_DOM (d : Fin 56) (h : d.val ≠ 15) : regSel (Reg.PWR_DOM d.val) =
    some (⟨⟨.pwr, 0x40000, 0x10000, 0x0, 1, false⟩, 0x40000, 4 * d.val, 0, 0⟩, .reg (regsPWR[0]'(by decide))) := by
  revert d; decide

theorem keyed_PWR_DOM : (regsPWR[0]'(by decide)).keyed = false := by decide

theorem sel_HRG_FLUSH_CTRL : regSel Reg.HRG_FLUSH_CTRL =
    some (⟨⟨.hrg, 0x100000, 0x100000, 0x0, 1, false⟩, 0x100000, 0x2C, 0, 0⟩, .reg (regsHRG[11]'(by decide))) := by
  decide

theorem keyed_HRG_FLUSH_CTRL : (regsHRG[11]'(by decide)).keyed = false := by decide

theorem sel_STR_BP_CTRL (k : Fin 8) : regSel (Reg.STR_BP_CTRL k.val) =
    some (⟨⟨.str, 0x200000, 0x100000, 0x0, 1, false⟩, 0x200000, 0x3000 + 64 * k.val, 0, 0⟩, .reg (regsSTR[9]'(by decide))) := by
  revert k; decide

theorem keyed_STR_BP_CTRL : (regsSTR[9]'(by decide)).keyed = false := by decide

theorem sel_STR_BP_CAPCTRL (k : Fin 8) : regSel (Reg.STR_BP_CAPCTRL k.val) =
    some (⟨⟨.str, 0x200000, 0x100000, 0x0, 1, false⟩, 0x200000, 0x3020 + 64 * k.val, 0, 0⟩, .reg (regsSTR[15]'(by decide))) := by
  revert k; decide

theorem keyed_STR_BP_CAPCTRL : (regsSTR[15]'(by decide)).keyed = false := by decide

theorem sel_OBS_KEY_CTRL (k : Fin 64) : regSel (Reg.OBS_KEY_CTRL k.val) =
    some (⟨⟨.obs, 0x400000, 0x100000, 0x0, 1, false⟩, 0x400000, 0x1000 + 8 * k.val, 0, 0⟩, .reg (regsOBS[8]'(by decide))) := by
  revert k; decide

theorem keyed_OBS_KEY_CTRL : (regsOBS[8]'(by decide)).keyed = false := by decide

theorem sel_OBS_RNG_CMD (r : Fin 64) : regSel (Reg.OBS_RNG_CMD r.val) =
    some (⟨⟨.obs, 0x400000, 0x100000, 0x0, 1, false⟩, 0x400000, 0x2010 + 32 * r.val, 0, 0⟩, .reg (regsOBS[14]'(by decide))) := by
  revert r; decide

theorem keyed_OBS_RNG_CMD : (regsOBS[14]'(by decide)).keyed = false := by decide

theorem sel_QUE_Q_CTRL (q : Fin 256) : regSel (Reg.QUE_Q_CTRL q.val) =
    some (⟨⟨.que, 0x80000, 0x10000, 0x0, 1, false⟩, 0x80000, 0x18 + 32 * q.val, 0, 0⟩, .reg (regsQUE[6]'(by decide))) := by
  revert q; decide

theorem keyed_QUE_Q_CTRL : (regsQUE[6]'(by decide)).keyed = false := by decide

theorem sel_LOD_SYS : regSel (Reg.LOD_SYS 0) =
    some (⟨⟨.lod, 0x500000, 0x10000, 0x10000, 4, false⟩, 0x500000, 0xF00, 0, 0⟩, .reg (regsLOD[0]'(by decide))) := by
  decide

theorem keyed_LOD_SYS : (regsLOD[0]'(by decide)).keyed = false := by decide

theorem sel_LOD_CTRL (k : Fin 4) : regSel (Reg.LOD_CTRL k.val) =
    some (⟨⟨.lod, 0x500000, 0x10000, 0x10000, 4, false⟩, 0x500000 + 0x10000 * k.val, 0, 0, k.val⟩, .reg (regsLOD[1]'(by decide))) := by
  revert k; decide

theorem keyed_LOD_CTRL : (regsLOD[1]'(by decide)).keyed = false := by decide

theorem sel_CFG_LOCK_OP : regSel Reg.CFG_LOCK_OP =
    some (⟨⟨.cfg, 0x20000, 0x10000, 0x0, 1, false⟩, 0x20000, 8, 0, 0⟩, .reg (regsCFG[2]'(by decide))) := by
  decide

theorem keyed_CFG_LOCK_OP : (regsCFG[2]'(by decide)).keyed = false := by decide

theorem sel_CFG_CMD : regSel Reg.CFG_CMD =
    some (⟨⟨.cfg, 0x20000, 0x10000, 0x0, 1, false⟩, 0x20000, 0xC, 0, 0⟩, .reg (regsCFG[3]'(by decide))) := by
  decide

theorem keyed_CFG_CMD : (regsCFG[3]'(by decide)).keyed = false := by decide

theorem sel_CFG_DATA : regSel Reg.CFG_DATA =
    some (⟨⟨.cfg, 0x20000, 0x10000, 0x0, 1, false⟩, 0x20000, 0x18, 0, 0⟩, .reg (regsCFG[6]'(by decide))) := by
  decide

theorem keyed_CFG_DATA : (regsCFG[6]'(by decide)).keyed = false := by decide

theorem sel_CFG_LQ_TAIL : regSel Reg.CFG_LQ_TAIL =
    some (⟨⟨.cfg, 0x20000, 0x10000, 0x0, 1, false⟩, 0x20000, 0x4C, 0, 0⟩, .reg (regsCFG[16]'(by decide))) := by
  decide

theorem keyed_CFG_LQ_TAIL : (regsCFG[16]'(by decide)).keyed = false := by decide

theorem sel_PRB_OWNER_OP (d : Fin 4) : regSel (Reg.PRB_OWNER_OP d.val) =
    some (⟨⟨.cfg, 0x20000, 0x10000, 0x0, 1, false⟩, 0x20000, 0x400C + 0x1000 * d.val, 0, 0⟩, .reg (regsCFG[29]'(by decide))) := by
  revert d; decide

theorem keyed_PRB_OWNER_OP : (regsCFG[29]'(by decide)).keyed = false := by decide

theorem sel_PRB_CTRL (d : Fin 4) : regSel (Reg.PRB_CTRL d.val) =
    some (⟨⟨.cfg, 0x20000, 0x10000, 0x0, 1, false⟩, 0x20000, 0x4000 + 0x1000 * d.val, 0, 0⟩, .reg (regsCFG[26]'(by decide))) := by
  revert d; decide

theorem keyed_PRB_CTRL : (regsCFG[26]'(by decide)).keyed = false := by decide

theorem sel_PRB_RDDATA (d : Fin 4) : regSel (Reg.PRB_RDDATA d.val) =
    some (⟨⟨.cfg, 0x20000, 0x10000, 0x0, 1, false⟩, 0x20000, 0x401C + 0x1000 * d.val, 0, 0⟩, .reg (regsCFG[33]'(by decide))) := by
  revert d; decide

theorem keyed_PRB_RDDATA : (regsCFG[33]'(by decide)).keyed = false := by decide

theorem sel_LCS_LC_CMD : regSel Reg.LCS_LC_CMD =
    some (⟨⟨.lcs, 0x60000, 0x10000, 0x0, 1, false⟩, 0x60000, 0x20, 0, 0⟩, .reg (regsLCS[4]'(by decide))) := by
  decide

theorem keyed_LCS_LC_CMD : (regsLCS[4]'(by decide)).keyed = false := by decide

theorem sel_LCS_FUSE_CMD : regSel Reg.LCS_FUSE_CMD =
    some (⟨⟨.lcs, 0x60000, 0x10000, 0x0, 1, false⟩, 0x60000, 0x140, 0, 0⟩, .reg (regsLCS[12]'(by decide))) := by
  decide

theorem keyed_LCS_FUSE_CMD : (regsLCS[12]'(by decide)).keyed = true := by decide

theorem sel_LCS_ATT_CMD : regSel Reg.LCS_ATT_CMD =
    some (⟨⟨.lcs, 0x60000, 0x10000, 0x0, 1, false⟩, 0x60000, 0x40, 0, 0⟩, .reg (regsLCS[7]'(by decide))) := by
  decide

theorem keyed_LCS_ATT_CMD : (regsLCS[7]'(by decide)).keyed = false := by decide

theorem sel_LCS_PATCH_CMD : regSel Reg.LCS_PATCH_CMD =
    some (⟨⟨.lcs, 0x60000, 0x10000, 0x0, 1, false⟩, 0x60000, 0x158, 0, 0⟩, .reg (regsLCS[15]'(by decide))) := by
  decide

theorem keyed_LCS_PATCH_CMD : (regsLCS[15]'(by decide)).keyed = false := by decide

theorem sel_PIN_CFG (p : Fin 64) : regSel (Reg.PIN_CFG p.val) =
    some (⟨⟨.pin, 0x70000, 0x10000, 0x0, 1, false⟩, 0x70000, 4 * p.val, 0, 0⟩, .reg (regsPIN[0]'(by decide))) := by
  revert p; decide

theorem keyed_PIN_CFG : (regsPIN[0]'(by decide)).keyed = false := by decide

theorem sel_GPIO_OUT_M (n : Fin 4) : regSel (Reg.GPIO_OUT_M n.val) =
    some (⟨⟨.pin, 0x70000, 0x10000, 0x0, 1, false⟩, 0x70000, 0x110 + 4 * n.val, 0, 0⟩, .reg (regsPIN[5]'(by decide))) := by
  revert n; decide

theorem keyed_GPIO_OUT_M : (regsPIN[5]'(by decide)).keyed = false := by decide

theorem sel_GPIO_OE_M (n : Fin 4) : regSel (Reg.GPIO_OE_M n.val) =
    some (⟨⟨.pin, 0x70000, 0x10000, 0x0, 1, false⟩, 0x70000, 0x120 + 4 * n.val, 0, 0⟩, .reg (regsPIN[6]'(by decide))) := by
  revert n; decide

theorem keyed_GPIO_OE_M : (regsPIN[6]'(by decide)).keyed = false := by decide

theorem sel_PIN_FT_OP (k : Fin 4) : regSel (Reg.PIN_FT_OP k.val) =
    some (⟨⟨.pin, 0x70000, 0x10000, 0x0, 1, false⟩, 0x70000, 0x208 + 16 * k.val, 0, 0⟩, .reg (regsPIN[12]'(by decide))) := by
  revert k; decide

theorem keyed_PIN_FT_OP : (regsPIN[12]'(by decide)).keyed = false := by decide

theorem sel_UART_DATA (u : Fin 2) : regSel (Reg.UART_DATA u.val) =
    some (⟨⟨.pin, 0x70000, 0x10000, 0x0, 1, false⟩, 0x70000, 0x404 + 32 * u.val, 0, 0⟩, .reg (regsPIN[14]'(by decide))) := by
  revert u; decide

theorem keyed_UART_DATA : (regsPIN[14]'(by decide)).keyed = false := by decide

theorem sel_I2C_CMD (i : Fin 2) : regSel (Reg.I2C_CMD i.val) =
    some (⟨⟨.pin, 0x70000, 0x10000, 0x0, 1, false⟩, 0x70000, 0x504 + 32 * i.val, 0, 0⟩, .reg (regsPIN[17]'(by decide))) := by
  revert i; decide

theorem keyed_I2C_CMD : (regsPIN[17]'(by decide)).keyed = false := by decide

theorem sel_SPL_SPINE (d : Fin 4) (k : Fin 16) : regSel (Reg.SPL_SPINE d.val k.val) =
    some (⟨⟨.spl, 0x10000, 0x10000, 0x0, 1, true⟩, 0x1000000 * (d.val + 1) + 0x10000, 0x100 + 4 * k.val, d.val, 0⟩, .reg (regsSPL[4]'(by decide))) := by
  revert d k; decide

theorem keyed_SPL_SPINE : (regsSPL[4]'(by decide)).keyed = false := by decide

theorem sel_SPL_PLL_CTRL (d : Fin 4) (p : Fin 8) : regSel (Reg.SPL_PLL_CTRL d.val p.val) =
    some (⟨⟨.spl, 0x10000, 0x10000, 0x0, 1, true⟩, 0x1000000 * (d.val + 1) + 0x10000, 32 * p.val, d.val, 0⟩, .reg (regsSPL[0]'(by decide))) := by
  revert d p; decide

theorem keyed_SPL_PLL_CTRL : (regsSPL[0]'(by decide)).keyed = false := by decide

theorem sel_SEC_RCLK_RST (d : Fin 4) (sec : Fin 16) : regSel (Reg.SEC_RCLK_RST d.val sec.val) =
    some (⟨⟨.sec, 0x100000, 0x10000, 0x10000, 16, true⟩, 0x1000000 * (d.val + 1) + 0x100000 + 0x10000 * sec.val, 0x60, d.val, sec.val⟩, .reg (regsSEC[2]'(by decide))) := by
  revert d sec; decide

theorem keyed_SEC_RCLK_RST : (regsSEC[2]'(by decide)).keyed = false := by decide

theorem sel_MCA_ERASE (d : Fin 4) : regSel (Reg.MCA_ERASE d.val) =
    some (⟨⟨.mca, 0x800000, 0x100000, 0x0, 1, true⟩, 0x1000000 * (d.val + 1) + 0x800000, 0x20, d.val, 0⟩, .reg (regsMCA[8]'(by decide))) := by
  revert d; decide

theorem keyed_MCA_ERASE : (regsMCA[8]'(by decide)).keyed = false := by decide

theorem sel_MCA_LOG_A (d : Fin 4) (e : Fin 16) : regSel (Reg.MCA_LOG_A d.val e.val) =
    some (⟨⟨.mca, 0x800000, 0x100000, 0x0, 1, true⟩, 0x1000000 * (d.val + 1) + 0x800000, 0x100 + 8 * e.val, d.val, 0⟩, .reg (regsMCA[10]'(by decide))) := by
  revert d e; decide

theorem keyed_MCA_LOG_A : (regsMCA[10]'(by decide)).keyed = false := by decide

theorem sel_VEN_REWRITE (d : Fin 4) : regSel (Reg.VEN_REWRITE d.val) =
    some (⟨⟨.ven, 0x900000, 0x100000, 0x0, 1, true⟩, 0x1000000 * (d.val + 1) + 0x900000, 0x10, d.val, 0⟩, .reg (regsVEN[3]'(by decide))) := by
  revert d; decide

theorem keyed_VEN_REWRITE : (regsVEN[3]'(by decide)).keyed = false := by decide

/-! ## The large blocks -/

theorem blockAt_slate (d : Fin 4) (rel : Nat) (h : rel < 0x1000000) :
    blockAt (0x1000000 * (d.val + 1) + rel) = (findBlock true rel blockTable).map fun x =>
      { desc := x.1, base := (d.val + 1) * 0x1000000 + x.1.base + x.2 * x.1.stride, off := rel - (x.1.base + x.2 * x.1.stride),
        die := d.val, inst := x.2 } := by
  have h1 : (0x1000000 * (d.val + 1) + rel) / 0x1000000 = d.val + 1 := by omega
  have h2 : (0x1000000 * (d.val + 1) + rel) % 0x1000000 = rel := by omega
  have h3 := d.isLt
  unfold blockAt
  simp only [h1, h2]
  rw [if_neg (by omega), if_pos (by omega)]
  rfl

theorem findBlock_SEG (g o : Nat) (hg : g < 192) (ho : o < 0x1000) :
    findBlock true (0x600000 + 0x1000 * g + o) blockTable = some (⟨.seg, 0x600000, 0x1000, 0x1000, 192, true⟩, g) := by
  simp only [blockTable, findBlock, Bool.false_eq_true, false_and, if_false, true_and]
  repeat rw [if_neg (by simp; omega)]
  rw [if_pos (by simp; omega)]
  simp; omega

theorem findBlock_RTR (g o : Nat) (hg : g < 64) (ho : o < 0x10000) :
    findBlock true (0x200000 + 0x10000 * g + o) blockTable = some (⟨.rtr, 0x200000, 0x10000, 0x10000, 64, true⟩, g) := by
  simp only [blockTable, findBlock, Bool.false_eq_true, false_and, if_false, true_and]
  repeat rw [if_neg (by simp; omega)]
  rw [if_pos (by simp; omega)]
  simp; omega

theorem findBlock_SEC (g o : Nat) (hg : g < 16) (ho : o < 0x10000) :
    findBlock true (0x100000 + 0x10000 * g + o) blockTable = some (⟨.sec, 0x100000, 0x10000, 0x10000, 16, true⟩, g) := by
  simp only [blockTable, findBlock, Bool.false_eq_true, false_and, if_false, true_and]
  repeat rw [if_neg (by simp; omega)]
  rw [if_pos (by simp; omega)]
  simp; omega

theorem find_SEG_ECTL (e : Fin 12) : findReg .seg (0x100 + 128 * e.val) regsSEG = some (regsSEG[7]'(by decide)) := by
  revert e; decide

theorem sel_SEG_ECTL (d : Fin 4) (g : Fin 192) (e : Fin 12) : regSel (Reg.SEG_ECTL d.val g.val e.val) =
    some (⟨⟨.seg, 0x600000, 0x1000, 0x1000, 192, true⟩, (d.val + 1) * 0x1000000 + 0x600000 + g.val * 0x1000, 0x100 + 128 * e.val, d.val, g.val⟩, .reg (regsSEG[7]'(by decide))) := by
  have hd := d.isLt; have hg := g.isLt; have hv := e.isLt
  have hb : blockAt (Reg.SEG_ECTL d.val g.val e.val) =
      some ⟨⟨.seg, 0x600000, 0x1000, 0x1000, 192, true⟩, (d.val + 1) * 0x1000000 + 0x600000 + g.val * 0x1000, 0x100 + 128 * e.val, d.val, g.val⟩ := by
    have := blockAt_slate d (0x600000 + 0x1000 * g.val + (0x100 + 128 * e.val)) (by omega)
    rw [findBlock_SEG g.val _ hg (by omega)] at this
    rw [show Reg.SEG_ECTL d.val g.val e.val = 0x1000000 * (d.val + 1) + (0x600000 + 0x1000 * g.val + (0x100 + 128 * e.val)) by unfold Reg.SEG_ECTL; omega, this]
    simp; omega
  unfold regSel regAt
  simp only [hb]
  rw [if_neg (by simp; omega), if_neg (by simp; omega), if_neg (by simp; omega), if_neg (by simp), if_neg (by simp)]
  simp [regsOf, find_SEG_ECTL]

theorem keyed_SEG_ECTL : (regsSEG[7]'(by decide)).keyed = false := by decide

theorem find_SEG_DBELL (e : Fin 12) : findReg .seg (0x10C + 128 * e.val) regsSEG = some (regsSEG[10]'(by decide)) := by
  revert e; decide

theorem sel_SEG_DBELL (d : Fin 4) (g : Fin 192) (e : Fin 12) : regSel (Reg.SEG_DBELL d.val g.val e.val) =
    some (⟨⟨.seg, 0x600000, 0x1000, 0x1000, 192, true⟩, (d.val + 1) * 0x1000000 + 0x600000 + g.val * 0x1000, 0x10C + 128 * e.val, d.val, g.val⟩, .reg (regsSEG[10]'(by decide))) := by
  have hd := d.isLt; have hg := g.isLt; have hv := e.isLt
  have hb : blockAt (Reg.SEG_DBELL d.val g.val e.val) =
      some ⟨⟨.seg, 0x600000, 0x1000, 0x1000, 192, true⟩, (d.val + 1) * 0x1000000 + 0x600000 + g.val * 0x1000, 0x10C + 128 * e.val, d.val, g.val⟩ := by
    have := blockAt_slate d (0x600000 + 0x1000 * g.val + (0x10C + 128 * e.val)) (by omega)
    rw [findBlock_SEG g.val _ hg (by omega)] at this
    rw [show Reg.SEG_DBELL d.val g.val e.val = 0x1000000 * (d.val + 1) + (0x600000 + 0x1000 * g.val + (0x10C + 128 * e.val)) by unfold Reg.SEG_DBELL; omega, this]
    simp; omega
  unfold regSel regAt
  simp only [hb]
  rw [if_neg (by simp; omega), if_neg (by simp; omega), if_neg (by simp; omega), if_neg (by simp), if_neg (by simp)]
  simp [regsOf, find_SEG_DBELL]

theorem keyed_SEG_DBELL : (regsSEG[10]'(by decide)).keyed = false := by decide

theorem find_RTR_PORT (p : Fin 16) : findReg .rtr (0x100 + 4 * p.val) regsRTR = some (regsRTR[7]'(by decide)) := by
  revert p; decide

theorem sel_RTR_PORT (d : Fin 4) (g : Fin 64) (p : Fin 16) : regSel (Reg.RTR_PORT d.val g.val p.val) =
    some (⟨⟨.rtr, 0x200000, 0x10000, 0x10000, 64, true⟩, (d.val + 1) * 0x1000000 + 0x200000 + g.val * 0x10000, 0x100 + 4 * p.val, d.val, g.val⟩, .reg (regsRTR[7]'(by decide))) := by
  have hd := d.isLt; have hg := g.isLt; have hv := p.isLt
  have hb : blockAt (Reg.RTR_PORT d.val g.val p.val) =
      some ⟨⟨.rtr, 0x200000, 0x10000, 0x10000, 64, true⟩, (d.val + 1) * 0x1000000 + 0x200000 + g.val * 0x10000, 0x100 + 4 * p.val, d.val, g.val⟩ := by
    have := blockAt_slate d (0x200000 + 0x10000 * g.val + (0x100 + 4 * p.val)) (by omega)
    rw [findBlock_RTR g.val _ hg (by omega)] at this
    rw [show Reg.RTR_PORT d.val g.val p.val = 0x1000000 * (d.val + 1) + (0x200000 + 0x10000 * g.val + (0x100 + 4 * p.val)) by unfold Reg.RTR_PORT; omega, this]
    simp; omega
  unfold regSel regAt
  simp only [hb]
  rw [if_neg (by simp; omega), if_neg (by simp; omega), if_neg (by simp; omega), if_neg (by simp), if_neg (by simp)]
  simp [regsOf, find_RTR_PORT]

theorem keyed_RTR_PORT : (regsRTR[7]'(by decide)).keyed = false := by decide

theorem find_SEC_RCLK (t : Fin 24) : findReg .sec (4 * t.val) regsSEC = some (regsSEC[1]'(by decide)) := by
  revert t; decide

theorem sel_SEC_RCLK (d : Fin 4) (g : Fin 16) (t : Fin 24) : regSel (Reg.SEC_RCLK d.val g.val t.val) =
    some (⟨⟨.sec, 0x100000, 0x10000, 0x10000, 16, true⟩, (d.val + 1) * 0x1000000 + 0x100000 + g.val * 0x10000, 4 * t.val, d.val, g.val⟩, .reg (regsSEC[1]'(by decide))) := by
  have hd := d.isLt; have hg := g.isLt; have hv := t.isLt
  have hb : blockAt (Reg.SEC_RCLK d.val g.val t.val) =
      some ⟨⟨.sec, 0x100000, 0x10000, 0x10000, 16, true⟩, (d.val + 1) * 0x1000000 + 0x100000 + g.val * 0x10000, 4 * t.val, d.val, g.val⟩ := by
    have := blockAt_slate d (0x100000 + 0x10000 * g.val + (4 * t.val)) (by omega)
    rw [findBlock_SEC g.val _ hg (by omega)] at this
    rw [show Reg.SEC_RCLK d.val g.val t.val = 0x1000000 * (d.val + 1) + (0x100000 + 0x10000 * g.val + (4 * t.val)) by unfold Reg.SEC_RCLK; omega, this]
    simp; omega
  unfold regSel regAt
  simp only [hb]
  rw [if_neg (by simp; omega), if_neg (by simp; omega), if_neg (by simp; omega), if_neg (by simp), if_neg (by simp)]
  simp [regsOf, find_SEC_RCLK]

theorem keyed_SEC_RCLK : (regsSEC[1]'(by decide)).keyed = false := by decide

end Sys2Proof.Machine
end

