-- ==== Sys2Proof/Laws/Access.lean ====
section
/-! SUPPORT. What an accepted register write comes to, over any path. -/

namespace Sys2Proof.Machine

@[simp] theorem State.acked_regs (s : State) (p : Path) : (s.acked p).regs = s.regs := by cases p <;> rfl

@[simp] theorem State.opened_regs (s : State) (p : Path) (b : BlockAt) (r : RegDesc) : (s.opened p b r).regs = s.regs := by
  cases p <;> simp only [State.opened] <;> split <;> rfl

theorem State.acked_reg (s : State) (p : Path) (a : Nat) : (s.acked p).reg a = s.reg a := State.reg_eq _ _ (State.acked_regs s p) a

theorem State.opened_reg (s : State) (p : Path) (b : BlockAt) (r : RegDesc) (a : Nat) : (s.opened p b r).reg a = s.reg a :=
  State.reg_eq _ _ (State.opened_regs s p b r) a

/-- What `access` does where a write is accepted. -/
theorem State.access_accepted (s : State) (path : Path) (addr : Nat) (v : Word) (b : BlockAt) (r : RegDesc)
    (hr : s.reach path addr true true = .inl (b, .reg r)) (hf : s.featureOff b = false)
    (hl : ¬(s.locks.contains b.base = true ∧ s.changesL r addr (s.kept b v) = true))
    (hk : r.keyed = true → s.armedFor b.base path = true) (hb : path.barred addr = false) :
    ∃ a, s.access path addr true (some v) =
        (((if r.keyed then s.disarm b.base else s).doWrite path b r addr (s.kept b v)).1, a) ∧ (a = .ok 0 ∨ a = .conflict) := by
  unfold State.access
  simp only [Option.isSome_some, hr, hb, Bool.false_eq_true, if_false, State.controlWrite, State.guardedWrite, hf]
  rw [if_neg hl]
  by_cases hkey : r.keyed = true
  · simp only [hkey, if_true, hk hkey]
    exact ⟨_, rfl, .inl rfl⟩
  · simp only [hkey, Bool.false_eq_true, if_false]
    cases (s.doWrite path b r addr (s.kept b v)).2
    · exact ⟨.ok 0, rfl, .inl rfl⟩
    · exact ⟨.conflict, rfl, .inr rfl⟩

/-- What `request` does where a write is accepted. -/
theorem State.request_accepted (s : State) (path : Path) (addr : Nat) (v : Word) (b : BlockAt) (r : RegDesc)
    (hr : s.reach path addr true true = .inl (b, .reg r)) (hf : s.featureOff b = false)
    (hl : ¬(s.locks.contains b.base = true ∧ s.changesL r addr (s.kept b v) = true))
    (hk : r.keyed = true → s.armedFor b.base path = true) (hb : path.barred addr = false) :
    s.request path addr true (some v) 0 =
      ((((if r.keyed then s.disarm b.base else s).doWrite path b r addr (s.kept b v)).1).acked path) := by
  obtain ⟨a, h, ha⟩ := State.access_accepted s path addr v b r hr hf hl hk hb
  unfold State.request
  rw [h]
  rcases ha with rfl | rfl <;> cases path <;> rfl

theorem State.reach_heldAcc (s : State) (l : List HeldAccess) (path : Path) (addr : Nat) (ok w : Bool) :
    State.reach { s with heldAcc := l } path addr ok w = s.reach path addr ok w := rfl

/-- The register that an accepted write names. -/
theorem State.accepts_reach (s : State) (path : Path) (addr : Nat) (v : Word) (h : s.accepts path addr v = true) (b : BlockAt) (r : RegDesc)
    (hs : regSel addr = some (b, .reg r)) :
    s.pathUp path = true ∧ s.portFree path = true ∧ s.reach path addr true true = .inl (b, .reg r) ∧ s.featureOff b = false ∧
      ¬(s.locks.contains b.base = true ∧ s.changesL r addr (s.kept b v) = true) ∧
      (r.keyed = true → s.armedFor b.base path = true) ∧ path.barred addr = false := by
  unfold State.accepts at h
  have hr : ∀ b' r', s.reach path addr true true = .inl (b', .reg r') → b' = b ∧ r' = r := by
    intro b' r' hr
    unfold State.reach at hr
    rw [hs] at hr
    dsimp only at hr
    repeat' split at hr
    all_goals first
      | cases hr; done
      | (simp only [Sum.inl.injEq, Prod.mk.injEq, RegSel.reg.injEq] at hr; exact ⟨hr.1.symm, hr.2.symm⟩)
  revert h
  cases hx : s.reach path addr true true with
  | inr a => simp
  | inl x =>
    obtain ⟨b', sel⟩ := x
    cases sel with
    | reg r' =>
      obtain ⟨rfl, rfl⟩ := hr b' r' hx
      simp only [Bool.and_eq_true, Bool.not_eq_true', decide_eq_false_iff_not, Bool.or_eq_true]
      rintro ⟨⟨h1, h2⟩, ⟨⟨h3, h4⟩, h5⟩, h6⟩
      refine ⟨h1, h2, trivial, h3, h4, fun hk => ?_, h6⟩
      rcases h5 with h5 | h5
      · rw [hk] at h5; cases h5
      · exact h5
    | pend => simp
    | guard => simp
    | unlock => simp

/-- An accepted write over any path does what its register does, and is acknowledged. -/
theorem State.writeReg_accepted (s : State) (path : Path) (addr : Nat) (v : Word) (h : s.accepts path addr v = true) (b : BlockAt)
    (r : RegDesc) (hs : regSel addr = some (b, .reg r)) :
    s.writeReg path addr v = (((s.opened path b r).doWrite path b r addr (s.kept b v)).1).acked path := by
  obtain ⟨h1, h2, h3, h4, h5, h6, h7⟩ := State.accepts_reach s path addr v h b r hs
  have main := State.request_accepted s path addr v b r h3 h4 h5 h6 h7
  unfold State.writeReg
  rw [h1]
  simp only [not_true_eq_false, if_false]
  cases path with
  | flint => simp only [State.opened]; exact main
  | ring e => simp only [State.opened]; exact main
  | pcie port =>
    simp only [State.opened, State.barAccess]
    have : ¬(s.handed = true ∧ (s.winBusy port = true ∨ s.orderBusy port = true)) := by
      simp only [State.portFree, Bool.not_eq_true', Bool.or_eq_false_iff] at h2
      rintro ⟨_, h | h⟩
      · rw [h2.1] at h; cases h
      · rw [h2.2] at h; cases h
    rw [if_neg this]; exact main
  | mgmt =>
    unfold State.mgmtFrame
    rw [h1]
    simp only [not_true_eq_false, if_false]
    split
    · rename_i hd
      exfalso
      have hdark : s.dark .mgmt addr true = false := by
        cases hx : s.dark .mgmt addr true with
        | false => rfl
        | true => unfold State.reach at h3; simp [hx] at h3
      unfold State.dark at hdark
      have hp : s.phase ≠ .halted := hd.2.1
      have hl : s.lcState = 4 := hd.1
      clear hd
      revert hdark
      cases hph : s.phase <;> simp_all
    · exact State.request_accepted { s with heldAcc := s.heldAcc.filter fun a => a.path ≠ Path.mgmt } .mgmt addr v b r h3 h4 h5 h6 h7

end Sys2Proof.Machine
end

