-- ==== Sys2Proof/Laws/Rows.lean ====
section
/-! SUPPORT. What the frame around every command does, and what raising an interrupt or an event leaves alone. -/

namespace Sys2Proof.Machine

/-! ## The frame around a command -/

theorem onDevice_up {s : State} (h : s.up = true) (f : State → State) : onDevice f s = .next (keep s (f s)) := by
  unfold onDevice; rw [if_pos h]

theorem onDevice_down {s : State} (h : s.up = false) (f : State → State) : onDevice f s = .next s := by
  unfold onDevice; rw [if_neg (by simp [h])]

theorem always_next (s : State) (f : State → State) : always f s = .next (keep s (f s)) := rfl

theorem keep_self (s : State) : keep s s = s := rfl

theorem keep_eq {s t : State} (h1 : t.pending = s.pending) (h2 : t.haltDone = s.haltDone) : keep s t = t := by
  unfold keep; rw [← h1, ← h2]

/-! ## Events (R511, R674) -/

theorem State.msix_frame (s : State) (port : Bool) (v : Nat) : s.msix port v = { s with regs := (s.msix port v).regs, out := (s.msix port v).out } := by
  unfold State.msix; repeat' split
  all_goals rfl

theorem State.event_frame (s : State) : s.event = { s with regs := s.event.regs, out := s.event.out } := by
  unfold State.event
  dsimp only
  split
  · rw [State.msix_frame]; split
    · rw [State.msix_frame s]
    · rfl
  · split
    · rw [State.msix_frame]
    · rfl

theorem State.events_frame (l : List Nat) (s : State) : ∃ r o, l.foldl (fun (u : State) _ => u.event) s = { s with regs := r, out := o } := by
  induction l generalizing s with
  | nil => exact ⟨s.regs, s.out, rfl⟩
  | cons a rest ih =>
    obtain ⟨r, o, h⟩ := ih s.event
    refine ⟨r, o, ?_⟩
    rw [List.foldl_cons, h, State.event_frame]

/-- Events change only pending bits of the MSI-X tables and what leaves the device. -/
theorem withEvents_frame (f : State → State) (s : State) : ∃ r o, withEvents f s = { f s with regs := r, out := o } :=
  State.events_frame _ (f s)

theorem State.raise_frame (s : State) (f : RField) : ∃ r o, s.raise f = { s with regs := r, out := o } := by
  obtain ⟨r, o, h⟩ := withEvents_frame (fun t => t.setFld f 1) s
  exact ⟨r, o, by unfold State.raise; rw [h]; rfl⟩

/-- An address of no pending-bit word (R511). -/
theorem State.msix_reg (s : State) (port : Bool) (v a : Nat) (hv : v ≤ 256) (h : ¬isPba a) : (s.msix port v).reg a = s.reg a := by
  unfold State.msix; repeat' split
  · rfl
  · rw [State.reg_setReg_other]
    rintro rfl
    apply h
    unfold isPba pbaAddr b2n
    cases port <;> simp <;> omega
  · rfl

theorem State.event_reg (s : State) (a : Nat) (h : ¬isPba a) : s.event.reg a = s.reg a := by
  unfold State.event
  dsimp only
  split <;> split <;> simp only [State.msix_reg _ _ _ _ (Nat.le_refl 256) h]

theorem State.events_reg (l : List Nat) (s : State) (a : Nat) (h : ¬isPba a) : (l.foldl (fun (u : State) _ => u.event) s).reg a = s.reg a := by
  induction l generalizing s with
  | nil => rfl
  | cons b rest ih => rw [List.foldl_cons, ih, State.event_reg s a h]

/-- A register that holds no pending bits reads after the events what it read before them. -/
theorem withEvents_reg (f : State → State) (s : State) (a : Nat) (h : ¬isPba a) : (withEvents f s).reg a = (f s).reg a :=
  State.events_reg _ (f s) a h

theorem State.raise_reg (s : State) (f : RField) (a : Nat) (h : ¬isPba a) : (s.raise f).reg a = (s.setFld f 1).reg a :=
  withEvents_reg _ s a h

theorem State.raise_fld_same (s : State) (f : RField) (h : ¬isPba f.addr) (h1 : f.lo ≤ f.hi) (h2 : f.hi < 32) :
    (s.raise f).fld f = 1 % 2 ^ (f.hi + 1 - f.lo) := by
  have := State.raise_reg s f f.addr h
  unfold State.fld at *
  rw [this]
  exact State.fld_setFld_same s f 1 h1 h2

theorem State.raise_reg_other (s : State) (f : RField) (a : Nat) (h : ¬isPba a) (hf : a ≠ f.addr) : (s.raise f).reg a = s.reg a := by
  rw [State.raise_reg s f a h, State.reg_setFld_other s f 1 a hf]

end Sys2Proof.Machine
end

