-- ==== Sys2Proof/Laws/Issue.lean ====
section
/-! SUPPORT. What the issue of an instruction comes to, once for every engine instruction. -/

namespace Sys2Proof.Machine

/-! ## Engines -/

theorem SMap.drop_insert_drop {α : Type} (m : SMap α) (k : Nat) (v : α) : SMap.drop (SMap.insert (SMap.drop m k) k v) k = SMap.drop m k := by
  induction m with
  | nil => simp [SMap.drop, SMap.insert]
  | cons e rest ih =>
    obtain ⟨j, w⟩ := e
    by_cases hj : j = k
    · simp only [SMap.drop, hj, if_true]; exact ih
    · simp only [SMap.drop, hj, if_false, SMap.insert]
      have hd : SMap.drop (SMap.drop rest k) k = SMap.drop rest k := by
        clear ih
        induction rest with
        | nil => rfl
        | cons e r ih =>
          obtain ⟨i, u⟩ := e
          by_cases hi : i = k
          · simp only [SMap.drop, hi, if_true]; exact ih
          · simp only [SMap.drop, hi, if_false]; rw [ih]
      split
      · simp only [SMap.drop, if_true, hj, if_false, hd]
      · simp only [SMap.drop, hj, if_false, ih]

theorem SMap.drop_drop {α : Type} (m : SMap α) (k : Nat) : SMap.drop (SMap.drop m k) k = SMap.drop m k := by
  induction m with
  | nil => rfl
  | cons e r ih =>
    obtain ⟨i, u⟩ := e
    by_cases hi : i = k
    · simp only [SMap.drop, hi, if_true]; exact ih
    · simp only [SMap.drop, hi, if_false]; rw [ih]

/-- The last write of a key stands. -/
theorem SMap.put_put {α : Type} [DecidableEq α] (d : α) (m : SMap α) (k : Nat) (v w : α) :
    SMap.put d (SMap.put d m k v) k w = SMap.put d m k w := by
  have h : SMap.drop (SMap.put d m k v) k = SMap.drop m k := by
    unfold SMap.put; split
    · exact SMap.drop_drop m k
    · exact SMap.drop_insert_drop m k v
  show (if w = d then SMap.drop (SMap.put d m k v) k else SMap.insert (SMap.drop (SMap.put d m k v) k) k w) =
    if w = d then SMap.drop m k else SMap.insert (SMap.drop m k) k w
  rw [h]

theorem State.eng_setEng_same (s : State) (k : Nat) (v : EngSt) : (s.setEng k v).eng k = v := by
  unfold State.eng State.setEng SMap.get SMap.put
  by_cases hv : v = EngSt.fresh <;> simp [hv, SMap.find_drop_same, SMap.find_set_same]

theorem State.eng_setEng_other (s : State) {k j : Nat} (v : EngSt) (h : j ≠ k) : (s.setEng k v).eng j = s.eng j := by
  unfold State.eng State.setEng SMap.get SMap.put
  by_cases hv : v = EngSt.fresh <;> simp [hv, SMap.find_drop_other _ h, SMap.find_set_other _ _ h]

theorem State.setEng_setEng (s : State) (k : Nat) (v w : EngSt) : (s.setEng k v).setEng k w = s.setEng k w := by
  unfold State.setEng; simp only [SMap.put_put]

theorem EngSt.noteFetch_loop (v : EngSt) (w : W64) : ∃ l, v.noteFetch w = v.withLoop l := by
  unfold EngSt.noteFetch
  repeat' split
  all_goals exact ⟨_, rfl⟩

theorem EngSt.foldl_loop {α : Type} (f : EngSt → α → EngSt) (l : Option LoopCache)
    (hf : ∀ a p, f { a with loop := l } p = { f a p with loop := l }) (ps : List α) (a : EngSt) :
    ps.foldl f { a with loop := l } = { ps.foldl f a with loop := l } := by
  induction ps generalizing a with
  | nil => rfl
  | cons p rest ih => rw [List.foldl_cons, List.foldl_cons, hf a p, ih (f a p)]

theorem EngSt.land_loop (v : EngSt) (l : Option LoopCache) : (v.withLoop l).land = v.land.withLoop l := by
  unfold EngSt.land EngSt.withLoop
  dsimp only
  rw [EngSt.foldl_loop _ l (by intro a p; cases p <;> rfl)]

/-- A load slot that meets a clean word reads it without an event. -/
theorem State.segRead_clean (s : State) (d g e m a : Nat) (h : ((s.eng (12 * (192 * d + g) + e)).cell m a).syn = .clean) :
    s.segRead d g e m a = (s, { data := ((s.eng (12 * (192 * d + g) + e)).cell m a).data, poison := false, cause := 0,
                                corrected := none, ue := false }) := by
  unfold State.segRead
  have : ((s.eng (12 * (192 * d + g) + e)).cell m a).read =
      { data := ((s.eng (12 * (192 * d + g) + e)).cell m a).data, poison := false, cause := 0, corrected := none, ue := false } := by
    unfold Cell.read; rw [h]
  simp only [this, State.segNote]
  rfl

/-- The loads and stores of a word whose loads meet no error. -/
theorem State.loads_clean (s : State) (r : EngRef) (v : EngSt) (x : BitVec 32)
    (hc : ∀ m a, (s.eng r.key).cell m a = v.cell m a)
    (h1 : v.loadClean 1 (xSlot x)) (h2 : v.loadClean 2 (ySlot x)) (h3 : v.loadClean 0 (pSlot x)) :
    ∃ st, s.loads r v 0 (slotsOf x) = (s, { pend := v.loadsOf x, stores := st, fault := none }) ∧
      ∀ u : EngSt, st.foldl (fun (z : EngSt) m => z.store m.1 m.2.1 (Cell.of m.2.2)) u =
        { u with xm := v.storeOf u.xm (xSlot x), ym := v.storeOf u.ym (ySlot x) } := by
  have key : ∀ m k, v.loadClean m k → k.en = true → k.store = false →
      s.segRead r.die.val r.g r.eng.val m (v.slotAddr k) =
        (s, { data := (v.cell m (v.slotAddr k)).data, poison := false, cause := 0, corrected := none, ue := false }) := by
    intro m k hk he hs
    have := State.segRead_clean s r.die.val r.g r.eng.val m (v.slotAddr k) (by
      rw [show (12 * (192 * r.die.val + r.g) + r.eng.val) = r.key from rfl, hc]; exact hk he hs)
    rw [this, show (12 * (192 * r.die.val + r.g) + r.eng.val) = r.key from rfl, hc]
  have hp : (pSlot x).store = false := rfl
  unfold slotsOf EngSt.loadsOf EngSt.loadOf EngSt.storeOf
  have k1 := key 1 _ h1
  have k2 := key 2 _ h2
  have k3 := key 0 _ h3
  unfold EngSt.slotAddr at *
  cases e1 : (xSlot x).en <;> cases e2 : (ySlot x).en <;> cases e3 : (pSlot x).en <;>
    cases s1 : (xSlot x).store <;> cases s2 : (ySlot x).store <;>
    simp only [e1, e2, e3, s1, s2, hp, Bool.false_eq_true, true_implies, false_implies, reduceCtorEq] at k1 k2 k3 <;>
    simp only [State.loads, e1, e2, e3, s1, s2, hp, slotMem, k1, k2, k3, not_true_eq_false, not_false_eq_true, if_true, if_false,
      Bool.false_eq_true, Bool.and_true, Bool.and_false, Bool.not_true, Bool.not_false, Nat.zero_add] <;>
    exact ⟨_, rfl, fun u => rfl⟩

/-- The fetch of a word whose memory word has no error. -/
theorem State.engFetch_clean (s : State) (r : EngRef) (w : W64)
    (hw : (s.eng r.key).held = some w ∨ (s.eng r.key).held = none ∧
      (((s.eng r.key).loop.bind fun c => c.hit (s.eng r.key).pc) = some w ∨
        ((s.eng r.key).loop.bind fun c => c.hit (s.eng r.key).pc) = none ∧ (s.eng r.key).cell 0 (s.eng r.key).pc.toNat = ⟨w, .clean⟩)) :
    (∃ l, s.engFetch r = (s.setEng r.key ((s.eng r.key).withLoop l), some w)) ∨ s.engFetch r = (s, some w) := by
  unfold State.engFetch
  dsimp only
  rcases hw with hh | ⟨hh, hw | ⟨hw, hc⟩⟩
  · rw [hh]; exact .inr rfl
  · rw [hh]
    dsimp only
    rw [hw]; exact .inr rfl
  · rw [hh]
    dsimp only
    rw [hw]
    dsimp only
    have hc' : (s.eng (12 * (192 * r.die.val + r.g) + r.eng.val)).cell 0 (s.eng r.key).pc.toNat = ⟨w, .clean⟩ := hc
    rw [State.segRead_clean _ _ _ _ _ _ (by rw [hc'])]
    rw [hc']
    obtain ⟨l, hl⟩ := EngSt.noteFetch_loop (s.eng r.key) w
    refine .inl ⟨l, ?_⟩
    rw [← hl]
    rfl

/-- The performance of a word whose operation and loads meet no error. -/
theorem State.runWord_clean (s : State) (r : EngRef) (v : EngSt) (w : W64) (rpt : EngSt → Nat) (branch : EngSt → Option (BitVec 10))
    (op : EngSt → EngSt → OpRes) (u : EngSt) (ws : List W384) (ov : Nat) (out : List PendWr)
    (ho : op v { v.land.count with stall := 0 } = .ok u ws ov out) (hc : ∀ m a, (s.eng r.key).cell m a = v.cell m a)
    (h1 : v.loadClean 1 (xSlot (w.setWidth 32))) (h2 : v.loadClean 2 (ySlot (w.setWidth 32))) (h3 : v.loadClean 0 (pSlot (w.setWidth 32))) :
    ∃ st, s.runWord r v w rpt branch op =
        s.setEng r.key (u.finish v w ws ov out { pend := v.loadsOf (w.setWidth 32), stores := st, fault := none } (rpt v) (branch v)) ∧
      ∀ z : EngSt, st.foldl (fun (z : EngSt) m => z.store m.1 m.2.1 (Cell.of m.2.2)) z =
        { z with xm := v.storeOf z.xm (xSlot (w.setWidth 32)), ym := v.storeOf z.ym (ySlot (w.setWidth 32)) } := by
  obtain ⟨st, hld, hst⟩ := State.loads_clean s r v (w.setWidth 32) hc h1 h2 h3
  refine ⟨st, ?_, hst⟩
  unfold State.runWord
  rw [ho]
  dsimp only
  rw [hld]

/-- The issue of an instruction: what `op` makes of the engine, then its transfers and the move to the next word. -/
theorem State.issueWith_next (s : State) (r : EngRef) (w : W64) (x : BitVec 32) (h : Issues s r w x) (rpt : EngSt → Nat)
    (branch : EngSt → Option (BitVec 10)) (op : EngSt → EngSt → OpRes) (u : Option LoopCache → EngSt) (ws : List W384) (ov : Nat)
    (out : List PendWr)
    (ho : ∀ l, op ((s.eng r.key).withLoop l) { ((s.eng r.key).withLoop l).land.count with stall := 0 } = .ok (u l) ws ov out) :
    ∃ l st, s.issueWith r w rpt branch op =
        s.setEng r.key ((u l).finish ((s.eng r.key).withLoop l) w ws ov out { pend := (s.eng r.key).loadsOf x, stores := st, fault := none }
          (rpt ((s.eng r.key).withLoop l)) (branch ((s.eng r.key).withLoop l))) ∧
      ∀ z : EngSt, st.foldl (fun (z : EngSt) m => z.store m.1 m.2.1 (Cell.of m.2.2)) z =
        { z with xm := (s.eng r.key).storeOf z.xm (xSlot x), ym := (s.eng r.key).storeOf z.ym (ySlot x) } := by
  obtain ⟨hup, hclk, hrun, ⟨hsl, hrp, hex, hfp⟩, hword, rfl, ⟨hleg, hbar⟩, h1, h2, h3⟩ := h
  have hwake : (s.eng r.key).wake = s.eng r.key := by unfold EngSt.wake; rw [if_neg]; simp [hrun]
  have hsame : (s.setEng r.key (s.eng r.key)).eng r.key = s.eng r.key := State.eng_setEng_same _ _ _
  have hf : ∃ l, (s.setEng r.key (s.eng r.key)).engFetch r = (s.setEng r.key ((s.eng r.key).withLoop l), some w) := by
    rcases State.engFetch_clean (s.setEng r.key (s.eng r.key)) r w (by rw [hsame]; exact hword) with ⟨l, hl⟩ | hl
    · exact ⟨l, by rw [hl, hsame, State.setEng_setEng]⟩
    · exact ⟨(s.eng r.key).loop, hl⟩
  obtain ⟨l, hf⟩ := hf
  have hl : (s.setEng r.key ((s.eng r.key).withLoop l)).eng r.key = (s.eng r.key).withLoop l := State.eng_setEng_same _ _ _
  obtain ⟨st, hp, hst⟩ := State.runWord_clean (s.setEng r.key ((s.eng r.key).withLoop l)) r ((s.eng r.key).withLoop l) w rpt branch op
    (u l) ws ov out (ho l) (by intro m a; rw [hl]) h1 h2 h3
  refine ⟨l, st, ?_, hst⟩
  unfold State.issueWith
  rw [if_neg (by simp [hclk]), hwake]
  dsimp only
  rw [hsame, if_neg (by simp [hrun]), if_neg (by simp [hfp]), hf]
  dsimp only
  have hbar' : (s.setEng r.key ((s.eng r.key).withLoop l)).wordBarred ((s.eng r.key).withLoop l) w = false := hbar
  rw [hl, hbar', if_neg (by simp [hleg]), if_neg (by simp), hp, State.setEng_setEng]
  rfl

/-- The move to the next word outside repeats and delay slots. -/
theorem EngSt.advance_straight (z : EngSt) (w : W64) (h1 : z.slots = 0) (h2 : z.rptLeft = 0) (h3 : z.exit = false) :
    z.advance w 0 none = { z with held := none, pc := z.pc + 1 } := by
  cases z
  subst h1 h2 h3
  rfl

/-- An engine after an operation outside repeats and delay slots: its accumulators, transfers and next word. -/
theorem EngSt.finish_straight (u v : EngSt) (w : W64) (x : BitVec 32) (hx : w.setWidth 32 = x) (ws : List W384) (ov : Nat) (out pend : List PendWr)
    (st : List (Nat × Nat × W64)) (h1 : u.slots = 0) (h2 : u.rptLeft = 0) (h3 : u.exit = false) (h5 : u.run = .running)
    (hst : ∀ z : EngSt, st.foldl (fun (z : EngSt) m => z.store m.1 m.2.1 (Cell.of m.2.2)) z =
        { z with xm := v.storeOf z.xm (xSlot x), ym := v.storeOf z.ym (ySlot x) }) :
    u.finish v w ws ov out { pend := pend, stores := st, fault := none } 0 none =
      { u.cycle ws ov with xm := v.storeOf u.xm (xSlot x), ym := v.storeOf u.ym (ySlot x), ar := AReg.updates v.ar u.ar (slotsOf x),
                           pend := pend ++ out, held := none, pc := u.pc + 1 } := by
  have ha := EngSt.advance_straight { u.cycle ws ov with
      xm := v.storeOf u.xm (xSlot x), ym := v.storeOf u.ym (ySlot x), ar := AReg.updates v.ar u.ar (slotsOf x), pend := pend ++ out } w h1 h2 h3
  unfold EngSt.finish
  dsimp only at ha ⊢
  rw [hst, hx]
  dsimp only
  have hz : ∀ a b : EngSt, a = b → b.run = .running → (if a.run = .running then a else a.settle) = b := by
    intro a b hab hb; subst hab; rw [if_pos hb]
  exact hz _ _ ha h5

/-- An instruction that is neither a repeat nor a branch completes. -/
theorem State.issue_next (s : State) (r : EngRef) (w : W64) (x : BitVec 32) (h : Issues s r w x) (op : EngSt → EngSt → OpRes) (u : EngSt)
    (ws : List W384) (ov : Nat) (out : List PendWr)
    (ho : ∀ l, ∃ k, op ((s.eng r.key).withLoop l) { ((s.eng r.key).withLoop l).land.count with stall := 0 } = .ok (u.withLoop k) ws ov out)
    (h1 : u.slots = 0) (h2 : u.rptLeft = 0) (h3 : u.exit = false) (h5 : u.run = .running) :
    ∃ l, s.issue r w op = s.setEng r.key (({ u.cycle ws ov with
      xm := (s.eng r.key).storeOf u.xm (xSlot x), ym := (s.eng r.key).storeOf u.ym (ySlot x)
      ar := AReg.updates (s.eng r.key).ar u.ar (slotsOf x), pend := (s.eng r.key).loadsOf x ++ out, held := none, pc := u.pc + 1 } : EngSt).withLoop l) := by
  obtain ⟨k, hk⟩ := Classical.axiomOfChoice ho
  obtain ⟨l, st, hi, hst⟩ := State.issueWith_next s r w x h (fun _ => 0) (fun _ => none) op (fun l => u.withLoop (k l)) ws ov out hk
  refine ⟨k l, ?_⟩
  unfold State.issue
  rw [hi]
  rw [EngSt.finish_straight (u.withLoop (k l)) ((s.eng r.key).withLoop l) w x h.transfers ws ov out _ st h1 h2 h3 h5 hst]
  rfl

/-- What landing leaves alone. -/
theorem EngSt.land_frame (v : EngSt) : ∃ x y, v.land = { v with v := x, s := y, pend := [], sr := srOv v.sr (v.ov.getD 2 0), ov := v.ov.take 2 } := by
  have h : ∀ (ps : List PendWr) (a : EngSt), ∃ x y, ps.foldl EngSt.landOne a = { a with v := x, s := y } := by
    intro ps
    induction ps with
    | nil => intro a; exact ⟨a.v, a.s, rfl⟩
    | cons e rest ih =>
      intro a
      have h1 : ∃ x y, a.landOne e = { a with v := x, s := y } := by
        cases e
        · exact ⟨_, a.s, rfl⟩
        · exact ⟨a.v, _, rfl⟩
      obtain ⟨x, y, h1⟩ := h1
      obtain ⟨x', y', h2⟩ := ih (a.landOne e)
      refine ⟨x', y', ?_⟩
      rw [List.foldl_cons, h2, h1]
  obtain ⟨x, y, hf⟩ := h v.pend v
  refine ⟨x, y, ?_⟩
  unfold EngSt.land
  rw [hf]

theorem engWord_setWidth (c o : Nat) (x : BitVec 32) : (engWord c o x).setWidth 32 = x := by
  apply BitVec.eq_of_toNat_eq
  simp only [engWord, BitVec.toNat_setWidth, BitVec.toNat_ofNat]
  have := x.isLt
  omega

/-- A command that issues an instruction which is neither a repeat nor a branch: the engine that results. -/
theorem State.issuesAs (c : Instr) (s : State) (r : EngRef) (w : W64) (x : BitVec 32) (h : Issues s r w x) (op : EngSt → EngSt → OpRes)
    (hc : exec c s = onDevice (fun s => s.issue r w op) s) (u : EngSt) (ws : List W384) (ov : Nat) (out : List PendWr)
    (ho : ∀ l, ∃ k, op ((s.eng r.key).withLoop l) { ((s.eng r.key).withLoop l).land.count with stall := 0 } = .ok (u.withLoop k) ws ov out)
    (h1 : u.slots = 0) (h2 : u.rptLeft = 0) (h3 : u.exit = false) (h5 : u.run = .running) :
    IssuesAs c s r { u.cycle ws ov with
      xm := (s.eng r.key).storeOf u.xm (xSlot x), ym := (s.eng r.key).storeOf u.ym (ySlot x)
      ar := AReg.updates (s.eng r.key).ar u.ar (slotsOf x), pend := (s.eng r.key).loadsOf x ++ out, held := none, pc := u.pc + 1 } := by
  obtain ⟨l, hi⟩ := State.issue_next s r w x h op u ws ov out ho h1 h2 h3 h5
  refine ⟨l, ?_⟩
  rw [hc, onDevice_up h.up]
  dsimp only
  rw [hi]
  rfl

end Sys2Proof.Machine
end

