-- ==== Sys2Proof/Laws/Memory.lean ====
section
/-! SUPPORT. The memories keep their canonical form, and a read after a write gives what was written. -/

namespace Sys2Proof.Machine

variable {α : Type}

/-! ## Tables -/

theorem SMap.rising_filter (m : SMap α) (p : Nat × α → Bool) (a : Nat) (h : SMap.risingFrom m a = true) :
    SMap.risingFrom (m.filter p) a = true := by
  induction m generalizing a with
  | nil => rfl
  | cons e m ih =>
    simp only [SMap.risingFrom, Bool.and_eq_true, decide_eq_true_eq] at h
    by_cases hp : p e = true
    · simp only [List.filter_cons, hp, if_true, SMap.risingFrom, Bool.and_eq_true, decide_eq_true_eq]
      exact ⟨h.1, ih _ h.2⟩
    · simp only [List.filter_cons, hp]
      exact ih _ (SMap.rising_le m (by omega) h.2)

/-- Dropping entries keeps the canonical form. -/
theorem SMap.wf_dropIf [DecidableEq α] (d : Nat → α) (m : SMap α) (p : Nat → Bool) (h : SMap.wf d m = true) :
    SMap.wf d (SMap.dropIf m p) = true := by
  simp only [SMap.wf, Bool.and_eq_true, List.all_eq_true] at h ⊢
  exact ⟨SMap.rising_filter m _ 0 h.1, fun e he => h.2 e (List.mem_filter.mp he).1⟩

theorem SMap.rising_set (m : SMap α) (k : Nat) (v : α) (h : SMap.risingFrom m 0 = true) : SMap.risingFrom (SMap.set m k v) 0 = true :=
  SMap.rising_insert _ k 0 v (Nat.zero_le k) (SMap.find_drop_same m k) (SMap.rising_drop m k 0 h)

/-! ## The device's memories -/

theorem Memory.wf_iff (s : State) : Memory.wf s = true ↔
    SMap.wf (fun _ => Cell.unwritten) s.mica = true ∧ SMap.wf (fun _ => Cell.unwritten) s.vein = true ∧ SMap.risingFrom s.ddr 0 = true ∧
      SMap.wf (fun _ => (0 : BitVec 4096)) s.frames = true ∧ ∀ e ∈ s.engines, e.2.memWf = true := by
  simp only [Memory.wf, Bool.and_eq_true, List.all_eq_true, and_assoc]

/-- After reset the memories list nothing. -/
theorem Memory.wf_reset : Memory.wf State.reset = true := by decide

theorem Memory.wf_setMica (s : State) (d port word : Nat) (c : Cell) (h : Memory.wf s = true) : Memory.wf (s.setMica d port word c) = true := by
  rw [Memory.wf_iff] at h ⊢
  exact ⟨SMap.wf_put (fun _ => Cell.unwritten) s.mica _ c h.1, h.2⟩

theorem Memory.wf_setVein (s : State) (d idx : Nat) (c : Cell) (h : Memory.wf s = true) : Memory.wf (s.setVein d idx c) = true := by
  rw [Memory.wf_iff] at h ⊢
  exact ⟨h.1, SMap.wf_put (fun _ => Cell.unwritten) s.vein _ c h.2.1, h.2.2⟩

theorem Memory.wf_ddrWrite (s : State) (ch j : Nat) (l : DLine) (h : Memory.wf s = true) : Memory.wf (s.ddrWrite ch j l) = true := by
  rw [Memory.wf_iff] at h ⊢
  exact ⟨h.1, h.2.1, SMap.rising_set s.ddr _ l h.2.2.1, h.2.2.2⟩

theorem Memory.wf_setFrame (s : State) (k : Nat) (v : BitVec 4096) (h : Memory.wf s = true) : Memory.wf (s.setFrame k v) = true := by
  rw [Memory.wf_iff] at h ⊢
  exact ⟨h.1, h.2.1, h.2.2.1, SMap.wf_put (fun _ => (0 : BitVec 4096)) s.frames k v h.2.2.2.1, h.2.2.2.2⟩

theorem Memory.wf_zeroSector (s : State) (d sec : Nat) (h : Memory.wf s = true) : Memory.wf (s.zeroSector d sec) = true := by
  rw [Memory.wf_iff] at h ⊢
  exact ⟨h.1, h.2.1, h.2.2.1, SMap.wf_dropIf _ s.frames _ h.2.2.2.1, h.2.2.2.2⟩

theorem EngSt.memWf_store (v : EngSt) (m a : Nat) (c : Cell) (h : v.memWf = true) : (v.store m a c).memWf = true := by
  simp only [EngSt.memWf, Bool.and_eq_true] at h ⊢
  obtain ⟨⟨hp, hx⟩, hy⟩ := h
  match m with
  | 0 => exact ⟨⟨SMap.wf_put (fun _ => Cell.unwritten) v.pm _ c hp, hx⟩, hy⟩
  | 1 => exact ⟨⟨hp, SMap.wf_put (fun _ => Cell.unwritten) v.xm _ c hx⟩, hy⟩
  | _ + 2 => exact ⟨⟨hp, hx⟩, SMap.wf_put (fun _ => Cell.unwritten) v.ym _ c hy⟩

theorem Memory.wf_setEng (s : State) (k : Nat) (v : EngSt) (hv : v.memWf = true) (h : Memory.wf s = true) : Memory.wf (s.setEng k v) = true := by
  rw [Memory.wf_iff] at h ⊢
  refine ⟨h.1, h.2.1, h.2.2.1, h.2.2.2.1, fun e he => ?_⟩
  have hm : e ∈ SMap.put EngSt.fresh s.engines k v := he
  simp only [SMap.put, SMap.set] at hm
  by_cases hf : v = EngSt.fresh
  · simp only [hf, if_true] at hm; exact h.2.2.2.2 e (SMap.mem_drop _ _ _ hm)
  · simp only [hf, if_false] at hm
    rcases SMap.mem_insert _ _ _ _ hm with rfl | hm
    · exact hv
    · exact h.2.2.2.2 e (SMap.mem_drop _ _ _ hm)

/-- A register write touches no memory. -/
theorem Memory.wf_setReg (s : State) (a : Nat) (v : Word) : Memory.wf (s.setReg a v) = Memory.wf s := rfl

/-! ## A read after a write -/

theorem State.frame_setFrame_same (s : State) (k : Nat) (v : BitVec 4096) : (s.setFrame k v).frame k = v := SMap.get_put_same 0 s.frames k v

theorem State.frame_setFrame_other (s : State) {j k : Nat} (v : BitVec 4096) (h : j ≠ k) : (s.setFrame k v).frame j = s.frame j :=
  SMap.get_put_other 0 s.frames v h

theorem State.micaCell_setMica_same (s : State) (d p w : Nat) (c : Cell) : (s.setMica d p w c).micaCell d p w = c :=
  SMap.get_put_same Cell.unwritten s.mica _ c

theorem State.micaCell_setMica_other (s : State) {d p w d' p' w' : Nat} (c : Cell) (h : micaKey d' p' w' ≠ micaKey d p w) :
    (s.setMica d p w c).micaCell d' p' w' = s.micaCell d' p' w' :=
  SMap.get_put_other Cell.unwritten s.mica c h

theorem State.veinCell_setVein_same (s : State) (d i : Nat) (c : Cell) : (s.setVein d i c).veinCell d i = c :=
  SMap.get_put_same Cell.unwritten s.vein _ c

theorem State.veinCell_setVein_other (s : State) {d i d' i' : Nat} (c : Cell) (h : veinKey d' i' ≠ veinKey d i) :
    (s.setVein d i c).veinCell d' i' = s.veinCell d' i' :=
  SMap.get_put_other Cell.unwritten s.vein c h

theorem State.ddr_ddrWrite_same (s : State) (ch j : Nat) (l : DLine) : SMap.find (s.ddrWrite ch j l).ddr (ddrKey ch j) = some l :=
  SMap.find_set_same _ _ _

theorem State.ddr_ddrWrite_other (s : State) {ch j k : Nat} (l : DLine) (h : k ≠ ddrKey ch j) :
    SMap.find (s.ddrWrite ch j l).ddr k = SMap.find s.ddr k :=
  SMap.find_set_other _ _ h

theorem EngSt.mem_setMem (v : EngSt) (m : Nat) (c : SMap Cell) : (v.setMem m c).mem m = c := by
  match m with
  | 0 => rfl
  | 1 => rfl
  | _ + 2 => rfl

theorem EngSt.cell_store_same (v : EngSt) (m a : Nat) (c : Cell) : (v.store m a c).cell m a = c := by
  simp only [EngSt.cell, EngSt.store, EngSt.mem_setMem]
  exact SMap.get_put_same Cell.unwritten _ _ c

theorem EngSt.cell_store_other (v : EngSt) (m : Nat) {a b : Nat} (c : Cell) (h : b % 1024 ≠ a % 1024) : (v.store m a c).cell m b = v.cell m b := by
  simp only [EngSt.cell, EngSt.store, EngSt.mem_setMem]
  exact SMap.get_put_other Cell.unwritten _ c h

end Sys2Proof.Machine
end

