-- ==== Sys2Proof/Laws/Mgmt.lean ====
section
/-! SUPPORT. The management port reads from MDI the request that is put on it (R56). -/

namespace Sys2Proof.Machine

/-- Eight bits on the pin spell the byte that put them there. -/
theorem byte_of_bits (b : Byte) :
    BitVec.ofNat 8 (128 * b2n (b.getLsbD 7) + 64 * b2n (b.getLsbD 6) + 32 * b2n (b.getLsbD 5) + 16 * b2n (b.getLsbD 4) + 8 * b2n (b.getLsbD 3)
      + 4 * b2n (b.getLsbD 2) + 2 * b2n (b.getLsbD 1) + b2n (b.getLsbD 0)) = b := by
  revert b; decide

/-- The bits of bytes on a pin spell those bytes. -/
theorem pinBytes_pinBits (l : List Byte) : pinBytes (pinBits l) = l := by
  induction l with
  | nil => rfl
  | cons b rest ih =>
    show BitVec.ofNat 8 _ :: pinBytes (pinBits rest) = b :: rest
    rw [ih]; exact congrArg (· :: rest) (byte_of_bits b)

/-- The four bytes of a word spell it. -/
theorem wordBE_bytes (w : Word) : wordBE (w.extractLsb' 24 8) (w.extractLsb' 16 8) (w.extractLsb' 8 8) (w.extractLsb' 0 8) = w := by
  unfold wordBE
  apply BitVec.eq_of_getLsbD_eq
  intro i hi
  simp only [BitVec.getLsbD_append, BitVec.getLsbD_extractLsb']
  repeat' split
  · simp_all
  · rw [show 8 + (i - 8) = i by omega]; simp_all
  · rw [show 16 + (i - 8 - 8) = i by omega]; simp_all
  · rw [show 24 + (i - 8 - 8 - 8) = i by omega]; simp_all; omega

/-- A request put on MDI is the request that the port samples. -/
theorem mgmtRequest_mdi (q : MgmtReq) : mgmtRequest (pinBytes q.mdi) = some q := by
  cases q with
  | read a => simp [MgmtReq.mdi, pinBytes_pinBits, wordBytesBE, mgmtRequest, wordBE_bytes]
  | write a v => simp [MgmtReq.mdi, pinBytes_pinBits, wordBytesBE, mgmtRequest, wordBE_bytes]
  | status => simp [MgmtReq.mdi, pinBytes_pinBits, mgmtRequest]

end Sys2Proof.Machine
end

