-- ==== Sys2Proof/Tests/Slice0.lean ====
section
/-! SUPPORT. Small tests: a state and operands that meet the hypotheses of each obligation, clause by clause, with what the model then does;
and commands that `Instr.wellFormed` refuses. -/

open Sys2Proof Sys2Proof.Machine

namespace Sys2Proof.Tests

set_option Elab.async false

/-! ## Small states -/

/-- A state with some fields of registers replaced. -/
def sets (s : State) (l : List (RField × Nat)) : State := l.foldl (fun (t : State) e => t.setFld e.1 e.2) s

/-- The state that a command makes passes a check. -/
def after (c : Instr) (s : State) (p : State → Bool) : Bool :=
  match exec c s with
  | .next t => p t
  | _ => false

/-- The state that a command makes; the state itself should the command stop. -/
def post (c : Instr) (s : State) : State :=
  match exec c s with
  | .next t => t
  | _ => s

/-- The registers that differ between two states. -/
def regDiff (s t : State) : List Nat :=
  ((s.regs ++ t.regs).map (·.1)).eraseDups.filter fun a => s.reg a ≠ t.reg a

/-- A register access changes nothing but registers, answers, arms and an ended management frame, and no register outside `l`. -/
def onlyB (s t : State) (l : List Nat) : Bool :=
  decide (t = { s with regs := t.regs, out := t.out, arms := t.arms, heldAcc := t.heldAcc }) && (regDiff s t).all l.contains

/-- An accepted write and a check of the state after its command, which changes no register outside `l`. -/
def writesB (c : Instr) (s : State) (path : Path) (a : Nat) (v : Word) (l : List Nat) (p : State → Bool) : Bool :=
  s.accepts path a v && after c s fun t => onlyB s t l && p t

/-- A path may write a register of a block without a lock, whatever the value. -/
def openB (s : State) (path : Path) (a : Nat) : Bool :=
  s.locks.isEmpty && s.pathUp path && s.portFree path &&
    match s.reach path a true true with
    | .inl (b, .reg r) => !s.featureOff b && !r.keyed && !path.barred a
    | _ => false

theorem accepts_any {s : State} {path : Path} {a : Nat} (h : openB s path a = true) (v : Word) : s.accepts path a v = true := by
  simp only [openB, Bool.and_eq_true, List.isEmpty_iff] at h
  obtain ⟨⟨⟨hl, hu⟩, hp⟩, hr⟩ := h
  unfold State.accepts
  rw [hu, hp]
  generalize s.reach path a true true = x at hr
  match x with
  | .inl (b, .reg r) =>
    simp only [Bool.and_eq_true, Bool.not_eq_true'] at hr
    simp [hl, hr.1.1, hr.1.2, hr.2]
  | .inl (b, .pend) => simp at hr
  | .inl (b, .guard) => simp at hr
  | .inl (b, .unlock) => simp at hr
  | .inr y => simp at hr

/-- A device in service: four dies, every feature, domains 0 to 55 ON. -/
def dev : State :=
  { State.blank with
    phase := .running
    regs := [(0, 0x485030F0#32), (8, 0xFFFF#32), (12, 0xFFFF#32)] ++ (List.range 56).map fun d => (0x40000 + 4 * d, 0x80000000#32) }

/-- The device of `dev` with DREF on REFA, every sector in region 0, which is RUNNING, and every engine group of sector 0 of die 0 on tree 0,
which spine 0 carries DREF to. -/
def run0 : State :=
  { sets dev [(Fld.CLK_STATUS_DREFSRC, 1), (Fld.CFG_REG_STAT_STATE 0, 3), (Fld.CFG_REG_SECLO_SECTORS 0, 0xFFFFFFFF),
      (Fld.CFG_REG_SECHI_SECTORS 0, 0xFFFFFFFF), (Fld.SPL_SPINE_EN 0 0, 1), (Fld.SPL_SPINE_SRC 0 0, 32), (Fld.SEC_RCLK_IN0_SRC 0 0 0, 0)] with
    frames := [(posKey 0 42 0 1, 1 <<< 3104)] }

/-- Engine 0 of group 0. -/
def r0 : EngRef := ⟨0, 0, 0⟩

/-- The running engine whose PC holds `w`, with small values in its registers. -/
def eng1 (w : W64) : EngSt :=
  { EngSt.fresh with
    run := .running
    pm := [(0, Cell.of w)]
    s := [5#32, 7#32, 0xFFFFFFFF#32, 0x80000000#32, 33#32, 0x1000#32, 1#32, 64#32]
    v := [0x0102030405060708#64, 0xFF80FF7F00020003#64, 0x3F8040003F800000#64, 0xC0000000BF800000#64] ++ List.replicate 12 9#64 }

/-- A device whose engine `r0` is `v`. -/
def onEng (v : EngSt) : State := { run0 with engines := [(0, v)] }

/-- The device at the word `w`. -/
def at0 (w : W64) : State := onEng (eng1 w)

/-- The conditions of `Issues` as a truth value. -/
def issuesB (s : State) (r : EngRef) (w : W64) (x : BitVec 32) : Bool :=
  let v := s.eng r.key
  let lk := v.loop.bind fun c => c.hit v.pc
  let clean := fun (m : Nat) (k : XSlot) => !(k.en && !k.store) || decide ((v.cell m (v.slotAddr k)).syn = .clean)
  s.up && s.engClock r.die.val r.g && decide (v.run = .running) && decide (v.slots = 0 ∧ v.rptLeft = 0 ∧ v.exit = false ∧ v.faultPend = []) &&
    decide (v.held = some w ∨ v.held = none ∧ (lk = some w ∨ lk = none ∧ v.cell 0 v.pc.toNat = ⟨w, .clean⟩)) && decide (w.setWidth 32 = x) &&
    wordLegal w && !s.wordBarred v w && clean 1 (xSlot x) && clean 2 (ySlot x) && clean 0 (pSlot x)

/-- What `issuesB` finds is `Issues`. -/
theorem issues_of {s : State} {r : EngRef} {w : W64} {x : BitVec 32} (h : issuesB s r w x = true) : Issues s r w x := by
  simp only [issuesB, Bool.and_eq_true, decide_eq_true_eq, Bool.not_eq_eq_eq_not, Bool.not_true] at h
  obtain ⟨⟨⟨⟨⟨⟨⟨⟨⟨⟨h1, h2⟩, h3⟩, h4⟩, h5⟩, h6⟩, h7⟩, h8⟩, h9⟩, h10⟩, h11⟩ := h
  refine ⟨h1, h2, h3, h4, h5, h6, ⟨h7, h8⟩, ?_, ?_, ?_⟩ <;> intro he hs <;> simp_all

/-- `IssuesAs` as a truth value. -/
def asB (c : Instr) (s : State) (r : EngRef) (u : EngSt) : Bool :=
  after c s fun t => decide (t = s.setEng r.key (u.withLoop (t.eng r.key).loop))

/-- A word issues and its command has the effect that is said. -/
def doesB (c : Instr) (s : State) (w : W64) (x : BitVec 32) (u : EngSt) : Bool := issuesB s r0 w x && asB c s r0 u

/-! ## Engine instructions -/

/-- A SALU instruction on S1, S2 and `sb` leaves `y` in S1. -/
def saluB (c : BitVec 3 → BitVec 3 → BitVec 3 → BitVec 32 → Instr) (op : Nat) (sb : BitVec 3) (y : Word) : Bool :=
  let w := wSalu op 1 2 sb 0
  doesB (c 1 2 sb 0) (at0 w) w 0 ((eng1 w).scalarDone 0 1 y)

theorem wit_scalar_arithmetic :
    saluB (.add r0) 0 3 0x7FFFFFFF ∧ saluB (.sub r0) 1 3 0x7FFFFFFF ∧ saluB (.and r0) 2 3 0x80000000 ∧ saluB (.or r0) 3 3 0xFFFFFFFF ∧
      saluB (.xor r0) 4 3 0x7FFFFFFF ∧ saluB (.mul r0) 12 0 0xFFFFFFFB ∧ saluB (fun sd sa _ x => .mov r0 sd sa x) 13 0 0xFFFFFFFF ∧
      saluB (.carry r0) 14 0 1 := by decide +kernel

theorem wit_scalar_shifts_and_compares :
    saluB (.shl r0) 5 4 0xFFFFFFFE ∧ saluB (.shr r0) 6 4 0x7FFFFFFF ∧ saluB (.sra r0) 7 4 0xFFFFFFFF ∧ saluB (.slt r0) 8 0 1 ∧
      saluB (.sltu r0) 9 0 0 ∧ saluB (.min r0) 10 0 0xFFFFFFFF ∧ saluB (.max r0) 11 0 5 := by decide +kernel

theorem wit_scalar_illegal_words :
    wordLegal (wSalu 15 1 2 3 0) = false ∧ wordLegal (wSalu 13 1 2 3 0) = false ∧ wordLegal (wSalu 0 1 2 3 0 ||| 0x100000000#64) = false ∧
      wordLegal (wSalu 14 1 2 3 0) = true := by decide +kernel

/-- A SIMM instruction on S1 and S2 leaves `y` in S1. -/
def simmB (c : BitVec 3 → BitVec 3 → BitVec 16 → BitVec 32 → Instr) (op : Nat) (sa : BitVec 3) (imm : BitVec 16) (y : Word) : Bool :=
  let w := wSimm op 1 sa imm 0
  doesB (c 1 sa imm 0) (at0 w) w 0 ((eng1 w).scalarDone 0 1 y)

theorem wit_immediate_operations :
    simmB (.addi r0) 0 1 0xFFF9 0 ∧ simmB (.andi r0) 1 2 0x8001 0x8001 ∧ simmB (.ori r0) 2 3 0x8001 0x80008001 ∧
      simmB (.xori r0) 3 2 0xFFFF 0xFFFF0000 ∧ simmB (.shli r0) 4 2 31 0x80000000 ∧ simmB (.shri r0) 5 3 31 1 ∧
      simmB (.srai r0) 6 3 31 0xFFFFFFFF ∧ simmB (fun sd _ i x => .li r0 sd i x) 7 0 0x8000 0xFFFF8000 ∧
      simmB (fun sd _ i x => .lui r0 sd i x) 8 0 0x8000 0x80000000 ∧ simmB (.slti r0) 9 2 0 1 := by decide +kernel

theorem wit_immediate_illegal_words :
    wordLegal (wSimm 10 1 2 0 0) = false ∧ wordLegal (wSimm 4 1 2 32 0) = false ∧ wordLegal (wSimm 7 1 2 0 0) = false ∧
      wordLegal (wSimm 0 1 2 0 0 ||| 0x1000000000000#64) = false ∧ wordLegal (wSimm 6 1 2 31 0) = true := by decide +kernel

/-- A word does what is said of the engine that stands at it. -/
def atB (c : Instr) (w : W64) (x : BitVec 32) (u : EngSt → EngSt) : Bool := doesB c (at0 w) w x (u (eng1 w))

theorem wit_system_instructions :
    atB (.nop r0 none 0) (wSys 0 0 0 0 0) 0 (·.issued 0) ∧ atB (.rpt r0 4096 0) (wSys 1 0 0 4096 0) 0 (fun v => { v.issued 0 with rptLeft := 4096 }) ∧
      atB (.rpts r0 5 0) (wSys 2 5 0 0 0) 0 (fun v => { v.issued 0 with rptLeft := 4096 }) ∧
      atB (.halt r0) (wSys 3 0 0 0 0) 0 (fun v => { (v.issued 0).settle with run := .halted }) ∧
      atB (.wait r0) (wSys 4 0 0 0 0) 0 (fun v => { (v.issued 0).settle with run := .waiting }) := by decide +kernel

/-- A word that a freeze holds issues, whatever stands at the PC (R232). -/
theorem wit_held_word :
    (let w := wSalu 0 1 2 3 0
     let v := { eng1 0 with held := some w }
     doesB (.add r0 1 2 3 0) (onEng v) w 0 (v.scalarDone 0 1 0x7FFFFFFF)) := by decide +kernel

theorem wit_control_registers :
    (let w := wSys 5 2 0 0 0; issuesB (at0 w) r0 w 0 && decide (((post (.movtc r0 0 2 0) (at0 w)).eng 0).sr = 0xF0FF#32)) ∧
      (let w := wSys 5 2 6 0 0; let s := onEng { eng1 w with dbell := 5 }
       issuesB s r0 w 0 && decide (((post (.movtc r0 6 2 0) s).eng 0).dbell = 0)) ∧
      (let w := wSys 6 3 4 0 0; let s := onEng { eng1 w with timer := 9 }
       issuesB s r0 w 0 && after (.movfc r0 3 4 0) s fun t => decide ((t.eng 0).s[3]? = some 9 ∧ (t.eng 0).timer = 8 ∧ (t.eng 0).pc = 1 ∧ t.free = 0)) ∧
      (let w := wSys 6 3 5 0 0; let s := onEng { eng1 w with timer := 1, treload := 6 }
       issuesB s r0 w 0 && after (.movfc r0 3 5 0) s fun t => decide ((t.eng 0).s[3]? = some 6 ∧ (t.eng 0).timer = 6 ∧ (t.eng 0).tevent = true)) ∧
      (let w := wSys 6 3 11 0 0; issuesB (at0 w) r0 w 0 && decide (((post (.movfc r0 3 11 0) (at0 w)).eng 0).s[3]? = some 0)) := by decide +kernel

theorem wit_branches :
    atB (.b r0 0 0 100 0) (wBr 0 0 0 0 100 0) 0 (·.branchDone 0 100) ∧ atB (.b r0 1 0 100 0) (wBr 0 1 0 0 100 0) 0 (·.branchDone 0 3) ∧
      atB (.b r0 7 1 100 0) (wBr 0 7 1 0 100 0) 0 (fun v => { v.branchDone 0 100 with s := v.s.set 1 6 }) ∧
      atB (.b r0 7 6 100 0) (wBr 0 7 6 0 100 0) 0 (fun v => { v.branchDone 0 3 with s := v.s.set 6 0 }) ∧
      atB (.call r0 3 2 4 100 0) (wBr 1 3 2 4 100 0) 0 (fun v => { v.branchDone 0 100 with s := v.s.set 4 3 }) ∧
      atB (.jr r0 6 3 4 0) (wBr 2 6 3 4 0 0) 0 (·.branchDone 0 33) ∧
      (let w := wBr 3 0 0 0 0 0; let v := { eng1 w with epc := 9, esr := 0xFFFF }
       doesB (.reti r0 0) (onEng v) w 0 { v.branchDone 0 9 with reti := some 0xF8FF }) ∧
      wordLegal (wBr 0 8 0 0 0 0) = false := by decide +kernel

theorem wit_address_registers :
    atB (.seti r0 1 3 0x7FF 0) (wAreg 0 1 3 0 0x7FF 0) 0 (fun v => v.arDone 0 1 { AReg.fresh with m := 0x7FF }) ∧
      atB (.sets r0 1 0 5 0) (wAreg 1 1 0 5 0 0) 0 (fun v => v.arDone 0 1 { AReg.fresh with a := 0 }) ∧
      atB (.get r0 1 2 5 0) (wAreg 2 1 2 5 0 0) 0 (·.sDone 0 5 1024) ∧
      (let w := wAreg 3 1 0 0 0x7FD 0; let v := { eng1 w with ar := AReg.fresh :: ⟨101, 100, 8, 0⟩ :: List.replicate 6 AReg.fresh }
       doesB (.adda r0 1 0x7FD 0) (onEng v) w 0 (v.arDone 0 1 ⟨106, 100, 8, 0⟩)) := by decide +kernel

theorem wit_address_updates :
    ((⟨1023, 1020, 6, 0⟩ : AReg).circular 5).toNat = 1022 ∧ (⟨4, 0, 8, 4⟩ : AReg).log2Len = some 3 ∧
      (⟨4, 0, 8, 4⟩ : AReg).update 3 = some 5 ∧ (⟨7, 0, 8, 1⟩ : AReg).update 3 = some 0 ∧ (⟨4, 0, 6, 4⟩ : AReg).update 3 = none := by decide +kernel

/-- A word issues at the engine whose accumulator 1 is `a`, and a check of the state after it holds. -/
def macB (c : Instr) (w : W64) (a : W384) (p : EngSt → Bool) : Bool :=
  let v := { eng1 w with w := [0, a, 0, 0] }
  issuesB (onEng v) r0 w 0 && after c (onEng v) fun t => p (t.eng 0)

/-- R240: bytes 0 of V0 and V1 multiply into lane 0; the top of the range wraps and sets the flag two issues later. -/
theorem wit_multiply_accumulate :
    macB (.macInt8 r0 1 0 1 2 false true false true 0) (wMac 0 1 0 1 2 false true false true 0) 0
        (fun u => (lane 24 0 (u.w.getD 1 0) = 8 * 3) && (lane 24 6 (u.w.getD 1 0) = 2 ^ 24 - 256) && decide (u.ov = [0, 0, 0])) ∧
      macB (.macInt8 r0 1 0 1 2 false false false false 0) (wMac 0 1 0 1 2 false false false false 0) 0x7FFFFF
        (fun u => (lane 24 0 (u.w.getD 1 0) = 0x7FFFFF + 24) && decide (u.ov.head? = some 2)) ∧
      macB (.mac18x27 r0 1 1 0 true true true false 0) (wMac 1 1 1 0 0 true true true false 0) 0
        (fun u => (lane 64 0 (u.w.getD 1 0) = 0x20003 * 0x1F8F8)) ∧
      macB (.macFp32 r0 1 2 2 false false 0) (wMac 3 1 2 2 0 false false false false 0) 0x3F800000
        (fun u => lane 48 0 (u.w.getD 1 0) = 0x40000000) ∧
      macB (.macBf16 r0 1 2 2 false false 0) (wMac 2 1 2 2 0 false false false false 0) 0
        (fun u => lane 48 1 (u.w.getD 1 0) = 0x3F800000 && lane 48 0 (u.w.getD 1 0) = 0) := by decide +kernel

/-- R242: 1.5 x 1.5 + 1; infinity times zero; a subnormal operand counts as zero; an overflow. -/
theorem wit_fused_multiply_add :
    fma 0x3FC00000 0x3FC00000 0x3F800000 = 0x40500000 ∧ fma 0x7F800000 0 0 = 0x7FC00000 ∧ fread 0x00400000 = .fin false 0 0 ∧
      fread 0x7F800001 = .nan ∧ fma 0x00400000 0x7F000000 0 = 0 ∧ fma 0x7F000000 0x7F000000 0 = 0x7F800000 ∧
      fma 0x3F800001 0x3F800001 0xBF800002 = 0x28800000 := by decide +kernel

theorem wit_accumulator_instructions :
    (let w := wAcc 0 1 0 0 0 0 false 0; let v := { eng1 w with w := [0, 77, 0, 0] }; doesB (.aclr r0 1 0) (onEng v) w 0 (v.accDone 0 1 0 false)) ∧
      (let w := wAcc 1 1 3 3 0 4 true 0; let v := { eng1 w with w := [0, 77, 0, 0], w2 := [0, 0x58, 0, 0] }
       doesB (.amov r0 1 3 3 0 4 true 0) (onEng v) w 0 { v.issued 0 with pend := [.v 3 6] }) ∧
      (let w := wAcc 2 1 0 0 1 1 false 0
       issuesB (at0 w) r0 w 0 && after (.ald r0 1 0 0 1 1 0) (at0 w) fun t =>
         lane 24 4 ((t.eng 0).w.getD 1 0) = 0x708 * 2 && lane 24 3 ((t.eng 0).w.getD 1 0) = 0) ∧
      amovOp 0 0 0 false 0x8000 = 0x7FFF ∧ amovOp 1 0 1 true 3 = 2 ∧ amovOp 1 0 1 false 3 = 1 := by decide +kernel

theorem wit_vector_instructions :
    atB (.vmov r0 9 1 0) (wVec 0 9 1 0 false false 0) 0 (·.vDone 0 9 0xFF80FF7F00020003) ∧
      atB (.vins r0 0 3 true 0) (wVec 1 0 0 3 true false 0) 0 (·.vDone 0 0 0x8000000005060708) ∧
      atB (.vext r0 4 1 true 0) (wVec 2 4 1 0 true false 0) 0 (·.sDone 0 4 0xFF80FF7F) ∧
      atB (.vspl r0 9 0 0) (wVec 5 9 0 0 false false 0) 0 (·.vDone 0 9 0x0000000500000005) := by decide +kernel

theorem wit_stream_instructions :
    (let w := wVec 3 9 0 0 false true 0; let v := { eng1 w with sin1 := [(42, false), (43, true)] }
     doesB (.sin r0 9 true 0) (onEng v) w 0 { v.vDone 0 9 42 with sin1 := [(43, true)] }) ∧
      atB (.sin r0 9 false 0) (wVec 3 9 0 0 false false 0) 0 (fun v => { v with stall := 1, held := some (wVec 3 9 0 0 false false 0) }) ∧
      (let w := wVec 4 0 1 0 false false 0; let v := { eng1 w with sout0 := [1, 2, 3] }
       doesB (.sout r0 false 1 0) (onEng v) w 0 { v.issued 0 with sout0 := [1, 2, 3, 0xFF80FF7F00020003] }) ∧
      (let w := wVec 4 0 1 0 false true 0; let v := { eng1 w with sout1 := [1, 2, 3, 4] }
       doesB (.sout r0 true 1 0) (onEng v) w 0 { v with stall := 8, held := some w }) := by decide +kernel

/-- A transfer slot that loads X at AR0, one that stores Y, and one that loads P: what they load lands one issue later. -/
theorem wit_transfers :
    (let x : BitVec 32 := 0x80000000#32
     let w := wSys 0 0 0 0 x
     let v := { eng1 w with xm := [(0, Cell.of 99)] }
     doesB (.nop r0 none x) (onEng v) w x (v.issued x) && decide ((v.issued x).pend = [.v 0 99])) ∧
      (let v := { eng1 0 with held := some (wRing 6 false 0 0 0 0 0 0) }
       after (.rfence r0 0) (onEng v) fun t => decide ((t.eng 0).pc = 1 ∧ (t.eng 0).ring = [])) := by decide +kernel

theorem wit_ring_instructions :
    (let w := wRing 0 false 4 1 3 0 0 0; let s := onEng { eng1 w with s := (eng1 w).s.set 4 64 }
     issuesB s r0 w 0 && decide ((s.eng 0).outstanding < 8) && after (.rld r0 false 4 1 3 0) s fun t => (t.eng 0).ring.length = 1) ∧
      (let w := wRing 1 true 4 1 3 0 0 0; let s := onEng { eng1 w with s := (eng1 w).s.set 4 64 }
       issuesB s r0 w 0 && after (.rst r0 true 4 1 3 0) s fun t => (t.eng 0).ring.map (·.rc) = [1]) ∧
      (let w := wRing 2 false 4 1 3 9 0 0; let s := onEng { eng1 w with s := (eng1 w).s.set 4 32 }
       issuesB s r0 w 0 && after (.rldnc r0 false 4 1 3 9 0) s fun t => (t.eng 0).ring.map (·.len) = [9]) ∧
      (let w := wRing 3 false 4 1 3 9 0 0; let s := onEng { eng1 w with s := (eng1 w).s.set 4 32 }
       issuesB s r0 w 0 && after (.rstnc r0 false 4 1 3 9 0) s fun t => (t.eng 0).ring.map (·.rc) = [3]) ∧
      (let w := wRing 4 false 4 1 3 0 0 0
       issuesB (at0 w) r0 w 0 && after (.rdb r0 4 1 3 0) (at0 w) fun t => (t.eng 0).ring.map (·.bells) = [0x80000000#32]) ∧
      (let w := wRing 5 false 4 1 3 0 2 0; let s := onEng { eng1 w with s := (eng1 w).s.set 4 64 }
       issuesB s r0 w 0 && after (.ratom r0 false 4 1 3 2 0) s fun t => (t.eng 0).ring.map (·.atop) = [2]) ∧
      (let w := wRing 6 false 0 0 0 0 0 0
       issuesB (at0 w) r0 w 0 && after (.rfence r0 0) (at0 w) fun t => decide ((t.eng 0).pc = 1)) := by decide +kernel

/-- R263 and R264: an illegal word, a poisoned word, and a fault inside a handler. -/
theorem wit_instruction_faults :
    (let s := at0 (wSalu 15 0 0 0 0); s.engClock 0 0 && decide ((s.eng 0).run = .running) &&
      after (.nop r0 none 0) s fun t => decide ((t.eng 0).fcause = 1 ∧ (t.eng 0).pc = 0 ∧ (t.eng 0).sr = 0x800)) ∧
      (let s := onEng { eng1 0 with pm := [], pc := 7, vbase := 64 }
       after (.nop r0 none 0) s fun t => decide ((t.eng 0).fcause = 2 ∧ (t.eng 0).pc = 64 ∧ (t.eng 0).faddr = 7)) ∧
      (let s := onEng { eng1 0 with pm := [], sr := 0x800 }
       after (.nop r0 none 0) s fun t => decide ((t.eng 0).run = .faulted)) := by decide +kernel

theorem wit_engine_registers :
    (at0 5).accepts .flint (Reg.SEG_ECTL 0 0 0) 0x20000000 ∧
      after (.engineReset .flint r0) (at0 5) (fun t => decide (t.eng 0 = { EngSt.fresh with pm := (eng1 5).pm })) ∧
      after (.engineHalt .flint r0) (onEng { eng1 5 with stall := 1, held := some 7, pend := [.v 0 9] })
        (fun t => decide (t.eng 0 = { eng1 5 with run := .halted, pend := [.v 0 9] })) ∧
      (let v := { eng1 5 with run := .waiting, rptLeft := 3, held := some 7 }
       after (.engineHalt .flint r0) (onEng v) fun t => decide (t.eng 0 = { v with run := .halted, waitHeld := true })) ∧
      (let s := onEng { eng1 5 with run := .halted, waitHeld := true }
       s.accepts .flint (Reg.SEG_ECTL 0 0 0) 0x80000000 && s.groupEnabled 0 0 &&
         after (.engineRun .flint r0 none) s fun t => decide (t.eng 0 = { eng1 5 with run := .waiting })) ∧
      (let s := onEng { eng1 5 with run := .halted }
       s.accepts .flint (Reg.SEG_ECTL 0 0 0) 0x900003FF &&
         after (.engineRun .flint r0 (some 0x3FF)) s fun t => decide ((t.eng 0).pc = 0x3FF ∧ (t.eng 0).run = .running)) ∧
      ((at0 5).accepts .flint (Reg.SEG_DBELL 0 0 0) 6 && after (.segDbell .flint r0 6) (at0 5) fun t => decide ((t.eng 0).dbell = 6)) ∧
      (let s := { at0 5 with frames := [] }
       s.accepts .flint (Reg.SEG_DBELL 0 0 0) 6 && !s.groupEnabled 0 0 && after (.segDbell .flint r0 6) s fun t => decide ((t.eng 0).dbell = 0)) := by
  decide +kernel

/-- R259 to R261: a doorbell is taken before a stream and a timer; with IE at 0 it only ends WAITING. -/
theorem wit_engine_interrupts :
    (let s := onEng { eng1 0 with sr := 0xFE, dbell := 1, tevent := true, vbase := 32 }
     after (.interruptEntry r0) s fun t => decide ((t.eng 0).pc = 40 ∧ (t.eng 0).sr = 0x7E ∧ (t.eng 0).esr = 0xFE)) ∧
      (let s := onEng { eng1 0 with sr := 0xFE }; after (.interruptEntry r0) s fun t => decide ((t.eng 0).pc = 16)) ∧
      (let s := onEng { eng1 0 with sr := 0xC0, tevent := true }; after (.interruptEntry r0) s fun t => decide ((t.eng 0).pc = 24)) ∧
      (let s := onEng { eng1 0 with sr := 0x42, run := .waiting, dbell := 2 }
       after (.interruptEntry r0) s fun t => decide (t = s.setEng 0 { s.eng 0 with run := .running })) ∧
      (let s := onEng { eng1 0 with sr := 0xFE, dbell := 1, timer := 4 }
       after (.interruptEntry r0) s fun t => decide ((t.eng 0).timer = 1 ∧ (t.eng 0).tevent = false)) ∧
      (let s := onEng { eng1 0 with timer := 1, treload := 8 }
       after (.engineTimerExpiry r0) s fun t => decide (t = s.setEng 0 { s.eng 0 with tevent := true, timer := 8 })) ∧
      (let s := onEng { eng1 0 with run := .waiting, faultPend := [3] }
       after (.interruptEntry r0) s fun t => decide ((t.eng 0).fcause = 7 ∧ (t.eng 0).faultPend = [])) := by decide +kernel

/-- The group port of group 0 of die 0. -/
def g0 : Ep := run0.groupEp 0 0

/-- A packet of command `c` to `d`. -/
def pkt0 (c : BitVec 8) (d s : Ep) : Packet :=
  { cmd := c, len := 0, cls := 0, vc := 0, ord := 0, rsv := 0, dst := d, src := s, tag := 0, addr := 0, status := 0, gran := 0, spec := 0,
    hcrc := 0, data := [] }

theorem wit_engine_ports :
    (after (.streamTransfer r0 0 42 false) (at0 0) fun t => decide ((t.eng 0).sin0 = [(42, false)])) ∧
      (after (.streamTransfer r0 1 42 true) (at0 0) fun t => decide ((t.eng 0).sin1 = [(42, true)])) ∧
      (let s := onEng { eng1 0 with sout0 := [7, 8] }; after (.streamTransfer r0 2 0 false) s fun t => decide ((t.eng 0).sout0 = [8])) ∧
      (let s := onEng { eng1 0 with sout1 := [7, 8] }; after (.streamTransfer r0 3 0 false) s fun t => decide (t.out = [.stream 0 1 7])) ∧
      (let q : RingOut := { rc := 4, sent := true, tag := 3, mem := false, loc := 0, len := 0, addr := 0, dst := 0, bells := 1, atop := 0 }
       let s := { onEng { eng1 0 with ring := [q] } with engRsp := [(0, { pkt0 0xA g0 g0 with tag := 3 })] }
       after (.ringCommandComplete 0) s fun t => decide ((t.eng 0).ring = [] ∧ (t.eng 0).rcount = 1)) ∧
      (let s := { onEng { eng1 0 with xm := [(8, Cell.of 1), (9, Cell.of 2), (10, Cell.of 3), (11, Cell.of 4)] } with
                  inbox := [⟨g0, { pkt0 8 g0 g0 with addr := 16384 + 64, spec := 1 }⟩] }
       portKind g0 = .group && (0 : Nat) == 12 * (192 * g0.die.toNat + s.groupOf g0) &&
         after (.loaderAccessForced 0) s fun t => decide (t.inbox = []) && t.net.any fun f => f.pkt.data.map (·.data) == [(4#64 ++ 3#64 ++ 2#64 ++ 1#64 : W256)]) := by
  decide +kernel

/-! ## Clocks, power and start-up -/

/-- R147, R151 and R154: an EN write leaves a valid PLL unlocked, a ratio below 20 is BADCFG; an open spine keeps its SRC. -/
theorem wit_pll_and_spine_writes :
    (let a := Reg.SPL_PLL_CTRL 1 2
     writesB (.pllSettingWrite .flint 1 2 0 0x80200000) run0 .flint a 0x80200000 [a, Reg.SPL_PLL_STATUS 1 2]
       fun t => t.pllValid 1 2 && decide (t.fld (Fld.SPL_PLL_STATUS_LOCKED 1 2) = 0)) ∧
      (let a := Reg.SPL_PLL_CTRL 1 2
       writesB (.pllSettingWrite .flint 1 2 0 0x80010000) run0 .flint a 0x80010000 [a, Reg.SPL_PLL_STATUS 1 2]
         fun t => !t.pllValid 1 2 && decide (t.fld (Fld.SPL_PLL_STATUS_BADCFG 1 2) = 1)) ∧
      (let s := sets run0 [(Fld.SPL_PLL_CTRL_EN 0 7, 1), (Fld.SPL_PLL_CTRL_N 0 7, 32), (Fld.SPL_PLL_STATUS_LOCKED 0 7, 1)]
       writesB (.pllSettingWrite .flint 0 7 2 (s.reg (Reg.SPL_PLL_OUT 0 7))) s .flint (Reg.SPL_PLL_OUT 0 7) (s.reg (Reg.SPL_PLL_OUT 0 7)) []
         fun t => decide (t.fld (Fld.SPL_PLL_STATUS_LOCKED 0 7) = 1)) ∧
      (let a := Reg.SPL_SPINE 0 0
       writesB (.spineWrite .flint 0 0 0x80000003) run0 .flint a 0x80000003 [a, Reg.SPL_STATUS 0]
         fun t => decide (t.fld (Fld.SPL_SPINE_SRC 0 0) = 32 ∧ t.fld (Fld.SPL_STATUS_SRC_REFUSED 0) = 1)) ∧
      (let a := Reg.SPL_SPINE 0 0
       writesB (.spineWrite .flint 0 0 3) run0 .flint a 3 [a] fun t => decide (t.fld (Fld.SPL_SPINE_SRC 0 0) = 3)) := by decide +kernel

theorem wit_pll_and_tree_events :
    (let s := sets run0 [(Fld.SPL_PLL_CTRL_EN 0 7, 1), (Fld.SPL_PLL_CTRL_N 0 7, 32)]
     s.pllValid 0 7 && s.dref && s.dieOk 0 &&
       after (.pllLock 0 7) s fun t => decide (regDiff s t = [Reg.SPL_PLL_STATUS 0 7] ∧ t.fld (Fld.SPL_PLL_STATUS_LOCKED 0 7) = 1)) ∧
      (let s := sets run0 [(Fld.SPL_PLL_STATUS_LOCKED 0 7, 1)]
       after (.pllLossOfLock 0 7) s fun t => decide (t.fld (Fld.SPL_PLL_STATUS_LOCKED 0 7) = 0 ∧ t.fld (Fld.SPL_PLL_STATUS_LOSTLOCK 0 7) = 1)) ∧
      (let s := sets run0 [(Fld.SEC_RCLK_SWITCH_PENDING 0 0 0, 1), (Fld.SEC_RCLK_SEL 0 0 0, 1)]
       after (.treeSwitchComplete 0 0 0) s fun t =>
         decide (t.fld (Fld.SEC_RCLK_ACTIVE 0 0 0) = 1 ∧ t.fld (Fld.SEC_RCLK_SWITCH_PENDING 0 0 0) = 0 ∧ t.treeClosed = [])) ∧
      (let s := sets run0 [(Fld.SEC_RCLK_SWITCH_PENDING 0 0 0, 1), (Fld.SEC_RCLK_SEL 0 0 0, 1), (Fld.SEC_RCLK_IN1_SRC 0 0 0, 5)]
       after (.treeSwitchComplete 0 0 0) s fun t => decide (t.regs = s.regs ∧ t.treeClosed = [0])) ∧
      (let s := sets run0 [(Fld.SEC_RCLK_SWITCH_PENDING 0 0 0, 1), (Fld.SEC_RCLK_SEL 0 0 0, 1), (Fld.SEC_RCLK_IN0_SRC 0 0 0, 5)]
       after (.treeSwitchComplete 0 0 0) s fun t => decide (t = s.setTree 0 0 0 { s.tree 0 0 0 with hung := true })) ∧
      (let s := (sets run0 [(Fld.SEC_RCLK_SWITCH_PENDING 0 0 0, 1), (Fld.SEC_RCLK_SEL 0 0 0, 1)]).setTree 0 0 0 { TreeSt.idle with hung := true }
       after (.treeSwitchComplete 0 0 0) s fun t => decide (t = s)) := by decide +kernel

/-- R161, R162 and R169: a write of SEL 1 with other sources waits; the region clock reset takes it. -/
theorem wit_tree_writes :
    (let a := Reg.SEC_RCLK 0 0 0
     run0.accepts .flint a 0x01184210 && after (.treeSelWrite .flint 0 0 0 0x01184210) run0 fun t =>
       decide (t.fld (Fld.SEC_RCLK_SWITCH_PENDING 0 0 0) = 1 ∧ t.treeSrc 0 0 0 0 = 0 ∧ SMap.find t.shadow a = some 0x01084210#32)) ∧
      (let s := sets run0 [(Fld.SEC_RCLK_SWITCH_PENDING 0 0 0, 1), (Fld.SEC_RCLK_SEL 0 0 0, 1)]
       s.accepts .flint (Reg.SEC_RCLK 0 0 0) 0x00000210 && after (.treeSelWrite .flint 0 0 0 0x00000210) s fun t =>
         decide (t.fld (Fld.SEC_RCLK_SWITCH_PENDING 0 0 0) = 0)) ∧
      (let s := ({ run0 with shadow := [(Reg.SEC_RCLK 0 0 0, 0x02184211#32)] }).setTree 0 0 0 { TreeSt.idle with hung := true, open_ := true }
       s.accepts .flint (Reg.SEC_RCLK_RST 0 0) 1 && after (.secRclkRst .flint 0 0 1) s fun t =>
         decide (t.shadow = [] ∧ (t.tree 0 0 0).hung = false ∧ (t.tree 0 0 0).open_ = false ∧ (t.tree 0 0 0).level = false ∧ t.treeSrc 0 0 0 0 = 17 ∧ t.fld (Fld.SEC_RCLK_DIV 0 0 0) = 2)) := by decide +kernel

theorem wit_reference_events :
    (let s := sets { dev with clk := { dev.clk with counting := true } } [(Fld.CLK_STATUS_REFA_STATE, 1)]
     after .startDelayComplete s fun t => decide (t.fld Fld.CLK_STATUS_REFA_STATE = 2)) ∧
      (let s := sets dev [(Fld.CLK_CTRL_REFB_EN, 1), (Fld.CLK_STATUS_REFB_STATE, 3)]
       after (.refbQualified true) s fun t => decide (t.fld Fld.CLK_STATUS_REFB_STATE = 2)) ∧
      (let s := sets dev [(Fld.CLK_CTRL_REFA_EN, 1), (Fld.CLK_STATUS_REFA_STATE, 3)]
       after .refaOscillationStart s fun t => decide (t.fld Fld.CLK_STATUS_REFA_STATE = 1 ∧ t.clk.counting = true)) ∧
      (let s := sets dev [(Fld.CLK_STATUS_REFA_STATE, 2)]
       s.refPresent 1 && after (.referenceTrip false true) s fun t => decide (t.fld Fld.CLK_STATUS_REFA_STATE = 3 ∧ t.fld Fld.CLK_IRQ_STATUS_REFLOST = 1)) ∧
      (let s := sets dev [(Fld.CLK_STATUS_REFA_STATE, 2), (Fld.CLK_STATUS_REFB_STATE, 2), (Fld.CLK_STATUS_AONSRC, 1), (Fld.CLK_STATUS_DREFSRC, 2)]
       after (.referenceTrip false true) s fun t => decide (t.fld Fld.CLK_STATUS_AONSRC = 2 ∧ t.fld Fld.CLK_LOSS_CAUSE = 1 ∧ t.fld Fld.CLK_LOSS_TO = 2)) ∧
      (let s := sets dev [(Fld.CLK_STATUS_REFA_STATE, 2), (Fld.CLK_STATUS_AONSRC, 1)]
       after .mclkWatch s fun t => decide (t.fld Fld.CLK_STATUS_AONSRC = 0 ∧ t.fld Fld.CLK_LOSS_CAUSE = 3 ∧ t.clk.lossOnMclk = true)) ∧
      (let s := sets dev [(Fld.CLK_STATUS_REFA_STATE, 2), (Fld.CLK_STATUS_REFB_STATE, 2), (Fld.CLK_STATUS_AONSRC, 1)]
       s.refPresent 2 && after .mclkWatch s fun t => decide (t.fld Fld.CLK_STATUS_AONSRC = 2 ∧ t.fld Fld.CLK_LOSS_CAUSE = 4 ∧ t.clk.lossOnMclk = false)) ∧
      (let s := sets dev [(Fld.CLK_STATUS_HOLDOVER, 1), (Fld.SPL_PLL_STATUS_LOCKED 3 7, 1)]
       !s.refPresent 1 && !s.refPresent 2 && after .holdoverExpiry s fun t =>
         decide (t.fld Fld.CLK_STATUS_DREFLOST = 1 ∧ t.fld (Fld.SPL_PLL_STATUS_LOSTLOCK 3 7) = 1)) := by decide +kernel

theorem wit_clock_control :
    after (.refaEn .flint true) (sets dev [(Fld.CLK_CTRL_REFB_EN, 1)]) (fun t =>
        decide (t.fld Fld.CLK_CTRL_REFA_EN = 1 ∧ t.fld Fld.CLK_STATUS_REFA_STATE = 1 ∧ t.fld Fld.CLK_CTRL_REFB_EN = 1)) ∧
      after (.refbEn .flint true) (sets dev [(Fld.CLK_CTRL_REFB_EN, 0)]) (fun t => decide (t.fld Fld.CLK_STATUS_REFB_STATE = 1)) ∧
      after (.refbEn .flint false) (sets dev [(Fld.CLK_CTRL_REFB_EN, 1), (Fld.CLK_STATUS_REFB_STATE, 2)]) (fun t =>
        decide (t.fld Fld.CLK_STATUS_REFB_STATE = 0 ∧ t.fld Fld.CLK_IRQ_STATUS_REFLOST = 0)) ∧
      (let s := sets dev [(Fld.CLK_CTRL_REFA_EN, 1), (Fld.CLK_CTRL_REFB_EN, 1), (Fld.CLK_STATUS_REFA_STATE, 2), (Fld.CLK_STATUS_REFB_STATE, 2),
         (Fld.CLK_STATUS_AONSRC, 1), (Fld.CLK_STATUS_DREFSRC, 2)]
       after (.refaEn .flint false) s (fun t => decide (t.fld Fld.CLK_STATUS_AONSRC = 2 ∧ t.fld Fld.CLK_LOSS_CAUSE = 1)) &&
         after (.aonsel .flint 2) s (fun t => decide (t.fld Fld.CLK_STATUS_AONSRC = 2 ∧ t.fld Fld.CLK_LOSS_CAUSE = 0))) ∧
      after (.aonsel .flint 2) (sets dev [(Fld.CLK_CTRL_REFB_EN, 0)]) (fun t => decide (t.fld Fld.CLK_STATUS_SELREFUSED = 1)) := by decide +kernel

/-- Flint may write CLK_CTRL with any value. -/
theorem wit_clock_control_accepts : ∀ v, dev.accepts .flint Reg.CLK_CTRL v = true := accepts_any (by decide +kernel)

theorem wit_power_requests :
    (let s := sets run0 [(Fld.PWR_DOM_STATE 20, 0), (Fld.PWR_DOM_STATE 21, 0)]
     let a := Reg.PWR_DOM 20
     writesB (.domainPowerOn .flint 20) s .flint a 0x20000000 [a, Reg.PWR_DOM 21, Reg.PWR_DOM 24] fun t =>
       s.domExists 20 && decide (t.fld (Fld.PWR_DOM_STATE 20) = 1 ∧ t.fld (Fld.PWR_DOM_STATE 21) = 1 ∧ t.fld (Fld.PWR_DOM_REQ 20) = 1)) ∧
      (let s := sets dev [(Fld.HUB_IDENT_DIE_PRESENT, 7)]
       let a := Reg.PWR_DOM 46
       writesB (.domainPowerOn .flint 46) s .flint a 0x20000000 [a] fun t =>
         !s.domExists 46 && decide (t.fld (Fld.PWR_DOM_REFUSED 46) = 1 ∧ t.fld (Fld.PWR_DOM_CAUSE 46) = 5)) ∧
      (let a := Reg.PWR_DOM 8
       writesB (.domainPowerOff .flint 8) run0 .flint a 0 [a] fun t => run0.offCause 8 = 0 && decide (t.fld (Fld.PWR_DOM_STATE 8) = 3)) ∧
      (let a := Reg.PWR_DOM 2
       writesB (.domainPowerOff .flint 2) run0 .flint a 0 [a] fun t => run0.offCause 2 = 1 &&
         decide (t.fld (Fld.PWR_DOM_REFUSED 2) = 1 ∧ t.fld (Fld.PWR_DOM_CAUSE 2) = 1)) := by decide +kernel

theorem wit_power_domain_events :
    (let s := sets run0 [(Fld.PWR_DOM_STATE 24, 1), (Fld.PWR_DOM_REQ 24, 1)]
     after (.domainOn 24) s fun t => decide (t.fld (Fld.PWR_DOM_STATE 24) = 2 ∧ regDiff s t = [Reg.PWR_DOM 24])) ∧
      (let s := sets run0 [(Fld.PWR_DOM_STATE 24, 1), (Fld.PWR_DOM_REQ 24, 0)]
       after (.domainOn 24) s fun t => decide (t.fld (Fld.PWR_DOM_STATE 24) = 3)) ∧
      (let s := sets run0 [(Fld.PWR_DOM_STATE 8, 3), (Fld.PWR_DOM_REQ 8, 0)]
       s.domDrained 8 && after (.domainOff 8) s fun t => decide (t.fld (Fld.PWR_DOM_STATE 8) = 0)) ∧
      (let s := sets run0 [(Fld.PWR_DOM_STATE 8, 3), (Fld.PWR_DOM_REQ 8, 1)]
       s.domDrained 8 && after (.domainOff 8) s fun t => decide (t.fld (Fld.PWR_DOM_STATE 8) = 2)) ∧
      (let s := sets (onEng { EngSt.fresh with dbell := 7 }) [(Fld.PWR_DOM_STATE 20, 3), (Fld.PWR_DOM_REQ 20, 0)]
       s.domDrained 20 && after (.domainOff 20) s fun t => decide (t.fld (Fld.PWR_DOM_STATE 20) = 0 ∧ t.eng 0 = EngSt.fresh)) ∧
      (let s := sets { run0 with mica := [(5, Cell.of 1)] } [(Fld.PWR_DOM_STATE 25, 3), (Fld.PWR_DOM_REQ 25, 0)]
       s.domDrained 25 && after (.domainOff 25) s fun t => decide (t.fld (Fld.PWR_DOM_STATE 25) = 0 ∧ t.micaCell 0 0 5 = Cell.unwritten)) := by
  decide +kernel

theorem wit_thermal_sample :
    (dev.up && dev.sensorOk 0 && dev.sensorOk 1 && !(sets dev [(Fld.THM_SENS_FAILED 70, 1)]).sensorOk 70) ∧
      (some (1000 : BitVec 12)).any fun x => decide (1000 ≤ x.toInt) := by
  decide +kernel

/-- Straps and supplies of a plain start. -/
def start0 : StartIn := { rcvryN := true, pudcN := true, xadly := 3, bankNom := 0, leafLost := false, vbakLow := false, bakAbsent := false }

/-- Each kind of start from a state that it may come from. -/
theorem wit_starts :
    after (.powerOn start0) { dev with phase := .off } (fun t => decide (t.phase = .start 1)) ∧
      after (.resetN start0) dev (fun t => decide (t.phase = .start 1)) ∧
      after (.supplyResetEnd start0) { dev with phase := .supplyReset } (fun t => decide (t.phase = .start 1)) ∧
      after (.vaonReturn start0) { dev with phase := .hold } (fun t => decide (t.phase = .start 1)) ∧
      after (.vaonReturn start0) { dev with phase := .off } (fun t => decide (t.phase = .start 1)) := by decide +kernel

theorem wit_supply_loss :
    (dev.railCounts 3 && after (.supplyReset 3 true) dev fun t =>
        decide (t.phase = .supplyReset ∧ t.fld Fld.PWR_RAILLOG_RAIL = 3 ∧ t.fld Fld.PWR_RAILLOG_OVER = 1 ∧ t.fld Fld.PWR_RAILLOG_COUNT = 1)) ∧
      (let s := sets dev [(Fld.PWR_RAILLOG_VALID, 1), (Fld.PWR_RAILLOG_RAIL, 9), (Fld.PWR_RAILLOG_COUNT, 255)]
       after (.supplyReset 3 false) s fun t => decide (t.fld Fld.PWR_RAILLOG_RAIL = 9 ∧ t.fld Fld.PWR_RAILLOG_COUNT = 255)) ∧
      after (.vaonLoss .holds) dev (fun t => decide (t.phase = .hold ∧ t.fld Fld.PWR_SUPPLY_BAKEVENTS = 1)) ∧
      after (.vaonLoss .absent) dev (fun t => decide (t = { dev with phase := .off })) := by decide +kernel

/-- A device at step `n` of a start, with a reference and empty bundles. -/
def startAt (n : Nat) : State := sets { State.blank with phase := .start n } [(Fld.HUB_IDENT_DIE_PRESENT, 15), (Fld.CLK_STATUS_REFA_STATE, 2)]

theorem wit_start_steps_early :
    ((startAt 2).refPresent 1 && after (.startupReferencePresent (List.replicate 8 (.ok 256 2 4 3)) []) (startAt 2) fun t =>
        decide (t.phase = .start 3 ∧ t.fld Fld.CLK_STATUS_AONSRC = 1 ∧ t.fld Fld.HRG_DDRTOP_GIB = 1728 ∧ t.fld (Fld.DDR_STATUS_GIB 7) = 256)) ∧
      (after (.startupReferencePresent (List.replicate 8 (.ok 256 4 4 3)) []) (startAt 2) fun t =>
        decide (t.fld (Fld.DDR_STATUS_STATE 7) = 3 ∧ t.fld (Fld.DDR_STATUS_GIB 7) = 256)) ∧
      (after .startupBedrockUp (startAt 3) fun t =>
        decide (t.phase = .start 4 ∧ t.fld (Fld.PWR_DOM_STATE 23) = 0 ∧ t.fld (Fld.PWR_DOM_STATE 24) = 2 ∧ t.fld (Fld.STR_BSTAT_STATE 63) = 1)) := by decide +kernel

theorem wit_start_steps_trained :
    (let s := sets (startAt 4) ((List.range 64).map fun i => (Fld.STR_BSTAT_STATE i, 2))
     after .startupBundlesTrained s fun t => decide (t.phase = .start 5 ∧ t.fld Fld.HUB_FEATURES_COMMON % 2 = 1 ∧ t.fld (Fld.HUB_DIE_STATUS_STATE 3) = s.dieCode 3)) ∧
      (let s := sets (startAt 4) ([(Fld.STR_BSTAT_STATE 2, 3), (Fld.STR_BSTAT_STATE 4, 3), (Fld.STR_BSTAT_STATE 5, 3)] ++
         ((List.range 64).filter fun i => i ≠ 2 && i ≠ 4 && i ≠ 5).map fun i => (Fld.STR_BSTAT_STATE i, 2))
       s.dieCode 0 = 1 ∧ after .startupBundlesTrained s fun t => decide (bits (t.reg Reg.HRG_COLMAP) 7 0 = 0xFB)) := by
  decide +kernel

theorem wit_start_steps_late :
    after (.startupFlashLoad []) (startAt 5) (fun t => decide (t = { startAt 5 with phase := .start 6 })) ∧
      (let image : List Byte := [0x4C, 0x52, 0x42, 0x53]; leAt image 0 4 = 0x5342524C ∧ (startAt 5).straps.rcvryN = true) ∧
      (startAt 6).phase = .start 6 ∧ (startAt 6).loader.stream = none := by decide +kernel

theorem wit_device_halts :
    after .deviceHalt { onEng (eng1 5) with phase := .halted, mica := [(5, Cell.of 1)] } (fun t =>
      decide (t.haltDone = true ∧ t.engines = [] ∧ t.mica = [] ∧ t.fld (Fld.PWR_DOM_STATE 0) = 2 ∧ t.fld (Fld.PWR_DOM_STATE 20) = 0)) := by decide +kernel

theorem wit_halted_management :
    (let s := { dev with phase := .halted }
     after (.mgmtRead (BitVec.ofNat 32 Reg.PWR_SUPPLY)) s fun t => decide (t.out = [.mgmt 0xC0 (some (s.reg Reg.PWR_SUPPLY))])) ∧
      (let s := { dev with phase := .halted }; after (.mgmtRead 0) s fun t => decide (t.out = [.mgmt 0xC2 (some 0)])) ∧
      (let s := { dev with phase := .halted }; after (.mgmtWrite 0 5) s fun t => decide (t.out = [.mgmt 0xC2 none] ∧ t.regs = s.regs)) := by decide +kernel

/-- A path that meets bus error `k`. -/
def busB (s : State) (path : Path) (a : Nat) (ok w : Bool) (k : Nat) : Bool :=
  match s.reach path a ok w with
  | .inr (.bus j) => j == k
  | _ => false

theorem wit_flint_faults :
    after (.flintWatchdogExpiry 5000) { dev with wdog := [100, 4900] } (fun t =>
        decide (t.flintUp = true ∧ t.wdog = [100, 4900, 5000] ∧ t.fld Fld.FLN_STATUS_WDOG_COUNT = 1)) ∧
      after (.flintWatchdogExpiry 5000) { dev with wdog := [4800, 4900] } (fun t =>
        decide (t.flintUp = false ∧ t.fld Fld.FLN_STATUS_FLINT_DOWN = 1 ∧ t.fld Fld.FLN_IRQ_STATUS_WDOG = 1)) ∧
      after (.flintPoisonRead false 0x123456789ABC) dev (fun t =>
        decide (t.fld Fld.FLN_FWLOG_A_KIND = 0 ∧ t.fld Fld.FLN_FWLOG_A_ADDRHI = 0x123456789ABC / 2 ^ 38)) ∧
      (busB dev .flint 0xF00000 true false 0 && after (.flintBusError 0xF00000 true none) dev fun t =>
        decide (t.fld Fld.FLN_FWLOG_A_KIND = 2 ∧ t.fld Fld.FLN_FWLOG_A_BUSKIND = 0 ∧ t.reg Reg.FLN_FWLOG_B = 0xF00000)) := by decide +kernel

/-- An empty queue with no spine enabled, and a halted device that no step revives. -/
theorem wit_empty_queue_and_halt :
    dev.pending = [] ∧ dev.liveSpines = [] ∧
      (let s := { State.blank with phase := .halted, haltDone := true, flintUp := false }; s.up = false ∧ s.pending = [] ∧ s.engines = []) := by decide +kernel

/-- The block, register and fields of an address in one of the blocks that `Obligations.RegisterWrites` names. -/
def plainB (a : Nat) : Bool :=
  match regSel a with
  | some (b, .reg r) => [Block.hub, .thm, .ddr, .slt, .sep, .hrg].contains b.desc.blk && !(b.desc.blk == .hrg && b.off == 0x2C) && !r.fields.isEmpty
  | _ => false

/-- A field that applies at once, one that waits and is then applied, and W1C. -/
theorem wit_register_writes :
    (let a := Reg.THM_CTRL
     plainB a && writesB (.registerWrite .flint a true (some 0xFFFFFFFF) 0) dev .flint a 0xFFFFFFFF [a] fun t => decide (t.reg a = 0xFF)) ∧
      (let a := Reg.HRG_DIEPOL
       plainB a && dev.accepts .flint a 5 && after (.registerWrite .flint a true (some 5) 0) dev fun t =>
         decide (t.reg a = 0 ∧ t.shadow = [(a, 5)]) && after (.shadowApply a) t fun u => decide (u.reg a = 5 ∧ u.shadow = [])) ∧
      (let a := Reg.THM_IRQ_STATUS
       let s := sets dev [(Fld.THM_IRQ_STATUS_FAILED, 1)]
       s.accepts .flint a 0xFFFFFFFF && after (.registerWrite .flint a true (some 0xFFFFFFFF) 0) s fun t => decide (t.reg a = 0)) := by decide +kernel

/-! ## Register accesses and leases -/

/-- A path reaches a control register of a block: `back` bytes before its end. -/
def ctlB (s : State) (path : Path) (base size back : Nat) (sel : RegSel) : Bool :=
  s.pathUp path && s.portFree path && !path.barred (base + size - back) &&
    match s.reach path (base + size - back) true true with
    | .inl (b, x) => b.base == base && b.desc.size == size && x == sel
    | _ => false

/-- The HRG block and a write that waits in it, a lock, an arm that is taken, one that is refused, and one that lapses. -/
def guardsB : Bool :=
    (let a := Reg.HRG_DIEPOL
     match blockAt a with
     | some b =>
       let s := { dev with shadow := [(a, 5)], arms := [⟨b.base, .flint⟩] }
       ctlB s .flint b.base b.desc.size 0x10 .pend && ctlB s .flint b.base b.desc.size 0xC .guard && ctlB s .mgmt b.base b.desc.size 8 .unlock &&
         after (.pendCancel .flint a) s (fun t => onlyB { s with shadow := [] } t []) &&
         after (.guardLock .flint a) s (fun t => onlyB { s with locks := [b.base] } t []) &&
         after (.unlock .mgmt a 0xA5C30F17) s (fun t => s.kAvail .mgmt && onlyB s t [] && decide (t.arms = [⟨b.base, .mgmt⟩])) &&
         after (.unlock .mgmt a 7) s (fun t => onlyB s t [Reg.FLN_BUSERR_LOG, Reg.FLN_BUSERR_COUNT, Reg.FLN_IRQ_STATUS] &&
           decide (t.arms = [] ∧ t.fld Fld.FLN_BUSERR_LOG_KIND = 2)) &&
         after (.kArmLapse a) s (fun t => decide (t = { s with arms := [] }))
     | none => false)

theorem wit_guards : guardsB := by decide +kernel

theorem wit_bus_errors :
    busB dev .mgmt 0xF00000 true true 0 ∧ decide (dev.lcState ≠ 4) ∧
      after (.registerWrite .mgmt 0xF00000 true (some 5) 0) dev (fun t =>
        onlyB dev t [Reg.FLN_BUSERR_LOG, Reg.FLN_BUSERR_COUNT, Reg.FLN_IRQ_STATUS] &&
          decide (t.fld Fld.FLN_BUSERR_LOG_KIND = 0 ∧ t.fld Fld.FLN_BUSERR_LOG_WRITE = 1 ∧ t.fld Fld.FLN_BUSERR_LOG_ADDR = 0xF00000 / 4 ∧
            t.fld Fld.FLN_BUSERR_COUNT_COUNT = 1)) ∧
      after (.registerWrite .mgmt 0xF00000 true (some 5) 0) (sets dev [(Fld.FLN_BUSERR_LOG_VALID, 1)]) (fun t =>
        decide (t.fld Fld.FLN_BUSERR_LOG_WRITE = 0)) := by decide +kernel

/-- A device with a management frame that waits. -/
def mgmtHeld : State := { dev with heldAcc := [⟨.mgmt, 4, none, 0⟩] }

theorem wit_management_frames :
    after (.mgmtRead 0) dev (fun t => decide (t.out = [.mgmt 0x40 (some 0x485030F0)])) ∧
      after (.mgmtRead 0xF00000) dev (fun t => decide (t.out = [.mgmt 0x42 (some 0)])) ∧
      (let a := BitVec.ofNat 32 Reg.THM_CTRL
       dev.accepts .mgmt a.toNat 5 && after (.mgmtWrite a 5) dev fun t => decide (t.out = [.mgmt 0x40 none] ∧ t.reg a.toNat = 5)) ∧
      after .mgmtStatus mgmtHeld (fun t => decide (t.out = [.mgmt 0x40 none] ∧ t.heldAcc = [])) ∧
      after .mgmtFrameAbandon mgmtHeld (fun t => decide (t = dev)) ∧ after .mgmtTimeout dev (fun t => decide (t = dev)) ∧
      after .mgmtTimeout mgmtHeld (fun t => decide (t.out = [.mgmt 0x45 none] ∨ t.out = [.mgmt 0x45 (some 0)])) := by decide +kernel

theorem wit_leases :
    writesB (.semAcquire .flint 7) dev .flint (Reg.FLN_SEM_OP 7) 1 [Reg.FLN_SEM 7] (fun t => decide (t.reg (Reg.FLN_SEM 7) = dev.flintId)) ∧
      (let s := dev.setReg (Reg.FLN_SEM 7) dev.flintId
       writesB (.semRelease .flint 7) s .flint (Reg.FLN_SEM_OP 7) 0 [Reg.FLN_SEM 7] fun t => decide (t.reg (Reg.FLN_SEM 7) = 0)) ∧
      (let w : Word := 0x10000000; let s := dev.setReg (Reg.FLN_SEM 7) w
       s.accepts .flint Reg.FLN_REVOKE w && kindDeclares (ownerKind w) && ownerKind w != 2 && after (.flnRevoke .flint w) s fun t =>
         decide (t.revs = [⟨w, [.sem 7], false⟩] ∧ t.reg (Reg.FLN_SEM 7) = revokingId ∧ t.fld Fld.FLN_LEASE_STAT_BUSY = 1)) ∧
      writesB (.flnRevoke .flint 0x10000000) dev .flint Reg.FLN_REVOKE 0x10000000 [Reg.FLN_LEASE_LOG, Reg.FLN_LEASE_STAT, Reg.FLN_IRQ_STATUS]
        (fun t => dev.leasesOf 0x10000000 == [] && decide (t.reg Reg.FLN_LEASE_LOG = 0x10000000 ∧ t.fld Fld.FLN_LEASE_STAT_COUNT = 1)) ∧
      writesB (.flnRevoke .flint 0x90000000) dev .flint Reg.FLN_REVOKE 0x90000000 [] (fun _ => !kindDeclares 9) ∧
      (let s := { (dev.setReg (Reg.FLN_SEM 7) revokingId) with revs := [⟨5, [.sem 7], true⟩] }
       after (.revocationComplete 5) s fun t => decide (t.revs = [] ∧ t.reg (Reg.FLN_SEM 7) = 0 ∧ t.reg Reg.FLN_LEASE_LOG = 5)) := by decide +kernel

/-! ## Mica -/

/-- A port that has had its first edge, without throttling. -/
def ready0 : MicaPort := { level := 0, count := 0, started := true }

/-- Port 0 of die 0 is enabled and ready, and word 5 of it holds `c`. -/
def mica0 (c : Cell) : State :=
  let s := sets run0 [(Fld.MCA_STATUS_INIT_DONE 0, 1)]
  State.setMica { s with frames := s.frames ++ [(posKey 0 45 0 1, (1 : BitVec 4096) <<< 3104)], mports := [(0, ready0)] } 0 0 5 c

/-- Port 0 is ready and clocked, its group has this export bit, and a command of it passes a check. -/
def micaB (s : State) (hidden : Bool) (c : Instr) (p : State → Bool) : Bool := s.up && s.micaClock 0 0 && s.micaReady 0 0 && s.exported 0 0 == hidden && after c s p

theorem wit_mica_writes :
    (let s := mica0 (Cell.of 7)
     micaB s false (.micaWrite 0 0 5 9 0xFF false) fun t => decide (t.micaCell 0 0 5 = ⟨9, .clean⟩ ∧ t.micaOut = [{ MicaResp.plain 0 0 0 with wait := s.micaLatency 0 0 }])) ∧
      micaB (mica0 (Cell.of 7)) false (.micaWrite 0 0 5 9 0x7F false) (fun t => decide (t.micaOut.map (·.status) = [1] ∧ t.micaCell 0 0 5 = Cell.of 7)) ∧
      (let s := (mica0 (Cell.of 7)).setReg (Reg.MCA_EXPORT 0 0) 1
       micaB s true (.micaWrite 0 0 5 9 0xFF false) fun t => decide (t = { s with micaOut := [{ MicaResp.plain 0 0 2 with wait := s.micaLatency 0 0 }] })) ∧
      (let s := mica0 (Cell.of 7); let t := { s with mports := [(0, { ready0 with level := 2, count := 1 })] }
       t.micaClock 0 0 && !t.micaReady 0 0 && decide (micaDiv 2 = 4 ∧ (t.micaEdge 0 0).mports = [(0, { ready0 with level := 2, count := 2 })]) &&
         after (.micaWrite 0 0 5 9 0xFF false) t fun u => decide (u = t.micaEdge 0 0)) ∧
      (let s := sets (mica0 (Cell.of 7)) [(Fld.CFG_REG_STAT_STATE 0, 4)]
       s.up && !s.micaClock 0 0 && after (.micaWrite 0 0 5 9 0xFF false) s fun t => decide (t = s)) := by decide +kernel

theorem wit_mica_reads :
    micaB (mica0 (Cell.of 7)) false (.micaRead 0 0 5 []) (fun t => decide (t.micaOut.map (fun m => { m with wait := 0 }) = [⟨0, 0, 0, 7, false, 0, false, 0⟩])) ∧
      micaB (mica0 ⟨2, .poison⟩) false (.micaRead 0 0 5 []) (fun t => decide (t.micaOut.map (fun m => { m with wait := 0 }) = [⟨0, 0, 0, 0, true, 2, false, 0⟩])) ∧
      micaB (mica0 ⟨7, .other false (BitVec.ofNat 72 (3 * 2 ^ 70))⟩) false (.micaRead 0 0 5 []) (fun t =>
        decide (t.micaOut.map (fun m => { m with wait := 0 }) = [⟨0, 0, 0, 0, true, 0, false, 0⟩] ∧ t.fld (Fld.MCA_UELOG_VALID 0) = 1 ∧ t.fld (Fld.MCA_UELOG_ADDR 0) = 5)) ∧
      micaB (mica0 ⟨7, .single 3⟩) false (.micaRead 0 0 5 []) (fun t =>
        decide (t.micaOut.map (fun m => { m with wait := 0 }) = [⟨0, 0, 0, 15, false, 0, true, 0⟩] ∧ t.fld (Fld.MCA_LOG_B_BIT 0 0) = 3 ∧ t.fld (Fld.MCA_LOG_A_ADDR 0 0) = 5)) ∧
      (let s := (mica0 (Cell.of 7)).setReg (Reg.MCA_EXPORT 0 0) 1
       micaB s true (.micaRead 0 0 5 []) fun t => decide (t.micaOut = [{ MicaResp.plain 0 0 2 with wait := s.micaLatency 0 0 }])) ∧
      (let m := { MicaResp.plain 0 0 0 with wait := 3 }; let s := { mica0 (Cell.of 7) with micaOut := [m, { m with wait := 5 }] }
       micaB s false (.micaResponse 0 0) fun t => decide (t.micaOut = [{ m with wait := 2 }] ∧ t.micaShown = [(0, { m with wait := 0 })] ∧
         t.out = [.mica { m with wait := 0 }])) ∧
      (let m := MicaResp.plain 0 0 0; let s := { sets (mica0 (Cell.of 7)) [(Fld.CFG_REG_STAT_STATE 0, 4)] with micaOut := [m, m] }
       s.up && !s.micaClock 0 0 && after (.micaResponse 0 0) s fun t => decide (t = s)) ∧
      (let m := MicaResp.plain 0 0 0
       let s := { sets (mica0 (Cell.of 7)) [(Fld.CFG_REG_STAT_FROZEN 0, 1)] with micaOut := [m], drains := [run0.groupEp 0 0] }
       s.up && s.micaClock 0 0 && !s.sectorRuns 0 (s.groupSector 0 0) && after (.micaResponse 0 0) s fun t =>
         decide (t.micaOut = [] ∧ t.micaShown = [] ∧ t.out = [])) := by
  decide +kernel

theorem wit_mica_maintenance :
    (let s := { dev with mica := [(5, Cell.of 1)], vein := [(9, Cell.of 2)] }
     after (.micaInitDone 0) s fun t => decide (t.mica = [] ∧ t.vein = [] ∧ t.fld (Fld.MCA_STATUS_INIT_DONE 0) = 1)) ∧
      writesB (.mcaErase .flint 0 200) dev .flint (Reg.MCA_ERASE 0) 0x800000C8 [Reg.MCA_STATUS 0] (fun t =>
        decide (t.fld (Fld.MCA_STATUS_ERASE_REFUSED 0) = 1)) ∧
      (dev.accepts .flint (Reg.MCA_ERASE 0) 0x80000000 && after (.mcaErase .flint 0 0) dev fun t =>
        decide (t.erasing = [(0, 0)] ∧ t.fld (Fld.MCA_STATUS_ERASE_BUSY 0) = 1)) ∧
      (let s := sets { mica0 (Cell.of 7) with erasing := [(0, 0)] } [(Fld.MCA_STATUS_ERASE_BUSY 0, 1)]
       after (.eraseDone 0) s fun t => decide (t.mica = [] ∧ t.erasing = [] ∧ t.fld (Fld.MCA_STATUS_ERASE_BUSY 0) = 0)) ∧
      (let s := sets dev [(Fld.MCA_LOG_A_VALID 0 3, 1), (Fld.MCA_LOG_B_COUNT 0 3, 9)]
       writesB (.mcaLogClear .flint 0 3) s .flint (Reg.MCA_LOG_A 0 3) 0x80000000 [Reg.MCA_LOG_A 0 3, Reg.MCA_LOG_B 0 3] fun t =>
         decide (t.reg (Reg.MCA_LOG_A 0 3) = 0 ∧ t.reg (Reg.MCA_LOG_B 0 3) = 0)) ∧
      (let s := { dev with vein := [(9, ⟨7, .single 3⟩)] }
       s.accepts .flint (Reg.VEN_REWRITE 0) 0x80000008 && after (.venRewrite .flint 0 8 []) s fun t => decide (t.vein = [(9, ⟨15, .clean⟩)])) := by
  decide +kernel

/-! ## The ring network -/

/-- The device of `run0` with every column live and user port 0 of router (0,0) of die 0 enabled. -/
def net0 : State :=
  let s := run0.setReg Reg.HRG_COLMAP 0xFFFFFFFF
  { s with frames := [(posKey 0 41 16 1, (1 : BitVec 4096) <<< 3104), (posKey 0 42 0 1, (1 : BitVec 4096) <<< 3104)] }

/-- A port of die 0. -/
def ep0 (x y p : Nat) : Ep := net0.mkEp 0 x y p

/-- A read without coherence of one granule row, and a coherent read. -/
def rdnc (d s : Ep) : Packet := { pkt0 8 d s with gran := 0xFF, spec := 1 }
def rd (d s : Ep) : Packet := { pkt0 1 d s with gran := 0xFF }

/-- The conditions of `Obligations.PacketInjection` on a port and a packet. -/
def mayB (s : State) (e : Ep) (p : Packet) : Bool :=
  s.up && s.userMay e && !s.drains.contains e && !s.portFenced e && s.fences.isEmpty && p.cls == 0 && p.cmd != 6

theorem wit_packet_injection :
    (let e := ep0 0 0 0; let p := rdnc (ep0 1 1 0) e
     mayB net0 e p && !malformed { p with src := e, vc := 0 } && net0.poolRoom e (rspFlits p) && after (.packetInject e p) net0 fun t =>
       t.net.map (·.pkt.dst) == [ep0 1 1 0] && t.tags.length == 1) ∧
      (let e := ep0 0 0 0; let p := { rdnc (ep0 1 1 0) e with spec := 0 }
       mayB net0 e p && malformed { p with src := e, vc := 0 } && after (.packetInject e p) net0 fun t =>
         decide (t.net = [] ∧ t.tags = [] ∧ t.fld (Fld.RTR_IRQ_STATUS_MALFORMED 0 0) = 1)) ∧
      (let e := ep0 0 0 0; let p := rd (ep0 1 1 0) e; let s := post (.packetInject e p) net0
       mayB s e p && !malformed { p with src := e, vc := 0 } && after (.packetInject e p) s fun t => t.out.length == 1 && t.net.length == 1) ∧
      (let e := ep0 0 0 0; let p := { rd (ep0 1 1 0) e with addr := 0x40 }
       mayB net0 e p && net0.slicePlace 0 1 == some (1, 0) && after (.packetInject e p) net0 fun t => t.net.map (·.pkt.dst) == [ep0 1 0 8]) ∧
      (let e := ep0 0 0 0; let p := { rd { ep0 1 1 0 with die := 6 } e with addr := 0x40 }
       malformed p && !malformed { p with dst := e } && after (.packetInject e p) net0 fun t => t.net.map (·.pkt.dst) == [ep0 1 0 8]) ∧
      (let e := ep0 0 0 0; let p := rd (ep0 1 1 0) e; let s := net0.setReg Reg.HRG_COLMAP 0
       mayB s e p && s.liveCols 0 == 0 && after (.packetInject e p) s fun t => t.net == [] && t.fld Fld.HRG_UNREACH_COUNT == 1) := by decide +kernel

/-- A port with 64 requests outstanding takes no other one. -/
theorem wit_packet_injection_full :
    (let e := ep0 0 0 0; let p := { rdnc (ep0 1 1 0) e with tag := 100 }
     let te : TagEntry := { ep := e, tag := 0, live := true, timed := false, slots := 0, cmd := 8, addr := 0, dst := e, purpose := .user }
     let s := { net0 with tags := (List.range 64).map fun i => { te with tag := BitVec.ofNat 12 i } }
     mayB s e p && after (.packetInject e p) s fun t => decide (t = s)) := by decide +kernel

/-- The device of `net0` with one packet at a place. -/
def fly (l : Loc) (p : Packet) : State := { net0 with net := [⟨l, p⟩] }

/-- After a command the one packet stands at a place, on this channel. -/
def hopsB (c : Instr) (s : State) (l : Loc) (vc : Nat) : Bool := after c s fun t => t.net.map (fun f => (f.loc, f.pkt.vc.toNat)) == [(l, vc)]

theorem wit_router_hops :
    hopsB (.routerForward 0) (fly (.router 0 7 0 3) (rdnc (ep0 1 5 0) (ep0 7 0 0))) (.router 0 0 0 16) 1 ∧
      hopsB (.routerForward 0) (fly (.router 0 0 0 3) (rdnc (ep0 5 5 0) (ep0 0 0 0))) (.router 0 7 0 17) 1 ∧
      hopsB (.routerForward 0) (fly (.router 0 1 0 16) { rdnc (ep0 2 5 0) (ep0 7 0 0) with vc := 1 }) (.router 0 2 0 16) 1 ∧
      hopsB (.routerForward 0) (fly (.router 0 1 0 16) { rdnc (ep0 1 5 0) (ep0 7 0 0) with vc := 1 }) (.router 0 1 1 18) 0 ∧
      hopsB (.routerForward 0) (fly (.router 0 1 5 3) (rdnc (ep0 1 0 0) (ep0 7 0 0))) (.router 0 1 4 19) 0 ∧
      (let p := rdnc (net0.mkEp 1 0 0 0) (ep0 0 0 0)
       hopsB (.routerForward 0) (fly (.router 0 0 0 3) p) (.edge 0 0) 0 && firstLive (net0.liveCols 0) (fold3 p.key) == some 0) := by decide +kernel

theorem wit_edge_stop :
    (let p := rdnc (net0.mkEp 1 0 0 0) (ep0 0 0 0); let s := sets (fly (.edge 0 0) p) [(Fld.STR_BSTAT_STATE 0, 2), (Fld.STR_BSTAT_STATE 1, 2)]
     parity p.key == 0 && after (.edgeStopExit 0) s fun t => t.net == [] && (t.link (.bundle 0)).up.queue == [p]) ∧
      (let p := rdnc (net0.mkEp 1 0 0 0) (ep0 0 0 0); let s := sets (fly (.edge 0 0) p) [(Fld.STR_BSTAT_STATE 1, 2)]
       after (.edgeStopExit 0) s fun t => (t.link (.bundle 1)).up.queue == [p]) ∧
      (let p := rdnc (net0.mkEp 1 0 0 0) (ep0 0 0 0); let l := Link.fresh
       let s := { sets (fly (.edge 0 0) p) [(Fld.STR_BSTAT_STATE 0, 2)] with links := [(0, { l with up := { l.up with queue := List.replicate 32 p } })] }
       !(s.link (.bundle 0)).up.fits p && after (.edgeStopExit 0) s fun t => t == s) ∧
      (let p := rdnc (net0.mkEp 1 0 0 0) (ep0 0 0 0)
       after (.edgeStopExit 0) (fly (.edge 0 0) p) fun t => t.net == [⟨.router 0 0 0 20, rspErr p 7⟩] && t.fld Fld.HRG_UNREACH_COUNT == 1) := by decide +kernel

theorem wit_ingress_switch :
    hopsB (.ingressSwitch 0) (fly (.ingressPort 2 1 0) (rdnc (net0.mkEp 3 5 0 0) (ep0 0 0 0))) (.hub 5 1 0) 0 ∧
      hopsB (.ingressSwitch 0) (fly (.ingressPort 2 1 0) (rdnc (net0.mkEp 4 6 5 0) (ep0 0 0 0))) (.hub 6 1 0) 0 ∧
      (let p := rdnc { net0.mkEp 4 6 5 0 with dx := 9 } (ep0 0 0 0)
       !net0.localEp p.dst && after (.ingressSwitch 0) (fly (.ingressPort 2 1 0) p) fun t => t.net.map (·.loc) == [Loc.hub (fold3 p.key) 1 0]) ∧
      (let p := rdnc (net0.mkEp 3 5 0 0) (ep0 0 0 0); let s := sets (fly (.ingressPort 2 1 0) p) [(Fld.HUB_IDENT_DIE_PRESENT, 7)]
       !s.dieOk 3 && after (.ingressSwitch 0) s fun t => t.net == [⟨.ingressPort 2 1 0, rspErr p 7⟩]) := by decide +kernel

/-- Around a hub ring from stop 1: to stop 6 of die 3 down and across the wrap, to stop 5 of an agent up, to stop 7 of a Lode port down. -/
theorem wit_hub_ring :
    hopsB (.ingressSwitch 0) (fly (.hub 5 1 0) (rdnc (net0.mkEp 3 5 0 0) (ep0 0 0 0))) (.hub 5 0 2) 0 ∧
      hopsB (.ingressSwitch 0) (fly (.hub 5 0 2) (rdnc (net0.mkEp 3 5 0 0) (ep0 0 0 0))) (.hub 5 7 2) 1 ∧
      hopsB (.ingressSwitch 0) (fly (.hub 6 1 0) (rdnc (net0.mkEp 4 6 5 0) (ep0 0 0 0))) (.hub 6 2 1) 0 ∧
      (let p := rdnc { net0.mkEp 4 6 5 0 with dx := 9 } (ep0 0 0 0); hopsB (.ingressSwitch 0) (fly (.hub 2 1 0) p) (.hub 2 0 2) 0) := by decide +kernel

/-- A packet at the router of user port 0 of die 0, with its CRCs. -/
def atPort (p : Packet) : State := fly (.router 0 0 0 3) (Packet.finish p)

theorem wit_packet_ejection :
    (let p := rdnc (ep0 0 0 0) (ep0 1 0 0)
     checkCrc (Packet.finish p) == some (Packet.finish p, 0) && after (.packetEject 0) (atPort p) fun t =>
       t == { net0 with inbox := [⟨ep0 0 0 0, Packet.finish p⟩] }) ∧
      (let p := rdnc (ep0 0 0 0) (ep0 1 0 0)
       checkCrc p == none && after (.packetEject 0) (fly (.router 0 0 0 3) p) fun t => t.net == [] && t.inbox == [] && t.fld (Fld.RTR_IRQ_STATUS_CRC 0 0) == 1) ∧
      (let p := rd (ep0 0 0 0) (ep0 1 0 0); after (.packetEject 0) (atPort p) fun t => t.net.map (·.pkt) == [rspErr (Packet.finish p) 2]) ∧
      (let p := rdnc (ep0 0 0 1) (ep0 1 0 0); after (.packetEject 0) (atPort p) fun t => t.net.map (·.pkt) == [rspErr (Packet.finish p) 6]) ∧
      (let p := rdnc (ep0 0 0 0) (ep0 1 0 0); let s := { atPort p with drains := [ep0 0 0 0] }
       after (.packetEject 0) s fun t => t.net.map (·.pkt) == [rspErr (Packet.finish p) 4]) ∧
      (let p := rdnc (ep0 0 0 0) (ep0 1 0 0); let q := { rdnc (ep0 0 0 0) (ep0 1 0 0) with len := 36 }
       let s := { atPort p with inbox := [⟨ep0 0 0 0, q⟩] }
       decide (36 < s.inboundFlits (ep0 0 0 0) + p.flits) && after (.packetEject 0) s fun t => t == s) := by decide +kernel

theorem wit_packet_ejection_elsewhere :
    (let p := rdnc (ep0 0 0 13) (ep0 1 0 0)
     portKind (ep0 0 0 13) == .none && after (.packetEject 0) (atPort p) fun t => t.net.map (·.pkt) == [rspErr (Packet.finish p) 2] && t.fld (Fld.RTR_IRQ_STATUS_NOEP 0 0) == 1) ∧
      (let e := net0.homeEp 3; let p := Packet.finish (rd e (ep0 1 0 8))
       portKind e == .home 3 && after (.packetEject 0) (fly (.hub 1 5 0) p) fun t => t == { net0 with inbox := [⟨e, p⟩] }) ∧
      (let e := net0.homeEp 3; let p := Packet.finish { pkt0 6 e (ep0 1 0 8) with gran := 0 }
       checkCrc p == some (p, 0) && after (.packetEject 0) (fly (.hub 1 5 0) p) fun t => t.net == [⟨.ingressPort 1 5 14, rspErr p 2⟩] && t.inbox == []) := by decide +kernel

/-- A live request of user port 0 of die 0. -/
def entry0 : TagEntry :=
  { ep := ep0 0 0 0, tag := 9, live := true, timed := true, slots := 2, cmd := 8, addr := 0, dst := ep0 1 0 0, purpose := .user }

theorem wit_port_tables :
    (let a := Reg.RTR_PORT 0 0 2
     net0.accepts .flint a 0x10200000 && after (.resvWrite .flint 0 0 2 0x10200000) net0 fun t =>
       SMap.find t.shadow a == some 0x10200000 && t.fld (Fld.RTR_POOL_RESV_REFUSED 0 0) == 0) ∧
      (let a := Reg.RTR_PORT 0 0 2; let s := { net0 with shadow := [(Reg.RTR_PORT 0 0 1, 0x01000000)] }
       s.accepts .flint a 0x01010000 && after (.resvWrite .flint 0 0 2 0x01010000) s fun t =>
         SMap.find t.shadow a == some 0 && t.fld (Fld.RTR_POOL_RESV_REFUSED 0 0) == 1) ∧
      (let e := ep0 0 0 0; let p := { pkt0 0x41 e (ep0 1 0 0) with cls := 1, tag := 9 }; let s := { net0 with tags := [entry0], inbox := [⟨e, p⟩] }
       s.liveEntry e 9 == some 0 && s.inOrder 0 ⟨e, p⟩ && s.userClock e && after (.rspAck 0) s fun t => (t.uport e).rsp == rxFlits true p && t == { net0 with uports := t.uports, out := [.deliver e p] }) ∧
      (let e := ep0 0 0 0; let p := { pkt0 0x40 e (ep0 1 0 0) with cls := 1, tag := 9 }
       let s := { net0 with tags := [{ entry0 with purpose := .engine 4 }], inbox := [⟨e, p⟩] }
       after (.rspData 0) s fun t => t == { net0 with engRsp := [(4, p)] }) ∧
      (let e := ep0 0 0 0; let p := { pkt0 0x42 e (ep0 1 0 0) with cls := 1, tag := 9 }; let s := { net0 with inbox := [⟨e, p⟩] }
       after (.rspErr 0) s fun t => t.fld (Fld.RTR_IRQ_STATUS_LATE 0 0) == 1 && t.fld (Fld.RTR_ERRCNT0_LATE 0 0) == 1) := by decide +kernel

/-- No engine has a command that waits, and no home a transaction. -/
theorem wit_no_engine_waits : net0.ringQuiet ∧ (∀ k, (net0.eng k).nextCmd = none) ∧ (∀ h, ∀ x ∈ (net0.home h).txns, x.answered = false) ∧
    ∀ port, portKind (ep0 0 0 0) ≠ .pcie port := by
  refine ⟨fun _ h => absurd h List.not_mem_nil, fun _ => rfl, fun _ _ h => absurd h List.not_mem_nil, fun port h => ?_⟩
  have hu : portKind (ep0 0 0 0) = .user := by decide +kernel
  rw [hu] at h
  cases h

theorem wit_port_timers_and_fences :
    (let e := ep0 0 0 0; let s := { net0 with tags := [entry0] }
     after (.requestTimeout e 9) s fun t => t.tags == [{ entry0 with live := false, slots := 0 }] && t.fld (Fld.RTR_IRQ_STATUS_TIMEOUT 0 0) == 1 && t.out.length == 1) ∧
      (let e := ep0 0 0 0; let s := { net0 with tags := [entry0, { entry0 with live := false }] }
       after (.expiredEntryFree e 9) s fun t => t == { net0 with tags := [entry0] }) ∧
      (let e := ep0 0 0 0; let s := sets { net0 with waking := [e] } [(Fld.RTR_PORT_WAKING 0 0 0, 1)]
       after (.wakeHoldTimeout e) s fun t => t.waking == [] && t.wakeFail == [e] && t.fld (Fld.RTR_PORT_WAKING 0 0 0) == 0) ∧
      (let e := ep0 0 0 0; let s := { net0 with drains := [e] }
       s.portDrained e && after (.portFenceRaised e false) s fun t => t.drains == [] && t.fld (Fld.RTR_PORT_FENCED 0 0 0) == 1) ∧
      (let e := ep0 0 0 0; let s := { net0 with drains := [e], tags := [entry0] }
       !s.portDrained e && after (.portFenceRaised e false) s fun t => t == s) ∧
      (let e := ep0 0 0 0; let s := { net0 with tags := [entry0] }; after (.fence e 5) s fun t => t.fences.map (·.pkt.tag) == [5#12] && t.out == []) ∧
      after (.fence (ep0 0 0 0) 5) net0 (fun t => t.fences == [] && t.out.length == 1) ∧
      (let e := ep0 0 0 0; let s := { net0 with tags := [entry0] }
       after (.fence e 9) s fun t => t.fences == [] && t.out.map (fun o => match o with | .deliver _ q => q.status.toNat | _ => 0) == [9]) ∧
      (let e := ep0 0 0 0; let s := { net0 with tags := List.replicate 64 entry0 }
       s.entriesOf e == s.tags && after (.fence e 5) s fun t => t == s) ∧
      (let e := ep0 0 0 0; after (.fence e 5) net0 fun t => decide ((t.uport e).rsp ≠ [])) ∧
      (let e := ep0 0 0 0; let s := { net0 with drains := [e], tags := [entry0], inbox := [⟨e, rdnc e (ep0 1 0 0)⟩] }
       after (.portFenceRaised e true) s fun t => t.drains == [] && t.fld (Fld.RTR_PORT_FENCED 0 0 0) == 1 && t.inbox == [] && t.tags.all fun u => !u.live) := by decide +kernel

/-! ## Coherent memory -/

/-- Slice 0 of die 0 with line 0 in way 0 of set 0 in state `st` (or nothing), its words 1 to 8, and one delivered packet. -/
def slice0 (st : Option VSt) (p : Packet) : State :=
  { sets net0 [(Fld.MCA_STATUS_INIT_DONE 0, 1)] with
    slices := match st with
      | some x => [(0, { Slice.empty with lines := [(0, ⟨0, x, 0⟩)] })]
      | none => []
    vein := (List.range 8).map fun i => (i, Cell.of (BitVec.ofNat 64 (i + 1)))
    inbox := [⟨net0.sliceAt 0 0, p⟩] }

/-- A request of user port 0 of die 0 for line 0 at its slice. -/
def toSlice (c : BitVec 8) : Packet := { pkt0 c (net0.sliceAt 0 0) (ep0 0 0 0) with gran := 0xFF, tag := 7 }

/-- A snoop of home agent 0. -/
def snoop (c : BitVec 8) : Packet := { pkt0 c (net0.sliceAt 0 0) (net0.homeEp 0) with cls := 2 }

/-- A line of data: words 11 to 18. -/
def line11 : List Flit := mkFlits ((List.range 8).map fun i => (BitVec.ofNat 64 (i + 11), false))

/-- The one packet sent has this command, and the line of way 0 is in this state. -/
def slcB (c : Instr) (s : State) (cmd : BitVec 8) (st : Option VSt) : Bool :=
  after c s fun t => t.net.map (·.pkt.cmd) == [cmd] && t.inbox == [] && ((t.slice 0 0).at_ 0 0).map (·.st) == st

theorem wit_vein_requests :
    (let s := slice0 (some .s) (toSlice 1)
     s.veinOn && s.bit (Fld.MCA_STATUS_INIT_DONE 0) && s.inOrder 0 ⟨s.sliceAt 0 0, toSlice 1⟩ && s.firstOfLine 0 ⟨s.sliceAt 0 0, toSlice 1⟩ && (s.slice 0 0).wayOf 0 == some 0 && winDie 0 == none && slcB (.rd 0 none) s 0x40 (some .s)) ∧
      slcB (.rdx 0) (slice0 (some .m) (toSlice 2)) 0x40 (some .m) ∧
      (let p := { toSlice 3 with len := 2, data := line11 }
       slcB (.wr 0) (slice0 (some .e) p) 0x41 (some .m) && after (.wr 0) (slice0 (some .e) p) fun t => (t.veinCell 0 7).data == 18) ∧
      (let p := { toSlice 4 with len := 2, gran := 0x81, data := line11 }
       after (.wrg 0) (slice0 (some .e) p) fun t => (t.veinCell 0 7).data == 18 && (t.veinCell 0 6).data == 7) := by decide +kernel

theorem wit_vein_misses :
    ((slice0 none (toSlice 1)).slice 0 0).victim 0 = some 0 ∧ slcB (.rd 0 none) (slice0 none (toSlice 1)) 1 none ∧
      slcB (.rdx 0) (slice0 none (toSlice 2)) 2 none ∧
      (let p := { toSlice 5 with gran := 1, len := 1, data := line11.take 1 }; slcB (.atom 0) (slice0 (some .m) p) 5 (some .m)) := by decide +kernel

/-- A request that is not aligned to its line is refused (R320). -/
theorem wit_vein_misaligned :
    let refused := fun (c : Instr) (cmd : BitVec 8) =>
      after c (slice0 (some .m) { toSlice cmd with addr := 8 }) fun t => t.net.map (fun f => (f.pkt.cmd, f.pkt.status)) == [(0x42#8, 2#4)] && t.inbox == []
    refused (.rd 0 none) 1 ∧ refused (.rdx 0) 2 ∧ refused (.wr 0) 3 ∧ refused (.wrg 0) 4 := by decide +kernel

theorem wit_vein_snoops :
    slcB (.snps 0) (slice0 (some .m) (snoop 0x30)) 0x40 (some .s) ∧ slcB (.snps 0) (slice0 (some .e) (snoop 0x30)) 0x41 (some .s) ∧
      slcB (.snpi 0) (slice0 (some .m) (snoop 0x31)) 0x40 none ∧ slcB (.snpi 0) (slice0 (some .s) (snoop 0x31)) 0x41 none ∧
      slcB (.snpd 0) (slice0 (some .m) (snoop 0x32)) 0x41 none ∧ slcB (.snps 0) (slice0 none (snoop 0x30)) 0x41 none ∧
      slcB (.snpi 0) (slice0 none (snoop 0x31)) 0x41 none ∧ slcB (.snpd 0) (slice0 none (snoop 0x32)) 0x41 none ∧
      (let s := { slice0 none (snoop 0x31) with slices := [(0, { Slice.empty with gone := [0] })] }
       slcB (.snpi 0) s 0x40 none && after (.snpi 0) s fun t => t.net.map (fun f => flitWords f.pkt.data) == [deadLine]) := by decide +kernel

/-- The first line of the window of die 0, whose home agent is 9, and a request for it. -/
def winLine : Nat := 2 ^ 41
def toHome (c : BitVec 8) (src : Ep) : Packet := { pkt0 c (net0.homeEp 9) src with gran := 0xFF, tag := 7, addr := 0x800000000000 }

/-- Group 0 of die 0 is exported, its Mica holds words 1 to 8 at the window's first line, and a packet has come to home agent 9. -/
def home9 (hm : Home) (p : Packet) : State :=
  let s := (sets net0 [(Fld.MCA_STATUS_INIT_DONE 0, 1)]).setReg (Reg.MCA_EXPORT 0 0) 1
  { s with
    homes := if hm = Home.empty then [] else [(9, hm)]
    mica := (List.range 8).map fun i => (i, Cell.of (BitVec.ofNat 64 (i + 1)))
    inbox := [⟨s.homeEp 9, p⟩] }

/-- A slice of die 1, and a PCIe-side source: user logic of another device. -/
def slice1 : Ep := net0.mkEp 1 0 0 8
def far0 : Ep := { net0.mkEp 0 0 0 0 with dx := 5 }

/-- The conditions that requests at home agent 9 share. -/
def readyB (s : State) (p : Packet) (u : Use) : Bool :=
  s.veinOn && homeOf winLine == 9 && !(s.home 9).busy winLine && (s.home 9).used < 512 && s.inOrder 0 ⟨s.homeEp 9, p⟩ && s.firstOfLine 0 ⟨s.homeEp 9, p⟩ && !(s.home 9).failed.contains (dirSet winLine) &&
    p.cls == 0 && s.memPlace winLine == .win 0 0 0 0 &&
    match s.gate winLine (s.masterOf p) u false with
    | .go => true
    | _ => false

/-- The one packet sent has this command and goes to this endpoint. -/
def sentB (t : State) (cmd : BitVec 8) (e : Ep) : Bool := t.net.map (fun f => (f.pkt.cmd, f.pkt.dst)) == [(cmd, e)] && t.inbox == []

theorem wit_home_grants :
    (let p := toHome 1 slice1; let s := home9 Home.empty p
     readyB s p .read && winDie winLine == some 0 && after (.rd 0 none) s fun t =>
       sentB t 0x40 slice1 && (t.home 9).dir == [⟨winLine, none, 2⟩] && (t.home 9).txns.map (·.ackWait) == [some 1]) ∧
      (let p := toHome 2 slice1; let s := home9 Home.empty p
       readyB s p .write && after (.rdx 0) s fun t => sentB t 0x40 slice1 && (t.home 9).dir == [⟨winLine, some 1, 0⟩]) ∧
      (let p := toHome 1 slice1; let s := home9 { Home.empty with dir := [⟨winLine, some 3, 0⟩] } p
       after (.rd 0 none) s fun t => sentB t 0x30 (s.sliceEp 3 winLine) && (t.home 9).txns.map (·.snoops.map (·.1)) == [[3]]) ∧
      (let p := { toHome 0x33 slice1 with cls := 2 }
       let s := home9 { Home.empty with txns := [⟨winLine, .backInv, [], some 1⟩] } p
       after (.ackg 0) s fun t => t.net == [] && (t.home 9).txns == []) := by decide +kernel

theorem wit_home_others :
    (let p := toHome 1 far0; after (.rd 0 none) (home9 Home.empty p) fun t => sentB t 0x42 far0) ∧
      (let p := toHome 2 far0; after (.rdx 0) (home9 Home.empty p) fun t => sentB t 0x42 far0) ∧
      (let p := { toHome 3 far0 with len := 2, data := line11 }; after (.wr 0) (home9 Home.empty p) fun t => sentB t 0x42 far0) ∧
      (let p := { toHome 3 slice1 with len := 2, data := line11 }; let s := home9 Home.empty p
       after (.wr 0) s fun t => sentB t 0x41 slice1 && t.mica == s.mica) ∧
      (let p := { toHome 8 far0 with spec := 2 }; let s := home9 Home.empty p
       readyB s p .readNc && !s.rawUse winLine (s.masterOf p) && after (.rdnc 0) s fun t => sentB t 0x40 far0) ∧
      (let p := { toHome 9 far0 with len := 2, data := line11 }; let s := home9 Home.empty p
       readyB s p .write && after (.wrnc 0) s fun t => sentB t 0x41 far0 && (t.micaCell 0 0 7).data == 18) ∧
      (let p := { toHome 4 far0 with len := 2, data := line11, gran := 0x7F }; let s := home9 Home.empty p
       after (.wrg 0) s fun t => sentB t 0x41 far0 && (t.micaCell 0 0 7).data == 8 && (t.micaCell 0 0 6).data == 17) ∧
      (let p := { toHome 5 far0 with addr := 0x800000000008, len := 1, data := line11.take 1, gran := 2 }; let s := home9 Home.empty p
       after (.atom 0) s fun t => sentB t 0x40 far0 && (t.micaCell 0 0 1).data == atomOp 0 2 11 12) := by decide +kernel

theorem wit_slice_events :
    (let p := toSlice 1
     let s := { net0 with slices := [(0, { Slice.empty with reqs := [⟨0, false, 0, 5, [p]⟩] })] }
     after (.sliceRequestTimeout 0 0 5) s fun t => t.net.map (·.pkt.status) == [5] && (t.slice 0 0).late == [(5, 1)] && t.fld (Fld.VEN_CNT_TIMEOUTS 0) == 1) ∧
      (let s := { slice0 (some .s) (toSlice 1) with inbox := [] }
       after (.vlost (.found 0 0 0 [])) s fun t => t.net.length == 16 && (t.slice 0 0).vlost == [(0, 16)] && (t.slice 0 0).at_ 0 0 == none && t.fld (Fld.VEN_IRQ_STATUS_VLOST 0) == 1) ∧
      (let p := { pkt0 0x34 (net0.homeEp 9) slice1 with cls := 2 }; let s := home9 Home.empty p
       after (.vlost (.report 0)) s fun t => t == { s with inbox := [] }) ∧
      (let p := { pkt0 0x34 (net0.homeEp 9) slice1 with cls := 2, spec := 3 }
       let s := { home9 Home.empty p with slices := [(64, { Slice.empty with vlost := [(3, 16)] })] }
       (s.slice 1 0).vlost == [(3, 16)] && after (.vlost (.report 0)) s fun t => (t.slice 1 0).vlost == [(3, 15)] && t.inbox == []) := by decide +kernel

theorem wit_home_events :
    (let s := { net0 with flintUp := false, homes := [(9, { Home.empty with txns := [⟨winLine, .backInv, [(1, 6)], none⟩] })] }
     (s.snoopTxn 9 1 6).isSome && after (.snoopTimeout 9 1 6) s fun t =>
       t.fld (Fld.HRG_HA_ERRLOG_A_KIND 9) == 1 && t.fld (Fld.HRG_HA_ERRLOG_A_DIE 9) == 1) ∧
      (let s := net0; after (.directorySetError 9 3 77 2) s fun t => (t.home 9).failed == [3] && t.fld (Fld.HRG_HA_ERRLOG_A_KIND 9) == 4) ∧
      (let s := { net0 with homes := [(9, { Home.empty with failed := [3] })] }
       after (.directorySetRestart 9 3) s fun t => t == { s with homes := [] }) ∧
      (let s := net0; let a := Reg.HRG_FLUSH_CTRL
       s.accepts .flint a 0x80000001 && after (.flush .flint true) s fun t => t.fld Fld.HRG_FLUSH_CTRL_BUSY == 1 && t.flush == some ⟨[], true⟩) ∧
      (let s := sets net0 [(Fld.HRG_FLUSH_CTRL_BUSY, 1)]; after (.flush .flint true) s fun t => t.fld Fld.HRG_FLUSH_CTRL_REFUSED == 1 && t.flush == none) ∧
      (let s := sets { net0 with flush := some ⟨[], true⟩ } [(Fld.HRG_FLUSH_CTRL_BUSY, 1)]
       !s.flushing && after .flushDone s fun t => t.fld Fld.HRG_FLUSH_CTRL_DONE == 1 && t.flush == none) ∧
      (let s := { net0 with flush := some ⟨[], false⟩, homes := [(9, { Home.empty with txns := [⟨5, .flush false, [(1, 6)], none⟩] })] }
       s.flushing && after .flushDone s fun t => t == s) := by decide +kernel

theorem wit_die_reset_walk :
    (let s := { net0 with dieDown := [2], homes := [(9, { Home.empty with walking := [2] })] }
     after (.dieResetWalkDone 2) s fun t => t == { s with homes := [] }) ∧
      (let s := sets { net0 with dieDown := [2] } [(Fld.STR_BSTAT_STATE 32, 2)]
       after (.dieResetWalkDone 2) s fun t => t.dieDown == []) := by decide +kernel

/-! ## Delivery -/

/-- One packet delivered at its destination; region 0 may access every register. -/
def given (p : Packet) : State :=
  { net0 with inbox := [⟨p.dst, p⟩], regions := [(0, { ranges := [(0, 0xFFFFFFFF)], version := 0, meas := [], ran := true })] }

/-- The one answer sent has this command and status. -/
def answerB (c : Instr) (s : State) (cmd : BitVec 8) (status : BitVec 4) : Bool :=
  after c s fun t => t.net.map (fun f => (f.pkt.cmd, f.pkt.status)) == [(cmd, status)] && t.inbox == []

theorem wit_deliveries_to_groups :
    (let p := { pkt0 0x10 g0 (ep0 0 0 0) with addr := 0x20000, spec := 6 }
     answerB (.db 0) (given p) 0x41 0 && after (.db 0) (given p) fun t => (t.eng 2).dbell == 6 && (t.eng 1).dbell == 0) ∧
      (let p := { pkt0 0x10 g0 (ep0 0 0 0) with addr := 0xF0000, spec := 6 }
       let s := sets (given p) [(Fld.SEG_BCAST_MASK 0 0, 5)]
       after (.db 0) s fun t => (t.eng 2).dbell == 6 && (t.eng 1).dbell == 0 && (t.eng 0).dbell == 6) ∧
      (let p := { pkt0 0x10 g0 (ep0 0 0 0) with addr := 0xC0000 }; answerB (.db 0) (given p) 0x42 2) := by decide +kernel

theorem wit_deliveries_to_users :
    (let p := pkt0 0x10 (ep0 0 0 0) (ep0 1 0 0); let s := given p
     !s.trapped (ep0 0 0 0) p && after (.db 0) s fun t => t.unanswered == s.inbox && t.out == [.deliver (ep0 0 0 0) p] && (t.uport (ep0 0 0 0)).req == rxFlits false p) ∧
      (let p := pkt0 0x11 (ep0 0 0 0) (ep0 1 0 0); let s := given p; after (.msg 0) s fun t => t.unanswered == s.inbox) ∧
      (let p := pkt0 8 (ep0 0 0 0) (ep0 1 0 0); let s := given p; after (.rdnc 0) s fun t => t.unanswered == s.inbox) ∧
      (let p := { pkt0 9 (ep0 0 0 0) (ep0 1 0 0) with len := 1, data := [⟨0, 0, 0⟩] }; let s := given p; after (.wrnc 0) s fun t => t.unanswered == s.inbox) ∧
      (let p := { pkt0 9 (ep0 0 0 0) (ep0 1 0 0) with len := 1, data := [⟨0, 1, 0⟩] }
       let s := { given p with frames := [(posKey 0 41 16 1, (0x81 : BitVec 4096) <<< 3104)] }
       s.trapped (ep0 0 0 0) p && s.portRegion (ep0 0 0 0) == some 0 && s.regState 0 != 0 && s.loader.stream == none) := by
  decide +kernel

/-- A CFGRD or CFGWR from a user port to the register endpoint of the hub. -/
def cfg0 (c : BitVec 8) (a : Nat) (v : Nat) : Packet :=
  { pkt0 c (net0.mkEp 4 0 1 15) (ep0 0 0 0) with addr := BitVec.ofNat 48 a, len := if c = 0x21 then 1 else 0,
                                                  data := if c = 0x21 then mkFlits [(BitVec.ofNat 64 v, false)] else [] }

theorem wit_deliveries_to_registers :
    (let p := cfg0 0x20 0 0
     (given p).granted p.src 0 && p.dst.regWindow 0 && answerB (.cfgrd 0) (given p) 0x40 0 &&
       after (.cfgrd 0) (given p) fun t => (t.net.map fun f => (flitWords f.pkt.data).head?) == [some (0x485030F0, false)]) ∧
      (let p := cfg0 0x21 Reg.THM_CTRL 5
       (given p).accepts (.ring p.src) Reg.THM_CTRL 5 && answerB (.cfgwr 0) (given p) 0x41 0 && after (.cfgwr 0) (given p) fun t => t.reg Reg.THM_CTRL == 5) ∧
      (let p := cfg0 0x20 0x1000000 0
       !p.dst.regWindow 0x1000000 && answerB (.cfgrd 0) (given p) 0x42 2 && after (.cfgrd 0) (given p) fun t => t.fld Fld.FLN_BUSERR_LOG_PATH == 3) ∧
      (let p := cfg0 0x21 0x1000000 0; answerB (.cfgwr 0) (given p) 0x42 2) ∧
      (let p := cfg0 0x20 0 0; let s := { given p with regions := [] }; !s.granted p.src 0 && answerB (.cfgrd 0) s 0x42 6) ∧
      (let p := cfg0 0x20 0xF00000 0; busB (given p) (.ring p.src) 0xF00000 true false 0 && answerB (.cfgrd 0) (given p) 0x42 2) ∧
      (let p := cfg0 0x21 0xF00000 0; busB (given p) (.ring p.src) 0xF00000 true true 0 && answerB (.cfgwr 0) (given p) 0x42 2) := by decide +kernel

/-- A read of a register whose domain is OFF waits for it to wake. -/
theorem wit_deliveries_held :
    (let a := Reg.SPL_SPINE 0 0; let p := { pkt0 0x20 (ep0 0 0 9) (ep0 0 0 0) with addr := BitVec.ofNat 48 a }
     let s := sets (given p) [(Fld.PWR_DOM_STATE 21, 0)]
     p.dst.regWindow a && s.granted p.src a && (s.reach (.ring p.src) a true false matches .inr (.held 21)) && after (.cfgrd 0) s fun t =>
       t.inbox == s.inbox && t.fld (Fld.PWR_DOM_STATE 21) == 1) = true := by decide +kernel

/-! ## Strata links -/

/-- The device of `net0` at Strata level 2 with bundle 0 in a state and with link state. -/
def bnd (st : Nat) (k : Link) : State :=
  { sets net0 [(Fld.STR_BSTAT_STATE 0, st)] with strata := 2, links := if k = Link.fresh then [] else [(0, k)] }

/-- The same with bundle 0 in a pair with bundle 16, which drains. -/
def bndPair (st : Nat) (k : Link) : State :=
  { sets (bnd st k) [(Fld.STR_WPSTAT_STATE 0, 1)] with wire := [(0, { named := 0x10, drained := false, switchAt := none, leaving := none })] }

theorem wit_link_epoch :
    (let s := { net0 with links := [(0, { Link.fresh with dn := { Half.fresh with slot := 9 }, up := { Half.fresh with slot := 5 } })] }
     s.shadow == [] && s.wire == [] && s.wpState 15 == 0 && s.dieOk 0 && s.domOn (slateDom 0 8) && after .linkEpoch s fun t =>
       t.fld Fld.STR_CTRL_EPOCH == 1 && t.links == [] && t.strata == s.strataLevel && t.fld (Fld.SEP_WSTAT_FREQ 0 15) == (s.bundleClock 15).getD 0) ∧
      (after .linkEpoch (sets net0 [(Fld.STR_CTRL_EPOCH, 255)]) fun t => t.fld Fld.STR_CTRL_EPOCH == 0) := by decide +kernel

theorem wit_bundle_training :
    (after (.trainingAttempt (.bundle 0) 31 0 ⟨0, []⟩ false) (bnd 1 Link.fresh) fun t =>
        t.linkState (.bundle 0) == 1 && (t.link (.bundle 0)).training && t.fld (Fld.STR_BSTAT_UPHALF 0) == 1 && t.fld (Fld.STR_BSTAT_DNHALF 0) == 0 &&
          t.fld (Fld.STR_BSTAT_UPFAIL 0) == 5 && (t.link (.bundle 0)).dn.queue == [trainEcho] && !(t.link (.bundle 0)).echoOk &&
          (t.link (.bundle 0)).mapSet == some ⟨0x4D, (bnd 1 Link.fresh).fuses.feat.toNat % 16, 1, true, false, 0, 31⟩) ∧
      (after (.trainingAttempt (.bundle 0) 0 (2 ^ 36 - 1) ⟨0, []⟩ false) { bnd 1 Link.fresh with strata := 1 } fun t =>
        (t.link (.bundle 0)).training && t.fld (Fld.STR_BSTAT_DNHALF 0) == 1 && (t.link (.bundle 0)).dn.queue == [] && (t.link (.bundle 0)).echoOk) ∧
      (after (.trainingAttempt (.bundle 0) 0 (2 ^ 37 - 1) ⟨0, []⟩ false) (bnd 1 Link.fresh) fun t =>
        t.linkState (.bundle 0) == 3 && t.fld Fld.STR_IRQ_STATUS_DISABLED == 1) ∧
      (let errs : List SetErr := (List.range 16).map fun c => { map := false, copy := Fin.ofNat 16 c, lane := 69, mask := 1 }
       let s := bnd 1 Link.fresh
       receivedSet (s.failReport 0 0).bits errs false 70 (2 ^ 69 - 1) == none && after (.trainingAttempt (.bundle 0) (2 ^ 69 - 1) 0 ⟨0, errs⟩ false) s fun t =>
         t.links == s.links && t.linkState (.bundle 0) == 1 && t.bundleMask true 0 == 2 ^ 69 - 1) ∧
      (after (.trainingStepTimeout (.bundle 0)) (bnd 1 { Link.fresh with training := true, fails := 2 }) fun t =>
        t.fld (Fld.STR_BSTAT_FORCED 0) == 1 && (t.link (.bundle 0)).fails == 3 && t.linkState (.bundle 0) == 1) ∧
      (after (.trainingStepTimeout (.bundle 0)) (bnd 1 { Link.fresh with training := true, fails := 5 }) fun t => t.linkState (.bundle 0) == 3) ∧
      (after (.bundleLive (.bundle 0)) (bnd 1 { Link.fresh with training := true, echoOk := true }) fun t =>
        (bnd 1 Link.fresh).strapValid 0 && t.linkState (.bundle 0) == 2 && !(t.link (.bundle 0)).training) ∧
      (after (.bundleLive (.bundle 0)) (bndPair 4 { Link.fresh with training := true, echoOk := true, keep := true, fails := 2 }) fun t =>
        t.linkState (.bundle 0) == 4 && (t.link (.bundle 0)).fails == 0 && !(t.link (.bundle 0)).keep && !(t.link (.bundle 0)).training) := by decide +kernel

/-- R409: a clock lost by a LIVE bundle, by one that drains, and by one in wire mode. -/
theorem wit_clock_loss :
    (after (.forwardedClockLoss (.bundle 0)) (bnd 2 Link.fresh) fun t => t.linkState (.bundle 0) == 5 && t.fld (Fld.STR_BSTAT_RETRAINS 0) == 1) ∧
      (let s := bndPair 4 Link.fresh
       s.draining 0 && after (.forwardedClockLoss (.bundle 0)) s fun t => t.linkState (.bundle 0) == 4 && (t.link (.bundle 0)).keep) ∧
      (let s := bnd 4 { Link.fresh with keep := true }
       !s.draining 0 && after (.forwardedClockLoss (.bundle 0)) s fun t => t.linkState (.bundle 0) == 5 && (t.link (.bundle 0)).keep) := by decide +kernel

/-- A bundle whose hub end has one packet to send, as `Half.load` leaves it. -/
def sending : Link := { Link.fresh with dn := { Half.fresh with queue := [Packet.finish (rdnc (ep0 0 0 0) (net0.mkEp 4 0 1 0))] } }

/-- The hub end's half after a command. -/
def dnAfter (c : Instr) (s : State) (p : Half → Bool) : Bool := after c s fun t => p ((t.link (.bundle 0)).sends false)

theorem wit_link_slots :
    (let s := bnd 2 sending; let h := (s.link (.bundle 0)).sends false; let g := s.halfGeom (.bundle 0) false
     let y := (h.send ((s.link (.bundle 0)).sends true) 128).2 ^^^ g.slot 0
     let word := (y.extractLsb' 288 32).toNat
     g.frame 0 == 0 && lwCrc word == word % 64 && natBit word 12 && natBits word 31 23 == (h.lastSeq + 1) % 512 &&
       dnAfter (.linkSlotReceive (.bundle 0) false 0 true) s fun h => h.lastSeq == 0 && h.nak == false) ∧
      (let s := bnd 2 sending; let x : Lanes := 1 <<< (4 * 70 + 40)
       (s.halfGeom (.bundle 0) false).frame x == 0 && dnAfter (.linkSlotReceive (.bundle 0) false x true) s fun h => h.lastSeq == 511 && h.badFrames == 0) ∧
      (let s := bnd 2 sending; let x : Lanes := (1 <<< (4 * 70 + 40)) ||| (1 <<< 65)
       (s.halfGeom (.bundle 0) false).frame x != 0 && dnAfter (.linkSlotReceive (.bundle 0) false x true) s fun h => h.lastSeq == 511 && h.badFrames == 1) ∧
      (let s := bnd 2 { sending with dn := { sending.dn with badFrames := 3 } }; let x : Lanes := (1 <<< (4 * 70 + 40)) ||| (1 <<< 65)
       after (.linkSlotReceive (.bundle 0) false x true) s fun t =>
         t.linkState (.bundle 0) == 2 && ((t.link (.bundle 0)).sends false).badFrames == 0 && (t.link (.bundle 0)).up.queue.map (·.cmd) == [0x54]) ∧
      (let up := { sending.dn with badFrames := 3 }; let s := bnd 2 { Link.fresh with up := up }; let x : Lanes := (1 <<< (4 * 70 + 40)) ||| (1 <<< 65)
       (s.halfGeom (.bundle 0) true).frame x != 0 && after (.linkSlotReceive (.bundle 0) true x true) s fun t =>
         t.linkState (.bundle 0) == 5 && (t.link (.bundle 0)).keep && ((t.link (.bundle 0)).sends true).lastSeq == 511) ∧
      (let s := bnd 2 sending
       decide (1 < s.replayLimit (.bundle 0)) && after (.linkSlotReceive (.bundle 0) false 1 true) s fun t =>
         ((t.link (.bundle 0)).sends false).nak && ((t.link (.bundle 0)).sends false).lastSeq == 511 && t.fld (Fld.STR_BCNT_CRCERR 0) == 1) ∧
      (let h := (sending.dn).load; let s := bnd 2 { Link.fresh with dn := h }
       h.cur.length == 1 && h.skip == none && h.part == none && dnAfter (.linkSlotReceive (.bundle 0) false 0 true) s fun u =>
         u.replay == h.cur && u.cur == []) := by decide +kernel

theorem wit_bundle_unusable :
    (let s := bnd 2 sending; s.usable 0 && after (.bundleUnusable 0) s fun t => t == s) ∧
      (let s := bndPair 4 sending; !s.usable 0 && s.draining 0 && after (.bundleUnusable 0) s fun t => t == s) ∧
      (let s := sets (bnd 1 sending) [(Fld.STR_BSTAT_STATE 1, 2)]
       after (.bundleUnusable 0) s fun t => (t.link (.bundle 1)).dn.queue == sending.dn.queue && (t.link (.bundle 0)).dn.queue == []) ∧
      (let s := bnd 1 sending; after (.bundleUnusable 0) s fun t => t.net == [⟨.hub 0 0 0, (sending.dn.queue.head?).getD (pkt0 0 g0 g0)⟩]) := by decide +kernel

/-- A maintenance packet that has come to an end of a link. -/
def maint (s : State) (l : LinkRef) (leaf : Bool) (p : Packet) : State := { s with minbox := [⟨⟨l, leaf⟩, p⟩] }

/-- A maintenance packet, and one with a data flit. -/
def lm (c : BitVec 8) (sp : BitVec 74) : Packet := { pkt0 c (epOfBits 0) (epOfBits 0) with cls := 3, spec := sp }
def lmd (c : BitVec 8) (sp : BitVec 74) : Packet := { lm c sp with len := 1, gran := 0, data := mkFlits [(9, false), (8, false), (7, false), (6, false)] }

theorem wit_link_maintenance :
    (let s := maint (bnd 2 Link.fresh) (.bundle 0) true (lm 0x50 0x17)
     s.maintOk ⟨⟨.bundle 0, true⟩, lm 0x50 0x17⟩ && after (.lparam 0) s fun t => (t.link (.bundle 0)).up.queue.map (fun q => (q.cmd, q.spec)) == [(0x51, 0x17)]) ∧
      (after (.lparam 0) (maint (bnd 2 Link.fresh) (.bundle 0) false (lm 0x50 0x17)) fun t => t.fld (Fld.RTR_ERRCNT0_MALFORMED 0 0) == 1) ∧
      (let s := sets (maint net0 (.bridge 2) false (lm 0x50 0x117)) [(Fld.STR_BP_CTRL_ROLE 2, 1)]
       s.maintOk ⟨⟨.bridge 2, false⟩, lm 0x50 0x117⟩ && after (.lparam 0) s fun t => (t.link (.bridge 2)).dn.queue.map (·.status) == [6]) ∧
      (after (.lparam 0) (maint net0 (.bridge 2) false (lm 0x50 0x17)) fun t => t.fld (Fld.STR_BP_STAT_MALFORMED 2) == 1) ∧
      (after (.lparamAck 0) (maint net0 (.bridge 2) false (lm 0x51 0x17)) fun t => t.fld (Fld.STR_BP_STAT_MALFORMED 2) == 1) ∧
      (after (.lparamAck 0) (maint net0 (.bundle 0) false (lm 0x51 0x17)) fun t => t.fld (Fld.RTR_ERRCNT0_MALFORMED 0 0) == 1) := by decide +kernel

theorem wit_link_echoes :
    (let p := lmd 0x52 3; let s := maint (bnd 2 Link.fresh) (.bundle 0) true p
     s.maintOk ⟨⟨.bundle 0, true⟩, p⟩ && after (.echo 0) s fun t => (t.link (.bundle 0)).up.queue.map (fun q => (q.cmd, q.spec)) == [(0x53, 3)]) ∧
      (let p := { lm 0x52 3 with rsv := 1 }; let s := maint (bnd 2 Link.fresh) (.bundle 0) true p
       !s.maintOk ⟨⟨.bundle 0, true⟩, p⟩ && after (.echo 0) s fun t => t.fld (Fld.RTR_ERRCNT0_MALFORMED 0 0) == 1) ∧
      (let p := lmd 0x53 3; let s := maint (bnd 1 { Link.fresh with training := true, echoSent := some (lmd 0x52 3) }) (.bundle 0) false p
       s.maintOk ⟨⟨.bundle 0, false⟩, p⟩ && after (.echoRsp 0) s fun t => (t.link (.bundle 0)).echoOk) ∧
      (let p := lmd 0x53 4; let s := maint (bnd 1 { Link.fresh with training := true, echoSent := some (lmd 0x52 3) }) (.bundle 0) false p
       after (.echoRsp 0) s fun t => (t.link (.bundle 0)).fails == 1 && !(t.link (.bundle 0)).training) ∧
      (let p := lmd 0x53 4; let s := maint (bnd 1 Link.fresh) (.bundle 0) false p; after (.echoRsp 0) s fun t => t == { s with minbox := [] }) ∧
      (let p := lm 0x54 0; let s := maint (bnd 2 Link.fresh) (.bundle 0) false p
       s.maintOk ⟨⟨.bundle 0, false⟩, p⟩ && after (.retrain 0) s fun t => t.linkState (.bundle 0) == 5) ∧
      (after (.retrain 0) (maint (bnd 2 Link.fresh) (.bundle 0) true (lm 0x54 0)) fun t => t.fld (Fld.RTR_ERRCNT0_MALFORMED 0 0) == 1) ∧
      (let p := lm 0x55 0
       let s := sets (maint net0 (.bridge 1) false p) [(Fld.STR_BP_STAT_LEVEL 1, 3), (Fld.STR_BP_CAPCTRL_TRIG 1, 3), (Fld.STR_BP_CAPCTRL_ARM 1, 1)]
       s.maintOk ⟨⟨.bridge 1, false⟩, p⟩ && after (.captrig 0) s fun t =>
         t.fld (Fld.STR_BP_CAPSTAT_TRIGGERED 1) == 1 && t.fld (Fld.STR_BP_CAPSTAT_TRIGIDX 1) == 1023) ∧
      (let p := lm 0x55 0; let s := sets (maint net0 (.bridge 1) false p) [(Fld.STR_BP_STAT_LEVEL 1, 3)]
       after (.captrig 0) s fun t => t == { s with minbox := [] }) := by decide +kernel

/-! ## Wire pairs, bridge ports and Lode ports -/

/-- Pair 0 holds bundles 0 and 1 of die 0. -/
def w0 : WireSt := { named := 1, drained := false, switchAt := none, leaving := none }

/-- Wire pair 0 joins bundles 0 and 1 of die 0, whose wire clock is 800 MHz; the pair is in state `wp`, the bundles in state `st`. -/
def pair0 (wp st : Nat) (w : WireSt) : State :=
  { sets net0 [(Fld.HUB_IDENT_DIE_PRESENT, 1), (Fld.STR_WPAIR_EN 0, 1), (Fld.STR_WPAIR_BUNDLE_B 0, 1), (Fld.STR_WPSTAT_STATE 0, wp), (Fld.STR_BSTAT_STATE 0, st),
      (Fld.STR_BSTAT_STATE 1, st), (Fld.SPL_SPINE_SRC 0 0, 0), (Fld.SPL_PLL_CTRL_ALIGN 0 0, 1), (Fld.SPL_PLL_CTRL_N 0 0, 40),
      (Fld.SPL_PLL_OUT_OEN0 0 0, 1), (Fld.SPL_PLL_OUT_DIV0 0 0, 5), (Fld.SPL_PLL_STATUS_LOCKED 0 0, 1)] with
    strata := 2
    wire := [(0, w)] }

theorem wit_wire_pairs :
    (let s := pair0 1 2 w0
     after (.wireDrainEnd 0) s fun t => t == { s with wire := [(0, { w0 with drained := true })] }) ∧
      (let s := { pair0 1 2 w0 with links := [(1, { Link.fresh with dn := { Half.fresh with cur := [⟨0, 0⟩] } })] }
       after (.wireDrainEnd 0) s fun t => t == s) ∧
      (let s := pair0 2 2 w0
       after (.wirePairDown 0) s fun t => t.wpState 0 == 4 && t.fld (Fld.STR_WPSTAT_FREQ 0) == 8 && t.fld Fld.STR_IRQ_STATUS_WIRE == 1) ∧
      (let s := pair0 1 2 w0; after (.wirePairDown 0) s fun t => t == s) ∧
      (let s := { pair0 2 4 w0 with links := [(1, { Link.fresh with keep := true })] }
       after (.wirePairDown 0) s fun t => t.wpState 0 == 4) ∧
      (let s := pair0 2 4 w0
       s.bundleClock 0 == some 8 && s.bundleClock 1 == some 8 && after (.wirePairDown 0) s fun t => t == s) := by decide +kernel

theorem wit_wire_epochs :
    (let s := pair0 1 2 { w0 with drained := true }
     after .linkEpoch s fun t => t.wireSt 0 == { w0 with drained := true, switchAt := some 3 } && (t.link (.bundle 1)).dn.queue.map (fun q => q.spec.toNat) == [259]) ∧
      (let s := { pair0 1 2 { w0 with drained := true, switchAt := some 1 } with strips := [(1, { tx := 9, edges := 7, sent := [5], rx := 6 })] }
       after .linkEpoch s fun t => t.wpState 0 == 2 && t.fld (Fld.STR_WPSTAT_FREQ 0) == 8 && t.wireSt 0 == w0 &&
         t.fld (Fld.STR_BSTAT_STATE 1) == 4 && t.strip 1 == { tx := 9, edges := 0, sent := [], rx := 0 }) ∧
      (let s := sets (pair0 1 2 { w0 with drained := true, switchAt := some 1 }) [(Fld.SPL_PLL_STATUS_LOCKED 0 0, 0)]
       after .linkEpoch s fun t => t.wpState 0 == 4 && t.fld (Fld.STR_WPSTAT_FREQ 0) == 0 && t.fld Fld.STR_IRQ_STATUS_WIRE == 1) ∧
      (let s := sets (pair0 0 4 { w0 with named := 0, leaving := some ⟨1, 1, 2⟩ }) [(Fld.STR_WPAIR_EN 0, 0), (Fld.STR_BSTAT_STATE 1, 5)]
       after .linkEpoch s fun t => t.fld (Fld.STR_BSTAT_STATE 0) == 2 && t.fld (Fld.STR_BSTAT_STATE 1) == 1 && (t.wireSt 0).leaving == none &&
         t.link (.bundle 1) == Link.fresh) ∧
      (let s := { pair0 0 4 { w0 with named := 0, leaving := some ⟨1, 1, 1⟩ } with links := [(0, { Link.fresh with keep := true })] }
       after .linkEpoch s fun t => t.fld (Fld.STR_BSTAT_STATE 0) == 1 && t.fld (Fld.STR_BSTAT_STATE 1) == 2) := by decide +kernel

/-- A half with no room left. -/
def full (p : Packet) : Half := { Half.fresh with queue := List.replicate 40 p }

/-- The packet of a remote source that a bridge port receives. -/
def fromFar (d : Ep) : Packet := rdnc d far0

theorem wit_bridge_ports :
    (let a := Reg.STR_BP_CTRL 2
     net0.accepts .flint a 0xC0000000 && after (.bridgePortEnable .flint 2 0xC0000000) net0 fun t =>
       t.bit (Fld.STR_BP_CTRL_EN 2) && t.fld (Fld.STR_BP_STAT_STATE 2) == 4) ∧
      (let s := sets net0 [(Fld.STR_BP_CTRL_EN 2, 1), (Fld.STR_BP_STAT_STATE 2, 2)]
       after (.bridgePortEnable .flint 2 0xC0000005) s fun t => t.fld (Fld.STR_BP_STAT_STATE 2) == 2 && t.fld (Fld.STR_BP_CTRL_ROLE 2) == 0) ∧
      (let s := sets net0 [(Fld.STR_BP_CTRL_EN 2, 1), (Fld.STR_BP_STAT_STATE 2, 2)]
       after (.bridgePortEnable .flint 2 0) s fun t => t.fld (Fld.STR_BP_STAT_STATE 2) == 0 && !t.bit (Fld.STR_BP_CTRL_EN 2)) ∧
      (let s := sets net0 [(Fld.STR_BP_CTRL_EN 2, 1), (Fld.STR_BP_STAT_STATE 2, 3), (Fld.STR_BP_STAT_FORCED 2, 1)]
       after (.bridgePortEnable .flint 2 0x80000000) s fun t => t.fld (Fld.STR_BP_STAT_STATE 2) == 1 && t.fld (Fld.STR_BP_STAT_FORCED 2) == 0) ∧
      (let p := fromFar (ep0 0 0 0); let s := { net0 with arrivals := [(.bridge 2, p)] }
       !malformed p && after (.bridgePortArrival 2) s fun t => t.arrivals == [] && t.net.map (·.loc) == [Loc.ingressPort 2 3 1]) ∧
      (let p := { fromFar (ep0 0 0 0) with rsv := 1 }; let s := { net0 with arrivals := [(.bridge 2, p)] }
       after (.bridgePortArrival 2) s fun t => t.fld (Fld.STR_BP_STAT_MALFORMED 2) == 1 && (t.link (.bridge 2)).dn.queue.map (·.status) == [2]) ∧
      (let p := fromFar (net0.mkEp 4 5 3 1); let s := { net0 with arrivals := [(.bridge 2, p)] }
       after (.bridgePortArrival 2) s fun t => t.fld (Fld.STR_BP_DROP_LOOP 2) == 1 && (t.link (.bridge 2)).dn.queue.map (·.status) == [6]) ∧
      (let p := fromFar (net0.mkEp 4 5 3 1); let l := { Link.fresh with dn := full (rspErr p 6) }; let s := { net0 with arrivals := [(.bridge 2, p)], links := [(66, l)] }
       s.link (.bridge 2) == l && !(s.link (.bridge 2)).dn.fits (rspErr p 6) && after (.bridgePortArrival 2) s fun t => t == s) ∧
      (let p := { fromFar (ep0 0 0 0) with rsv := 1 }; let l := { Link.fresh with dn := full (rspErr p 2) }; let s := { net0 with arrivals := [(.bridge 2, p)], links := [(66, l)] }
       after (.bridgePortArrival 2) s fun t => t == s) := by decide +kernel

theorem wit_capture :
    (let a := Reg.STR_BP_CAPCTRL 2
     net0.accepts .flint a (setBits 0x4CAB0005 31 31 1) && after (.captureArm .flint 2 0x4CAB0005) net0 fun t =>
       t.bit (Fld.STR_BP_CAPCTRL_ARM 2) && t.fld (Fld.STR_BP_CAPCTRL_TRIG 2) == 2 && t.fld (Fld.STR_BP_CAPCTRL_DIRS 2) == 3 &&
         t.fld (Fld.STR_BP_CAPCTRL_CMDMATCH 2) == 0xAB && t.fld (Fld.STR_BP_CAPSTAT_TRIGGERED 2) == 0 && (t.capOf 2).time == 0) ∧
      (let s := sets net0 [(Fld.STR_BP_STAT_STATE 2, 2), (Fld.STR_BP_STAT_LEVEL 2, 3)]
       s.accepts .flint (Reg.STR_BP_CAPCTRL 2) (setBits 0 28 28 1) && after (.captureSendtrig .flint 2 0) s fun t => (t.link (.bridge 2)).dn.queue.map (·.cmd) == [0x55#8]) ∧
      (after (.captureSendtrig .flint 2 0) net0 fun t => t.links == []) := by decide +kernel

/-- A system of 4 by 2 devices, of which this one stands at (1, 0), with Lode port `k` in a state. -/
def lode0 (k st : Nat) : State :=
  sets net0 ([(Fld.LOD_SYS_NXM1 0, 3), (Fld.LOD_SYS_NYM1 0, 1), (Fld.LOD_SYS_ODX 0, 1), (Fld.LOD_CTRL_ENC k, 0)] ++
    if st = 0 then [] else [(Fld.LOD_CTRL_EN k, 1), (Fld.LOD_STAT_STATE k, st)])

theorem wit_lode_sys :
    (let v : Word := 0x0A080080
     net0.accepts .flint (Reg.LOD_SYS 0) v && after (.lodSys .flint v) net0 fun t => t.reg (Reg.LOD_SYS 0) == v) ∧
      (let v : Word := 0x0A080300; after (.lodSys .flint v) net0 fun t => t.fld (Fld.LOD_SYS_REFUSED 0) == 1 && t.fld (Fld.LOD_SYS_NXM1 0) == 0) ∧
      (let s := sets net0 [(Fld.LOD_CTRL_EN 0, 1)]; after (.lodSys .flint 0) s fun t => t.fld (Fld.LOD_SYS_REFUSED 0) == 1) ∧
      (let s := sets net0 [(Fld.LOD_SYS_REFUSED 0, 1)]; after (.lodSys .flint 0x20000) s fun t => t.fld (Fld.LOD_SYS_REFUSED 0) == 0) := by decide +kernel

theorem wit_lode_enable :
    (let a := Reg.LOD_CTRL 0
     net0.accepts .flint a 0x80000000 && net0.lodeRefused 0 0x80000000 && after (.lodeEnable .flint 0 0x80000000) net0 fun t => t.fld (Fld.LOD_STAT_REFUSED 0) == 1) ∧
      (let s := lode0 0 0; !s.lodeRefused 0 0x80000000 && after (.lodeEnable .flint 0 0x80000000) s fun t => t.lodeState 0 == 1) ∧
      (after (.lodeEnable .flint 1 0x80000000) (lode0 1 0) fun t => t.lodeState 1 == 6) ∧
      (after (.lodeEnable .flint 0 0x80000000) (lode0 0 4) fun t => t.lodeState 0 == 1) ∧
      (let s := sets (lode0 0 4) [(Fld.LOD_CTRL_ENC 0, 1), (Fld.LOD_CTRL_KEY 0, 5)]
       s.lodeRefused 0 ((0x80000000#32 &&& 0x803F000F#32) ||| (s.reg (Reg.LOD_CTRL 0) &&& 0x60003F00#32)) &&
         after (.lodeEnable .flint 0 0x80000000) s fun t => t.fld (Fld.LOD_STAT_REFUSED 0) == 1 && t.lodeState 0 == 4) ∧
      (after (.lodeEnable .flint 0 0) (lode0 0 1) fun t => t.lodeState 0 == 0 && t.fld (Fld.LOD_CTRL_EN 0) == 0) ∧
      (let s := { lode0 0 2 with flintUp := false }
       s.lodeUsable 0 && (s.ownersBeyond 0).isEmpty && s.accepts .mgmt (Reg.LOD_CTRL 0) 0 && after (.lodeEnable .mgmt 0 0) s fun t => t.lodeState 0 == 0 && t.fld (Fld.LOD_IRQ_STATUS_DOWN 0) == 1) := by
  decide +kernel

theorem wit_lode_rekey :
    (let s := sets (lode0 0 2) [(Fld.LOD_CTRL_ENC 0, 1), (Fld.OBS_KEY_CTRL_STATE 5, 1)]
     s.classT 5 && s.accepts .flint (Reg.LOD_CTRL 0) 0x90050000 && after (.lodeRekey .flint 0 0x80050000) s fun t =>
       t.lodeState 0 == 7 && t.fld (Fld.LOD_CTRL_NEXTKEY 0) == 5 && (t.lodeSt 0).rekey) ∧
      (after (.lodeRekey .flint 0 0x80050000) (lode0 0 2) fun t => t.lodeState 0 == 2) := by decide +kernel

/-- The training set of a hub end at the same place. -/
def tsetHub (dx dy enc : Nat) : BitVec 256 :=
  let x := 0x6C * 2 ^ 216 + dx * 2 ^ 205 + dy * 2 ^ 198 + 3 * 2 ^ 191 + 1 * 2 ^ 184 + enc * 2 ^ 183
  BitVec.ofNat 256 (x * 2 ^ 32 + (crc32c (bytesLE 28 x)).toNat)

theorem wit_lode_training :
    (after (.lodeTrainingSet 0 ⟨5, []⟩) (lode0 0 1) fun t => t == lode0 0 1) ∧
      (let s := sets (lode0 0 1) [(Fld.LOD_LANES_RXFAIL 0, 0xFFFF)]; after (.lodeTrainingSet 0 ⟨(tsetHub 2 0 0), []⟩) s fun t => t == s) ∧
      (after (.lodeTrainingSet 0 ⟨(tsetHub 3 0 0), []⟩) (lode0 0 1) fun t => t.lodeState 0 == 4) ∧
      (after (.lodeTrainingSet 0 ⟨(tsetHub 2 0 1), []⟩) (lode0 0 1) fun t => t.lodeState 0 == 5 && t.fld (Fld.LOD_IRQ_STATUS_KEY 0) == 1) ∧
      (after (.lodeTrainingSet 0 ⟨(tsetHub 2 0 0), []⟩) (lode0 0 1) fun t => t.lodeState 0 == 1 && (t.link (.lode 0)).training && t.fld (Fld.LOD_STAT_PEERDX 0) == 2) := by decide +kernel

theorem wit_lode_arrivals :
    (let p := { fromFar (ep0 0 0 0) with dst := lode0 0 2 |>.mkEp 0 0 0 0 }; let s := { lode0 0 2 with arrivals := [(.lode 0, p)] }
     !malformed p && s.localEp p.dst && after (.lodePortArrival 0) s fun t => t.net.map (·.loc) == [lodeLoc (fold3 p.key) 0]) ∧
      (let p := { fromFar (ep0 0 0 0) with src := lode0 0 2 |>.mkEp 0 0 0 0 }; let s := { lode0 0 2 with arrivals := [(.lode 0, p)] }
       after (.lodePortArrival 0) s fun t => t.fld (Fld.LOD_CNT1_DROP 0) == 1) ∧
      (let p := { fromFar (ep0 0 0 0) with dst := { ep0 0 0 0 with dx := 0 } }
       let s := sets { lode0 0 2 with arrivals := [(.lode 0, p)] } [(Fld.LOD_STAT_STATE 1, 2)]
       s.lodePort p.dst == 1 && (s.link (.lode 1)).dn.fits p && after (.lodePortArrival 0) s fun t => (t.link (.lode 1)).dn.queue == [p]) ∧
      (let p := { fromFar (ep0 0 0 0) with dst := { ep0 0 0 0 with dx := 0 } }
       let s := { sets { lode0 0 2 with arrivals := [(.lode 0, p)] } [(Fld.LOD_STAT_STATE 1, 2)] with links := [(73, { Link.fresh with dn := full p })] }
       (s.link (.lode 1)).dn == full p && !(s.link (.lode 1)).dn.fits p && after (.lodePortArrival 0) s fun t => t == s) ∧
      (let p := { fromFar (ep0 0 0 0) with dst := { ep0 0 0 0 with dx := 0 } }
       let s := sets { lode0 0 2 with arrivals := [(.lode 0, p)] } [(Fld.LOD_STAT_STATE 1, 2), (Fld.PWR_DOM_STATE (net0.portDomain (net0.mkEp 4 (fold3 p.key) 7 2)), 0)]
       let turn := s.mkEp 4 (fold3 p.key) 7 2
       s.lodePort p.dst == 1 && !s.domLive (s.portDomain turn) && !s.meetsFence turn && !s.waking.contains turn && after (.lodePortArrival 0) s fun t =>
         t == s.holdFor turn && t.arrivals == s.arrivals) ∧
      (after (.lodePortDown 0) (lode0 0 1) fun t => t == lode0 0 1) ∧
      (let s := { lode0 0 2 with flintUp := false }; after (.lodePortDown 0) s fun t => t.lodeState 0 == 1 && t.fld (Fld.LOD_IRQ_STATUS_DOWN 0) == 1) := by
  decide +kernel

/-! ## DDR5 and Obsidian -/

/-- A device with 16 GiB in every channel. -/
def mem0 : State := sets net0 ((Fld.HRG_DDRTOP_GIB, 108) :: (List.range 8).map fun i => (Fld.DDR_STATUS_GIB i, 16))

/-- A range of 1 MiB in a state, with key slots 1 and 2 loaded, of class P where `cls` is 1. -/
def rng0 (st cls : Nat) : State :=
  sets mem0 [(Fld.OBS_RNG_SIZE_MIB 3, 1), (Fld.OBS_RNG_STAT_STATE 3, st), (Fld.OBS_RNG_KEYS_CLASS 3, cls), (Fld.OBS_RNG_KEYS_KEY 3, 1),
    (Fld.OBS_RNG_KEYS_NEXTKEY 3, 2), (Fld.OBS_KEY_CTRL_STATE 1, 1), (Fld.OBS_KEY_CTRL_STATE 2, 1), (Fld.OBS_KEY_CTRL_CLASS 1, cls), (Fld.OBS_KEY_CTRL_CLASS 2, cls)]

theorem wit_patrol :
    (decide (mem0.fld (Fld.DDR_SCRUB_HOURS 0) ≠ 0 ∧ 0 < mem0.dataLines 0) && after (.patrolScrub 0 (some ⟨5, .clean⟩) ⟨none, none⟩) mem0 fun t =>
        t == { mem0 with patrol := [(0, 1)], ddr := [(0, ⟨5, .clean⟩)] }) ∧
      (after (.patrolScrub 0 (some ⟨5, .oneDevice⟩) ⟨none, none⟩) mem0 fun t =>
        t.ddr == [(0, ⟨5, .clean⟩)] && t.fld (Fld.DDR_CECOUNT_COUNT 0) == 1 && t.fld (Fld.DDR_ERRLOG_A_UNCORR 0) == 0) ∧
      (after (.patrolScrub 0 (some ⟨5, .uncorrectable⟩) ⟨none, none⟩) mem0 fun t =>
        t.ddr == [(0, ⟨5, .uncorrectable⟩)] && t.fld (Fld.DDR_UECOUNT_COUNT 0) == 1 && t.fld (Fld.DDR_ERRLOG_A_UNCORR 0) == 1) ∧
      (after (.patrolScrub 0 (some ⟨5, .poison 3⟩) ⟨none, none⟩) mem0 fun t => t.ddr == [(0, ⟨5, .poison 3⟩)] && regDiff mem0 t == []) ∧
      (let s := { mem0 with patrol := [(0, 16 * 2 ^ 24 - 1)] }
       after (.patrolScrub 0 none ⟨none, none⟩) s (fun t => t == mem0) && after (.patrolScrub 0 none ⟨some .correctable, none⟩) s (fun t => t.fld (Fld.DDR_CECOUNT_COUNT 0) == 1) &&
         after (.patrolScrub 0 none ⟨some .uncorrectable, none⟩) s fun t => t.metaErr == [(16 * 2 ^ 24 - 1, .uncorrectable)]) ∧
      (let s := { rng0 2 0 with patrol := [(0, (rng0 2 0).dataLines 0)] }
       (s.metaItem 0 (s.dataLines 0)).isSome && after (.patrolScrub 0 none ⟨some .correctable, none⟩) s fun t =>
         t.fld (Fld.DDR_CECOUNT_COUNT 0) == 1 && t.fld Fld.OBS_CNT_CORRECTED == 1 && t.fld Fld.OBS_IRQ_STATUS_CORR == 1) ∧
      (let s := sets mem0 [(Fld.DDR_SCRUB_HOURS 0, 0)]; after (.patrolScrub 0 none ⟨none, none⟩) s fun t => t == s) := by decide +kernel

theorem wit_key_slots :
    (let a := Reg.OBS_KEY_CTRL 7
     mem0.accepts .flint a (setBits 0x20000000 31 30 1) && mem0.accepts .flint a (setBits 0x20000000 31 30 2) && mem0.accepts .flint a (setBits 0 31 30 3)) ∧
      (let s := mem0.setReg (Reg.OBS_KEYDATA 1) 9
       s.kAvail .mgmt && s.accepts .mgmt (Reg.OBS_KEY_CTRL 7) (setBits 0x20000000 31 30 2) && after (.keyLoad .mgmt 7 0x20000000) s fun t =>
         t.slotKey 7 == 9 * 2 ^ 32 && t.fld (Fld.OBS_KEY_CTRL_CLASS 7) == 1 && t.reg (Reg.OBS_KEYDATA 1) == 0 && t.reg (Reg.OBS_KEY_OWNER 7) == s.pathOwner .mgmt) ∧
      (!mem0.kAvail .flint && after (.keyLoad .flint 7 0x20000000) mem0 fun t => t.fld Fld.OBS_STATUS_KREFUSED == 1) ∧
      (after (.keyGen .flint 1 0) (rng0 2 0) fun t => t.fld Fld.OBS_STATUS_KREFUSED == 1) ∧
      (after (.keyLoad .mgmt 1 0) (rng0 2 0) fun t => t.fld Fld.OBS_STATUS_KREFUSED == 1) ∧
      ((rng0 2 0).keyRefs 1 == 1 && after (.keyZero .flint 1 0) (rng0 2 0) fun t => t.fld Fld.OBS_STATUS_KREFUSED == 1) ∧
      (after (.keyZero .flint 1 0) (rng0 0 0) fun t => t.fld (Fld.OBS_KEY_CTRL_STATE 1) == 0) := by decide +kernel

theorem wit_range_commands :
    ((rng0 0 0).accepts .flint (Reg.OBS_RNG_CMD 3) 1 && (rng0 0 0).initRoom 3 == some ((rng0 0 0).treeStart 0) && after (.init .flint 3) (rng0 0 0) fun t =>
        t.rngState 3 == 1 && t.rangeFlush == [(3, ⟨[], true⟩)]) ∧
      (after (.init .flint 3) (rng0 2 0) fun t => t.fld (Fld.OBS_RNG_STAT_REFUSED 3) == 1) ∧
      ((rng0 2 1).accepts .flint (Reg.OBS_RNG_CMD 3) 2 && after (.rekey .flint 3) (rng0 2 1) fun t => t.rngState 3 == 3) ∧
      (after (.rekey .flint 3) (rng0 2 0) fun t => t.fld (Fld.OBS_RNG_STAT_REFUSED 3) == 1) ∧
      ((rng0 6 0).accepts .flint (Reg.OBS_RNG_CMD 3) 3 && after (.retire .flint 3) (rng0 6 0) fun t => t.rngState 3 == 4) ∧
      (after (.retire .flint 3) (rng0 2 1) fun t => t.fld (Fld.OBS_RNG_STAT_REFUSED 3) == 1) ∧
      ((rng0 3 1).accepts .flint (Reg.OBS_RNG_CMD 3) 4 && after (.disable .flint 3) (rng0 3 1) fun t => t.rngState 3 == 5) ∧
      (after (.disable .flint 3) (rng0 0 1) fun t => t.fld (Fld.OBS_RNG_STAT_REFUSED 3) == 1) := by decide +kernel

theorem wit_range_progress :
    (after (.rekeyBlockDone 3) (rng0 2 0) fun t => t == rng0 2 0) ∧
      (let s := rng0 3 1; s.up && decide (s.rngState 3 = 3 ∧ s.ctr = [] ∧ s.metaErr = [] ∧ s.otree = [] ∧ s.ocache = [] ∧ s.rngPages 3 = 32) &&
        decide (s.fld (Fld.OBS_RNG_STAT_BOUNDARY 3) = 0 ∧ (sets s [(Fld.OBS_RNG_STAT_BOUNDARY 3, 31)]).fld (Fld.OBS_RNG_STAT_BOUNDARY 3) = 31)) ∧
      (after (.rangeOperationDone 3) (rng0 1 0) fun t => t == rng0 1 0) ∧
      (let s := { rng0 1 0 with rangeFlush := [(3, ⟨[], true⟩)] }
       !s.rngFlushing 3 && after (.rangeOperationDone 3) s fun t => t.rngState 3 == 2 && t.fld (Fld.OBS_RNG_KEYS_KEY 3) == 1 && t.rangeFlush == []) ∧
      (let s := { rng0 4 0 with rangeFlush := [(3, ⟨[], true⟩)] }; after (.rangeOperationDone 3) s fun t => t.rngState 3 == 2 && t.fld (Fld.OBS_RNG_KEYS_KEY 3) == 2) ∧
      (let s := { rng0 5 0 with rangeFlush := [(3, ⟨[], true⟩)] }; after (.rangeOperationDone 3) s fun t => t.rngState 3 == 0 && t.ddr == s.ddr) := by decide +kernel

/-! ## The host interface -/

/-- Port 0 is up and handed over, its window at the window of die 0, and pair 9 runs with 16 entries in each queue. -/
def host0 : State :=
  sets net0 [(Fld.PCI_STAT_LINKUP 0, 1), (Fld.FLN_STATUS_HANDED, 1), (Fld.PCI_WIN_WINBASE 0, 0x20000), (Fld.QUE_Q_CTRL_EN 9, 1), (Fld.QUE_Q_CTRL_SQSIZE 9, 4),
    (Fld.QUE_Q_CTRL_CQSIZE 9, 4), (Fld.QUE_Q_STAT_STATE 9, 1), (Fld.QUE_Q_CTRL_VECTOR 9, 5)]

theorem wit_pcie_links :
    (after (.pcieLinkUp true 6 ⟨16, ⟨3, true⟩⟩) net0 fun t => t.pcieCfg true == ⟨3, true⟩ && t.fld (Fld.PCI_STAT_LINKUP 1) == 1 && t.fld (Fld.PCI_STAT_RATE 1) == 6 && t.fld (Fld.PCI_STAT_WIDTH 1) == 16) ∧
      (let s := sets net0 [(Fld.PWR_DOM_STATE 6, 0)]; after (.pcieLinkUp true 6 ⟨16, ⟨3, true⟩⟩) s fun t => t == s) ∧
      (after (.pcieLinkDown true) host0 fun t => t == host0) ∧
      (host0.linkUp false && !host0.qPort 9 && host0.qState 9 == 1) := by decide +kernel

/-- The bytes of a whole line, of one granule, and of half a granule. -/
def bytes8 (n : Nat) : List (Option Byte) := (List.range n).map fun i => some (BitVec.ofNat 8 i)

theorem wit_windows :
    (after (.windowRead true 3 0 8) host0 fun t => t == host0) ∧
      (let s := sets host0 [(Fld.FLN_STATUS_HANDED, 0)]; after (.windowRead false 3 0 8) s fun t => t.out == [.cpl false 3 false false []]) ∧
      (after (.windowRead false 3 8 56) host0 fun t => t.net.map (fun f => (f.pkt.cmd, f.pkt.spec)) == [(8, 2)] && t.tags.length == 1 && t.wins.length == 1) ∧
      (after (.windowWrite false 4 (bytes8 4) false) host0 fun t => t.fld (Fld.PCI_WINERR_A_STATUS 0) == 3 && t.fld (Fld.PCI_WINERRCNT_COUNT 0) == 1) ∧
      (after (.windowWrite false 0 [none] false) host0 fun t => t == host0) ∧
      (decide (host0.bar4Size false = 2 ^ 30) && after (.windowRead false 3 (2 ^ 30 - 4) 8) host0 (fun t => t == host0) &&
        after (.windowWrite false (2 ^ 30) (bytes8 8) false) host0 fun t => t == host0) ∧
      (after (.windowWrite false 64 (bytes8 64) false) host0 fun t => t.net.map (fun f => (f.pkt.cmd, f.pkt.len)) == [(9, 2)]) ∧
      (after (.windowWrite false 8 (bytes8 8) false) host0 fun t => t.net.map (fun f => (f.pkt.cmd, f.pkt.gran)) == [(4, 2)]) ∧
      (let s := post (.windowWrite false 8 (bytes8 8) false) host0
       s.winBusy false && after (.windowRead false 3 0 8) s (fun t => t.hostHeld.map (·.after) == [s.winWrites false]) && after (.sqTail false 9 true (.write 3)) s (fun t => t.hostHeld.length == 1) &&
         after (.cqHead false 9 true (.write 3)) s fun t => t.hostHeld.length == 1) := by decide +kernel

theorem wit_doorbells :
    (after (.sqTail false 9 true (.read 5)) host0 fun t => t == host0.emit (.cpl false 5 true false [0, 0, 0, 0])) ∧
      (after (.cqHead true 9 true (.read 5)) host0 fun t => t == host0) ∧
      (let s := { host0 with heldAcc := [⟨.pcie false, 0, some 1, 0⟩] }
       s.orderBusy false && !s.winBusy false && after (.sqTail false 9 true (.write 3)) s fun t => t.hostHeld.length == 1 && t.pairs == s.pairs) ∧
      (after (.sqTail false 9 true (.write 3)) host0 fun t => (t.pair 9).sqTail == 3) ∧ (after (.cqHead false 9 true (.write 3)) host0 fun t => (t.pair 9).cqHead == 3) ∧
      (after (.sqTail false 9 true (.write 16)) host0 fun t => t.qState 9 == 2 && t.fld (Fld.QUE_Q_STAT_ERRCAUSE 9) == 2) ∧
      (after (.cqHead false 9 true (.write 16)) host0 fun t => t.qState 9 == 2) ∧
      (after (.sqTail false 8 true (.write 3)) host0 fun t => t.fld Fld.QUE_DBERR_COUNT == 1) ∧ (after (.cqHead false 9 false (.write 3)) host0 fun t => t.fld Fld.QUE_DBERR_COUNT == 1) ∧
      (let s := sets host0 [(Fld.FLN_STATUS_HANDED, 0)]; after (.sqTail false 9 true (.write 3)) s fun t => t == s) := by decide +kernel

theorem wit_queue_pairs :
    (let v : Word := 0xC4440007; let s := sets host0 [(Fld.PCI_STAT_LINKUP 1, 1)]
     s.accepts .flint (Reg.QUE_Q_CTRL 8) v && after (.queueEnable .flint 8 v) s fun t => t.qState 8 == 1 && t.qPort 8 && t.fld (Fld.QUE_Q_CTRL_DOMAIN 8) == 1) ∧
      (after (.queueEnable .flint 8 0x03330007) host0 fun t => t.qState 8 == 0 && t.fld (Fld.QUE_Q_STAT_ERRCAUSE 8) == 5) ∧
      (after (.queueEnable .flint 9 0x04440007) host0 fun t => regDiff host0 t == []) ∧
      (host0.accepts .flint (Reg.QUE_Q_CTRL 9) (setBits 0 31 31 0) && after (.queueDelete .flint 9 0) host0 fun t => t.qState 9 == 3 && t.fld (Fld.QUE_Q_CTRL_EN 9) == 0) ∧
      (after (.queueDelete .flint 8 7) host0 fun t => t.fld (Fld.QUE_Q_CTRL_VECTOR 8) == 7 && t.qState 8 == 0) := by decide +kernel

/-- A descriptor of operation `op` and length `len`, from `src` to `dst` or to endpoint bits `ep`. -/
def desc0 (op len src dst ep : Nat) : Desc :=
  { num := 0, dws := [BitVec.ofNat 32 op, BitVec.ofNat 32 len, BitVec.ofNat 32 src, BitVec.ofNat 32 (src / 2 ^ 32), BitVec.ofNat 32 dst,
      BitVec.ofNat 32 (dst / 2 ^ 32), BitVec.ofNat 32 ep, 0], sqHead := 1, started := false, next := 0, chunks := [], fail := none, poison := false, stop := false }

/-- Pair 9 with one descriptor in hand. -/
def dma0 (x : Desc) : State := { host0 with pairs := [(9, { Pair.fresh with descs := [x], nextNum := 1 })] }

theorem wit_dma_fetch :
    (let s := { host0 with pairs := [(9, { Pair.fresh with sqTail := 2 })] }
     after (.sqEntryFetch 9) s fun t => t.out == [.memRead false 0 0 32] && t.hostReads.length == 1) ∧
      (after (.sqEntryFetch 9) host0 fun t => t == host0) ∧
      (let s := sets { host0 with pairs := [(9, { Pair.fresh with sqTail := 2 }), (10, { Pair.fresh with sqTail := 2 })], sqTurn := 10 } [
           (Fld.QUE_Q_CTRL_SQSIZE 10, 4), (Fld.QUE_Q_STAT_STATE 10, 1)]
       !s.sqTurnOf 9 && s.sqTurnOf 10 && after (.sqEntryFetch 9) s (fun t => t == s) && after (.sqEntryFetch 10) s fun t => t.hostReads.length == 1 && t.sqTurn == 11) ∧
      (let s := { host0 with hostReads := [⟨4, false, 32, .sq 9⟩] }
       after (.hostReadCompletion 4 (.data (List.replicate 32 0))) s (fun t => (t.pair 9).descs.length == 1 && t.fld (Fld.QUE_Q_STAT_SQHEAD 9) == 1) &&
         after (.hostReadCompletion 4 .abort) s (fun t => t.qState 9 == 2 && t.fld (Fld.QUE_Q_STAT_ERRCAUSE 9) == 1) &&
         after (.hostReadTimeout 4) s (fun t => t.qState 9 == 2) && after (.hostReadTimeout 5) s fun t => t == s) := by decide +kernel

/-- A command of the pair starts its descriptor: what it asks of the host, or the packet that it sends. -/
def startsB (c : Instr) (x : Desc) (asks : List Nat) (sends : List (BitVec 8)) : Bool :=
  after c (dma0 x) fun t => (t.hostReads.map (·.len)) == asks && t.net.map (·.pkt.cmd) == sends && (t.pair 9).descs.all (·.started)

theorem wit_dma_starts :
    startsB (.h2d 9 0) (desc0 1 100 0x5000 0x800000000020 0) [32] [] ∧ startsB (.h2p 9 0) (desc0 4 1000 0x5000 0 0) [512] [] ∧
      startsB (.d2h 9 0) (desc0 2 100 0x800000000030 0x5000 0) [] [8] ∧ startsB (.d2d 9 0) (desc0 3 100 0x800000000000 0x800000001000 0) [] [8] ∧
      startsB (.p2h 9 0) (desc0 5 64 0x40 0x5000 0) [] [8] ∧ startsB (.dmaDb 9 0) (desc0 6 0 7 0x20000 0) [] [0x10] ∧
      startsB (.dmaNop 9 0) (desc0 7 0 0 0 0) [] [] := by decide +kernel

theorem wit_dma_ends :
    (let x := { desc0 1 64 0x5000 0x800000000000 0 with started := true, next := 64, chunks := [⟨0, 64, [], 1, 0⟩] }
     let s := { dma0 x with hostReads := [⟨4, false, 64, .data 9 0 0⟩] }
     after (.hostReadCompletion 4 (.data (List.replicate 64 3))) s (fun t => t.net.map (fun f => (f.pkt.cmd, f.pkt.len)) == [(9, 2)]) &&
       after (.hostReadTimeout 4) s fun t => (t.pair 9).descs.map (fun y => y.fail.map fun f => (f.2.1, f.2.2)) == [some (10, 1)]) ∧
      (let x := { desc0 1 8 0x5000 0x800000000008 0 with started := true, next := 8, chunks := [⟨0, 8, [], 1, 0⟩] }
       let s := { dma0 x with hostReads := [⟨4, false, 8, .data 9 0 0⟩] }
       after (.hostReadCompletion 4 (.data (List.replicate 8 3))) s fun t => t.net.map (fun f => (f.pkt.cmd, f.pkt.gran)) == [(4, 2)]) ∧
      (let x := { desc0 7 0 0 0 0 with started := true, dws := [0xAB000207, 0, 0, 0, 0, 0, 0, 0] }
       let s := { (dma0 x).setReg (msixAddr false 5 3) 0 with pcie := [(0, ⟨0, true⟩)], pairs := [(9, { Pair.fresh with descs := [x], cqHead := 5 })] }
       x.done && after (.descriptorFinish 9 0) s fun t =>
         t.out.length == 3 && t.out.getLast? == some (.msix false 5) && t.pair 9 == { Pair.fresh with cqHead := 5, cqTail := 1 }) ∧
      (let x := { desc0 7 0 0 0 0 with started := true }; let s := { dma0 x with pairs := [(9, { Pair.fresh with descs := [x], cqHead := 1 })] }
       after (.descriptorFinish 9 0) s fun t => t == s) ∧
      (let x := { desc0 7 0 0 0 0 with started := true }; let s := sets (dma0 x) [(Fld.PCI_STAT_LINKUP 0, 0)]
       after (.descriptorFinish 9 0) s fun t => t.fld Fld.QUE_DBERR_LOSTCPL == 1 && t.out == []) := by decide +kernel

/-! ## The configuration loader -/

/-- Flint owns the loader; region 2 holds sector 0 of die 0 and is in state `st`. -/
def ld0 (st : Nat) (l : List (RField × Nat)) : State :=
  (sets dev ([(Fld.CFG_REG_STAT_STATE 2, st), (Fld.CFG_REG_SECLO_SECTORS 2, 1), (Fld.CFG_STATUS_CGFREE, 256)] ++ l)).setReg Reg.CFG_LOCK dev.flintId

/-- CFG_CMD for region 2. -/
def cmd2 : Word := 0x20000

/-- The conditions of a loader command over the register path, with no stream. -/
def freshB (s : State) (v : Word) (op : Nat) : Bool :=
  s.accepts .flint Reg.CFG_CMD (setBits v 31 28 op) && s.reg Reg.CFG_LOCK == s.pathOwner .flint && s.loader.ent == none && s.loader.busy == none && s.loader.stream == none

/-- A loader command ended with a reason. -/
def endedB (t : State) (region op reason : Nat) : Bool :=
  t.reg Reg.CFG_RESULT == BitVec.ofNat 32 (2 ^ 31 + region * 2 ^ 16 + op * 2 ^ 8 + reason) && t.fld Fld.CFG_IRQ_STATUS_DONE == 1 &&
    (reason == 0 || t.fld Fld.CFG_IRQ_STATUS_FAIL == 1)

/-- An open stream of the register path. -/
def str0 (op : Nat) (bytes : List Byte) (man : Option Manifest) : Stream :=
  { src := .reg .flint, region := 2, op := op, bytes := bytes, got := bytes.length, total := if man.isSome then bytes.length else 0, man := man, blk := 0 }

/-- A state with a stream. -/
def withStr (s : State) (x : Stream) : State := { s with loader := { s.loader with stream := some x } }

theorem wit_loader_lock :
    ((dev.setReg Reg.CFG_LOCK 0).accepts .flint Reg.CFG_LOCK_OP 1 && after (.cfgLockAcquire .flint) (dev.setReg Reg.CFG_LOCK 0) fun t => t.reg Reg.CFG_LOCK == dev.flintId) ∧
      (dev.accepts .flint Reg.CFG_LOCK_OP 0 && after (.cfgLockRelease .flint) (ld0 0 []) fun t => t.reg Reg.CFG_LOCK == 0) ∧
      ((dev.setReg Reg.CFG_LOCK 0).accepts .flint Reg.CFG_CMD (setBits cmd2 31 28 6) && after (.clear (some .flint) cmd2) (dev.setReg Reg.CFG_LOCK 0) fun t => endedB t 2 6 24) ∧
      (let s := { ld0 2 [] with loader := { dev.loader with busy := some ⟨true, 2, .reg .flint⟩ } }
       after (.freeze (some .flint) cmd2) s fun t => endedB t 2 3 7) ∧
      (after (.clear (some .flint) cmd2) (withStr (ld0 2 []) (str0 1 [] none)) fun t => endedB t 2 1 7 && t.loader.stream == none) := by decide +kernel

theorem wit_loads :
    (freshB (ld0 0 []) cmd2 1 && after (.load (some .flint) cmd2) (ld0 0 []) fun t => t.loader.stream == some (str0 1 [] none)) ∧
      (freshB (ld0 0 []) cmd2 2 && after (.loadf (some .flint) cmd2 []) (ld0 0 []) fun t => endedB t 2 2 27) ∧
      (let s := ld0 0 ((List.range 6).map fun p => (Fld.PIN_CFG_FUNC p, 2))
       after (.loadf (some .flint) cmd2 []) s (fun t => endedB t 2 2 27) && after (.loadf (some .flint) cmd2 (List.replicate 64 0)) s fun t => endedB t 2 2 1) := by
  decide +kernel

theorem wit_freeze :
    (freshB (ld0 3 []) cmd2 3 && (ld0 3 []).feature 9 && after (.freeze (some .flint) cmd2) (ld0 3 []) fun t => t.loader.busy == some ⟨false, 2, .reg .flint⟩ && t.regFrozen 2) ∧
      (let e := (ld0 3 []).mkEp 0 0 0 0; let p : Packet := { pkt0 8 e ((ld0 3 []).mkEp 0 1 0 0) with spec := 1, gran := 0xFF }
       let s := { ld0 3 [] with inbox := [⟨e, p⟩, ⟨e, { p with cls := 1 }⟩], ffs := [(7, true)] }
       (s.regPorts 2).contains e && after (.freeze (some .flint) cmd2) s fun t => t.inbox == [⟨e, { p with cls := 1 }⟩] && t.ffs == s.ffs && t.net.map (·.pkt.dst) == [p.src]) ∧
      (after (.freeze (some .flint) cmd2) ((ld0 3 []).setReg Reg.HUB_FEATURES 0) fun t => endedB t 2 3 4) ∧
      (after (.freeze (some .flint) cmd2) (ld0 2 []) fun t => endedB t 2 3 7) := by decide +kernel

theorem wit_commit :
    (freshB (ld0 3 []) cmd2 4 && after (.commit (some .flint) cmd2) (ld0 3 []) fun t => endedB t 2 4 7) ∧
      (after (.commit (some .flint) cmd2) (ld0 2 []) fun t => endedB t 2 4 23) ∧
      (let s := (ld0 2 [(Fld.CFG_REG_STAT_COMPLETE 2, 1)]).setReg Reg.CFG_ARG1 257; after (.commit (some .flint) cmd2) s fun t => endedB t 2 4 21) ∧
      (let s := ((ld0 3 [(Fld.CFG_REG_STAT_FROZEN 2, 1)]).setReg Reg.CFG_ARG1 1).setReg (Reg.CFG_CG_ADDR 0) (BitVec.ofNat 32 Reg.CFG_ARG0)
       after (.commit (some .flint) cmd2) s fun t => t.fld Fld.CFG_STATUS_CGFREE == 255 && t.loader.commits == [⟨2, 2, [(Reg.CFG_ARG0, 0)], .reg .flint⟩]) ∧
      (let s := ((ld0 2 [(Fld.CFG_REG_STAT_COMPLETE 2, 1)]).setReg Reg.CFG_ARG1 1).setReg (Reg.CFG_CG_ADDR 0) 3
       after (.commit (some .flint) cmd2) s fun t => endedB t 2 4 22) := by decide +kernel

theorem wit_abort :
    (let s := { ld0 2 [] with loader := { dev.loader with busy := some ⟨true, 2, .reg .flint⟩ } }
     after (.abort (some .flint) cmd2) s fun t => endedB t 2 5 0 && t.loader == s.loader) ∧
      (freshB (ld0 0 []) cmd2 5 && after (.abort (some .flint) cmd2) (ld0 0 []) fun t => endedB t 2 5 0) ∧
      (after (.abort (some .flint) cmd2) (withStr (ld0 0 []) (str0 1 [] none)) fun t => endedB t 2 1 25 && t.loader.stream == none) ∧
      (let m : Manifest := ⟨false, [], 0, [⟨2, 0, 1, []⟩], []⟩
       after (.abort (some .flint) cmd2) (withStr (ld0 1 []) (str0 1 [] (some m))) fun t => endedB t 2 1 25 && t.regState 2 == 2 && t.fld (Fld.CFG_REG_STAT_COMPLETE 2) == 0) := by
  decide +kernel

theorem wit_clear :
    (freshB (ld0 4 []) cmd2 6 && after (.clear (some .flint) cmd2) (ld0 4 []) fun t => t.loader.busy == some ⟨true, 2, .reg .flint⟩) ∧
      (let i : RegionInfo := { ranges := [], version := 0, meas := [], ran := true }
       let s := { (ld0 4 []).setReg Reg.HUB_FEATURES 0 with regions := [(2, i)] }
       s.regPinned 2 && after (.clear (some .flint) cmd2) s fun t => endedB t 2 6 4) ∧
      (after (.clear (some .flint) cmd2) (ld0 0 []) fun t => endedB t 2 6 7) := by decide +kernel

/-- A READ of one frame at a FAR. -/
def rd1 (s : State) (far : Word) : State := (s.setReg Reg.CFG_ARG0 far).setReg Reg.CFG_ARG1 1

theorem wit_readback :
    (freshB (ld0 2 []) 0 7 && after (.read (some .flint) 0) (rd1 (ld0 2 []) 0x200) fun t => endedB t 0 7 7) ∧
      (after (.read (some .flint) 0) ((rd1 (ld0 2 []) 0xBF17F).setReg Reg.CFG_ARG1 2) fun t => endedB t 0 7 7) ∧
      (let s := ld0 2 [(Fld.HUB_IDENT_DIE_PRESENT, 7)]
       !s.dieOk 3 && after (.read (some .flint) 0) (rd1 s (BitVec.ofNat 32 (farOfKey (3 * (16 * 192 * 384))))) fun t => endedB t 0 7 7) ∧
      (after (.read (some .flint) 0) (rd1 (ld0 2 [(Fld.LCS_STATUS_STATE, 2)]) 0) fun t => endedB t 0 7 5) ∧
      (after (.read (some .flint) 0x08000000) (rd1 (ld0 2 []) 0) fun t => endedB t 0 7 7) ∧
      (let s := { rd1 (ld0 4 []) 0 with frames := [(0, 0x123456789)] }
       after (.read (some .flint) 0x08000000) s fun t => endedB t 0 7 0 && t.loader.readBuf.length == 128 && t.loader.readBuf.take 2 == [0x23456789, 1]) := by
  decide +kernel

/-- A block of one frame whose payload is `v` and whose CRC-32C is `crc`, for region 2 at FAR 0. -/
def plain0 (v crc : Nat) : List Byte := bytesLE 512 v ++ bytesLE 4 crc

/-- The first 16 bytes of a block record of one frame at FAR 0 for region 2. -/
def bhead : List Byte := [0, 0, 0, 0, 1, 0, 2, 0, 0, 0, 0, 0, 0, 0, 0, 0]

/-- Its record. -/
def blk0 (hash : Nat) : ManBlk := { far := 0, count := 1, region := 2, head := bhead, hash := bytesBE 32 hash }

/-- SHA-256 of `plain0 0 821882304`, a frame of zeros with its CRC-32C. -/
def zeroHash : Nat := 37156850472488109402201165834043810905154882007522102887281123521409112783847

/-- A manifest of region 2. -/
def man0 (blks : List ManBlk) : Manifest := ⟨false, List.replicate 12 0, 0, [⟨2, 0, 1, List.replicate 4 (0, 0)⟩], blks⟩

/-- A bitstream of one block for region 2, not signed: its header, its manifest and its block. -/
def image0 : List Byte :=
  bytesLE 4 0x5342524C ++ bytesLE 2 1 ++ bytesLE 2 0 ++ bytesLE 8 (64 + 128 + 532) ++ bytesLE 4 128 ++ bytesLE 4 0 ++ List.replicate 40 0 ++
    ([0, 0, 1, 0] ++ List.replicate 8 0 ++ [1, 0, 0, 0] ++ ([2, 0, 0, 0, 1] ++ List.replicate 59 0) ++ bhead ++ bytesBE 32 zeroHash) ++ bhead ++ plain0 0 821882304

theorem wit_bitstream_manifest :
    headerOk (slice image0 0 64) = true ∧ image0.length = 724 ∧
      (ld0 0 []).manifestCheck (slice image0 0 64) (slice image0 64 128) (slice image0 192 0) = .inl (man0 [blk0 zeroHash]) := by decide +kernel

/-- A stream of region 2, LOADING, with its one block buffered. -/
def lb0 (bytes : List Byte) (blks : List ManBlk) : State := withStr (ld0 1 []) (str0 1 bytes (some (man0 blks)))

set_option maxRecDepth 100000 in
theorem wit_loader_blocks :
    (after .loaderBlock dev fun t => t == dev) ∧
      (after .loaderBlock (lb0 bhead [blk0 0]) fun t => t == lb0 bhead [blk0 0]) ∧
      (after .loaderBlock (lb0 (bhead ++ plain0 0 0) [blk0 0]) fun t => endedB t 2 1 8 && t.regState 2 == 2) ∧
      (after .loaderBlock (lb0 (0 :: bhead ++ plain0 0 821882304) [blk0 0]) fun t => endedB t 2 1 1) ∧
      (let s := lb0 (bhead ++ plain0 0 821882304) [blk0 zeroHash]
       s.blockPlain (man0 []) 0 (blk0 zeroHash) (bhead ++ plain0 0 821882304) == .inl (plain0 0 821882304) && frameBad (plain0 0 821882304) 0 0 == none &&
         after .loaderBlock s fun t => endedB t 2 1 0 && t.frames == [] && t.fld (Fld.CFG_REG_STAT_COMPLETE 2) == 1) ∧
      (let s := lb0 (bhead ++ plain0 0 821882304) [blk0 zeroHash, blk0 0]
       after .loaderBlock s fun t => (t.loader.stream.map fun x => (x.blk, x.bytes.length)) == some (1, 0) && t.regState 2 == 1) ∧
      (let s := withStr (ld0 1 []) { str0 1 (bhead ++ plain0 0 821882304) (some (man0 [blk0 0, blk0 zeroHash, blk0 0])) with blk := 1 }
       after .loaderBlock s fun t => (t.loader.stream.map fun x => x.blk) == some 2 && regDiff s t == []) := by decide +kernel

theorem wit_loader_queue :
    (let s := sets host0 [(Fld.CFG_LQ_CTRL_EN, 1), (Fld.CFG_LQ_CTRL_SIZE, 4)]
     s.accepts .flint Reg.CFG_LQ_TAIL 3 && after (.cfgLqTail .flint 3) s fun t => t.out.contains (.memRead false 0 0 32) && t.hostReads.length == 1) ∧
      (let s := sets host0 [(Fld.CFG_LQ_CTRL_SIZE, 4)]; after (.cfgLqTail .flint 20) s fun t => t.fld Fld.CFG_LQ_TAIL_INDEX == 20) ∧
      (after (.cfgLqTail .flint 3) host0 fun t => t.fld Fld.CFG_LQ_TAIL_INDEX == 3 && t.hostReads == []) ∧
      (after (.clear none 0) dev fun t => t == dev) ∧
      (let s := { host0.setReg Reg.CFG_LOCK (ownerId 1 0 0 0) with loader := { host0.loader with ent := some [0x201, 0, 0x5000, 0, 100, 0, 0, 0] } }
       after (.load none 0) s fun t => t.out == [.memRead false 0 0x5000 100] && (t.loader.stream.map fun x => (x.region, x.total)) == some (2, 0)) := by decide +kernel

theorem wit_loader_data :
    (let s := withStr (ld0 0 []) (str0 1 [] none)
     s.accepts .flint Reg.CFG_DATA 5 && after (.cfgData .flint (some 5) 0) s (fun t => t.loader.stream == some (str0 1 [5, 0, 0, 0] none)) &&
       after (.cfgData .flint (some 5) 0) (s.setReg Reg.CFG_LOCK 0) fun t => t.loader.stream == some (str0 1 [] none)) ∧
      (let s := { dev with loader := { dev.loader with readBuf := [9, 8] } }
       (match s.reach .mgmt Reg.CFG_DATA true false with | .inl (_, .reg r) => decide (r.readMask = 0xFFFFFFFF#32) | _ => false) &&
         after (.cfgData .mgmt none 0) s fun t => t.loader.readBuf == [8] && t.out.any fun o => match o with | .mgmt _ w => decide (w = some 9#32) | _ => false) := by
  decide +kernel

theorem wit_freeze_and_clear_end :
    (after .freezeComplete dev fun t => t == dev) ∧ (after .clearComplete dev fun t => t == dev) ∧
      (let s := { ld0 3 [] with loader := { dev.loader with busy := some ⟨false, 2, .reg .flint⟩ } }
       s.regionFenced 2 && after .freezeComplete s (fun t => endedB t 2 3 0 && t.loader.busy == none) &&
         after .freezeComplete { s with drains := (s.regPorts 2).take 1 } fun t => t.loader.busy.isSome) ∧
      (let s := { ld0 4 [] with frames := [(0, 7), (384 * 192, 8)], loader := { dev.loader with busy := some ⟨true, 2, .reg .flint⟩ } }
       after .clearComplete s fun t => endedB t 2 6 0 && t.regState 2 == 0 && t.regSectors 2 == 0 && t.frames == [(384 * 192, 8)]) := by decide +kernel

/-- A commit of region 2 that is due. -/
def due0 (st : Nat) (ents : List (Nat × Word)) : State := { ld0 st [] with loader := { dev.loader with commits := [⟨2, 0, ents, .reg .flint⟩] } }

theorem wit_epochs :
    (after .commitEpoch dev fun t => t == dev) ∧ (after .loaderEpoch dev fun t => t.fld Fld.CFG_EPOCH_EPOCH == 1) ∧
      (after .commitEpoch (due0 4 []) fun t => endedB t 2 4 7 && t.loader.commits == []) ∧
      (after .commitEpoch (due0 2 [(3, 0)]) fun t => endedB t 2 4 22 && t.fld Fld.CFG_STATUS_CGFREE == 257) ∧
      ((match regSel Reg.CFG_ARG0 with | some (b, _) => (due0 2 []).blockOff b == none && !(due0 2 []).featureOff b | _ => false) &&
        (due0 2 []).regState 2 == 2) := by decide +kernel

/-- A state whose frame 0 holds `f` after upsets `l`. -/
def upset0 (s : State) (f : BitVec 4096) (l : List (Nat × Nat)) : State :=
  { sets s [(Fld.CFG_SCRUB_EN, 1)] with frames := [(0, f)], upsets := [(0, l)] }

theorem wit_scrub :
    (after (.scrubFrame 0 [(0, 0, 3)]) (sets dev [(Fld.CFG_SCRUB_EN, 0)]) fun t => t.scrub == [] && t.upsets == []) ∧
      (let s := upset0 (ld0 1 []) 8 [(0, 3)]; s.frameRegion 0 == some 2 && after (.scrubFrame 0 []) s fun t => t == { s with scrub := [(0, 1)] }) ∧
      (let s := sets (ld0 2 []) [(Fld.CFG_SCRUB_EN, 1)]
       s.dieOk 0 && after (.scrubFrame 0 []) s (fun t => t == { s with scrub := [(0, 1)] }) &&
         after (.scrubFrame 0 [(0, 0, 3)]) s (fun t => t.frame 0 == 8 && t.upsets == [(0, [(0, 3)])]) &&
         after (.scrubFrame 0 [(7, 63, 71)]) s fun t => t.frames == [] && t.upsets == [(7, [(63, 71)])]) ∧
      (let s := upset0 (ld0 2 []) 8 [(0, 3)]
       after (.scrubFrame 0 []) s fun t => t.frames == [] && t.upsets == [] && t.fld Fld.CFG_SCRUBCNT_CORRECTED == 1 && t.fld Fld.CFG_IRQ_STATUS_CORR == 1 && t.regState 2 == 2) ∧
      (let s := upset0 (ld0 2 []) 0x23 [(0, 5)]
       frameTwoHot 0 3 && after (.scrubFrame 0 []) s fun t => t.frame 0 == 3 && t.fld Fld.CFG_SCRUBCNT_CORRECTED == 1 && t.regState 2 == 4) ∧
      (let s := upset0 { dev with regs := dev.regs.take 3 } 0x28 [(0, 3), (0, 5)]
       s.frameRegion 0 == none && after (.scrubFrame 0 []) s fun t => t.frame 0 == 0x28 && t.upsets == [(0, [(0, 3), (0, 5)])] && t.fld Fld.CFG_SCRUBCNT_UNCORR == 1) ∧
      (let s := upset0 (ld0 2 []) 0x28 [(0, 3), (0, 5)]
       after (.scrubFrame 0 []) s fun t => t.fld Fld.CFG_SCRUBCNT_UNCORR == 1 && t.regState 2 == 4) := by decide +kernel

/-! ## Probes and system pins -/

/-- Flint owns the probe multiplexer of die 0. -/
def prb0 : State := run0.setReg (Reg.PRB_OWNER 0) dev.flintId

/-- A read over the management bus answers `w`. -/
def mgmtB (t : State) (w : Word) : Bool := match t.out.getLast? with | some (.mgmt _ x) => decide (x = some w) | _ => false

/-- A register is read over the management bus through a read mask. -/
def readsB (s : State) (addr : Nat) (mask : Word) : Bool :=
  s.up && s.lcState ≠ 4 && match s.reach .mgmt addr true false with | .inl (b, .reg r) => !s.featureOff b && r.readMask == mask | _ => false

theorem wit_probes :
    (dev.accepts .flint (Reg.PRB_OWNER_OP 0) 1 && after (.prbOwnerOp .flint 0 true) dev fun t => t.reg (Reg.PRB_OWNER 0) == dev.flintId) ∧
      (dev.accepts .flint (Reg.PRB_OWNER_OP 0) 0 && after (.prbOwnerOp .flint 0 false) prb0 fun t => t.reg (Reg.PRB_OWNER 0) == 0) ∧
      (prb0.accepts .flint (Reg.PRB_SEL 0 7) 0x80600801 && after (.prbSel .flint 0 7 0x80600801) dev fun t => regDiff dev t == []) ∧
      (after (.prbSel .flint 0 7 0x80600FE1) prb0 fun t => t.reg (Reg.PRB_SEL 0 7) == 0x80600801) ∧
      (after (.prbSel .flint 0 7 0x60000801) prb0 fun t => t.fld (Fld.PRB_STAT_REFUSED 0) == 1 && t.reg (Reg.PRB_SEL 0 7) == prb0.reg (Reg.PRB_SEL 0 7)) ∧
      (prb0.accepts .flint (Reg.PRB_CTRL 0) 0x80000004 && after (.prbArm .flint 0 4) dev fun t => regDiff dev t == []) ∧
      (after (.prbArm .flint 0 4) prb0 fun t => t.reg (Reg.PRB_CTRL 0) == 0x80000004 && t.reg (Reg.PRB_STAT 0) == 0) ∧
      (after (.prbArm .flint 0 4) (sets prb0 [(Fld.PRB_CTRL_ARM 0, 1)]) fun t => t.reg (Reg.PRB_CTRL 0) == 0x80000004) ∧
      (let s := { prb0 with probeBuf := [(0, 0x12345678)] }
       readsB s (Reg.PRB_RDDATA 0) 0xFFFFFFFF && after (.prbRddata .mgmt 0 0) s fun t => mgmtB t 0x12345678 && t.fld (Fld.PRB_RDADDR_ADDR 0) == 1) := by decide +kernel

theorem wit_probe_samples :
    (after (.probeSample 0) prb0 fun t => t == prb0) ∧
      (let s := (sets prb0 [(Fld.PRB_CTRL_ARM 0, 1)]).setReg (Reg.PRB_TRIGMASK 0) 1 |>.setReg (Reg.PRB_TRIGVAL 0) 1
       s.spineRuns 0 0 && s.feature 11 && !s.bit (Fld.PRB_STAT_TRIGGERED 0) && s.probeSlots 0 % 2 == 0) ∧
      (let s := sets prb0 [(Fld.PRB_CTRL_ARM 0, 1)]
       after (.probeSample 0) s fun t => t.bit (Fld.PRB_STAT_TRIGGERED 0) && t.fld (Fld.PRB_STAT_TRIGIDX 0) == 0 && t.bit (Fld.PRB_CTRL_ARM 0) == false) ∧
      (let s := sets prb0 [(Fld.PRB_CTRL_ARM 0, 1), (Fld.PRB_CTRL_POST 0, 3)]
       s.spineRuns 0 0 && s.fld (Fld.PRB_CTRL_POST 0) == 3) ∧
      (let s := { sets prb0 [(Fld.PRB_CTRL_ARM 0, 1), (Fld.PRB_STAT_TRIGGERED 0, 1)] with probeLeft := [(0, 2)] }
       after (.probeSample 0) s (fun t => t.probeLeft == [(0, 1)] && t.bit (Fld.PRB_CTRL_ARM 0)) &&
         after (.probeSample 0) { s with probeLeft := [(0, 1)] } fun t => t.bit (Fld.PRB_CTRL_ARM 0) == false) := by decide +kernel

/-- The claim `c` of pin `p` is refused for a reason. -/
def claimB (c : Instr) (s : State) (p reason : Nat) : Bool :=
  after c s fun t => t.fld Fld.PIN_CLAIMERR_REASON == reason && t.fld Fld.PIN_CLAIMERR_VALID == 1 && t.fld Fld.PIN_CLAIMERR_PIN == p && t.shadow == s.shadow

theorem wit_pin_claims :
    (dev.accepts .flint (Reg.PIN_CFG 12) 2 && after (.pinClaim .flint 12 2) dev fun t => SMap.find t.shadow (Reg.PIN_CFG 12) == some (dev.pullXor 2 &&& 0xF800003B)) ∧
      claimB (.pinClaim .flint 12 1) (sets dev [(Fld.PIN_CFG_FUNC 12, 2)]) 12 1 ∧ claimB (.pinClaim .flint 56 3) (sets dev [(Fld.PIN_CFG_FUNC 24, 2)]) 56 2 ∧ claimB (.pinClaim .flint 3 3) dev 3 3 ∧ claimB (.pinClaim .flint 50 2) dev 50 3 ∧
      claimB (.pinClaim .flint 3 0x28000001) dev 3 4 := by decide +kernel

theorem wit_gpio :
    (dev.accepts .flint (Reg.GPIO_OUT_M 1) 0x00050004 && after (.gpioOut .flint 1 0x00050004) dev fun t => t.pins.gpio == [(1, 0x00050004)]) ∧
      (dev.accepts .flint (Reg.GPIO_OE_M 1) 0x00050004 && after (.gpioOe .flint 1 0x00050004) dev fun t => t.pins.gpio == [(5, 0x00050004)]) ∧
      (dev.accepts .flint (Reg.PIN_FT_OP 2) 1 && after (.ftAcquire .flint 2) dev fun t => t.reg (Reg.PIN_FT_OWNER 2) == dev.flintId) ∧
      (dev.accepts .flint (Reg.PIN_FT_OP 2) 0 && after (.ftRelease .flint 2) (dev.setReg (Reg.PIN_FT_OWNER 2) dev.flintId) fun t => t.reg (Reg.PIN_FT_OWNER 2) == 0) := by
  decide +kernel

theorem wit_pin_frame :
    (let s := { dev with clk := { dev.clk with aonClocked := false } }; after (.pinFrame 0 0) s fun t => t == s) ∧
      (let s := { dev with shadow := [(Reg.PIN_CFG 12, 2)] }
       after (.pinFrame 0xFFFFFFFFFFFFFFFF 0) s fun t => t.pinFunc 12 == 2 && !t.pinFree 12 && t.shadow == [] && t.reg Reg.PIN_TICKS == 1) ∧
      (let s := { dev with pins := { dev.pins with hold := 0x1000, sync1 := 0x1000, cnt := [(12, 2)] } }
       !s.pinFree 12 && after (.pinFrame 0xFFFFFFFFFFFFFFFF 0) s fun t => t.pins.filt.getLsbD 12 && t.pins.cnt == [] && t.pinFree 12) ∧
      (let s := sets dev [(Fld.PIN_CFG_IRQMODE 3, 5)]; after (.pinFrame 0xFFFFFFFFFFFFFFFF 0) s fun t => natBit (t.reg Reg.PIN_IRQ_STATUS_LO).toNat 3) ∧
      (let s := { dev with pins := { dev.pins with gpio := [(1, 0x00050004)] } }
       after (.pinFrame 0xFFFFFFFFFFFFFFFF 0) s fun t => t.reg (Reg.GPIO_OUT_M 1) == 4 && t.pins.gpio == []) := by decide +kernel

/-- Filter timer 0 strobes every 10 ticks, and pin 3 is high behind the synchroniser. -/
def filt0 (count cnt ticks : Nat) (mode : Nat) : State :=
  { sets dev [(Fld.PIN_FT_PERIOD 0, 10), (Fld.PIN_FT_COUNT 0, count), (Fld.PIN_CFG_IRQMODE 3, mode)] with
    pins := { dev.pins with sync2 := 8, strobe := [(0, ticks)], cnt := if cnt = 0 then [] else [(3, cnt)] } }

theorem wit_filter_strobe :
    (after (.filterStrobe 0) dev fun t => t == dev) ∧ (after (.filterStrobe 0) (filt0 3 0 9 1) fun t => t == filt0 3 0 9 1) ∧
      (after (.filterStrobe 0) (filt0 3 1 12 1) fun t => t.pins.cnt == [(3, 2)] && t.pins.strobe == [(0, 2)] && !t.pins.filt.getLsbD 3) ∧
      (after (.filterStrobe 0) (filt0 3 2 10 1) fun t => t.pins.filt == 8 && t.pins.cnt == [] && natBit (t.reg Reg.PIN_IRQ_STATUS_LO).toNat 3) ∧
      (after (.filterStrobe 0) (filt0 3 2 10 2) fun t => t.pins.filt == 8 && !natBit (t.reg Reg.PIN_IRQ_STATUS_LO).toNat 3) := by decide +kernel

/-- UART 0 is enabled and has its pins. -/
def uart0 (tx rx : List Byte) : State :=
  { sets dev [(Fld.UART_CTRL_EN 0, 1), (Fld.PIN_CFG_FUNC 12, 2), (Fld.PIN_CFG_FUNC 13, 2)] with pins := { dev.pins with fifo := [(0, tx), (1, rx)] } }

theorem wit_uart :
    (dev.accepts .flint (Reg.UART_DATA 0) 65 && after (.uartData .flint 0 (some 65) 0) dev fun t => t.fifo 0 == [65]) ∧
      (readsB dev (Reg.UART_DATA 0) 0x1FF && after (.uartData .mgmt 0 none 0) (uart0 [] [66, 67]) fun t => mgmtB t 0x142 && t.fifo 1 == [67]) ∧
      (after (.uartData .mgmt 0 none 0) (uart0 [] []) fun t => t.free == dev.free + 1) ∧
      (after (.uartRxByte 0 1 true) dev fun t => t == dev) ∧ (after (.uartRxByte 0 1 false) (uart0 [] []) fun t => t.fld (Fld.UART_STAT_FRAMING 0) == 1) ∧
      (after (.uartRxByte 0 1 true) (uart0 [] []) fun t => t.fifo 1 == [1]) ∧
      (after (.uartRxByte 0 1 true) (uart0 [] (List.replicate 16 3)) fun t => t.fld (Fld.UART_STAT_OVERRUN 0) == 1 && t.fifo 1 == List.replicate 16 3) ∧
      (after (.uartTxByteSent 0) (uart0 [] []) fun t => t == uart0 [] []) ∧
      (after (.uartTxByteSent 0) (uart0 [65, 66] []) fun t => t.fifo 0 == [66] && t.out == [.uart 0 65]) ∧
      (after (.uartTxByteSent 0) (sets (uart0 [65, 66] []) [(Fld.PIN_CFG_FUNC 12, 0)]) fun t => t.fifo 0 == [66] && t.out == []) := by decide +kernel

/-- I2C controller 0 is enabled and has its pins; a byte may be on its way. -/
def i2c0 (op : SMap Word) : State :=
  { sets dev [(Fld.I2C_CTRL_EN 0, 1), (Fld.PIN_CFG_FUNC 6, 2), (Fld.PIN_CFG_FUNC 7, 2), (Fld.I2C_STAT_BUSY 0, op.length)] with pins := { dev.pins with i2c := op } }

theorem wit_i2c :
    ((i2c0 []).accepts .flint (Reg.I2C_CMD 0) (setBits 0x455 9 8 0) && after (.i2cWrite .flint 0 0x455) (i2c0 []) fun t =>
        t.pins.i2c == [(0, 0x455)] && t.fld (Fld.I2C_STAT_BUSY 0) == 1 && t.out.contains (.i2c 0 0x455)) ∧
      (after (.i2cReadAck .flint 0 0) (i2c0 []) fun t => t.pins.i2c == [(0, 0x100)]) ∧ (after (.i2cReadNack .flint 0 0) (i2c0 []) fun t => t.pins.i2c == [(0, 0x200)]) ∧
      (after (.i2cReadNack .flint 0 0) (i2c0 [(0, 1)]) fun t => t.pins.i2c == [(0, 1)]) ∧
      (after (.i2cByteDone 0 true false 3) dev fun t => t == dev) ∧
      (after (.i2cByteDone 0 false true 3) (i2c0 [(0, 0x55)]) fun t => t.fld (Fld.I2C_STAT_ARBLOST 0) == 1 && t.pins.i2c == []) ∧
      (after (.i2cByteDone 0 true false 3) (i2c0 [(0, 0x55)]) fun t => t.fld (Fld.I2C_STAT_NACK 0) == 1 && t.fld (Fld.I2C_STAT_BUSY 0) == 0) ∧
      (after (.i2cByteDone 0 false false 0x37) (i2c0 [(0, 0x100)]) fun t => t.fld (Fld.I2C_STAT_RXDATA 0) == 0x37) := by decide +kernel

theorem wit_timers :
    (let s := (sets dev [(Fld.PIN_CFG_FUNC 26, 2), (Fld.PIN_TMR_CTRL_MODE 2, 1)]).setReg Reg.PIN_TICKS 77
     s.timerPin 2 == some 26 && s.pinFree 26 && after (.timerCapture 2 true) s (fun t => t.reg (Reg.PIN_TMR_VAL 2) == 77 && t.fld (Fld.PIN_TMR_CTRL_HIT 2) == 1) &&
       after (.timerCapture 2 false) s fun t => t == s) ∧
      (let s := (sets dev [(Fld.PIN_TMR_CTRL_MODE 2, 6)]).setReg Reg.PIN_TICKS 77 |>.setReg (Reg.PIN_TMR_VAL 2) 77
       after (.timerMatch 2) s (fun t => t.pins.tmr == 4 && t.pins.tmrHit == 4 && t.fld (Fld.PIN_TMR_CTRL_HIT 2) == 1) &&
         after (.timerMatch 2) { s with pins := { s.pins with tmrHit := 4 } } fun t => t.pins.tmr == 0) ∧
      (let s := { dev with pins := { dev.pins with tach := [(1, 65537)] } }; after .tachWindow s fun t => t.fld (Fld.FAN_STAT_TACH 1) == 1 && t.pins.tach == []) := by
  decide +kernel

/-! ## Life cycle, owner keys, attestation and patches -/

theorem shaRound_length (v : List Nat) (kw : Nat) : (shaRound v kw).length = 8 := rfl

theorem shaRounds_length (l : List Nat) (h : List Nat) (hh : h.length = 8) : (l.foldl shaRound h).length = 8 := by
  induction l generalizing h with
  | nil => exact hh
  | cons a l ih => exact ih _ (shaRound_length h a)

theorem shaBlocks_length (n : Nat) (ws h : List Nat) (hh : h.length = 8) : (shaBlocks n ws h).length = 8 := by
  induction n generalizing ws h with
  | zero => exact hh
  | succ n ih =>
    unfold shaBlocks
    split
    · exact hh
    · apply ih
      simp [shaBlock, shaRounds_length _ _ hh, hh]

theorem bytesLE_length (n v : Nat) : (bytesLE n v).length = n := by
  induction n generalizing v with
  | zero => rfl
  | succ n ih => simp [bytesLE, ih]

/-- A SHA-256 digest has 32 bytes. -/
theorem sha256_length (bs : List Byte) : (sha256 bs).length = 32 := by
  have h8 := shaBlocks_length
  have len4 : ∀ l : List Nat, (l.flatMap (bytesBE 4)).length = 4 * l.length := by
    intro l
    induction l with
    | nil => rfl
    | cons a l ih => simp [ih, bytesBE, bytesLE_length]; omega
  unfold sha256
  rw [len4, h8 _ _ _ rfl]

theorem lmsClimb_length (ident path : List Byte) (n node : Nat) (v : List Byte) (hv : v.length = 32) : (lmsClimb ident path n node v).length = 32 := by
  induction n generalizing path node v with
  | zero => exact hv
  | succ n ih => exact ih _ _ _ (sha256_length _)

/-- The key whose root is the one that a signature climbs to accepts that signature. -/
theorem lms_accepts {head msg sig : List Byte} {w h : Nat} (ht : lmsTypes sig = some (w, h)) (hl : sig.length = lmsSigLen w h) (hh : head.length = 24)
    (h0 : be32 head 0 = be32 sig (40 + 32 * otsChains w)) (h4 : be32 head 4 = be32 sig 4) (hq : be32 sig 0 < 2 ^ h) :
    lmsVerify (head ++ lmsClimb (slice head 8 16) (sig.drop (44 + 32 * otsChains w)) h (2 ^ h + be32 sig 0)
        (sha256 (slice head 8 16 ++ bytesBE 4 (2 ^ h + be32 sig 0) ++ bytesBE 2 0x8282 ++
          otsKey (slice head 8 16) (be32 sig 0) w (slice sig 8 32) (slice sig 40 (32 * otsChains w)) msg))) msg sig = true := by
  generalize hr : lmsClimb (slice head 8 16) (sig.drop (44 + 32 * otsChains w)) h (2 ^ h + be32 sig 0)
        (sha256 (slice head 8 16 ++ bytesBE 4 (2 ^ h + be32 sig 0) ++ bytesBE 2 0x8282 ++
          otsKey (slice head 8 16) (be32 sig 0) w (slice sig 8 32) (slice sig 40 (32 * otsChains w)) msg)) = root
  have hroot : root.length = 32 := by rw [← hr]; exact lmsClimb_length _ _ _ _ _ (sha256_length _)
  have s1 : ∀ n k, n + k ≤ 24 → slice (head ++ root) n k = slice head n k := by
    intro n k hn
    simp only [slice, List.drop_append, hh]
    rw [List.take_append_of_le_length (by simp [hh]; omega)]
  have s2 : slice (head ++ root) 24 32 = root := by
    simp [slice, hh, List.take_of_length_le, hroot]
  have b1 : ∀ n, n + 4 ≤ 24 → be32 (head ++ root) n = be32 head n := fun n hn => by simp only [be32, s1 n 4 hn]
  unfold lmsVerify
  simp only [ht, s1 8 16 (by omega), s2, b1 0 (by omega), b1 4 (by omega), h0, h4, hr, hl, List.length_append, hh, hroot]
  rw [if_neg (by omega)]
  exact decide_eq_true trivial

/-- The first 24 bytes of an LMS key of types 5 and 4. -/
def keyHead : List Byte := bytesBE 4 5 ++ bytesBE 4 4 ++ List.replicate 16 0

/-- A DEV_TO_FIELD token by the owner key for serial number 0 and nonce 0, whose signature is of zeros but for its types. -/
def tok2 : SMap Word := [(0, 0x4E4B544C), (1, 0x0102), (9, 0x04000000), (290, 0x05000000)]

/-- Its signed bytes and its signature. -/
def msg2 : List Byte := slice (windowBytes tok2) 0 32
def sig2 : List Byte := (tokenSig (windowBytes tok2)).getD []

/-- The key of types 5 and 4 that a signature of the types of `sig2` is of. -/
def keyOf (msg sig : List Byte) : List Byte :=
  keyHead ++ lmsClimb (slice keyHead 8 16) (sig.drop (44 + 32 * otsChains 8)) 5 (2 ^ 5 + be32 sig 0)
    (sha256 (slice keyHead 8 16 ++ bytesBE 4 (2 ^ 5 + be32 sig 0) ++ bytesBE 2 0x8282 ++
      otsKey (slice keyHead 8 16) (be32 sig 0) 8 (slice sig 8 32) (slice sig 40 (32 * otsChains 8)) msg))

/-- The owner key that this signature is of. -/
def key2 : List Byte := keyOf msg2 sig2

/-- A device in DEV whose DEV_TO_FIELD is to be decided. -/
def lc2 (key : List Byte) : State :=
  { sets dev [(Fld.LCS_STATUS_STATE, 1)] with fuses := { dev.fuses with dev := 255, ownerPk := key, serial := 0 }, lcs := { dev.lcs with op := some 2, tokA := tok2 } }

set_option maxRecDepth 100000 in
theorem tok2_signed : lmsVerify key2 msg2 sig2 = true := by
  refine lms_accepts (w := 8) (h := 5) ?_ ?_ ?_ ?_ ?_ ?_ <;> decide +kernel

set_option maxRecDepth 100000 in
theorem wit_token_checks :
    (lc2 key2).up = true ∧ (lc2 key2).fuses.state = 1 ∧ (lc2 key2).ownerPkFused = true ∧ ∀ n ∈ (lc2 key2).tokensOf 2, (lc2 key2).tokenFormat n = true := by
  decide +kernel

theorem signed_of {s : State} {b : List Byte} {k : Nat} (h5 : leAt b 5 1 = 1) (h : lmsVerify s.fuses.ownerPk (slice b 0 32) ((tokenSig b).getD []) = true) :
    s.tokenSigned ⟨b, k, 1⟩ = true := by
  simp [State.tokenSigned, h5, h]

theorem lc2_pk (k : List Byte) : (lc2 k).fuses.ownerPk = k := rfl

theorem lc2_tokens (k : List Byte) : (lc2 k).tokensOf 2 = [⟨windowBytes tok2, 2, 1⟩] := rfl

theorem tok2_signer : leAt (windowBytes tok2) 5 1 = 1 := by decide +kernel

theorem wit_token_signed : ∀ n ∈ (lc2 key2).tokensOf 2, (lc2 key2).tokenSigned n = true := by
  rw [lc2_tokens]
  intro n hn
  rw [List.mem_singleton.mp hn]
  have h : lmsVerify (lc2 key2).fuses.ownerPk (slice (windowBytes tok2) 0 32) ((tokenSig (windowBytes tok2)).getD []) = true := by
    rw [lc2_pk]
    exact tok2_signed
  exact signed_of tok2_signer h

/-- An OP in progress on fuses `f`. -/
def lcOp (op : Nat) (f : Fuses) : State := { dev with fuses := f, lcs := { dev.lcs with op := some op } }

/-- An OP ends with a result and changes no fuse. -/
def lcEndsB (op : Nat) (f : Fuses) (r : Nat) : Bool := (lcOp op f).up && (lcOp op f).lcResult op == r && after .lcCommandDone (lcOp op f) fun t => t.fuses == f

theorem wit_life_cycle_commands :
    (dev.accepts .flint Reg.LCS_LC_CMD 1 && after (.testToDev .flint) dev fun t => t.lcs.op == some 1 && t.fld Fld.LCS_LC_RESULT_BUSY == 1) ∧
      (after (.devToField .flint) dev fun t => t.lcs.op == some 2) ∧ (after (.toReturn .flint) dev fun t => t.lcs.op == some 3) ∧
      (after (.toEnd .flint) dev fun t => t.lcs.op == some 4) ∧ (after (.diagnosticSession .flint) dev fun t => t.lcs.op == some 5) ∧
      (after (.toEnd .flint) (lcOp 1 dev.fuses) fun t => t.lcs.op == some 1 && t.free == dev.free + 1) ∧
      (after .lcCommandDone dev fun t => t == dev) ∧ lcEndsB 2 dev.fuses 3 ∧ lcEndsB 2 { dev.fuses with dev := 255 } 4 ∧ lcEndsB 1 dev.fuses 1 ∧
      lcEndsB 5 { dev.fuses with ret := 255 } 4 := by decide +kernel

theorem wit_token_refused :
    (lc2 (keyHead ++ List.replicate 31 0)).lcResult 2 == 2 := by decide +kernel

/-- A device in DEV with data for a fuse command. -/
def fuse0 (pk : List Byte) (aes : W256) : State :=
  { sets dev [(Fld.LCS_STATUS_STATE, 1)] with fuses := { dev.fuses with dev := 255, ownerPk := pk, ownerAes := aes }, lcs := { dev.lcs with fuseData := [(0, 0x01020304)] }, arms := [⟨0x60000, .mgmt⟩] }

theorem wit_fuse_owner_keys :
    ((fuse0 [] 0).accepts .mgmt Reg.LCS_FUSE_CMD 1 && after (.fuseOwnerPk .mgmt) (fuse0 [] 0) fun t =>
        t.fuses.ownerPk.take 5 == [4, 3, 2, 1, 0] && t.fuses.ownerPk.length == 56 && t.lcs.fuseData == []) ∧
      (after (.fuseOwnerPk .mgmt) (fuse0 [1] 0) fun t => t.fuses.ownerPk == [1] && t.fld Fld.LCS_STATUS_FUSEREFUSED == 1) ∧
      (after (.fuseOwnerPk .mgmt) (sets (fuse0 [] 0) [(Fld.LCS_STATUS_STATE, 0)]) fun t => t.fuses.ownerPk == [] && t.fld Fld.LCS_STATUS_FUSEREFUSED == 1) ∧
      ((fuse0 [] 0).accepts .mgmt Reg.LCS_FUSE_CMD 2 && after (.fuseOwnerAes .mgmt) (fuse0 [] 0) fun t => t.fuses.ownerAes == 0x01020304) ∧
      (after (.fuseOwnerAes .mgmt) (fuse0 [] 7) fun t => t.fuses.ownerAes == 7 && t.fld Fld.LCS_STATUS_FUSEREFUSED == 1) := by decide +kernel

/-- A report waits for its signature; the next leaf is `q` and the fuse of epoch `e` is blown. -/
def att0 (q e : Nat) : State :=
  { sets dev [(Fld.LCS_SIGN_NEXTLEAF, q), (Fld.LCS_ATT_STAT_BUSY, 1)] with
    fuses := { dev.fuses with epochs := 1 <<< e }, lcs := { dev.lcs with snap := some (List.replicate 192 0) } }

/-- It is signed with a leaf. -/
def signsB (c : Instr) (s : State) (leaf : Nat) (epochs : BitVec 256) : Bool :=
  after c s fun t => t.fld Fld.LCS_ATT_STAT_STATUS == 0 && t.fld Fld.LCS_SIGN_NEXTLEAF == leaf + 1 && t.fld Fld.LCS_ATT_STAT_BUSY == 0 &&
    t.lcs.snap == none && t.fuses.epochs == epochs

theorem wit_attestation :
    (dev.accepts .flint Reg.LCS_ATT_CMD 0x80000000 && after (.attestation .flint) dev fun t => t.lcs.attWait && t.fld Fld.LCS_ATT_STAT_BUSY == 1) ∧
      (after (.attestation .flint) (att0 0 0) fun t => t.fld Fld.LCS_ATT_STAT_STATUS == 9 && !t.lcs.attWait) ∧
      (after (.attestationDone []) dev fun t => t == dev) ∧
      (after (.attestationDone []) (att0 (2 ^ 20) 0) fun t => t.fld Fld.LCS_ATT_STAT_STATUS == 8 && t.lcs.snap == none) ∧
      signsB (.attestationDone []) (att0 5 0) 5 1 ∧ signsB (.attestationDone []) (att0 5 1) 5 3 ∧ signsB (.attestationDone [0]) (att0 5 1) 4096 2 := by decide +kernel

/-- The header of an empty patch of version 3 and ROLL 2, which it is signed with. -/
def patchHead : List Byte := bytesLE 4 0x4854504C ++ bytesLE 2 3 ++ bytesLE 2 0 ++ bytesLE 4 2 ++ bytesLE 4 0 ++ List.replicate 16 0

set_option maxRecDepth 100000 in
theorem patch_signed : lmsVerify (keyOf patchHead sig2) patchHead sig2 = true := by
  refine lms_accepts (w := 8) (h := 5) ?_ ?_ ?_ ?_ ?_ ?_ <;> decide +kernel

/-- Were the maker's key the one that this signature is of, Flint would accept the patch: what the key is, no rule says. -/
theorem wit_patch_accepted (h : Config.oxtelvoPatchKey = keyOf patchHead sig2) :
    dev.patchAccept (patchHead ++ sig2) = some (3, 2, sha256 patchHead) := by
  have hb : slice (patchHead ++ sig2) 0 (32 + leAt (patchHead ++ sig2) 12 4) = patchHead := by decide +kernel
  have hs : (patchHead ++ sig2).drop (32 + leAt (patchHead ++ sig2) 12 4) = sig2 := by decide +kernel
  have hv : leAt (patchHead ++ sig2) 4 2 = 3 ∧ leAt (patchHead ++ sig2) 8 4 = 2 := by decide +kernel
  unfold State.patchAccept
  simp only [hb, hs, h, patch_signed, hv.1, hv.2]
  rw [if_pos]
  decide +kernel

theorem wit_patch :
    (dev.accepts .flint Reg.LCS_PATCH_CMD 0x80000000 && dev.flintUp && dev.patchAccept [] == none && after (.patchApply .flint) dev fun t =>
        t.lcs.staging == [] && t.fld Fld.LCS_PATCH_STAT_REFUSED == 1) := by decide +kernel

/-! ## User transceivers and the test access port -/

/-- Transceiver 0 of die 0, enabled and joined to the fabric, with registers set and what it holds. -/
def xcv0 (l : List (RField × Nat)) (x : XcvSt) : State :=
  { sets run0 ((Fld.XCV_CTRL_EN 0 0, 1) :: l) with frames := [(posKey 0 20 757 1, (1 : BitVec 4096) <<< 3104)], xcv := [(0, x)] }

/-- With error correction and lock. -/
def fec0 (x : XcvSt) : State := xcv0 [(Fld.XCV_CTRL_FEC_EN 0 0, 1), (Fld.XCV_STAT_CDR_LOCK 0 0, 1), (Fld.XCV_STAT_FEC_LOCK 0 0, 1)] x

/-- What a command leaves in the transceiver. -/
def xcvB (c : Instr) (s : State) (x : XcvSt) : Bool := after c s fun t => t.xcvSt 0 0 == x

theorem wit_transceiver_taps :
    (let s := xcv0 [] XcvSt.fresh
     s.xcvIface 0 0 && after (.tapInc 0 0 2) s (fun t => t.fld (Fld.XCV_TXEQ_C_M1 0 0) == 1) && after (.tapDec 0 0 2) s (fun t => t.fld (Fld.XCV_TXEQ_C_M1 0 0) == 63) &&
       after (.tapInc 0 0 5) s fun t => t == s) ∧
      (let s := xcv0 [(Fld.XCV_TXEQ_C_M1 0 0, 31), (Fld.XCV_TXEQ_C0 0 0, 63)] XcvSt.fresh
       after (.tapInc 0 0 2) s (fun t => t == s) && after (.tapInc 0 0 3) s (fun t => t == s) && after (.tapDec 0 0 3) s fun t => t.fld (Fld.XCV_TXEQ_C0 0 0) == 62) ∧
      (let s := xcv0 [(Fld.XCV_TXEQ_C_M1 0 0, 32), (Fld.XCV_TXEQ_C0 0 0, 0)] XcvSt.fresh
       after (.tapDec 0 0 2) s (fun t => t == s) && after (.tapDec 0 0 3) s fun t => t == s) ∧
      (after (.tapInc 0 0 2) run0 fun t => t == run0) := by decide +kernel

theorem wit_transceiver_words :
    xcvB (.rxSlip 0 0) (xcv0 [] { XcvSt.fresh with slip := 159 }) XcvSt.fresh ∧
      xcvB (.rxSlip 0 0) (xcv0 [] { XcvSt.fresh with prev := some (5, 0) }) { XcvSt.fresh with slip := 1 } ∧
      xcvB (.txCwstart 0 0) (xcv0 [] { XcvSt.fresh with txCode := [3, 4] }) { XcvSt.fresh with txPos := 1, txCode := [4] } ∧
      xcvB (.rxCwset 0 0) (fec0 XcvSt.fresh) { XcvSt.fresh with line := [(0, 0)], left := 67 } ∧
      (after (.rxCwset 0 0) (fec0 XcvSt.fresh) fun t => t.fld (Fld.XCV_STAT_FEC_LOCK 0 0) == 0) ∧
      (after (.txUnderrun 0 0) run0 fun t => t == run0) ∧
      (after (.cdrLock 0 0) (xcv0 [] XcvSt.fresh) fun t => t.fld (Fld.XCV_STAT_CDR_LOCK 0 0) == 1) ∧
      (after (.cdrLockLoss 0 0) (fec0 { XcvSt.fresh with left := 3, prev := some (5, 0) }) fun t =>
        t.fld (Fld.XCV_STAT_CDR_LOCK 0 0) == 0 && t.xcvSt 0 0 == XcvSt.fresh) := by decide +kernel

/-- The word of a transmission. -/
def sentWord (o : Out) : BitVec 160 :=
  match o with
  | .xcvTx _ _ w _ _ => w
  | _ => 0

theorem wit_transceiver_lines :
    (let s := xcv0 [(Fld.XCV_CTRL_TXIDLE 0 0, 0)] XcvSt.fresh
     after (.txUnderrun 0 0) s fun t =>
       t.fld (Fld.XCV_STAT_UNDERRUN 0 0) == 1 && t.out == [.xcvTx 0 0 0 (s.xcvTaps 0 0) 63] && t.xcvSt 0 0 == { XcvSt.fresh with txPos := 1, txCode := [0] }) ∧
      (let s := xcv0 [(Fld.XCV_CTRL_TXIDLE 0 0, 0), (Fld.XCV_PRBS_GEN 0 0, 1), (Fld.XCV_PRBS_PATTERN 0 0, 2)] { XcvSt.fresh with gen := some (2, 0x40) }
       after (.txUnderrun 0 0) s fun t => t.fld (Fld.XCV_STAT_UNDERRUN 0 0) == 0 &&
         t.out.map sentWord == [wordOf (prbsBits 2 160 0x40).1] && (prbsBits 2 8 0x40).1 == [true, false, false, false, false, false, true, true]) ∧
      (let s := xcv0 [(Fld.XCV_CTRL_TXIDLE 0 0, 0), (Fld.XCV_CTRL_LOOP 0 0, 2)] XcvSt.fresh; after (.txUnderrun 0 0) s fun t => t == s) ∧
      (let s := xcv0 [(Fld.XCV_CTRL_TXIDLE 0 0, 0), (Fld.XCV_CTRL_LOOP 0 0, 2), (Fld.XCV_STAT_CDR_LOCK 0 0, 1)] XcvSt.fresh
       after (.xcvRxWord 0 0 5 7) s fun t => t.out == [.xcvTx 0 0 5 (s.xcvTaps 0 0) 63] && (t.xcvSt 0 0).rx == 5) ∧
      (let s := xcv0 [(Fld.XCV_CTRL_LOOP 0 0, 1), (Fld.XCV_STAT_CDR_LOCK 0 0, 1)] XcvSt.fresh; after (.xcvRxWord 0 0 5 7) s fun t => t == s) := by
  decide +kernel

/-- The word that has come in before. -/
def came (w e : BitVec 160) : XcvSt := { XcvSt.fresh with prev := some (w, e) }

theorem wit_transceiver_code_words :
    (after (.xcvRxWord 0 0 5 1) (xcv0 [] XcvSt.fresh) fun t => t == xcv0 [] XcvSt.fresh) ∧
      (let w := wordOf (prbsBits 2 160 0x55).1
       after (.xcvRxWord 0 0 (w ^^^ (7 <<< 100)) 0) (xcv0 [(Fld.XCV_STAT_CDR_LOCK 0 0, 1), (Fld.XCV_PRBS_CHK 0 0, 1), (Fld.XCV_PRBS_PATTERN 0 0, 2)] XcvSt.fresh) fun t =>
         t.fld (Fld.XCV_PRBS_ERRORS 0 0) == 3 && ((t.xcvSt 0 0).chk.map (·.1)) == some 2) ∧
      xcvB (.xcvRxWord 0 0 5 7) (xcv0 [(Fld.XCV_STAT_CDR_LOCK 0 0, 1)] XcvSt.fresh) { came 5 7 with rx := 5, rxErr := 7, valid := true } ∧
      xcvB (.xcvRxWord 0 0 5 7) (xcv0 [(Fld.XCV_STAT_CDR_LOCK 0 0, 1)] { XcvSt.fresh with slip := 1 }) { came 5 7 with slip := 1 } ∧
      xcvB (.xcvRxWord 0 0 5 7) (xcv0 [(Fld.XCV_STAT_CDR_LOCK 0 0, 1)] { came 6 0 with slip := 1 })
        { came 5 7 with slip := 1, rx := 3 ||| (1 <<< 159), rxErr := 1 <<< 159, valid := true } ∧
      (let s := xcv0 [(Fld.XCV_STAT_CDR_LOCK 0 0, 1), (Fld.XCV_CTRL_FEC_EN 0 0, 1)] { XcvSt.fresh with left := 1 }
       after (.xcvRxWord 0 0 5 7) s fun t => t.fld (Fld.XCV_STAT_FEC_LOCK 0 0) == 1 && t.xcvSt 0 0 == { came 5 7 with line := [(5, 7)], rx := 5, rxErr := 7, valid := true }) ∧
      (let line : List (BitVec 160 × BitVec 160) := (9, 1) :: List.replicate 66 (3, 0)
       xcvB (.xcvRxWord 0 0 5 7) (fec0 { XcvSt.fresh with line := line, pos := 33 }) { came 5 7 with line := line.drop 1 ++ [(5, 7)], rx := 8, rxErr := 0, valid := true } &&
         after (.xcvRxWord 0 0 5 7) (fec0 { XcvSt.fresh with line := line }) fun t =>
           t.fld (Fld.XCV_FECCNT_CORRECTED 0 0) == 1 && (t.xcvSt 0 0).cwStart && (t.xcvSt 0 0).rx == 8 && (t.xcvSt 0 0).pos == 1) ∧
      (let line : List (BitVec 160 × BitVec 160) := (9, BitVec.allOnes 160) :: List.replicate 66 (3, 0)
       after (.xcvRxWord 0 0 5 7) (fec0 { XcvSt.fresh with line := line }) fun t =>
         t.fld (Fld.XCV_FECCNT_UNCORR 0 0) == 1 && (t.xcvSt 0 0).cwStart && (t.xcvSt 0 0).uncorr && (t.xcvSt 0 0).rx == 9) := by decide +kernel

/-- An instruction of the test access port shifts out bits. -/
def tapB (c : Instr) (s : State) (ir : JtagIr) (bits : List Bool) : Bool :=
  after c s fun t => t == { s with jtag := { s.jtag with ir := ir }, out := s.out ++ [.jtag bits] }

theorem wit_tap :
    tapB (.bypass [true, true, false]) dev .bypass [false, true, true] ∧ tapB (.clamp [true]) dev .clamp [false] ∧ tapB (.highz []) dev .highz [false] ∧
      tapB (.dbgacc [true] .idle) (sets dev [(Fld.LCS_STATUS_STATE, 2)]) .dbgacc [false] ∧
      (after (.idcode []) dev fun t => t.jtag.ir == .idcode && t.out.length == 1) ∧
      (after (.highz []) dev fun t => t.pinOut 5 == none) ∧ dev.vaon = true := by decide +kernel

/-- A scan of the boundary register, whatever the part's register holds. -/
theorem wit_tap_boundary (c : List Bool → Instr) (ir : JtagIr)
    (h : (c = .samplePreload ∧ ir = .sample) ∨ (c = .extest ∧ ir = .extest) ∨ (c = .extestPulse ∧ ir = .pulse) ∨ (c = .extestTrain ∧ ir = .train)) :
    exec (c [true]) dev = .next { dev with
      free := dev.free + 1
      jtag := { ir := ir, cells := (dev.cellsCapture ++ [true]).drop 1 }
      out := dev.out ++ [.jtag ((dev.cellsCapture ++ [true]).take 1)] } := by
  obtain ⟨rfl, rfl⟩ | ⟨rfl, rfl⟩ | ⟨rfl, rfl⟩ | ⟨rfl, rfl⟩ := h <;> rfl

theorem wit_debug_access :
    (dev.up && dev.debugOpen && dev.accepts .mgmt Reg.CFG_ARG0 5 && after (.dbgacc [] (.reg (BitVec.ofNat 32 Reg.CFG_ARG0) (some 5))) dev fun t =>
        t.reg Reg.CFG_ARG0 == 5 && t.jtag.ir == .dbgacc) ∧
      (after (.dbgacc [] .idle) dev fun t => t == { dev with jtag := { dev.jtag with ir := .dbgacc } }) ∧
      (after (.dbgacc [] (.mem 8 0x40 0xFF 1 [])) net0 fun t => t.net.map (fun f => (f.pkt.cmd, f.pkt.src == net0.hubRegEp)) == [(8, true)] && t.tags.length == 1) := by
  decide +kernel

/-! ## User logic, the queue, and commands that cannot come

`Obligations.EveryCommandCompletes` says of every family again, under conditions of that family's own statement, that its commands complete:
the states and operands above meet them. -/

/-- A halted device. -/
def dark0 : State := { State.blank with phase := .halted, haltDone := true, flintUp := false, regs := [] }

/-- It is as `HaltDark` says, and steps. -/
theorem wit_halt_dark : HaltDark dark0 ∧ step dark0 = .next dark0 :=
  ⟨fun _ => ⟨by decide +kernel, rfl, rfl, rfl, rfl, rfl, rfl, rfl, rfl, rfl, rfl⟩, rfl⟩

/-- The frame of a cluster: SR0 reads the cell below, and cell 0 has these fields; `clu` is the cluster record. -/
def ffF (sr ce srval d tt clu : Nat) : BitVec 4096 :=
  BitVec.ofNat 4096 (2 ^ (24 * 44) + (tt + 53 * 2 ^ 34 + d * 2 ^ 42 + ce * 2 ^ 45 + sr * 2 ^ 48 + srval * 2 ^ 50) * 2 ^ 1104 + clu * 2 ^ 1952)

/-- That cluster at row 1 of column 0; the cluster below it drives its SR0 with a truth table of ones. -/
def fab0 (f : BitVec 4096) : State :=
  { run0 with frames := [(posKey 0 0 0 0, 1 <<< 128), (posKey 0 0 0 1, 0xFFFF <<< 1104), (posKey 0 0 1 1, f)] }

/-- Tree 0 has risen. -/
def risen (s : State) : State := s.setTree 0 (s.posSector 0 0 1) 0 { TreeSt.idle with level := true }

/-- Q of cell 0 after a tick without and with an edge of tree 0, and after its falling edge. -/
def nextQ (f : BitVec 4096) : Bool × Bool × Bool :=
  let s := fab0 f
  (s.ffNext s 0 0 1 0, s.ffNext (risen s) 0 0 1 0, (risen s).ffNext s 0 0 1 0)

/-- R95, R97 and R98: an asynchronous set needs no edge; a synchronous one does; an enabled cell takes O or D, another keeps its value; an
inverted line has its edge where the tree falls. -/
theorem wit_flip_flops :
    (fab0 (ffF 1 4 1 0 0 0)).signal 0 (.inp 0 1 44) = true ∧ nextQ (ffF 1 4 1 0 0 (2 ^ 26)) = (true, true, true) ∧
      nextQ (ffF 1 4 1 0 0 0) = (false, true, false) ∧ nextQ (ffF 0 4 1 0 0xFFFF 0) = (false, true, false) ∧
      nextQ (ffF 0 4 1 1 0 0) = (false, true, false) ∧ nextQ (ffF 0 0 1 1 0 0) = (false, false, false) ∧
      nextQ (ffF 0 4 1 1 0 (2 ^ 24)) = (false, false, true) := by decide +kernel

/-- R160: the output of a tree by the division and the edges of its input: DIV 1 follows it, DIV 3 is high for three of six. -/
theorem wit_divider :
    let w := fun (n k : Nat) => ((List.range k).foldl (fun (w : TreeSt) (_ : Nat) => (w.drive n false).drive n true) (TreeSt.idle.drive n true)).divided n
    [w 1 1, w 1 2, w 2 1, w 2 2, w 3 1, w 3 2, w 3 3] = [true, true, false, true, true, false, true] := by decide +kernel

theorem get_all {α : Type} (g : α → Bool) (z : α) (hz : g z = true) (l : SMap α) (h : l.all (fun e => g e.2) = true) (k : Nat) :
    g (SMap.get z l k) = true := by
  induction l with
  | nil => exact hz
  | cons e r ih =>
    simp only [List.all_cons, Bool.and_eq_true] at h
    by_cases he : e.1 = k
    · simp [SMap.get, SMap.find, he, h.1]
    · simpa [SMap.get, SMap.find, he] using ih h.2

theorem no_iface {s : State} (h : s.frames.all (fun e => !natBit (frameBits e.2 3104 16) 0) = true) (u : State) (d pc pr : Nat) :
    s.ifaceEdge u d pc pr = false := by
  have hg := get_all (fun f => !natBit (frameBits f 3104 16) 0) 0 (by decide +kernel) s.frames h (posKey d pc pr 1)
  simp only [Bool.not_eq_true'] at hg
  unfold State.ifaceEdge State.ifaceRec State.frame
  dsimp only
  rw [hg, Bool.false_and, Bool.false_and]

/-- A running cluster and no interface: only clocks and clusters move. -/
theorem wit_tick :
    (let s := fab0 (ffF 0 4 1 1 0 0)
     s.pending = [] ∧ s.up = true ∧ s.liveSpines = [0] ∧ s.wiredPairs = [] ∧ s.liveClusters = [(0, 0, 0), (0, 0, 1)]) ∧
      ∀ d pc pr, (fab0 (ffF 0 4 1 1 0 0)).ifaceEdge (fab0 (ffF 0 4 1 1 0 0)).clockTick d pc pr = false :=
  ⟨by decide +kernel, no_iface (by decide +kernel) _⟩

/-- The commands that wait after a step. -/
def waiting (s : State) : List Instr :=
  match step s with
  | .next t => t.pending
  | _ => []

theorem test_step_takes_the_front : waiting { dev with pending := [.timerMatch 2, .tachWindow] } = [.tachWindow] := by decide +kernel

theorem test_no_word_is_a_command : decodeTableWord 32 0x12345678 = none ∧ State.reset.withFetchWord 32 0x12345678 = State.reset := ⟨rfl, rfl⟩

/-- One command that cannot come for each limit. -/
theorem test_ill_formed_commands :
    (Instr.startupReferencePresent [] []).wellFormed = false ∧ (Instr.flintBusError (2 ^ 32) true none).wellFormed = false ∧
      (Instr.registerWrite .flint (2 ^ 32) true (some 0) 0).wellFormed = false ∧ (Instr.thermalSample [none]).wellFormed = false ∧
      (Instr.trainingAttempt (.bundle 0) (2 ^ 70) 0 ⟨0, []⟩ false).wellFormed = false ∧ (Instr.trainingAttempt (.bundle 0) 0 (2 ^ 70) ⟨0, []⟩ false).wellFormed = false ∧
      (Instr.windowRead false 0 0 0).wellFormed = false ∧
      (Instr.windowRead false 0 0 4097).wellFormed = false ∧ (Instr.windowWrite false 0 [] false).wellFormed = false ∧
      (Instr.windowWrite false 0 (List.replicate 513 none) false).wellFormed = false ∧ (Instr.pcieLinkUp false 0 ⟨1, PcieCfg.fresh⟩).wellFormed = false ∧
      (Instr.pcieLinkUp false 7 ⟨1, PcieCfg.fresh⟩).wellFormed = false ∧ (Instr.pcieLinkUp false 1 ⟨2, PcieCfg.fresh⟩).wellFormed = false ∧
      (Instr.hostReadCompletion 0 .timeout).wellFormed = false ∧ (Instr.scrubFrame 0 [(0, 64, 0)]).wellFormed = false ∧
      (Instr.scrubFrame 0 [(0, 0, 72)]).wellFormed = false ∧ (Instr.scrubFrame 0 [(16 * 192 * 384, 0, 0)]).wellFormed = false := by decide +kernel

theorem test_well_formed_commands :
    (Instr.registerWrite .flint 0x20004 true (some 0) 0).wellFormed = true ∧ (Instr.windowRead false 0 0 4096).wellFormed = true ∧
      (Instr.pcieLinkUp true 6 ⟨16, PcieCfg.fresh⟩).wellFormed = true ∧ (Instr.scrubFrame 3 [(16 * 192 * 384 - 1, 63, 71)]).wellFormed = true ∧ (Instr.tachWindow).wellFormed = true := by decide +kernel

end Sys2Proof.Tests
end

section
/-! The register map: the block and table entry of an address, and the layout of a register's fields (R17 to R19, R50 to R53). -/

namespace Sys2Proof.Machine

/-- Two fields share no bit. -/
abbrev FieldDesc.apart (f g : FieldDesc) : Prop := f.hi < g.lo ∨ g.hi < f.lo

/-- A field is a part of a 32-bit word. -/
abbrev FieldDesc.inWord (f : FieldDesc) : Prop := f.lo ≤ f.hi ∧ f.hi < 32

/-- The fields of a register lie in its word and share no bit. -/
abbrev RegDesc.laidOut (r : RegDesc) : Prop := (∀ f ∈ r.fields, f.inWord) ∧ r.fields.Pairwise FieldDesc.apart

set_option maxRecDepth 100000 in
theorem regsOf_laidOut (b : Block) : ∀ r ∈ regsOf b, r.laidOut := by
  cases b <;> decide

theorem findReg_mem {b : Block} {off : Nat} {l : List RegDesc} {r : RegDesc} (h : findReg b off l = some r) : r ∈ l := by
  induction l with
  | nil => cases h
  | cons x rest ih =>
    unfold findReg at h
    split at h
    · cases h; exact .head _
    · exact .tail _ (ih h)

/-- The entry that an address names is one of its block's table. -/
theorem regAt_some {addr : Nat} {b : BlockAt} {r : RegDesc} (h : regAt addr = some (b, r)) :
    blockAt addr = some b ∧ r ∈ regsOf b.desc.blk := by
  unfold regAt at h
  cases hb : blockAt addr with
  | none => simp [hb] at h
  | some c =>
    simp only [hb] at h
    split at h
    · cases h
    · split at h
      · cases h
      · obtain ⟨x, hx, hxr⟩ := Option.map_eq_some_iff.mp h
        cases hxr
        exact ⟨rfl, findReg_mem hx⟩

/-- A register that an address selects is the table entry at that address. -/
theorem regSel_reg {addr : Nat} {b : BlockAt} {r : RegDesc} (h : regSel addr = some (b, .reg r)) : regAt addr = some (b, r) := by
  unfold regSel at h
  cases hb : blockAt addr with
  | none => simp [hb] at h
  | some c =>
    simp only [hb] at h
    split at h
    · cases h
    split at h
    · cases h
    split at h
    · cases h
    obtain ⟨⟨c', r'⟩, hx, hxr⟩ := Option.map_eq_some_iff.mp h
    cases hxr
    have hc : blockAt addr = some c' := (regAt_some hx).1
    rw [hb] at hc
    cases hc
    exact hx

theorem regAt_laidOut {addr : Nat} {b : BlockAt} {r : RegDesc} (h : regAt addr = some (b, r)) : r.laidOut :=
  regsOf_laidOut _ r (regAt_some h).2

theorem boundaryOf_regAt {addr : Nat} {b : BlockAt} {r : RegDesc} (h : regAt addr = some (b, r)) : boundaryOf addr = r.boundary := by
  unfold boundaryOf; rw [h]

theorem findBlock_PCI (a : Nat) (h1 : 0x90000 ≤ a) (h2 : a < 0xB0000) :
    findBlock false a blockTable = some (⟨.pci, 0x90000, 0x10000, 0x10000, 2, false⟩, (a - 0x90000) / 0x10000) := by
  simp only [blockTable, findBlock, true_and]
  repeat rw [if_neg (by simp; omega)]
  rw [if_pos (by simp; omega)]
  simp

/-- The pending bits of the MSI-X tables lie in the PCI blocks. -/
theorem blockAt_isPba {a : Nat} {b : BlockAt} (ha : isPba a) (hb : blockAt a = some b) : b.desc.blk = .pci := by
  have h1 : 0x90000 ≤ a ∧ a < 0xB0000 := by unfold isPba at ha; omega
  unfold blockAt at hb
  simp only [show a / 0x1000000 = 0 by omega, show a % 0x1000000 = a by omega, if_true, findBlock_PCI a h1.1 h1.2,
    Option.map_some, Option.some.injEq] at hb
  subst hb
  rfl

end Sys2Proof.Machine
end

section
/-! What a write makes of the fields of a register (R19, R20). -/

namespace Sys2Proof.Machine

theorem bits_and (v w : Word) (hi lo : Nat) : bits (v &&& w) hi lo = bits v hi lo &&& bits w hi lo := by
  apply Nat.eq_of_testBit_eq; intro i
  simp only [bits, natBits_testBit, Nat.testBit_and, BitVec.toNat_and]
  cases decide (i < hi + 1 - lo) <;> simp

theorem bits_or (v w : Word) (hi lo : Nat) : bits (v ||| w) hi lo = bits v hi lo ||| bits w hi lo := by
  apply Nat.eq_of_testBit_eq; intro i
  simp only [bits, natBits_testBit, Nat.testBit_or, BitVec.toNat_or]
  cases decide (i < hi + 1 - lo) <;> simp

/-- A field takes the bits of another word. -/
theorem bits_setBits_bits (c w : Word) {hi lo : Nat} (h1 : lo ≤ hi) (h2 : hi < 32) :
    bits (setBits c hi lo (bits w hi lo)) hi lo = bits w hi lo := by
  rw [bits_setBits_same _ _ _ _ h1 h2]
  exact Nat.mod_mod _ _

/-- The word from which a field takes its bits in a write of `v` over `cur`. -/
def FieldDesc.source (f : FieldDesc) (defer : Bool) (cur v : Word) : Word :=
  match f.acc with
  | .rw => if f.now = defer then cur else v
  | .w1c => if defer then cur else cur &&& ~~~v
  | .w1s => if defer then cur else cur ||| v
  | .ro => cur
  | .wo => cur

/-- A write of a field changes nothing, or puts the bits of its source there. -/
theorem FieldDesc.write_cases (f : FieldDesc) (defer : Bool) (cur v : Word) :
    f.source defer cur v = cur ∧ f.write defer cur v = cur ∨
      f.write defer cur v = setBits cur f.hi f.lo (bits (f.source defer cur v) f.hi f.lo) := by
  unfold FieldDesc.write FieldDesc.source
  cases f.acc with
  | rw => by_cases h : f.now = defer <;> simp [h]
  | w1c => cases defer <;> simp
  | w1s => cases defer <;> simp
  | ro => exact .inl ⟨rfl, rfl⟩
  | wo => exact .inl ⟨rfl, rfl⟩

theorem FieldDesc.bits_write (f : FieldDesc) (hf : f.inWord) (defer : Bool) (cur v : Word) :
    bits (f.write defer cur v) f.hi f.lo = bits (f.source defer cur v) f.hi f.lo := by
  rcases f.write_cases defer cur v with ⟨hs, hw⟩ | hw
  · rw [hw, hs]
  · rw [hw, bits_setBits_bits _ _ hf.1 hf.2]

theorem FieldDesc.bits_write_apart {f g : FieldDesc} (hf : f.inWord) (h : f.apart g) (defer : Bool) (cur v : Word) :
    bits (f.write defer cur v) g.hi g.lo = bits cur g.hi g.lo := by
  rcases f.write_cases defer cur v with ⟨_, hw⟩ | hw
  · rw [hw]
  · rw [hw, bits_setBits_other _ _ _ _ _ _ hf.1 hf.2 h.symm]

/-- What a field takes depends only on its own bits of the word written over. -/
theorem FieldDesc.bits_source_congr (f : FieldDesc) (defer : Bool) {c d : Word} (v : Word) (h : bits c f.hi f.lo = bits d f.hi f.lo) :
    bits (f.source defer c v) f.hi f.lo = bits (f.source defer d v) f.hi f.lo := by
  unfold FieldDesc.source
  cases f.acc with
  | rw => by_cases hn : f.now = defer <;> simp [hn, h]
  | w1c => cases defer <;> simp [bits_and, h]
  | w1s => cases defer <;> simp [bits_or, h]
  | ro => exact h
  | wo => exact h

theorem bits_foldl_write_apart (l : List FieldDesc) (f : FieldDesc) (defer : Bool) (cur v : Word)
    (h : ∀ g ∈ l, g.inWord ∧ g.apart f) :
    bits (l.foldl (fun c g => g.write defer c v) cur) f.hi f.lo = bits cur f.hi f.lo := by
  induction l generalizing cur with
  | nil => rfl
  | cons g rest ih =>
    obtain ⟨hw, ha⟩ := h g (.head _)
    rw [List.foldl_cons, ih _ fun x hx => h x (.tail _ hx), g.bits_write_apart hw ha]

theorem bits_foldl_write (l : List FieldDesc) (f : FieldDesc) (defer : Bool) (cur v : Word) (hw : ∀ g ∈ l, g.inWord)
    (hl : l.Pairwise FieldDesc.apart) (hf : f ∈ l) :
    bits (l.foldl (fun c g => g.write defer c v) cur) f.hi f.lo = bits (f.source defer cur v) f.hi f.lo := by
  induction l generalizing cur with
  | nil => cases hf
  | cons g rest ih =>
    obtain ⟨hg, hrest⟩ := List.pairwise_cons.mp hl
    have hwr : ∀ x ∈ rest, x.inWord := fun x hx => hw x (.tail _ hx)
    rw [List.foldl_cons]
    rcases List.mem_cons.mp hf with rfl | hf
    · rw [bits_foldl_write_apart rest f _ _ _ fun x hx => ⟨hwr x hx, (hg x hx).symm⟩, f.bits_write (hw f (.head _))]
    · rw [ih _ hwr hrest hf]
      exact f.bits_source_congr defer v (g.bits_write_apart (hw g (.head _)) (hg f hf) _ _ _)

/-- After a write of a register each of its fields holds the bits of its own source. -/
theorem RegDesc.bits_write {r : RegDesc} (hr : r.laidOut) {f : FieldDesc} (hf : f ∈ r.fields) (defer : Bool) (cur v : Word) :
    bits (r.write defer cur v) f.hi f.lo = bits (f.source defer cur v) f.hi f.lo :=
  bits_foldl_write r.fields f defer cur v hr.1 hr.2 hf

theorem FieldDesc.source_rw {f : FieldDesc} (h : f.acc = .rw) (defer : Bool) (cur v : Word) :
    f.source defer cur v = if f.now = defer then cur else v := by
  unfold FieldDesc.source; rw [h]

theorem FieldDesc.source_w1c {f : FieldDesc} (h : f.acc = .w1c) (cur v : Word) : f.source false cur v = cur &&& ~~~v := by
  unfold FieldDesc.source; rw [h]; rfl

theorem FieldDesc.source_ro {f : FieldDesc} (h : f.acc = .ro) (defer : Bool) (cur v : Word) : f.source defer cur v = cur := by
  unfold FieldDesc.source; rw [h]

theorem FieldDesc.now_of_immediate {f : FieldDesc} (h : f.eff = .immediate) : f.now = true := by
  unfold FieldDesc.now; simp [h]

/-- A register with a field that waits has a boundary. -/
theorem RegDesc.boundary_isSome {r : RegDesc} {f : FieldDesc} (hf : f ∈ r.fields) (ha : f.acc = .rw) (hn : f.now = false) :
    r.boundary.isSome = true := by
  unfold RegDesc.boundary
  rw [Option.isSome_map, List.find?_isSome]
  exact ⟨f, hf, by simp [ha, hn]⟩

end Sys2Proof.Machine
end

section
/-! Writes that no rule treats specially: the register, the shadow, and what they leave alone (R64, R65). -/

namespace Sys2Proof.Machine

theorem State.plainWrite_frame (s : State) (r : RegDesc) (addr : Nat) (v : Word) :
    ∃ rg o sh, s.plainWrite r addr v = { s with regs := rg, out := o, shadow := sh } := by
  obtain ⟨rg, o, h⟩ := withEvents_frame (fun t => t.setReg addr (r.write false (t.reg addr) v)) s
  unfold State.plainWrite
  rw [h]
  cases r.boundary with
  | none => exact ⟨rg, o, s.shadow, rfl⟩
  | some b => exact ⟨rg, o, _, rfl⟩

/-- A plain write changes its own register at once, in the fields that apply at once. -/
theorem State.plainWrite_reg (s : State) (r : RegDesc) (addr : Nat) (v : Word) {a : Nat} (ha : ¬isPba a) :
    (s.plainWrite r addr v).reg a = if a = addr then r.write false (s.reg addr) v else s.reg a := by
  have h := withEvents_reg (fun t => t.setReg addr (r.write false (t.reg addr) v)) s a ha
  rw [State.reg_setReg] at h
  rw [← h]
  unfold State.plainWrite
  cases r.boundary <;> rfl

/-- A plain write leaves in the shadow what waits for the register's boundary. -/
theorem State.plainWrite_shadow (s : State) (r : RegDesc) (addr : Nat) (v : Word) (h : r.boundary.isSome = true) :
    (s.plainWrite r addr v).shadow = SMap.set s.shadow addr (r.write true 0 v) := by
  obtain ⟨rg, o, he⟩ := withEvents_frame (fun t => t.setReg addr (r.write false (t.reg addr) v)) s
  obtain ⟨b, hb⟩ := Option.isSome_iff_exists.mp h
  unfold State.plainWrite
  rw [he, hb]
  rfl

/-- The state in which the fields of a register that wait have taken the shadow `w`, which is gone (R64). -/
abbrev State.shadowApplied (s : State) (addr : Nat) (r : RegDesc) (w : Word) : State :=
  { s.setReg addr (r.write true (s.reg addr) w) with shadow := SMap.drop s.shadow addr }

theorem State.applyShadow_find {s : State} {addr : Nat} {w : Word} {b : BlockAt} {r : RegDesc} (hw : SMap.find s.shadow addr = some w)
    (hr : regAt addr = some (b, r)) : s.applyShadow addr = s.shadowApplied addr r w := by
  unfold State.applyShadow; rw [hw, hr]

/-- Where no ring command waits at a group port, the ports send nothing. -/
theorem State.portsPump_quiet {s : State} (h : s.ringQuiet) : s.portsPump = s := by
  have hn : (s.engines.filter fun e => e.2.ring.any fun q => !q.sent) = [] := by
    rw [List.filter_eq_nil_iff]
    intro e he hany
    obtain ⟨q, hq, hs⟩ := List.any_eq_true.mp hany
    simp [h e he q hq] at hs
  unfold State.portsPump
  rw [hn]
  rfl

/-! ## Over a path -/

theorem State.opened_frame (s : State) (path : Path) (b : BlockAt) (r : RegDesc) :
    ∃ l a, s.opened path b r = { s with heldAcc := l, arms := a } := by
  unfold State.opened State.disarm
  cases path <;> cases r.keyed <;> exact ⟨_, _, rfl⟩

theorem State.acked_frame (s : State) (path : Path) : ∃ o, s.acked path = { s with out := o } := by
  cases path <;> exact ⟨_, rfl⟩

theorem exec_registerWrite (s : State) (path : Path) (addr : Nat) (v : Word) :
    exec (.registerWrite path addr true (some v) 0) s = .next (keep s (s.writeReg path addr v)) := by
  cases path <;> rfl

theorem exec_shadowApply {s : State} (hup : s.up = true) (addr : Nat) :
    exec (.shadowApply addr) s = .next (keep s (s.shadowApply addr)) :=
  onDevice_up hup fun s => s.shadowApply addr

/-- A block in which every register, HRG_FLUSH_CTRL apart, is written by the general rules alone. -/
abbrev BlockAt.plain (b : BlockAt) : Prop :=
  b.desc.blk = .hub ∨ b.desc.blk = .thm ∨ b.desc.blk = .ddr ∨ b.desc.blk = .slt ∨ b.desc.blk = .sep ∨ (b.desc.blk = .hrg ∧ b.off ≠ 0x2C)

theorem State.doWrite_plain (s : State) (path : Path) {b : BlockAt} (hb : b.plain) (r : RegDesc) (addr : Nat) (v : Word) :
    s.doWrite path b r addr v = (s.plainWrite r addr v, false) := by
  unfold State.doWrite
  rcases hb with h | h | h | h | h | ⟨h, ho⟩ <;> rw [h]
  dsimp only
  rw [if_neg fun hx => ho hx.1]

theorem State.kept_plain (s : State) {b : BlockAt} (hb : b.plain) (v : Word) : s.kept b v = v := by
  unfold State.kept
  rw [if_neg]
  rintro ⟨hu, -⟩
  simp [BlockAt.plain, hu] at hb

theorem BlockAt.plain.not_isPba {b : BlockAt} (hb : b.plain) {a : Nat} (h : blockAt a = some b) : ¬isPba a := by
  intro ha
  simp [BlockAt.plain, blockAt_isPba ha h] at hb

/-- What an accepted write to a register of a plain block makes of the device. -/
abbrev State.plainWritten (s : State) (path : Path) (b : BlockAt) (r : RegDesc) (addr : Nat) (v : Word) : State :=
  keep s (((s.opened path b r).plainWrite r addr v).acked path)

theorem exec_registerWrite_plain {s : State} {path : Path} {addr : Nat} {v : Word} {b : BlockAt} {r : RegDesc}
    (h : s.accepts path addr v = true) (hs : regSel addr = some (b, .reg r)) (hb : b.plain) :
    exec (.registerWrite path addr true (some v) 0) s = .next (s.plainWritten path b r addr v) := by
  rw [exec_registerWrite, State.writeReg_accepted s path addr v h b r hs, State.kept_plain s hb, State.doWrite_plain _ path hb]

theorem State.plainWritten_reg (s : State) (path : Path) (b : BlockAt) (r : RegDesc) (addr : Nat) (v : Word) {a : Nat} (ha : ¬isPba a) :
    (s.plainWritten path b r addr v).reg a = if a = addr then r.write false (s.reg addr) v else s.reg a := by
  have hk : (s.plainWritten path b r addr v).reg a = ((s.opened path b r).plainWrite r addr v).reg a := State.acked_reg _ path a
  rw [hk, State.plainWrite_reg _ _ _ _ ha, State.opened_reg, State.opened_reg]

theorem State.plainWritten_shadow (s : State) (path : Path) (b : BlockAt) (r : RegDesc) (addr : Nat) (v : Word)
    (h : r.boundary.isSome = true) :
    (s.plainWritten path b r addr v).shadow = SMap.set s.shadow addr (r.write true 0 v) := by
  obtain ⟨o, ha⟩ := ((s.opened path b r).plainWrite r addr v).acked_frame path
  obtain ⟨l, m, ho⟩ := s.opened_frame path b r
  rw [keep_shadow, ha]
  dsimp only
  rw [State.plainWrite_shadow _ _ _ _ h, ho]

theorem State.plainWritten_accessOnly (s : State) (path : Path) (b : BlockAt) (r : RegDesc) (addr : Nat) (v : Word) :
    AccessOnly { s with shadow := (s.plainWritten path b r addr v).shadow } (s.plainWritten path b r addr v) (fun a => a = addr) := by
  refine ⟨?_, fun a ha => ?_⟩
  · obtain ⟨l, m, ho⟩ := s.opened_frame path b r
    obtain ⟨rg, o, sh, hp⟩ := (s.opened path b r).plainWrite_frame r addr v
    obtain ⟨o', ha⟩ := ((s.opened path b r).plainWrite r addr v).acked_frame path
    rw [State.plainWritten, ha, hp, ho]
    rfl
  · rw [State.plainWritten_reg s path b r addr v fun hp => ha (.inr hp), if_neg fun he => ha (.inl he)]
    rfl

end Sys2Proof.Machine
end

section
/-! O35: accepted writes to the registers of the HUB, THM, DDR, SLT, SEP and HRG blocks, and the packet boundary. -/

namespace Sys2Proof.Machine

/-- An accepted write changes nothing but its register and its shadow; each field follows its access code and its boundary. -/
theorem registerWrite_completes {s : State} {path : Path} {addr : Nat} {v : Word} {b : BlockAt} {r : RegDesc} {f : FieldDesc}
    (hs : regSel addr = some (b, .reg r)) (hb : b.plain) (hf : f ∈ r.fields) (h : s.accepts path addr v = true) :
    Completes (.registerWrite path addr true (some v) 0) s fun t =>
      AccessOnly { s with shadow := t.shadow } t (fun a => a = addr) ∧
      (f.acc = .rw → f.eff = .immediate → bits (t.reg addr) f.hi f.lo = bits v f.hi f.lo) ∧
      (f.acc = .rw → f.now = false → bits (t.reg addr) f.hi f.lo = bits (s.reg addr) f.hi f.lo ∧
        ∃ w, SMap.find t.shadow addr = some w ∧ bits w f.hi f.lo = bits v f.hi f.lo) ∧
      (f.acc = .w1c → bits (t.reg addr) f.hi f.lo = bits (s.reg addr &&& ~~~v) f.hi f.lo) ∧
      (f.acc = .ro → bits (t.reg addr) f.hi f.lo = bits (s.reg addr) f.hi f.lo) := by
  have hat := regSel_reg hs
  have hr := regAt_laidOut hat
  have hreg : bits ((s.plainWritten path b r addr v).reg addr) f.hi f.lo = bits (f.source false (s.reg addr) v) f.hi f.lo := by
    rw [State.plainWritten_reg s path b r addr v (hb.not_isPba (regAt_some hat).1), if_pos rfl, RegDesc.bits_write hr hf]
  refine ⟨_, exec_registerWrite_plain h hs hb, s.plainWritten_accessOnly path b r addr v, ?_, ?_, ?_, ?_⟩
  · intro ha he
    rw [hreg, FieldDesc.source_rw ha, FieldDesc.now_of_immediate he]
    rfl
  · intro ha hn
    refine ⟨by rw [hreg, FieldDesc.source_rw ha, hn, if_pos rfl], r.write true 0 v, ?_, ?_⟩
    · rw [State.plainWritten_shadow s path b r addr v (RegDesc.boundary_isSome hf ha hn), SMap.find_set_same]
    · rw [RegDesc.bits_write hr hf, FieldDesc.source_rw ha, hn]
      rfl
  · intro ha
    rw [hreg, FieldDesc.source_w1c ha]
  · intro ha
    rw [hreg, FieldDesc.source_ro ha]

theorem exec_shadowApply_packet {s : State} {addr : Nat} {w : Word} {b : BlockAt} {r : RegDesc} (hat : regAt addr = some (b, r))
    (hup : s.up = true) (hp : r.boundary = some .packet) (hw : SMap.find s.shadow addr = some w) (hq : s.ringQuiet) :
    exec (.shadowApply addr) s = .next (s.shadowApplied addr r w) := by
  have happ : s.shadowApply addr = s.shadowApplied addr r w := by
    unfold State.shadowApply
    rw [boundaryOf_regAt hat, hp]
    dsimp only
    rw [State.applyShadow_find hw hat]
    exact State.portsPump_quiet hq
  rw [exec_shadowApply hup, happ]
  rfl

/-- The packet boundary of a register applies the fields that wait and no other, and empties its shadow. -/
theorem shadowApply_completes {s : State} {addr : Nat} {w : Word} {b : BlockAt} {r : RegDesc} {f : FieldDesc}
    (hat : regAt addr = some (b, r)) (hf : f ∈ r.fields) (hup : s.up = true) (hp : r.boundary = some .packet)
    (hw : SMap.find s.shadow addr = some w) (hq : s.ringQuiet) :
    Completes (.shadowApply addr) s fun t =>
      SMap.find t.shadow addr = none ∧ WritesOnly { s with shadow := t.shadow } t (fun a => a = addr) ∧
      (f.acc = .rw → f.now = false → bits (t.reg addr) f.hi f.lo = bits w f.hi f.lo) ∧
      (f.acc = .rw → f.now = true → bits (t.reg addr) f.hi f.lo = bits (s.reg addr) f.hi f.lo) := by
  have hreg : bits ((s.shadowApplied addr r w).reg addr) f.hi f.lo = bits (f.source true (s.reg addr) w) f.hi f.lo := by
    rw [← RegDesc.bits_write (regAt_laidOut hat) hf]
    exact congrArg (bits · f.hi f.lo) (State.reg_setReg_same s addr _)
  refine ⟨_, exec_shadowApply_packet hat hup hp hw hq, SMap.find_drop_same _ _, ⟨rfl, fun a ha => State.reg_setReg_other s _ ha⟩, ?_, ?_⟩
  · intro ha hn
    rw [hreg, FieldDesc.source_rw ha, hn]
    rfl
  · intro ha hn
    rw [hreg, FieldDesc.source_rw ha, hn, if_pos rfl]

/-- Settles O35: every field of a written register takes the bits of its own source, and the boundary does the same with what waits. -/
theorem registerWrites : Obligations.RegisterWrites := by
  intro s path addr v b r f hs hb hf
  exact ⟨registerWrite_completes hs hb hf, fun w hup hp hw hq => shadowApply_completes (regSel_reg hs) hf hup hp hw hq⟩

end Sys2Proof.Machine
end

section
/-! Which registers and fields of the state a tick of the clocks touches (R155 to R169). -/

namespace Sys2Proof.Machine

/-- A control register of a regional tree of a sector (R182). -/
def isTreeReg (a : Nat) : Prop := ∃ d sec n, sec < 16 ∧ n < 24 ∧ a = Reg.SEC_RCLK d sec n

theorem Reg.SEC_RCLK_ge (d sec n : Nat) : 0x1000000 ≤ Reg.SEC_RCLK d sec n := by
  unfold Reg.SEC_RCLK; omega

/-- The registers of Bedrock, CFG among them, are none of a tree (R50 to R52). -/
theorem not_isTreeReg_of_lt {a : Nat} (h : a < 0x1000000) : ¬isTreeReg a := by
  rintro ⟨d, sec, n, -, -, rfl⟩
  exact absurd (Reg.SEC_RCLK_ge d sec n) (by omega)

theorem not_isTreeReg_SLT_ORIENT (d : Nat) : ¬isTreeReg (Reg.SLT_ORIENT d) := by
  rintro ⟨e, sec, n, hsec, hn, h⟩
  unfold Reg.SLT_ORIENT Reg.SEC_RCLK at h
  omega

/-- From `s` to `t` only DREF, spines, trees and their registers move. -/
def ClocksOnly (s t : State) : Prop :=
  (∃ rg dp sp tr tc, t = { s with regs := rg, drefPhase := dp, spines := sp, trees := tr, treeClosed := tc }) ∧ sameRegs s t isTreeReg

theorem ClocksOnly.refl (s : State) : ClocksOnly s s := ⟨⟨_, _, _, _, _, rfl⟩, fun _ _ => rfl⟩

theorem ClocksOnly.trans {s t u : State} (h : ClocksOnly s t) (k : ClocksOnly t u) : ClocksOnly s u := by
  obtain ⟨⟨_, _, _, _, _, rfl⟩, hr⟩ := h
  obtain ⟨⟨_, _, _, _, _, rfl⟩, kr⟩ := k
  exact ⟨⟨_, _, _, _, _, rfl⟩, fun a ha => (kr a ha).trans (hr a ha)⟩

theorem ClocksOnly.foldl {α : Type} {l : List α} {f : State → α → State} (s : State)
    (h : ∀ u, ∀ x ∈ l, ClocksOnly u (f u x)) : ClocksOnly s (l.foldl f s) :=
  List.foldlRecOn l f (ClocksOnly.refl s) fun u hu x hx => hu.trans (h u x hx)

theorem clocksOnly_setTree (s : State) (d sec n : Nat) (v : TreeSt) : ClocksOnly s (s.setTree d sec n v) :=
  ⟨⟨_, _, _, _, _, rfl⟩, fun _ _ => rfl⟩

theorem clocksOnly_closed (s : State) (l : List Nat) : ClocksOnly s { s with treeClosed := l } :=
  ⟨⟨_, _, _, _, _, rfl⟩, fun _ _ => rfl⟩

theorem clocksOnly_setFld (s : State) {f : RField} (h : isTreeReg f.addr) (x : Nat) : ClocksOnly s (s.setFld f x) :=
  ⟨⟨_, _, _, _, _, rfl⟩, fun _ ha => State.reg_setFld_other s f x _ fun he => ha (he ▸ h)⟩

theorem clocksOnly_spinesTick (s : State) : ClocksOnly s s.spinesTick :=
  ClocksOnly.trans (t := { s with drefPhase := s.phaseNext }) ⟨⟨_, _, _, _, _, rfl⟩, fun _ _ => rfl⟩
    (ClocksOnly.foldl _ fun _ _ _ => ⟨⟨_, _, _, _, _, rfl⟩, fun _ _ => rfl⟩)

theorem clocksOnly_treeHang (s : State) (d sec n : Nat) : ClocksOnly s (s.treeHang d sec n) := by
  unfold State.treeHang
  split
  · exact clocksOnly_setTree s d sec n _
  · exact .refl s

theorem clocksOnly_treeAdvance (s : State) {d sec n : Nat} (hsec : sec < 16) (hn : n < 24) (can : Nat → Bool) :
    ClocksOnly s (s.treeAdvance d sec n can) := by
  have hreg : isTreeReg (Reg.SEC_RCLK d sec n) := ⟨d, sec, n, hsec, hn, rfl⟩
  have close : ∀ v, ClocksOnly s ({ s with treeClosed := s.treeClosed ++ [treeKeyOf d sec n] }.setTree d sec n v) := fun v =>
    (clocksOnly_closed s _).trans (clocksOnly_setTree _ d sec n v)
  have switch : ∀ (u : State) (x : Nat) (l : List Nat) (v : TreeSt), ClocksOnly u
      ({ (u.setFld (Fld.SEC_RCLK_ACTIVE d sec n) x).setFld (Fld.SEC_RCLK_SWITCH_PENDING d sec n) 0 with treeClosed := l }.setTree d sec n v) :=
    fun u x l v => (((clocksOnly_setFld u hreg x).trans (clocksOnly_setFld _ hreg 0)).trans (clocksOnly_closed _ l)).trans
      (clocksOnly_setTree _ d sec n v)
  unfold State.treeAdvance
  dsimp only
  split
  · exact .refl s
  · split <;> split
    · exact (close _).trans (switch _ _ _ _)
    · exact close _
    · exact switch s _ _ _
    · exact .refl s

theorem clocksOnly_treeSteps (s u : State) {d sec n : Nat} (hsec : sec < 16) (hn : n < 24) : ClocksOnly u (s.treeSteps u d sec n) := by
  unfold State.treeSteps
  dsimp only
  split
  · exact clocksOnly_treeAdvance u hsec hn _
  · split
    · exact clocksOnly_setTree u d sec n _
    · exact .refl u

theorem clocksOnly_treeTick (s u : State) {d sec n : Nat} (hsec : sec < 16) (hn : n < 24) : ClocksOnly u (s.treeTick u d sec n) :=
  ((clocksOnly_treeSteps s u hsec hn).trans (clocksOnly_treeHang _ d sec n)).trans (clocksOnly_setTree _ d sec n _)

/-! ## The trees that a tick visits -/

theorem findBlock_some {slate : Bool} {rel : Nat} {l : List BlockDesc} {x : BlockDesc × Nat} (h : findBlock slate rel l = some x) :
    x.1 ∈ l ∧ x.2 < x.1.count := by
  induction l with
  | nil => cases h
  | cons b rest ih =>
    simp only [findBlock] at h
    generalize (if b.stride = 0 then b.size else b.stride) = step at h
    split at h
    case isTrue hb => cases h; exact ⟨.head _, hb.2.2.1⟩
    case isFalse => exact ⟨.tail _ (ih h).1, (ih h).2⟩

theorem blockAt_inst {a : Nat} {b : BlockAt} (h : blockAt a = some b) : b.desc ∈ blockTable ∧ b.inst < b.desc.count := by
  unfold blockAt at h
  dsimp only at h
  split at h
  · obtain ⟨x, hx, rfl⟩ := Option.map_eq_some_iff.mp h
    exact findBlock_some hx
  · split at h
    · obtain ⟨x, hx, rfl⟩ := Option.map_eq_some_iff.mp h
      exact findBlock_some hx
    · cases h

theorem blockTable_sec_count : ∀ b ∈ blockTable, b.blk = .sec → b.count = 16 := by decide

theorem treeOfAddr_bounds {a : Nat} {x : Nat × Nat × Nat} (h : treeOfAddr a = some x) : x.2.1 < 16 ∧ x.2.2 < 24 := by
  unfold treeOfAddr at h
  cases hb : blockAt a with
  | none => rw [hb] at h; cases h
  | some b =>
    simp only [hb] at h
    split at h
    case isTrue hs =>
      cases h
      obtain ⟨hmem, hinst⟩ := blockAt_inst hb
      rw [blockTable_sec_count _ hmem hs.1] at hinst
      exact ⟨hinst, Nat.div_lt_of_lt_mul hs.2⟩
    case isFalse => cases h

theorem liveTrees_bounds {s : State} {x : Nat × Nat × Nat} (h : x ∈ s.liveTrees) : x.2.1 < 16 ∧ x.2.2 < 24 := by
  unfold State.liveTrees at h
  rcases List.mem_append.mp h with h | h
  · obtain ⟨e, -, he⟩ := List.mem_filterMap.mp h
    exact treeOfAddr_bounds he
  · obtain ⟨hm, hf⟩ := List.mem_filter.mp h
    obtain ⟨e, -, rfl⟩ := List.mem_map.mp hm
    exact ⟨Nat.mod_lt _ (by decide), of_decide_eq_true (Bool.and_eq_true_iff.mp hf).1⟩

theorem clocksOnly_clockTick (s : State) : ClocksOnly s s.clockTick :=
  (clocksOnly_spinesTick s).trans (ClocksOnly.foldl _ fun u _ hx =>
    clocksOnly_treeTick s u (liveTrees_bounds hx).1 (liveTrees_bounds hx).2)

/-! ## What stays at a tick: sectors, regions and their states -/

theorem State.fld_congr {s t : State} (h : sameRegs s t isTreeReg) {f : RField} (hf : ¬isTreeReg f.addr) : t.fld f = s.fld f :=
  congrArg (bits · f.hi f.lo) (h _ hf)

theorem State.xflip_congr {s t : State} (h : sameRegs s t isTreeReg) (d : Nat) : t.xflip d = s.xflip d := by
  unfold State.xflip State.bit
  rw [State.fld_congr h (not_isTreeReg_SLT_ORIENT d)]

theorem State.posSector_congr {s t : State} (h : sameRegs s t isTreeReg) (d pc pr : Nat) : t.posSector d pc pr = s.posSector d pc pr := by
  unfold State.posSector State.physX
  rw [State.xflip_congr h]

theorem State.regState_congr {s t : State} (h : sameRegs s t isTreeReg) {r : Nat} (hr : r < 256) :
    t.fld (Fld.CFG_REG_STAT_STATE r) = s.fld (Fld.CFG_REG_STAT_STATE r) :=
  State.fld_congr h (not_isTreeReg_of_lt (show Reg.CFG_REG_STAT r < _ by unfold Reg.CFG_REG_STAT; omega))

theorem State.regSectors_congr {s t : State} (h : sameRegs s t isTreeReg) (d : Nat) {r : Nat} (hr : r < 256) :
    t.reg ((if d < 2 then Reg.CFG_REG_SECLO else Reg.CFG_REG_SECHI) r) = s.reg ((if d < 2 then Reg.CFG_REG_SECLO else Reg.CFG_REG_SECHI) r) := by
  refine h _ (not_isTreeReg_of_lt ?_)
  split
  · unfold Reg.CFG_REG_SECLO; omega
  · unfold Reg.CFG_REG_SECHI; omega

theorem find?_congr_mem {α : Type} {p q : α → Bool} {l : List α} (h : ∀ x ∈ l, p x = q x) : l.find? p = l.find? q := by
  induction l with
  | nil => rfl
  | cons x rest ih =>
    rw [List.find?_cons, List.find?_cons, h x (.head _), ih fun y hy => h y (.tail _ hy)]

theorem State.regionOf_congr {s t : State} (h : sameRegs s t isTreeReg) (d sec : Nat) : t.regionOf d sec = s.regionOf d sec := by
  unfold State.regionOf
  refine find?_congr_mem fun r hr => ?_
  rw [State.regSectors_congr h d (List.mem_range.mp hr), State.regState_congr h (List.mem_range.mp hr)]

theorem State.regionOf_lt {s : State} {d sec r : Nat} (h : s.regionOf d sec = some r) : r < 256 := by
  unfold State.regionOf at h
  exact List.mem_range.mp (List.mem_of_find?_eq_some h)

theorem State.posState_congr {s t : State} (h : sameRegs s t isTreeReg) (d pc pr : Nat) : t.posState d pc pr = s.posState d pc pr := by
  unfold State.posState
  rw [State.posSector_congr h, State.regionOf_congr h]
  cases hr : s.regionOf d (s.posSector d pc pr) with
  | none => rfl
  | some r => exact State.regState_congr h (State.regionOf_lt hr)

end Sys2Proof.Machine
end

section
/-! The flip-flops of the clusters at a tick, and the truth tables that change without their INIT bits (R98 to R104). -/

namespace Sys2Proof.Machine

/-! ## The value written to a flip-flop -/

theorem SMap.getD_find_put_same {α : Type} [DecidableEq α] (d : α) (m : SMap α) (k : Nat) (v : α) :
    (SMap.find (SMap.put d m k v) k).getD d = v := by
  by_cases h : v = d <;> simp [SMap.put, h, SMap.find_drop_same, SMap.find_set_same]

theorem SMap.find_put_other {α : Type} [DecidableEq α] (d : α) (m : SMap α) {j k : Nat} (v : α) (h : j ≠ k) :
    SMap.find (SMap.put d m k v) j = SMap.find m j := by
  by_cases hv : v = d <;> simp [SMap.put, hv, SMap.find_drop_other _ h, SMap.find_set_other _ _ h]

/-- What one step of a fold establishes at an element, and every step keeps, holds at the end. -/
theorem foldl_establishes {α β : Type} {f : β → α → β} {l : List α} {p : α} (hp : p ∈ l) (Q P : β → Prop)
    (hQ : ∀ b, Q b → ∀ a ∈ l, Q (f b a)) (hP : ∀ b, Q b → P (f b p)) (hkeep : ∀ b, Q b → P b → ∀ a ∈ l, P (f b a)) {b : β} (hb : Q b) :
    P (l.foldl f b) := by
  obtain ⟨l₁, l₂, rfl⟩ := List.append_of_mem hp
  rw [List.foldl_append, List.foldl_cons]
  have h₁ : Q (l₁.foldl f b) := List.foldlRecOn l₁ f hb fun c hc a ha => hQ c hc a (List.mem_append_left _ ha)
  have h₂ : Q (f (l₁.foldl f b) p) ∧ P (f (l₁.foldl f b) p) := ⟨hQ _ h₁ p hp, hP _ h₁⟩
  refine (List.foldlRecOn (motive := fun c => Q c ∧ P c) l₂ f h₂ fun c hc a ha => ?_).2
  have hm : a ∈ l₁ ++ p :: l₂ := List.mem_append_right _ (.tail _ ha)
  exact ⟨hQ c hc.1 a hm, hkeep c hc.1 hc.2 a hm⟩

/-- Positions below row and column 768 and cells below 16 have keys of their own. -/
theorem ffKey_inj {d pc pr c e qc qr b : Nat} (hpc : pc < 768) (hpr : pr < 768) (hc : c < 16) (hqc : qc < 768) (hqr : qr < 768) (hb : b < 16)
    (h : ffKey d pc pr c = ffKey e qc qr b) : d = e ∧ pc = qc ∧ pr = qr ∧ c = b := by
  unfold ffKey at h
  omega

theorem clusterOfKey_bounds {k : Nat} {p : Nat × Nat × Nat} (h : clusterOfKey k = some p) : p.2.1 < 768 ∧ p.2.2 < 768 := by
  unfold clusterOfKey at h
  dsimp only at h
  split at h
  · cases h
    dsimp only
    omega
  · cases h

theorem mem_liveClusters {s : State} {p : Nat × Nat × Nat} (h : p ∈ s.liveClusters) :
    p.2.1 < 768 ∧ p.2.2 < 768 ∧ s.posState p.1 p.2.1 p.2.2 = 3 := by
  obtain ⟨hm, hs⟩ := List.mem_filter.mp h
  obtain ⟨e, -, he⟩ := List.mem_filterMap.mp hm
  obtain ⟨hpc, hpr⟩ := clusterOfKey_bounds he
  exact ⟨hpc, hpr, of_decide_eq_true hs⟩

/-! ## INIT bits (R98, R110) -/

/-- INIT of cell `c`. -/
def cellInit (f : BitVec 4096) (c : Nat) : Bool := decide (cellBits f c 51 51 = 1)

theorem cellInit_eq (f : BitVec 4096) (c : Nat) : cellInit f c = f.getLsbD (1104 + 53 * c + 51) := by
  have hx : frameBits f (1104 + 53 * c + 51) 1 = (f.getLsbD (1104 + 53 * c + 51)).toNat := by
    unfold frameBits
    rw [← BitVec.toNat_ofBool]
    congr 1
    ext i hi
    obtain rfl : i = 0 := by omega
    simp
  unfold cellInit cellBits
  rw [hx]
  cases f.getLsbD (1104 + 53 * c + 51) <;> rfl

theorem setTT_getLsbD (f : BitVec 4096) (c tt : Nat) {j : Nat} (h : j < 1104 + 53 * c ∨ 1104 + 53 * c + 16 ≤ j) :
    (setTT f c tt).getLsbD j = f.getLsbD j := by
  unfold setTT
  dsimp only
  generalize 1104 + 53 * c = off at h ⊢
  have hlow : f.toNat % 2 ^ off < 2 ^ off := Nat.mod_lt _ (Nat.two_pow_pos _)
  have htt : tt % 65536 < 2 ^ 16 := Nat.mod_lt _ (by decide)
  have hsum : f.toNat / 2 ^ (off + 16) * 2 ^ (off + 16) + tt % 65536 * 2 ^ off + f.toNat % 2 ^ off =
      2 ^ off * (2 ^ 16 * (f.toNat / 2 ^ (off + 16)) + tt % 65536) + f.toNat % 2 ^ off := by
    rw [Nat.mul_add, Nat.mul_comm (_ / _), ← Nat.mul_assoc, ← Nat.pow_add, Nat.mul_comm (tt % 65536)]
  have hbit : (2 ^ off * (2 ^ 16 * (f.toNat / 2 ^ (off + 16)) + tt % 65536) + f.toNat % 2 ^ off).testBit j = f.toNat.testBit j := by
    rw [Nat.testBit_two_pow_mul_add _ hlow]
    rcases h with h | h
    · rw [if_pos h, Nat.testBit_mod_two_pow]
      simp [h]
    · rw [if_neg (by omega), Nat.testBit_two_pow_mul_add _ htt, if_neg (by omega), Nat.testBit_div_two_pow]
      congr 1
      omega
  rw [hsum, BitVec.getLsbD_ofNat, hbit]
  by_cases hj : j < 4096
  · simp [hj, BitVec.getLsbD]
  · simp [hj, BitVec.getLsbD_of_ge f j (by omega)]

/-- A truth table holds no INIT bit. -/
theorem cellInit_setTT (f : BitVec 4096) (c tt b : Nat) : cellInit (setTT f c tt) b = cellInit f b := by
  rw [cellInit_eq, cellInit_eq, setTT_getLsbD f c tt (by omega)]

theorem cellInit_ttNext (s u : State) (d pc pr b : Nat) : cellInit (s.ttNext u d pc pr) b = cellInit (s.posFrame d pc pr) b := by
  unfold State.ttNext
  dsimp only
  split
  · split
    · exact List.foldlRecOn (motive := fun g => cellInit g b = _) _ _ rfl fun g hg c _ => (cellInit_setTT g _ _ b).trans hg
    · rfl
  · refine List.foldlRecOn (motive := fun g => cellInit g b = _) _ _ rfl fun g hg c _ => ?_
    split
    · exact (cellInit_setTT g c _ b).trans hg
    · exact hg
  · rfl

/-! ## The clusters at a tick -/

/-- The frames of `t` hold the INIT bits that those of `s` hold. -/
def SameInit (s t : State) : Prop := ∀ k b, cellInit (t.frame k) b = cellInit (s.frame k) b

/-- The listed flip-flop of a cell is `v`, where an unlisted one is at the INIT that `s` holds for it. -/
def FFStored (s t : State) (d pc pr c : Nat) (v : Bool) : Prop :=
  (SMap.find t.ffs (ffKey d pc pr c)).getD (cellInit (s.posFrame d pc pr) c) = v

theorem SameInit.setFF {s t : State} (h : SameInit s t) (d pc pr c : Nat) (v : Bool) : SameInit s (t.setFF d pc pr c v) := h

theorem SameInit.setFrame {s t : State} (h : SameInit s t) {k : Nat} {f : BitVec 4096} (hf : ∀ b, cellInit f b = cellInit (s.frame k) b) :
    SameInit s (t.setFrame k f) := by
  intro j b
  unfold State.frame State.setFrame
  by_cases hj : j = k
  · subst hj
    dsimp only
    rw [SMap.get_put_same]
    exact hf b
  · dsimp only
    rw [SMap.get_put_other _ _ _ hj]
    exact h j b

theorem FFStored.setFF_same {s t : State} (h : SameInit s t) (d pc pr c : Nat) (v : Bool) : FFStored s (t.setFF d pc pr c v) d pc pr c v := by
  unfold FFStored
  rw [← show cellInit (t.posFrame d pc pr) c = cellInit (s.posFrame d pc pr) c from h _ c]
  exact SMap.getD_find_put_same _ _ _ _

theorem FFStored.setFF_other {s t : State} {d pc pr c : Nat} {v : Bool} (h : FFStored s t d pc pr c v) {e qc qr b : Nat}
    (hk : ffKey d pc pr c ≠ ffKey e qc qr b) (w : Bool) : FFStored s (t.setFF e qc qr b w) d pc pr c v := by
  unfold FFStored State.setFF
  dsimp only
  rw [SMap.find_put_other _ _ _ hk]
  exact h

theorem FFStored.setFrame {s t : State} {d pc pr c : Nat} {v : Bool} (h : FFStored s t d pc pr c v) (k : Nat) (f : BitVec 4096) :
    FFStored s (t.setFrame k f) d pc pr c v := h

/-- The sixteen flip-flops of a cluster after a tick. -/
def State.clockFFs (s u t : State) (d pc pr : Nat) : State :=
  (List.range 16).foldl (fun (t : State) c => t.setFF d pc pr c (s.ffNext u d pc pr c)) t

theorem State.clockCluster_eq (s u t : State) (d pc pr : Nat) :
    s.clockCluster u t (d, pc, pr) = (s.clockFFs u t d pc pr).setFrame (posKey d pc pr 1) (s.ttNext u d pc pr) := rfl

theorem SameInit.clockFFs {s t : State} (h : SameInit s t) (u : State) (d pc pr : Nat) : SameInit s (s.clockFFs u t d pc pr) :=
  List.foldlRecOn _ _ h fun _ ht c _ => ht.setFF d pc pr c _

theorem SameInit.clockCluster {s t : State} (h : SameInit s t) (u : State) (p : Nat × Nat × Nat) : SameInit s (s.clockCluster u t p) := by
  obtain ⟨d, pc, pr⟩ := p
  rw [State.clockCluster_eq]
  exact (h.clockFFs u d pc pr).setFrame fun b => cellInit_ttNext s u d pc pr b

section
variable {s u t : State} {d pc pr c : Nat} (hpc : pc < 768) (hpr : pr < 768) (hc : c < 16)
include hpc hpr hc

theorem FFStored.clockFFs_same (h : SameInit s t) : FFStored s (s.clockFFs u t d pc pr) d pc pr c (s.ffNext u d pc pr c) := by
  refine foldl_establishes (List.mem_range.mpr hc) (SameInit s) (fun x => FFStored s x d pc pr c (s.ffNext u d pc pr c))
    (fun x hx b _ => hx.setFF d pc pr b _) (fun x hx => FFStored.setFF_same hx d pc pr c _) (fun x hx hs b hb => ?_) h
  by_cases hcb : c = b
  · subst hcb
    exact FFStored.setFF_same hx d pc pr c _
  · exact hs.setFF_other (fun hk => hcb (ffKey_inj hpc hpr hc hpc hpr (List.mem_range.mp hb) hk).2.2.2) _

theorem FFStored.clockFFs_other {v : Bool} (h : FFStored s t d pc pr c v) {e qc qr : Nat} (hqc : qc < 768) (hqr : qr < 768)
    (hne : (e, qc, qr) ≠ (d, pc, pr)) : FFStored s (s.clockFFs u t e qc qr) d pc pr c v := by
  refine List.foldlRecOn (motive := fun x => FFStored s x d pc pr c v) _ _ h fun x hx b hb => hx.setFF_other (fun hk => hne ?_) _
  obtain ⟨rfl, rfl, rfl, -⟩ := ffKey_inj hpc hpr hc hqc hqr (List.mem_range.mp hb) hk
  rfl

theorem FFStored.clockCluster {p : Nat × Nat × Nat} (hi : SameInit s t) (hp : p.2.1 < 768 ∧ p.2.2 < 768)
    (h : p = (d, pc, pr) ∨ FFStored s t d pc pr c (s.ffNext u d pc pr c)) :
    FFStored s (s.clockCluster u t p) d pc pr c (s.ffNext u d pc pr c) := by
  obtain ⟨e, qc, qr⟩ := p
  rw [State.clockCluster_eq]
  refine FFStored.setFrame ?_ _ _
  by_cases hne : (e, qc, qr) = (d, pc, pr)
  · cases hne
    exact FFStored.clockFFs_same hpc hpr hc hi
  · exact FFStored.clockFFs_other hpc hpr hc (h.resolve_left hne) hp.1 hp.2 hne

end

theorem SameInit.clustersTick {s u : State} (h : SameInit s u) : SameInit s (s.clustersTick u) :=
  List.foldlRecOn _ _ h fun _ ht p _ => ht.clockCluster u p

/-- Every flip-flop of a running cluster holds after the tick what R98 gives it. -/
theorem FFStored.clustersTick {s u : State} (h : SameInit s u) {d pc pr c : Nat} (hm : (d, pc, pr) ∈ s.liveClusters) (hc : c < 16) :
    FFStored s (s.clustersTick u) d pc pr c (s.ffNext u d pc pr c) := by
  obtain ⟨hpc, hpr, -⟩ := mem_liveClusters hm
  have hpos : ∀ p ∈ s.liveClusters, p.2.1 < 768 ∧ p.2.2 < 768 := fun p hp => ⟨(mem_liveClusters hp).1, (mem_liveClusters hp).2.1⟩
  exact foldl_establishes hm (SameInit s) (fun x => FFStored s x d pc pr c (s.ffNext u d pc pr c))
    (fun x hx p _ => hx.clockCluster u p) (fun x hx => FFStored.clockCluster hpc hpr hc hx ⟨hpc, hpr⟩ (.inl rfl))
    (fun x hx hs p hp => FFStored.clockCluster hpc hpr hc hx (hpos p hp) (.inr hs)) h

/-- What is listed for a flip-flop of a RUNNING region is its value. -/
theorem FFStored.ffValue {s t : State} {d pc pr c : Nat} {v : Bool} (h : FFStored s t d pc pr c v) (hi : SameInit s t)
    (hs : t.posState d pc pr = 3) : t.ffValue d pc pr c = v := by
  unfold State.ffValue
  rw [if_pos (.inl hs), ← show _ = v from h, ← show cellInit (t.posFrame d pc pr) c = cellInit (s.posFrame d pc pr) c from hi _ c]
  rfl

/-- From `u` to `t` only flip-flops and frames move. -/
def ClustersOnly (u t : State) : Prop := ∃ ff fr, t = { u with ffs := ff, frames := fr }

theorem ClustersOnly.refl (u : State) : ClustersOnly u u := ⟨_, _, rfl⟩

theorem ClustersOnly.setFF {u t : State} (h : ClustersOnly u t) (d pc pr c : Nat) (v : Bool) : ClustersOnly u (t.setFF d pc pr c v) := by
  obtain ⟨_, _, rfl⟩ := h
  exact ⟨_, _, rfl⟩

theorem ClustersOnly.setFrame {u t : State} (h : ClustersOnly u t) (k : Nat) (f : BitVec 4096) : ClustersOnly u (t.setFrame k f) := by
  obtain ⟨_, _, rfl⟩ := h
  exact ⟨_, _, rfl⟩

theorem ClustersOnly.clockCluster {u t : State} (h : ClustersOnly u t) (s v : State) (p : Nat × Nat × Nat) :
    ClustersOnly u (s.clockCluster v t p) := by
  obtain ⟨d, pc, pr⟩ := p
  exact (List.foldlRecOn (motive := ClustersOnly u) _ _ h fun _ ht c _ => ht.setFF d pc pr c _ :
    ClustersOnly u (s.clockFFs v t d pc pr)).setFrame _ _

theorem clustersOnly_clustersTick (s u : State) : ClustersOnly u (s.clustersTick u) :=
  List.foldlRecOn _ _ (ClustersOnly.refl u) fun _ ht p _ => ht.clockCluster s u p

/-- From `u` to `t` only the paths of user I/O pairs with GEAR 1 move. -/
def PadsOnly (u t : State) : Prop := ∃ pd, t = { u with pads := pd }

theorem PadsOnly.padTick {v t : State} (h : PadsOnly v t) (s u : State) (p : Nat × Nat) : PadsOnly v (s.padTick u t p) := by
  obtain ⟨_, rfl⟩ := h
  obtain ⟨d, k⟩ := p
  unfold State.padTick
  dsimp only
  split <;> exact ⟨_, rfl⟩

theorem padsOnly_padsTick (s u t : State) : PadsOnly t (s.padsTick u t) :=
  List.foldlRecOn _ _ (⟨_, rfl⟩ : PadsOnly t t) fun _ hv p _ => hv.padTick s u p

end Sys2Proof.Machine
end

section
/-! One flip-flop (R95 to R98), and the divider of a tree (R159, R160). -/

namespace Sys2Proof.Machine

/-! ## Flip-flops -/

theorem State.treeEdge_iff (s u : State) (d sec n : Nat) (inv : Bool) :
    s.treeEdge u d sec n inv = true ↔ n < 24 ∧ (s.tree d sec n).level = inv ∧ (u.tree d sec n).level = !inv := by
  unfold State.treeEdge
  cases inv <;> simp

section
variable {s u : State} {d pc pr c : Nat}

/-- SR0 or SR1 sets or resets the cell and is asserted (R97). -/
def State.srAsserted (s : State) (d pc pr c : Nat) : Prop :=
  let sr := cellBits (s.posFrame d pc pr) c 49 48
  (sr = 1 ∨ sr = 2) ∧ s.signal d (.inp pc pr (43 + sr)) = true

/-- The set or reset that the cell names is asynchronous (R97). -/
def State.srAsync (s : State) (d pc pr c : Nat) : Prop :=
  let f := s.posFrame d pc pr
  let sr := cellBits f c 49 48
  clusterBits f (25 + sr) (25 + sr) = 1

theorem State.srActs_iff (a : Bool) : s.srActs d pc pr c a = true ↔ s.srAsserted d pc pr c ∧ (s.srAsync d pc pr c ↔ a = true) := by
  unfold State.srActs State.srAsserted State.srAsync
  simp only [Bool.and_eq_true, Bool.or_eq_true, decide_eq_true_eq, eq_iff_iff]
  rw [and_assoc, and_assoc, and_comm (b := s.signal _ _ = true)]

theorem State.srActs_async_iff : s.srActs d pc pr c true = true ↔ s.srAsserted d pc pr c ∧ s.srAsync d pc pr c := by
  rw [State.srActs_iff, iff_true_right rfl]

theorem State.srActs_sync_iff : s.srActs d pc pr c false = true ↔ s.srAsserted d pc pr c ∧ ¬s.srAsync d pc pr c := by
  rw [State.srActs_iff, iff_false_right Bool.false_ne_true]

/-- The clock line of the cell has its active edge between `s` and `u` (R95). -/
abbrev State.cellEdge (s u : State) (d pc pr c : Nat) : Prop :=
  s.lineEdge u d pc pr (cellBits (s.posFrame d pc pr) c 44 44) = true

theorem State.ffNext_async (hclk : s.posClocked d pc pr = true) (hsr : s.srAsserted d pc pr c) (ha : s.srAsync d pc pr c) :
    s.ffNext u d pc pr c = s.srVal d pc pr c :=
  if_pos ⟨hclk, State.srActs_async_iff.mpr ⟨hsr, ha⟩⟩

theorem State.ffNext_of_not_async (h : ¬(s.srAsserted d pc pr c ∧ s.srAsync d pc pr c)) :
    s.ffNext u d pc pr c =
      if s.lineEdge u d pc pr (cellBits (s.posFrame d pc pr) c 44 44) then
        if s.srActs d pc pr c false then s.srVal d pc pr c
        else if s.cellEnable d pc pr c then
          (if cellBits (s.posFrame d pc pr) c 42 42 = 1 then s.cellD d pc pr c else s.signal d (.o pc pr c))
        else s.ffValue d pc pr c
      else s.ffValue d pc pr c :=
  if_neg fun hx => h (State.srActs_async_iff.mp hx.2)

theorem State.ffNext_sync (he : s.cellEdge u d pc pr c) (hsr : s.srAsserted d pc pr c) (ha : ¬s.srAsync d pc pr c) :
    s.ffNext u d pc pr c = s.srVal d pc pr c := by
  rw [State.ffNext_of_not_async fun h => ha h.2, if_pos he, if_pos (State.srActs_sync_iff.mpr ⟨hsr, ha⟩)]

theorem State.ffNext_edge (he : s.cellEdge u d pc pr c) (hsr : ¬s.srAsserted d pc pr c) :
    s.ffNext u d pc pr c = if s.cellEnable d pc pr c then
        (if cellBits (s.posFrame d pc pr) c 42 42 = 1 then s.cellD d pc pr c else s.signal d (.o pc pr c))
      else s.ffValue d pc pr c := by
  rw [State.ffNext_of_not_async fun h => hsr h.1, if_pos he, if_neg fun h => hsr (State.srActs_sync_iff.mp h).1]

theorem State.ffNext_no_edge (he : ¬s.cellEdge u d pc pr c) (h : ¬(s.srAsserted d pc pr c ∧ s.srAsync d pc pr c)) :
    s.ffNext u d pc pr c = s.ffValue d pc pr c := by
  rw [State.ffNext_of_not_async h, if_neg he]

end

/-! ## The divider -/

/-- A divider that no rise has started gives a low output (R160). -/
theorem TreeSt.divided_clear {v : TreeSt} (h : v.phase = none) (n : Nat) : v.divided n = false := by
  unfold TreeSt.divided
  rw [h]

theorem TreeSt.drive_same {v : TreeSt} {n : Nat} {b : Bool} (h : v.mux = b) : v.drive n b = v := if_pos h

theorem TreeSt.drive_first {v : TreeSt} {n : Nat} (hp : v.phase = none) (hm : v.mux = false) :
    v.drive n true = { v with mux := true, phase := some 0 } := by
  unfold TreeSt.drive
  rw [hm, hp]
  rfl

/-- Each edge of its input moves a divider by half an input period (R160). -/
theorem TreeSt.drive_edge {v : TreeSt} {n k : Nat} {b : Bool} (hp : v.phase = some k) (hm : v.mux = !b) :
    v.drive n b = { v with mux := b, phase := some ((k + 1) % (2 * n)) } := by
  unfold TreeSt.drive
  rw [hm, hp, if_neg (by cases b <;> decide)]

/-- One period of the input. -/
theorem TreeSt.drive_period {v : TreeSt} {n k : Nat} (hp : v.phase = some k) (hm : v.mux = true) :
    (v.drive n false).drive n true = { v with phase := some ((k + 2) % (2 * n)) } := by
  have h := TreeSt.drive_edge (v := v) (n := n) (b := false) hp hm
  rw [h, TreeSt.drive_edge rfl rfl, Nat.mod_add_mod, ← hm]

/-- In `k` periods of its input a divider that has started counts `2 * k` halves. -/
theorem TreeSt.drive_periods {v : TreeSt} {n j : Nat} (hp : v.phase = some j) (hj : j < 2 * n) (hm : v.mux = true) (k : Nat) :
    (List.range k).foldl (fun (w : TreeSt) (_ : Nat) => (w.drive n false).drive n true) v =
      { v with phase := some ((j + 2 * k) % (2 * n)) } := by
  induction k with
  | zero =>
    rw [Nat.mul_zero, Nat.add_zero, Nat.mod_eq_of_lt hj, ← hp]
    rfl
  | succ k ih =>
    have hk : ((j + 2 * k) % (2 * n) + 2) % (2 * n) = (j + 2 * (k + 1)) % (2 * n) := by rw [Nat.mod_add_mod, Nat.add_assoc, Nat.mul_succ]
    rw [List.range_succ, List.foldl_append, ih, List.foldl_cons, List.foldl_nil,
      TreeSt.drive_period (v := { v with phase := some ((j + 2 * k) % (2 * n)) }) rfl hm, hk]

end Sys2Proof.Machine
end

section
/-! O32: a step on an empty queue. -/

namespace Sys2Proof.Machine

theorem State.fabricStep_still {s : State} (h : s.liveSpines = []) : s.fabricStep = s := by
  unfold State.fabricStep
  rw [h]

theorem State.fabricStep_live {s : State} (h : s.liveSpines ≠ []) :
    s.fabricStep = (s.padsTick s.clockTick (s.stripsTick s.clockTick
      (s.ifacePositions.foldl (fun (t : State) p => s.ifaceTick s.clockTick t p) (s.clustersTick s.clockTick)))).useFree := by
  unfold State.fabricStep
  split
  case h_1 hn => exact absurd hn h
  case h_2 => rfl

theorem step_empty {s : State} (h : s.pending = []) : step s = onDevice State.fabricStep s := by
  unfold step
  rw [h]

/-- A tick in which no interface has an edge: clusters and pads are all that it clocks. -/
def State.quietTick (s : State) : State := (s.padsTick s.clockTick (s.clustersTick s.clockTick)).useFree

theorem State.fabricStep_no_iface {s : State} (hl : s.liveSpines ≠ []) (hw : s.wiredPairs = [])
    (hi : ∀ d pc pr, s.ifaceEdge s.clockTick d pc pr = false) : s.fabricStep = s.quietTick := by
  have hface : ∀ t p, s.ifaceTick s.clockTick t p = t := by
    rintro t ⟨d, pc, pr⟩
    unfold State.ifaceTick
    dsimp only
    rw [hi, if_pos (by decide)]
  have hfold : s.ifacePositions.foldl (fun (t : State) p => s.ifaceTick s.clockTick t p) (s.clustersTick s.clockTick) = s.clustersTick s.clockTick :=
    List.foldlRecOn (motive := fun t => t = s.clustersTick s.clockTick) _ _ rfl fun t ht p _ => (hface t p).trans ht
  have hstrips : ∀ t, s.stripsTick s.clockTick t = t := by
    intro t
    unfold State.stripsTick
    rw [hw]
    rfl
  rw [State.fabricStep_live hl, hfold, hstrips, State.quietTick]

theorem State.quietTick_frame (s : State) :
    s.quietTick.free = s.free + 1 ∧
    s.quietTick = { s with
      regs := s.quietTick.regs, drefPhase := s.quietTick.drefPhase, spines := s.quietTick.spines, trees := s.quietTick.trees
      treeClosed := s.quietTick.treeClosed, ffs := s.quietTick.ffs, frames := s.quietTick.frames, pads := s.quietTick.pads
      free := s.quietTick.free } ∧
    sameRegs s s.quietTick isTreeReg := by
  obtain ⟨⟨_, _, _, _, _, hu⟩, hr⟩ := clocksOnly_clockTick s
  obtain ⟨_, _, ht⟩ := clustersOnly_clustersTick s s.clockTick
  obtain ⟨_, hp⟩ := padsOnly_padsTick s s.clockTick (s.clustersTick s.clockTick)
  unfold State.quietTick
  rw [hp, ht]
  refine ⟨?_, ?_, hr⟩ <;> rw [hu] <;> rfl

theorem State.quietTick_ff {s : State} {d pc pr c : Nat} (hm : (d, pc, pr) ∈ s.liveClusters) (hc : c < 16) :
    s.quietTick.ffValue d pc pr c = s.ffNext s.clockTick d pc pr c := by
  have hinit : SameInit s s.clockTick := by
    obtain ⟨⟨_, _, _, _, _, hu⟩, -⟩ := clocksOnly_clockTick s
    rw [hu]
    exact fun _ _ => rfl
  obtain ⟨-, -, hregs⟩ := s.quietTick_frame
  have hstate : s.quietTick.posState d pc pr = 3 := (State.posState_congr hregs d pc pr).trans (mem_liveClusters hm).2.2
  obtain ⟨_, hp⟩ := padsOnly_padsTick s s.clockTick (s.clustersTick s.clockTick)
  unfold State.quietTick at hstate ⊢
  rw [hp] at hstate ⊢
  exact FFStored.ffValue (FFStored.clustersTick hinit hm hc) hinit.clustersTick hstate

/-- A device that does not run, or has no spine enabled, stays as it is. -/
theorem step_empty_still {s : State} (hp : s.pending = []) (h : s.up = false ∨ s.liveSpines = []) : step s = .next s := by
  rw [step_empty hp]
  cases hup : s.up with
  | false => exact onDevice_down hup _
  | true =>
    have hl : s.liveSpines = [] := h.resolve_left (by simp [hup])
    rw [onDevice_up hup, State.fabricStep_still hl, keep_self]

/-- A step on an empty queue leaves the queue empty and a halt as it was. -/
theorem step_empty_keeps {s : State} (hp : s.pending = []) : ∃ t, step s = .next t ∧ t.pending = [] ∧ t.haltDone = s.haltDone := by
  rw [step_empty hp]
  cases hup : s.up with
  | false => exact ⟨s, onDevice_down hup _, hp, rfl⟩
  | true => exact ⟨_, onDevice_up hup _, hp, rfl⟩

/-- Where no interface has an edge, a step on an empty queue moves clocks, clusters, pads and the free counter. -/
theorem step_empty_no_iface {s : State} (hp : s.pending = []) (hup : s.up = true) (hl : s.liveSpines ≠ []) (hw : s.wiredPairs = [])
    (hi : ∀ d pc pr, s.ifaceEdge s.clockTick d pc pr = false) :
    step s = .next s.quietTick := by
  obtain ⟨-, hframe, -⟩ := s.quietTick_frame
  rw [step_empty hp, onDevice_up hup, State.fabricStep_no_iface hl hw hi, keep_eq] <;> rw [hframe]

/-- The value of a flip-flop after a tick, by its set or reset, its clock edge and its enable (R98). -/
theorem State.ffNext_priority (s u : State) (d pc pr c : Nat) :
    (s.posClocked d pc pr = true → s.srAsserted d pc pr c → s.srAsync d pc pr c → s.ffNext u d pc pr c = s.srVal d pc pr c) ∧
    (s.cellEdge u d pc pr c → s.srAsserted d pc pr c → ¬s.srAsync d pc pr c → s.ffNext u d pc pr c = s.srVal d pc pr c) ∧
    (s.cellEdge u d pc pr c → ¬s.srAsserted d pc pr c → s.cellEnable d pc pr c = true →
      s.ffNext u d pc pr c =
        if cellBits (s.posFrame d pc pr) c 42 42 = 1 then s.cellD d pc pr c else s.signal d (.o pc pr c)) ∧
    (s.cellEdge u d pc pr c → ¬s.srAsserted d pc pr c → s.cellEnable d pc pr c = false →
      s.ffNext u d pc pr c = s.ffValue d pc pr c) ∧
    (¬s.cellEdge u d pc pr c → ¬(s.srAsserted d pc pr c ∧ s.srAsync d pc pr c) → s.ffNext u d pc pr c = s.ffValue d pc pr c) :=
  ⟨State.ffNext_async, State.ffNext_sync, fun he hsr hce => (State.ffNext_edge he hsr).trans (if_pos hce),
    fun he hsr hce => (State.ffNext_edge he hsr).trans (if_neg (by simp [hce])), State.ffNext_no_edge⟩

/-- A divider starts with the first rise of its input, and each `n` periods of its input are one of its output, high in the first half
(R160). -/
theorem TreeSt.divided_periods {v : TreeSt} {n : Nat} (hn : 1 ≤ n) (hp : v.phase = none) (hm : v.mux = false) (k : Nat) :
    ((List.range k).foldl (fun (w : TreeSt) (_ : Nat) => (w.drive n false).drive n true) (v.drive n true)).divided n =
      decide (2 * k % (2 * n) < n) := by
  have h := TreeSt.drive_periods (v := { v with mux := true, phase := some 0 }) (n := n) rfl (by omega) rfl k
  rw [TreeSt.drive_first hp hm, h, Nat.zero_add]
  rfl

/-- Settles O32: the tick of an empty queue, what it leaves alone, and what a flip-flop and a divider make of it. -/
theorem emptyQueueIdles : Obligations.EmptyQueueIdles := by
  refine ⟨fun s => step_empty_still, fun s => step_empty_keeps, ?_, ?_, ?_⟩
  · intro s hp hup hl hw hi
    obtain ⟨hfree, hframe, hregs⟩ := s.quietTick_frame
    refine ⟨_, step_empty_no_iface hp hup hl hw hi, hfree, hframe, fun a ha => hregs a ?_, fun d pc pr c => State.quietTick_ff⟩
    rintro ⟨d, sec, n, -, hn, rfl⟩
    exact ha ⟨d, sec, n, hn, rfl⟩
  · intro s u d pc pr c
    have h := State.ffNext_priority s u d pc pr c
    rw [show s.cellEdge u d pc pr c = _ from propext (State.treeEdge_iff ..)] at h
    exact h
  · intro v n hn hp hm
    refine ⟨TreeSt.divided_clear hp n, ?_, ?_, fun k _ => TreeSt.divided_periods hn hp hm k⟩
    · rw [TreeSt.drive_first hp hm]
      exact decide_eq_true hn
    · rw [TreeSt.drive_same hm, TreeSt.divided_clear hp]

end Sys2Proof.Machine
end

section
/-! The first block of a stream that names one region: the state that the region takes (R551, R559, R563). -/

namespace Sys2Proof.Machine

theorem State.initSectors_regs (l : List (Nat × Nat)) (s : State) :
    (l.foldl (fun (t : State) x => t.initSector x.1 x.2) s).regs = s.regs :=
  List.foldlRecOn (motive := fun t : State => t.regs = s.regs) l _ rfl fun _ h _ _ => h

/-- STATE lies above PERM in CFG_REGr_STAT, so a PERM of three bits leaves a region that a stream opens LOADING, and no wider one need. -/
theorem State.openRegion_regState (s : State) (man : Manifest) (r : ManReg) :
    (s.openRegion man r).regState r.num = (1 + (8 * b2n man.enc + r.perm) / 64) % 8 := by
  have hreg : (s.openRegion man r).reg (Reg.CFG_REG_STAT r.num) = BitVec.ofNat 32 (2 ^ 29 + b2n man.enc * 2 ^ 26 + r.perm * 2 ^ 23) :=
    (State.reg_eq _ _ (State.initSectors_regs _ _) _).trans (State.reg_setReg_same _ _ _)
  show bits ((s.openRegion man r).reg (Reg.CFG_REG_STAT r.num)) 31 29 = _
  rw [hreg]
  simp only [bits, natBits, BitVec.toNat_ofNat]
  omega

theorem State.resetDisabled_regs (s : State) (d : Nat) : (s.resetDisabled d).regs = s.regs := by
  refine List.foldlRecOn (motive := fun t : State => t.regs = s.regs) _ _ rfl fun t h e _ => ?_
  split <;> exact h

theorem State.writeFrames_regs (s : State) (b : ManBlk) (key n : Nat) (bs : List Byte) : (s.writeFrames b key n bs).1.regs = s.regs := by
  induction n generalizing s key bs with
  | zero => rfl
  | succ n ih =>
    unfold State.writeFrames
    dsimp only
    split
    · rfl
    · split
      · rfl
      · rw [ih, State.resetDisabled_regs]
        split <;> rfl

theorem slice_drop (bs : List Byte) (n m k : Nat) : slice (bs.drop n) m k = slice bs (n + m) k := by
  unfold slice; rw [List.drop_drop]

/-- The frames of a block stand 516 bytes apart (R552). -/
theorem frameBad_drop (bs : List Byte) (key i : Nat) : frameBad (bs.drop 516) (key + 1) i = frameBad bs key (i + 1) := by
  unfold frameBad blockFrame leAt
  simp only [slice_drop]
  rw [show 516 + (516 * i + 512) = 516 * (i + 1) + 512 by omega, show 516 + 516 * i = 516 * (i + 1) by omega,
    show key + 1 + i = key + (i + 1) by omega]

/-- Where no frame of a block is faulty, all of them are written. -/
theorem State.writeFrames_all (s : State) (b : ManBlk) {key n : Nat} {bs : List Byte} (h : ∀ i, i < n → frameBad bs key i = none) :
    (s.writeFrames b key n bs).2 = none := by
  induction n generalizing s key bs with
  | zero => rfl
  | succ n ih =>
    have hfirst : leAt bs 512 4 = (crc32c (bs.take 512)).toNat ∧ frameCheck key (BitVec.ofNat 4096 (natLE (bs.take 512))) = none := by
      have h0 := h 0 (Nat.succ_pos n)
      unfold frameBad at h0
      split at h0
      case isTrue hc => exact ⟨hc, h0⟩
      case isFalse => cases h0
    have hrest : ∀ i, i < n → frameBad (bs.drop 516) (key + 1) i = none := fun i hi => by
      rw [frameBad_drop]
      exact h (i + 1) (Nat.succ_lt_succ hi)
    unfold State.writeFrames
    dsimp only
    rw [if_neg (not_not_intro hfirst.1), hfirst.2]
    exact ih _ hrest

/-- When the first of several blocks is written whole, the one region that the stream names has the STATE that its record gives. -/
theorem State.loaderBlock_regState {s : State} {x : Stream} {man : Manifest} {b : ManBlk} {plain : List Byte} {k : Nat} {r : ManReg}
    (hx : s.loader.stream = some x) (hm : x.man = some man) (hblk : x.blk = 0) (hb : man.blks[x.blk]? = some b)
    (hmore : x.blk + 1 < man.blks.length) (hlen : blkBytes man.enc b ≤ x.bytes.length)
    (hp : s.blockPlain man x.blk b (x.bytes.take (blkBytes man.enc b)) = .inl plain) (hk : keyOfFar b.far = some k)
    (hf : ∀ i, i < b.count → frameBad plain k i = none) (hr : man.regs = [r]) :
    s.loaderBlock.regState r.num = (1 + (8 * b2n man.enc + r.perm) / 64) % 8 := by
  have hbad : ((s.openRegion man r).writeFrames b k b.count plain).2 = none := State.writeFrames_all _ b hf
  have hregs : s.loaderBlock.regs = (s.openRegion man r).regs := by
    rw [← State.writeFrames_regs (s.openRegion man r) b k b.count plain]
    unfold State.loaderBlock
    simp only [hx, hm, hb, hp, hk, hr, if_neg (Nat.not_lt.mpr hlen), if_pos hblk, List.foldl_cons, List.foldl_nil, Option.getD_some,
      hbad, if_neg (Nat.ne_of_lt hmore)]
  rw [← State.openRegion_regState s man r]
  exact State.fld_eq _ _ hregs _

end Sys2Proof.Machine
end

section
/-! O57: a region record whose PERM has more than the three bits of R551. -/

namespace Sys2Proof.Machine

/-- A frame of zeros with its CRC-32C. -/
def zeroPlain : List Byte := List.replicate 512 0 ++ bytesLE 4 821882304

set_option maxRecDepth 100000 in
theorem frameBad_zeroPlain : frameBad zeroPlain 0 0 = none := by decide +kernel

/-- The first 16 bytes of a record of a block of one frame at FAR 0 for region 2. -/
def zeroHead : List Byte := [0, 0, 0, 0, 1, 0, 2, 0, 0, 0, 0, 0, 0, 0, 0, 0]

/-- The record of that block. -/
def zeroBlk : ManBlk := { far := 0, count := 1, region := 2, head := zeroHead, hash := sha256 zeroPlain }

/-- A record of region 2 with PERM 64, which overflows into STATE; `parseReg` refuses such a record. -/
def widePerm : ManReg := { num := 2, perm := 64, sectors := 1, ranges := [] }

/-- A manifest of that record and two blocks. -/
def wideMan : Manifest := { enc := false, iv := List.replicate 12 0, version := 0, regs := [widePerm], blks := [zeroBlk, zeroBlk] }

/-- Its stream, with the first block buffered. -/
def wideStream : Stream :=
  { src := .reg .flint, region := 2, op := 1, bytes := zeroHead ++ zeroPlain, got := 772, total := 1304, man := some wideMan, blk := 0 }

/-- A running device that has this stream open. -/
def wideState : State := { State.blank with phase := .running, loader := { State.blank.loader with stream := some wideStream } }

theorem blkBytes_zeroBlk : blkBytes wideMan.enc zeroBlk = wideStream.bytes.length := by decide +kernel

theorem blockPlain_zeroBlk :
    wideState.blockPlain wideMan wideStream.blk zeroBlk (wideStream.bytes.take (blkBytes wideMan.enc zeroBlk)) = .inl zeroPlain := by
  have hhead : slice wideStream.bytes 0 16 = zeroBlk.head := by decide +kernel
  have hbody : slice wideStream.bytes 16 (516 * zeroBlk.count) = zeroPlain := by decide +kernel
  rw [blkBytes_zeroBlk, List.take_length]
  unfold State.blockPlain
  rw [hbody, hhead]
  simp [wideMan, zeroBlk]

/-- The first block leaves region 2 HELD, and not LOADING. -/
theorem wideState_loaderBlock : wideState.loaderBlock.regState 2 = 2 :=
  State.loaderBlock_regState (r := widePerm) rfl rfl rfl rfl (by decide) (Nat.le_of_eq blkBytes_zeroBlk) blockPlain_zeroBlk
    (show keyOfFar 0 = some 0 by decide) (fun i hi => by rw [show i = 0 from Nat.lt_one_iff.mp hi]; exact frameBad_zeroPlain) rfl

/-- Refutes O57: nothing there bounds the PERM of a stream's region records, and the first block of a manifest whose record of region 2 has
PERM 64 leaves that region with STATE 2 where the statement has 1. A manifest that the loader has checked has no such record (R551). -/
theorem not_loaderProgress : ¬ Obligations.LoaderProgress := by
  unfold Obligations.LoaderProgress
  intro h
  obtain ⟨-, -, -, -, -, hup⟩ := h wideState .flint .flint 0 0 0 [] wideStream wideMan zeroBlk ⟨false, 0, .flint⟩ 0 0
  obtain ⟨-, hblock, -⟩ := hup rfl
  obtain ⟨-, -, hplain⟩ := hblock rfl rfl rfl 0 (by decide)
  obtain ⟨hgood, -⟩ := hplain zeroPlain (Nat.le_of_eq blkBytes_zeroBlk) blockPlain_zeroBlk
  obtain ⟨t, ht, -, -, -, hmore⟩ := hgood fun i hi => by rw [show i = 0 from Nat.lt_one_iff.mp hi]; exact frameBad_zeroPlain
  obtain ⟨-, -, -, hopen⟩ := hmore (by decide)
  obtain ⟨hloading, -⟩ := hopen rfl (by decide)
  have hone : t.regState 2 = 1 := hloading widePerm (.head _)
  have hexec : exec .loaderBlock wideState = .next (keep wideState wideState.loaderBlock) := onDevice_up rfl fun s => s.loaderBlock
  obtain rfl : keep wideState wideState.loaderBlock = t := Host.Outcome.next.inj (hexec.symm.trans ht)
  have hheld : (keep wideState wideState.loaderBlock).regState 2 = 2 :=
    (State.fld_eq _ _ (keep_regs wideState wideState.loaderBlock) _).trans wideState_loaderBlock
  exact absurd (hheld.symm.trans hone) (by decide)

end Sys2Proof.Machine
end

section
/-! Mica words and vein words: which words share a key, and what emptying a part of a table leaves (R184, R185, R203, R205). -/

namespace Sys2Proof.Machine

theorem SMap.find_dropIf {α : Type} (m : SMap α) (p : Nat → Bool) (k : Nat) :
    SMap.find (SMap.dropIf m p) k = if p k then none else SMap.find m k := by
  induction m with
  | nil => simp [SMap.dropIf, SMap.find]
  | cons e m ih =>
    obtain ⟨j, v⟩ := e
    unfold SMap.dropIf at ih ⊢
    by_cases hj : j = k
    · subst hj
      cases hp : p j <;> simp [hp, SMap.find, ih]
    · cases hp : p j <;> simp [hp, SMap.find, hj, ih]

theorem SMap.get_dropIf {α : Type} (d : α) (m : SMap α) (p : Nat → Bool) (k : Nat) :
    SMap.get d (SMap.dropIf m p) k = if p k then d else SMap.get d m k := by
  unfold SMap.get
  rw [SMap.find_dropIf]
  cases p k <;> rfl

theorem SMap.get_put_get {α : Type} [DecidableEq α] (d : α) (m : SMap α) (k j : Nat) :
    SMap.get d (SMap.put d m k (SMap.get d m k)) j = SMap.get d m j := by
  by_cases h : j = k
  · rw [h, SMap.get_put_same]
  · rw [SMap.get_put_other d m _ h]

theorem micaKey_inj {d p w d' p' w' : Nat} (hp : p < 3072) (hw : w < 4096) (hp' : p' < 3072) (hw' : w' < 4096)
    (h : micaKey d' p' w' = micaKey d p w) : d' = d ∧ p' = p ∧ w' = w := by
  unfold micaKey at h; omega

theorem micaKey_die {d p w : Nat} (hp : p < 3072) (hw : w < 4096) : micaKey d p w / (3072 * 4096) = d := by
  unfold micaKey; omega

theorem micaKey_group {d p w : Nat} (hw : w < 4096) : micaKey d p w / (16 * 4096) = d * 192 + p / 16 := by
  unfold micaKey; omega

/-- A word's address in the logs fits their ADDR fields (R209). -/
theorem micaAddr_lt {p w : Nat} (hp : p < 3072) (hw : w < 4096) : p * 4096 + w < 2 ^ 24 := by
  omega

theorem veinKey_die {d i : Nat} (hi : i < 2 ^ 21) : veinKey d i / 2 ^ 21 = d := by
  unfold veinKey; omega

/-- Without upsets every word holds what it held. -/
theorem State.micaCell_micaUpset_nil (s : State) (d p w d' p' w' : Nat) :
    (s.micaUpset d p w []).micaCell d' p' w' = s.micaCell d' p' w' :=
  SMap.get_put_get Cell.unwritten s.mica (micaKey d p w) (micaKey d' p' w')

theorem State.veinCell_veinUpset_nil (s : State) (d i d' j : Nat) :
    (s.veinUpset d i []).veinCell d' j = s.veinCell d' j :=
  SMap.get_put_get Cell.unwritten s.vein (veinKey d i) (veinKey d' j)

end Sys2Proof.Machine
end

section
/-! What a read of a code word gives (R200 to R202), and the records it leaves in the correction and error logs (R207 to R212). -/

namespace Sys2Proof.Machine

section
variable {c : Cell}

theorem Cell.read_clean (h : c.syn = .clean) : c.read = { data := c.data, poison := false, cause := 0, corrected := none, ue := false } := by
  unfold Cell.read; rw [h]

theorem Cell.read_single {n : Nat} (h : c.syn = .single n) :
    c.read = { data := if n < 64 then c.data ^^^ BitVec.ofNat 64 (2 ^ n) else c.data, poison := false, cause := 0, corrected := some n,
               ue := false } := by
  unfold Cell.read; rw [h]

theorem Cell.read_poison (h : c.syn = .poison) (h1 : 1 ≤ c.data.toNat) (h3 : c.data.toNat ≤ 3) :
    c.read = { data := 0, poison := true, cause := c.data.toNat, corrected := none, ue := false } := by
  unfold Cell.read; rw [h]; exact if_pos ⟨h1, h3⟩

theorem Cell.read_other {p : Bool} {b : BitVec 72} (h : c.syn = .other p b) :
    c.read = { data := 0, poison := true, cause := 0, corrected := none, ue := true } := by
  unfold Cell.read; rw [h]

end

/-! ## Records in registers -/

/-- Nothing but registers and what leaves the device changes. -/
def RegsOnly (s t : State) : Prop := ∃ r o, t = { s with regs := r, out := o }

theorem RegsOnly.refl (s : State) : RegsOnly s s := ⟨s.regs, s.out, rfl⟩

theorem RegsOnly.trans {s t u : State} (h : RegsOnly s t) (k : RegsOnly t u) : RegsOnly s u := by
  obtain ⟨r, o, rfl⟩ := h
  obtain ⟨r', o', rfl⟩ := k
  exact ⟨r', o', rfl⟩

theorem regsOnly_setReg (s : State) (a : Nat) (v : Word) : RegsOnly s (s.setReg a v) := ⟨_, s.out, rfl⟩

theorem regsOnly_setFld (s : State) (f : RField) (x : Nat) : RegsOnly s (s.setFld f x) := regsOnly_setReg s _ _

theorem regsOnly_raise (s : State) (f : RField) : RegsOnly s (s.raise f) := s.raise_frame f

theorem regsOnly_bump (s : State) (f : RField) : RegsOnly s (s.bump f) := by
  unfold State.bump
  split
  · exact regsOnly_setFld s f _
  · exact .refl s

theorem State.bump_reg_other (s : State) (f : RField) {a : Nat} (h : a ≠ f.addr) : (s.bump f).reg a = s.reg a := by
  unfold State.bump
  split
  · exact State.reg_setFld_other s f _ a h
  · rfl

theorem State.bump_fld_other (s : State) {f g : RField} (h : g.addr ≠ f.addr) : (s.bump f).fld g = s.fld g :=
  congrArg (bits · g.hi g.lo) (s.bump_reg_other f h)

theorem State.raise_fld_other (s : State) {f g : RField} (h : ¬isPba g.addr) (hf : g.addr ≠ f.addr) : (s.raise f).fld g = s.fld g :=
  congrArg (bits · g.hi g.lo) (s.raise_reg_other f g.addr h hf)

/-- No register of a Slate die is a pending-bit word of an MSI-X table. -/
theorem not_isPba_of_slate {a : Nat} (h : 0x1000000 ≤ a) : ¬isPba a := by
  unfold isPba; omega

theorem bits_single_lt (v : Word) (n : Nat) : bits v n n < 2 := by
  have h : natBits v.toNat n n < 2 ^ (n + 1 - n) := Nat.mod_lt _ (Nat.two_pow_pos _)
  rwa [Nat.add_sub_cancel_left] at h

/-- A one-bit field that does not read 0 reads 1. -/
theorem State.fld_eq_one {s : State} {a n : Nat} (h : s.fld ⟨a, n, n⟩ ≠ 0) : s.fld ⟨a, n, n⟩ = 1 := by
  have := bits_single_lt (s.reg a) n
  exact Nat.le_antisymm (Nat.le_of_lt_succ this) (Nat.pos_of_ne_zero h)

/-- The record of an uncorrectable read in MCA_UELOG (R212). -/
def State.ueLogged (s : State) (d : Nat) (vein : Bool) (a : Nat) : State :=
  s.logOnce (Fld.MCA_UELOG_VALID d) fun s => (s.setFld (Fld.MCA_UELOG_VEIN d) (b2n vein)).setFld (Fld.MCA_UELOG_ADDR d) a

theorem State.micaUE_eq (s : State) (d : Nat) (vein : Bool) (a : Nat) :
    s.micaUE d vein a = ((s.bump (Fld.MCA_UECOUNT_COUNT d)).ueLogged d vein a).raise (Fld.MCA_IRQ_STATUS_UE d) := rfl

section
variable (s : State) (d : Nat) (vein : Bool) (a : Nat)

theorem regsOnly_ueLogged : RegsOnly s (s.ueLogged d vein a) := by
  unfold State.ueLogged State.logOnce
  split
  · exact ((regsOnly_setFld s _ _).trans (regsOnly_setFld _ _ _)).trans (regsOnly_setFld _ _ _)
  · exact .refl s

theorem State.ueLogged_reg_other {x : Nat} (h : x ≠ Reg.MCA_UELOG d) : (s.ueLogged d vein a).reg x = s.reg x := by
  unfold State.ueLogged State.logOnce
  split
  · rw [State.reg_setFld_other _ _ _ _ h, State.reg_setFld_other _ _ _ _ h, State.reg_setFld_other _ _ _ _ h]
  · rfl

theorem State.ueLogged_valid : (s.ueLogged d vein a).fld (Fld.MCA_UELOG_VALID d) = 1 := by
  unfold State.ueLogged State.logOnce
  split
  · exact State.fld_setFld_same _ _ _ (show 31 ≤ 31 by decide) (show 31 < 32 by decide)
  · next h => exact State.fld_eq_one h

/-- A free record takes the word's place. -/
theorem State.ueLogged_free (h : s.fld (Fld.MCA_UELOG_VALID d) = 0) :
    (s.ueLogged d vein a).fld (Fld.MCA_UELOG_VEIN d) = b2n vein % 2 ∧ (s.ueLogged d vein a).fld (Fld.MCA_UELOG_ADDR d) = a % 2 ^ 24 := by
  have hl : s.ueLogged d vein a = ((s.setFld (Fld.MCA_UELOG_VEIN d) (b2n vein)).setFld (Fld.MCA_UELOG_ADDR d) a).setFld (Fld.MCA_UELOG_VALID d) 1 :=
    if_pos h
  have hvalid : ∀ (t : State) (g : RField), g.addr = Reg.MCA_UELOG d → g.hi < 31 → (t.setFld (Fld.MCA_UELOG_VALID d) 1).fld g = t.fld g :=
    fun t g hg hh => State.fld_setFld_beside t _ g 1 hg (Nat.le_refl 31) (Nat.lt_succ_self 31) (.inl hh)
  have haddr : (0 : Nat) ≤ 23 ∧ 23 < 32 := by decide
  rw [hl, hvalid _ _ rfl (show 30 < 31 by decide), hvalid _ _ rfl (show 23 < 31 by decide)]
  refine ⟨?_, State.fld_setFld_same _ _ _ haddr.1 haddr.2⟩
  rw [State.fld_setFld_beside _ (Fld.MCA_UELOG_ADDR d) (Fld.MCA_UELOG_VEIN d) _ rfl haddr.1 haddr.2 (.inr (show 23 < 30 by decide))]
  exact State.fld_setFld_same _ _ _ (Nat.le_refl 30) (show 30 < 32 by decide)

theorem regsOnly_micaUE : RegsOnly s (s.micaUE d vein a) :=
  ((regsOnly_bump s _).trans (regsOnly_ueLogged _ d vein a)).trans (regsOnly_raise _ _)

theorem State.micaUE_reg_other {x : Nat} (hp : ¬isPba x) (hc : x ≠ Reg.MCA_UECOUNT d) (hl : x ≠ Reg.MCA_UELOG d)
    (hi : x ≠ Reg.MCA_IRQ_STATUS d) : (s.micaUE d vein a).reg x = s.reg x := by
  rw [State.micaUE_eq, State.raise_reg_other _ _ _ hp hi, State.ueLogged_reg_other _ _ _ _ hl, State.bump_reg_other _ _ hc]

theorem Reg.MCA_IRQ_STATUS_not_isPba : ¬isPba (Reg.MCA_IRQ_STATUS d) :=
  not_isPba_of_slate (by unfold Reg.MCA_IRQ_STATUS; omega)

theorem State.micaUE_irq : (s.micaUE d vein a).fld (Fld.MCA_IRQ_STATUS_UE d) = 1 :=
  State.raise_fld_same _ _ (Reg.MCA_IRQ_STATUS_not_isPba d) (show 1 ≤ 1 by decide) (show 1 < 32 by decide)

/-- The interrupt of an uncorrectable read leaves its record as it is. -/
theorem State.micaUE_log {f : RField} (h : f.addr = Reg.MCA_UELOG d) :
    (s.micaUE d vein a).fld f = ((s.bump (Fld.MCA_UECOUNT_COUNT d)).ueLogged d vein a).fld f := by
  rw [State.micaUE_eq]
  apply State.raise_fld_other
  · rw [h]; exact not_isPba_of_slate (by unfold Reg.MCA_UELOG; omega)
  · rw [h]; show Reg.MCA_UELOG d ≠ Reg.MCA_IRQ_STATUS d; unfold Reg.MCA_UELOG Reg.MCA_IRQ_STATUS; omega

theorem State.micaUE_valid : (s.micaUE d vein a).fld (Fld.MCA_UELOG_VALID d) = 1 :=
  (s.micaUE_log d vein a rfl).trans (State.ueLogged_valid _ d vein a)

theorem State.micaUE_free (h : s.fld (Fld.MCA_UELOG_VALID d) = 0) :
    (s.micaUE d vein a).fld (Fld.MCA_UELOG_VEIN d) = b2n vein % 2 ∧ (s.micaUE d vein a).fld (Fld.MCA_UELOG_ADDR d) = a % 2 ^ 24 := by
  rw [s.micaUE_log d vein a rfl, s.micaUE_log d vein a rfl]
  refine State.ueLogged_free _ d vein a ?_
  rw [State.bump_fld_other, h]
  show Reg.MCA_UELOG d ≠ Reg.MCA_UECOUNT d
  unfold Reg.MCA_UELOG Reg.MCA_UECOUNT; omega

end

end Sys2Proof.Machine
end

section
/-! Correctable events and the correction log (R207, R209). -/

namespace Sys2Proof.Machine

/-- An entry of the correction log for a first event at a word, failing bit `b` (R207). -/
def State.newEntry (s : State) (d e : Nat) (vein : Bool) (a b : Nat) : State :=
  (s.setReg (Reg.MCA_LOG_A d e) (BitVec.ofNat 32 (2 ^ 31 + logAddr vein a))).setReg (Reg.MCA_LOG_B d e) (BitVec.ofNat 32 (2 ^ 24 + b))

section
variable (s : State) (d e : Nat) (vein : Bool) (a b : Nat)

theorem regsOnly_newEntry : RegsOnly s (s.newEntry d e vein a b) := (regsOnly_setReg s _ _).trans (regsOnly_setReg _ _ _)

theorem regsOnly_stickyUp : RegsOnly s (s.stickyUp d e) := (regsOnly_setFld s _ _).trans (regsOnly_raise _ _)

theorem regsOnly_micaCE : RegsOnly s (s.micaCE d vein a b) := by
  refine (regsOnly_bump s (Fld.MCA_CECOUNT_COUNT d)).trans ?_
  unfold State.micaCE
  dsimp only
  split
  · split
    · exact (regsOnly_bump _ _).trans (regsOnly_stickyUp _ d _)
    · exact regsOnly_bump _ _
  · split
    · split
      · exact (regsOnly_newEntry _ d _ vein a b).trans (regsOnly_stickyUp _ d _)
      · exact regsOnly_newEntry _ d _ vein a b
    · exact (regsOnly_bump _ _).trans (regsOnly_raise _ _)

theorem regsOnly_micaNote (r : CellRead) : RegsOnly s (s.micaNote d vein a r) := by
  unfold State.micaNote
  split
  · exact regsOnly_micaCE s d vein a _
  · split
    · exact regsOnly_micaUE s d vein a
    · exact .refl s

/-! ## A new entry -/

theorem Reg.MCA_LOG_A_ne_B : Reg.MCA_LOG_A d e ≠ Reg.MCA_LOG_B d e := by
  unfold Reg.MCA_LOG_A Reg.MCA_LOG_B; omega

theorem State.newEntry_fld_A {hi lo : Nat} : (s.newEntry d e vein a b).fld ⟨Reg.MCA_LOG_A d e, hi, lo⟩ =
    bits (BitVec.ofNat 32 (2 ^ 31 + logAddr vein a)) hi lo :=
  (State.fld_setReg_other _ _ _ _ (Reg.MCA_LOG_A_ne_B d e)).trans (State.fld_setReg_same s ⟨_, hi, lo⟩ _ _ rfl)

theorem State.newEntry_fld_B {hi lo : Nat} : (s.newEntry d e vein a b).fld ⟨Reg.MCA_LOG_B d e, hi, lo⟩ =
    bits (BitVec.ofNat 32 (2 ^ 24 + b)) hi lo :=
  State.fld_setReg_same _ ⟨_, hi, lo⟩ _ _ rfl

/-- What the entry of a word in a user block says. -/
theorem State.newEntry_user (ha : a < 2 ^ 24) (hb : b < 128) :
    let t := s.newEntry d e false a b
    t.fld (Fld.MCA_LOG_A_VALID d e) = 1 ∧ t.fld (Fld.MCA_LOG_A_VEIN d e) = 0 ∧ t.fld (Fld.MCA_LOG_A_STICKY d e) = 0 ∧
      t.fld (Fld.MCA_LOG_A_ADDR d e) = a ∧ t.fld (Fld.MCA_LOG_B_COUNT d e) = 1 ∧ t.fld (Fld.MCA_LOG_B_BIT d e) = b := by
  dsimp only
  have hA : ∀ {hi lo}, (s.newEntry d e false a b).fld ⟨Reg.MCA_LOG_A d e, hi, lo⟩ = natBits (2 ^ 31 + a) hi lo := by
    intro hi lo
    have haddr : logAddr false a = a := by simp [logAddr, b2n]
    rw [State.newEntry_fld_A, haddr, bits, BitVec.toNat_ofNat, Nat.mod_eq_of_lt]
    omega
  have hB : ∀ {hi lo}, (s.newEntry d e false a b).fld ⟨Reg.MCA_LOG_B d e, hi, lo⟩ = natBits (2 ^ 24 + b) hi lo := by
    intro hi lo
    rw [State.newEntry_fld_B, bits, BitVec.toNat_ofNat, Nat.mod_eq_of_lt]
    omega
  unfold Fld.MCA_LOG_A_VALID Fld.MCA_LOG_A_VEIN Fld.MCA_LOG_A_STICKY Fld.MCA_LOG_A_ADDR Fld.MCA_LOG_B_COUNT Fld.MCA_LOG_B_BIT
  simp only [hA, hB, natBits]
  omega

/-! ## The threshold -/

theorem State.stickyUp_fld {g : RField} (h : g.addr = Reg.MCA_LOG_A d e ∧ (g.hi < 29 ∨ 29 < g.lo) ∨ g.addr = Reg.MCA_LOG_B d e) :
    (s.stickyUp d e).fld g = s.fld g := by
  have hne : ∀ x, x = Reg.MCA_LOG_A d e ∨ x = Reg.MCA_LOG_B d e → ¬isPba x ∧ x ≠ Reg.MCA_IRQ_STATUS d := by
    unfold Reg.MCA_LOG_A Reg.MCA_LOG_B Reg.MCA_IRQ_STATUS
    exact fun x hx => ⟨not_isPba_of_slate (by omega), by omega⟩
  obtain ⟨hp, hi⟩ := hne g.addr (h.imp And.left id)
  rw [State.stickyUp, State.raise_fld_other _ hp hi]
  rcases h with ⟨ha, hb⟩ | hb
  · exact State.fld_setFld_beside s _ g 1 ha (Nat.le_refl 29) (show 29 < 32 by decide) hb
  · exact State.fld_setFld_other s _ g 1 (hb ▸ (Reg.MCA_LOG_A_ne_B d e).symm)

theorem State.stickyUp_sticky : (s.stickyUp d e).fld (Fld.MCA_LOG_A_STICKY d e) = 1 := by
  have hA : ¬isPba (Reg.MCA_LOG_A d e) ∧ Reg.MCA_LOG_A d e ≠ Reg.MCA_IRQ_STATUS d := by
    unfold Reg.MCA_LOG_A Reg.MCA_IRQ_STATUS
    exact ⟨not_isPba_of_slate (by omega), by omega⟩
  rw [State.stickyUp, State.raise_fld_other _ hA.1 hA.2]
  exact State.fld_setFld_same s _ 1 (Nat.le_refl 29) (show 29 < 32 by decide)

/-- The first event of an empty log takes entry 0, which is sticky at once where the threshold is 1. -/
theorem State.micaCE_empty (h : ∀ e, e < 16 → s.fld (Fld.MCA_LOG_A_VALID d e) = 0) :
    let t := (s.bump (Fld.MCA_CECOUNT_COUNT d)).newEntry d 0 vein a b
    s.micaCE d vein a b = if s.fld (Fld.MCA_CETHRESH_THRESH d) = 1 then t.stickyUp d 0 else t := by
  dsimp only
  have hv : ∀ e, e < 16 → (s.bump (Fld.MCA_CECOUNT_COUNT d)).bit (Fld.MCA_LOG_A_VALID d e) = false := by
    intro e he
    rw [State.bit, State.bump_fld_other, h e he]
    · rfl
    · show Reg.MCA_LOG_A d e ≠ Reg.MCA_CECOUNT d
      unfold Reg.MCA_LOG_A Reg.MCA_CECOUNT; omega
  have hth : (s.bump (Fld.MCA_CECOUNT_COUNT d)).fld (Fld.MCA_CETHRESH_THRESH d) = s.fld (Fld.MCA_CETHRESH_THRESH d) := by
    apply State.bump_fld_other
    show Reg.MCA_CETHRESH d ≠ Reg.MCA_CECOUNT d
    unfold Reg.MCA_CETHRESH Reg.MCA_CECOUNT; omega
  have hnone : (List.range 16).find? (fun e => (s.bump (Fld.MCA_CECOUNT_COUNT d)).logHolds d e vein a) = none := by
    rw [List.find?_eq_none]
    intro e he
    simp [State.logHolds, hv e (List.mem_range.mp he)]
  have hfree : (List.range 16).find? (fun e => !(s.bump (Fld.MCA_CECOUNT_COUNT d)).bit (Fld.MCA_LOG_A_VALID d e)) = some 0 := by
    rw [List.range_succ_eq_map, List.find?_cons_of_pos]
    rw [hv 0 (by decide)]
    rfl
  unfold State.micaCE
  dsimp only
  rw [hnone]
  dsimp only
  rw [hfree]
  dsimp only
  rw [hth]
  rfl

/-- What the log holds after the first event at a word of a user block. -/
theorem State.micaCE_empty_user (h : ∀ e, e < 16 → s.fld (Fld.MCA_LOG_A_VALID d e) = 0) (ha : a < 2 ^ 24) (hb : b < 128) :
    let t := s.micaCE d false a b
    t.fld (Fld.MCA_LOG_A_VALID d 0) = 1 ∧ t.fld (Fld.MCA_LOG_A_VEIN d 0) = 0 ∧ t.fld (Fld.MCA_LOG_A_ADDR d 0) = a ∧
      t.fld (Fld.MCA_LOG_B_COUNT d 0) = 1 ∧ t.fld (Fld.MCA_LOG_B_BIT d 0) = b ∧
      (t.fld (Fld.MCA_LOG_A_STICKY d 0) = 1 ↔ s.fld (Fld.MCA_CETHRESH_THRESH d) = 1) := by
  obtain ⟨hval, hvein, hsticky, haddr, hcount, hbit⟩ := (s.bump (Fld.MCA_CECOUNT_COUNT d)).newEntry_user d 0 a b ha hb
  dsimp only
  rw [s.micaCE_empty d false a b h]
  by_cases hth : s.fld (Fld.MCA_CETHRESH_THRESH d) = 1
  · rw [if_pos hth]
    have hA : ∀ {hi lo}, hi < 29 ∨ 29 < lo → ∀ t : State,
        (t.stickyUp d 0).fld ⟨Reg.MCA_LOG_A d 0, hi, lo⟩ = t.fld ⟨Reg.MCA_LOG_A d 0, hi, lo⟩ :=
      fun hd t => t.stickyUp_fld d 0 (.inl ⟨rfl, hd⟩)
    have hB : ∀ {hi lo}, ∀ t : State, (t.stickyUp d 0).fld ⟨Reg.MCA_LOG_B d 0, hi, lo⟩ = t.fld ⟨Reg.MCA_LOG_B d 0, hi, lo⟩ :=
      fun t => t.stickyUp_fld d 0 (.inr rfl)
    exact ⟨(hA (.inr (by decide)) _).trans hval, (hA (.inr (by decide)) _).trans hvein, (hA (.inl (by decide)) _).trans haddr,
      (hB _).trans hcount, (hB _).trans hbit, iff_of_true (State.stickyUp_sticky _ d 0) hth⟩
  · rw [if_neg hth]
    exact ⟨hval, hvein, haddr, hcount, hbit, iff_of_false (by rw [hsticky]; decide) hth⟩

end

end Sys2Proof.Machine
end

section
/-! An edge of a Mica port's clock: what it moves, what it leaves alone, and READY after it (R192, R197, R198, R217). -/

namespace Sys2Proof.Machine

/-- Nothing but the responses of Mica ports, their outputs and their array cycles changes. -/
def PortsOnly (s t : State) : Prop := ∃ o sh x q, t = { s with micaOut := o, micaShown := sh, out := x, mports := q }

theorem PortsOnly.refl (s : State) : PortsOnly s s := ⟨_, _, _, _, rfl⟩

theorem PortsOnly.trans {s t u : State} (h : PortsOnly s t) (k : PortsOnly t u) : PortsOnly s u := by
  obtain ⟨o, sh, x, q, rfl⟩ := h
  obtain ⟨o', sh', x', q', rfl⟩ := k
  exact ⟨_, _, _, _, rfl⟩

section
variable {s t : State} (h : PortsOnly s t)
include h

theorem PortsOnly.mica : t.mica = s.mica := by
  obtain ⟨o, sh, x, q, rfl⟩ := h; rfl

theorem PortsOnly.fld (f : RField) : t.fld f = s.fld f := by
  obtain ⟨o, sh, x, q, rfl⟩ := h; rfl

theorem PortsOnly.exported (d g : Nat) : t.exported d g = s.exported d g := by
  obtain ⟨o, sh, x, q, rfl⟩ := h; rfl

theorem PortsOnly.sectorRuns (d g : Nat) : t.sectorRuns d (t.groupSector d g) = s.sectorRuns d (s.groupSector d g) := by
  obtain ⟨o, sh, x, q, rfl⟩ := h; rfl

theorem PortsOnly.keep : keep s t = t := by
  obtain ⟨o, sh, x, q, rfl⟩ := h; rfl

end

/-! ## Edges -/

section
variable (s : State) (d p : Nat)

theorem portsOnly_micaUnshow : PortsOnly s (s.micaUnshow d p) := ⟨_, _, _, _, rfl⟩

/-- Response `r`, which is `i`-th of those that wait, leaves its port: onto the outputs, or nowhere where the sector has stopped (R192, R198). -/
def State.micaTake (i : Nat) (r : MicaResp) : State :=
  if s.sectorRuns d (s.groupSector d (portGroup p)) then
    { s with micaOut := listDropAt s.micaOut i, micaShown := SMap.set s.micaShown (3072 * d + p) { r with wait := 0 }
             out := s.out ++ [.mica { r with wait := 0 }] }
  else { s with micaOut := listDropAt s.micaOut i }

theorem portsOnly_micaTake (i : Nat) (r : MicaResp) : PortsOnly s (s.micaTake d p i r) := by
  unfold State.micaTake
  split
  · exact ⟨_, _, _, _, rfl⟩
  · exact ⟨_, _, _, _, rfl⟩

theorem State.micaTake_mports (i : Nat) (r : MicaResp) : (s.micaTake d p i r).mports = s.mports := by
  unfold State.micaTake
  split
  · rfl
  · rfl

theorem State.micaRespond_none {s : State} {d p : Nat} (h : s.micaOut.findIdx? (fun r => r.die = d && r.port = p) = none) :
    s.micaRespond d p = s := by
  unfold State.micaRespond; rw [h]

theorem State.micaRespond_at {s : State} {d p i : Nat} {r : MicaResp} (h : s.micaOut.findIdx? (fun r => r.die = d && r.port = p) = some i)
    (hr : s.micaOut[i]? = some r) : s.micaRespond d p = s.micaTake d p i r := by
  unfold State.micaRespond
  rw [h]
  dsimp only
  rw [hr]
  rfl

/-- No response of the port waits, or one leaves it. -/
theorem State.micaRespond_cases : s.micaOut.findIdx? (fun r => r.die = d && r.port = p) = none ∨
    ∃ i r, s.micaOut.findIdx? (fun r => r.die = d && r.port = p) = some i ∧ s.micaOut[i]? = some r := by
  cases h : s.micaOut.findIdx? (fun r => r.die = d && r.port = p) with
  | none => exact .inl rfl
  | some i =>
    obtain ⟨hi, -⟩ := List.findIdx?_eq_some_iff_findIdx_eq.mp h
    exact .inr ⟨i, _, rfl, List.getElem?_eq_getElem hi⟩

theorem portsOnly_micaRespond : PortsOnly s (s.micaRespond d p) := by
  rcases s.micaRespond_cases d p with h | ⟨i, r, h, hr⟩
  · rw [State.micaRespond_none h]
    exact .refl s
  · rw [State.micaRespond_at h hr]
    exact portsOnly_micaTake s d p i r

theorem State.micaRespond_mports : (s.micaRespond d p).mports = s.mports := by
  rcases s.micaRespond_cases d p with h | ⟨i, r, h, hr⟩
  · rw [State.micaRespond_none h]
  · rw [State.micaRespond_at h hr]
    exact s.micaTake_mports d p i r

/-- The response that appears at an edge of the port's clock, if one is due. -/
def State.micaDue : State :=
  let u := s.micaUnshow d p
  if (s.micaOut.find? fun r => r.die = d && r.port = p).any fun r => r.wait ≤ 1 then u.micaRespond d p else u

theorem portsOnly_micaDue : PortsOnly s (s.micaDue d p) := by
  unfold State.micaDue
  dsimp only
  split
  · exact (portsOnly_micaUnshow s d p).trans (portsOnly_micaRespond _ d p)
  · exact portsOnly_micaUnshow s d p

theorem State.micaDue_mports : (s.micaDue d p).mports = s.mports := by
  unfold State.micaDue
  dsimp only
  split
  · exact State.micaRespond_mports _ d p
  · rfl

end

/-- A response `n` edges of its port's clock later. -/
def MicaResp.later (d p n : Nat) (r : MicaResp) : MicaResp := if r.die = d ∧ r.port = p then { r with wait := r.wait - n } else r

theorem MicaResp.later_later (d p n k : Nat) (r : MicaResp) : (r.later d p n).later d p k = r.later d p (n + k) := by
  unfold MicaResp.later
  by_cases h : r.die = d ∧ r.port = p
  · simp only [if_pos h, Nat.sub_sub]
  · simp only [if_neg h]

section
variable (s : State) (d p : Nat)

theorem State.micaEdge_eq : s.micaEdge d p =
    { s.micaDue d p with
      micaOut := (s.micaDue d p).micaOut.map (MicaResp.later d p 1)
      mports := SMap.put MicaPort.idle s.mports (3072 * d + p) ((s.micaPort d p).next (s.fld (Fld.MCA_STATUS_THROTTLE d))) } := by
  have hm := s.micaDue_mports d p
  have hport : (s.micaDue d p).micaPort d p = s.micaPort d p := by unfold State.micaPort; rw [hm]
  have hthr := (portsOnly_micaDue s d p).fld (Fld.MCA_STATUS_THROTTLE d)
  have h : s.micaEdge d p =
      { s.micaDue d p with
        micaOut := (s.micaDue d p).micaOut.map (MicaResp.later d p 1)
        mports := SMap.put MicaPort.idle (s.micaDue d p).mports (3072 * d + p)
          (((s.micaDue d p).micaPort d p).next ((s.micaDue d p).fld (Fld.MCA_STATUS_THROTTLE d))) } := rfl
  rw [h, hport, hthr, hm]

theorem portsOnly_micaEdge : PortsOnly s (s.micaEdge d p) := by
  rw [State.micaEdge_eq]
  exact (portsOnly_micaDue s d p).trans ⟨_, _, _, _, rfl⟩

/-- The array cycle of the port goes on (R217). -/
theorem State.micaPort_micaEdge : (s.micaEdge d p).micaPort d p = (s.micaPort d p).next (s.fld (Fld.MCA_STATUS_THROTTLE d)) := by
  rw [State.micaEdge_eq]
  exact SMap.get_put_same MicaPort.idle s.mports _ _

/-- The state with other words in the Mica blocks. -/
def State.withMica (m : SMap Cell) : State := { s with mica := m }

theorem State.micaTake_withMica (m : SMap Cell) (i : Nat) (r : MicaResp) :
    (s.withMica m).micaTake d p i r = (s.micaTake d p i r).withMica m := by
  have hs : (s.withMica m).sectorRuns d ((s.withMica m).groupSector d (portGroup p)) = s.sectorRuns d (s.groupSector d (portGroup p)) := rfl
  unfold State.micaTake
  rw [hs]
  split
  · rfl
  · rfl

theorem State.micaRespond_withMica (m : SMap Cell) : (s.withMica m).micaRespond d p = (s.micaRespond d p).withMica m := by
  rcases s.micaRespond_cases d p with h | ⟨i, r, h, hr⟩
  · rw [State.micaRespond_none h]
    exact State.micaRespond_none h
  · rw [State.micaRespond_at h hr, ← State.micaTake_withMica]
    exact State.micaRespond_at h hr

theorem State.micaDue_withMica (m : SMap Cell) : (s.withMica m).micaDue d p = (s.micaDue d p).withMica m := by
  have hf : (s.withMica m).micaOut = s.micaOut := rfl
  have hu : (s.withMica m).micaUnshow d p = (s.micaUnshow d p).withMica m := rfl
  unfold State.micaDue
  rw [hf, hu]
  dsimp only
  split
  · exact State.micaRespond_withMica _ d p m
  · rfl

/-- No edge looks at what the words hold. -/
theorem State.micaEdge_withMica (m : SMap Cell) : (s.withMica m).micaEdge d p = (s.micaEdge d p).withMica m := by
  rw [State.micaEdge_eq, State.micaEdge_eq, State.micaDue_withMica]
  rfl

/-! ## READY -/

/-- The port is enabled, its layer initialised and its group not being erased, and its sector runs (R197). -/
def State.micaOpen : Bool :=
  natBit (s.mpRec d p) 0 && s.bit (Fld.MCA_STATUS_INIT_DONE d) && SMap.find s.erasing d ≠ some (portGroup p) &&
    s.sectorRuns d (s.groupSector d (portGroup p))

theorem State.micaReady_iff : s.micaReady d p = true ↔
    s.micaOpen d p = true ∧ (s.micaPort d p).started = true ∧ (s.micaPort d p).count = 0 ∧ (s.micaPort d p).level ≠ 3 := by
  unfold State.micaReady State.micaOpen
  simp only [Bool.and_eq_true, decide_eq_true_eq, and_assoc]

theorem PortsOnly.micaOpen {s t : State} (h : PortsOnly s t) (d p : Nat) : t.micaOpen d p = s.micaOpen d p := by
  obtain ⟨o, sh, x, q, rfl⟩ := h; rfl

theorem MicaPort.next_divided {q : MicaPort} (h : 1 < micaDiv q.level) (hc : q.count = 0) (level : Nat) : (q.next level).count = 1 := by
  unfold MicaPort.next
  rw [if_neg (by omega), hc]

theorem MicaPort.next_undivided {q : MicaPort} (h : micaDiv q.level = 1) (level : Nat) :
    q.next level = { level := level, count := 0, started := true } := by
  unfold MicaPort.next
  rw [if_pos (by omega)]

/-- Where the throttle divides, the port cycle after an accepted request is not the first of an array cycle. -/
theorem State.micaReady_micaEdge_divided (h : s.micaReady d p = true) (hdiv : 1 < micaDiv (s.micaPort d p).level) :
    (s.micaEdge d p).micaReady d p = false := by
  obtain ⟨-, -, hcount, -⟩ := (s.micaReady_iff d p).mp h
  rw [Bool.eq_false_iff, Ne, State.micaReady_iff, s.micaPort_micaEdge d p, MicaPort.next_divided hdiv hcount]
  simp

theorem State.micaReady_micaEdge_undivided (h : s.micaReady d p = true) (hdiv : micaDiv (s.micaPort d p).level = 1)
    (hthr : s.fld (Fld.MCA_STATUS_THROTTLE d) ≠ 3) : (s.micaEdge d p).micaReady d p = true := by
  obtain ⟨hopen, -, -, -⟩ := (s.micaReady_iff d p).mp h
  rw [State.micaReady_iff, s.micaPort_micaEdge d p, MicaPort.next_undivided hdiv, (portsOnly_micaEdge s d p).micaOpen]
  exact ⟨hopen, rfl, rfl, hthr⟩

end

end Sys2Proof.Machine
end

section
/-! What a Mica port that is ready answers to a read and to a write (R186, R191 to R196, R200, R206, R212). -/

namespace Sys2Proof.Machine

/-- The response to a read that gave `r`, `wait` edges of the port's clock before it appears (R193). -/
def CellRead.response (r : CellRead) (d p wait : Nat) : MicaResp :=
  { die := d, port := p, status := 0, data := r.data, poison := r.poison, cause := r.cause, corr := r.corrected.isSome, wait := wait }

/-- The state with another response at the end of a port's queue. -/
def State.answered (s : State) (r : MicaResp) : State := { s with micaOut := s.micaOut ++ [r] }

section
variable {s t : State} (h : RegsOnly s t)
include h

theorem RegsOnly.micaCell (d p w : Nat) : t.micaCell d p w = s.micaCell d p w := by
  obtain ⟨r, o, rfl⟩ := h; rfl

theorem RegsOnly.veinCell (d i : Nat) : t.veinCell d i = s.veinCell d i := by
  obtain ⟨r, o, rfl⟩ := h; rfl

theorem RegsOnly.micaAnswer (r : MicaResp) :
    t.micaAnswer r = { t with micaOut := s.micaOut ++ [{ r with wait := s.micaLatency r.die r.port }] } := by
  obtain ⟨r, o, rfl⟩ := h; rfl

end

section
variable {s : State} {d p w : Nat}

theorem State.micaPortWrite_exported (h : s.exported d (p / 16) = true) (x : W64) (be : Byte) (poison : Bool) :
    s.micaPortWrite d p w x be poison = s.answered { MicaResp.plain d p 2 with wait := s.micaLatency d p } := if_pos h

theorem State.micaPortRead_exported (h : s.exported d (p / 16) = true) :
    s.micaPortRead d p w = s.answered { MicaResp.plain d p 2 with wait := s.micaLatency d p } := if_pos h

variable (h : s.exported d (p / 16) = false)
include h

theorem State.micaPortWrite_partial {be : Byte} (hbe : be ≠ 0xFF) (x : W64) (poison : Bool) :
    s.micaPortWrite d p w x be poison = s.answered { MicaResp.plain d p 1 with wait := s.micaLatency d p } := by
  unfold State.micaPortWrite
  rw [if_neg (show ¬s.exported d (portGroup p) = true from Bool.eq_false_iff.mp h), if_pos hbe]
  rfl

theorem State.micaPortWrite_whole (x : W64) (poison : Bool) :
    s.micaPortWrite d p w x 0xFF poison =
      (s.setMica d p w (Cell.store x poison)).answered { MicaResp.plain d p 0 with wait := s.micaLatency d p } := by
  unfold State.micaPortWrite
  rw [if_neg (show ¬s.exported d (portGroup p) = true from Bool.eq_false_iff.mp h), if_neg (fun hne => hne rfl)]
  rfl

/-- A read answers what the code word gives, and its events are recorded. -/
theorem State.micaPortRead_open {r : CellRead} (hr : (s.micaCell d p w).read = r) : s.micaPortRead d p w =
    { s.micaNote d false (p * 4096 + w) r with micaOut := s.micaOut ++ [r.response d p (s.micaLatency d p)] } := by
  unfold State.micaPortRead State.micaRead
  rw [if_neg (show ¬s.exported d (portGroup p) = true from Bool.eq_false_iff.mp h), hr]
  exact (regsOnly_micaNote s d false (p * 4096 + w) r).micaAnswer _

theorem State.micaPortRead_clean (hc : (s.micaCell d p w).syn = .clean) : s.micaPortRead d p w =
    s.answered { die := d, port := p, status := 0, data := (s.micaCell d p w).data, poison := false, cause := 0, corr := false,
                 wait := s.micaLatency d p } :=
  s.micaPortRead_open h (Cell.read_clean hc)

theorem State.micaPortRead_poison (hc : (s.micaCell d p w).syn = .poison) (h1 : 1 ≤ (s.micaCell d p w).data.toNat)
    (h3 : (s.micaCell d p w).data.toNat ≤ 3) : s.micaPortRead d p w =
    s.answered { die := d, port := p, status := 0, data := 0, poison := true, cause := (s.micaCell d p w).data.toNat, corr := false,
                 wait := s.micaLatency d p } :=
  s.micaPortRead_open h (Cell.read_poison hc h1 h3)

theorem State.micaPortRead_uncorrectable {q : Bool} {b : BitVec 72} (hc : (s.micaCell d p w).syn = .other q b) : s.micaPortRead d p w =
    { s.micaUE d false (p * 4096 + w) with
      micaOut := s.micaOut ++ [{ die := d, port := p, status := 0, data := 0, poison := true, cause := 0, corr := false,
                                 wait := s.micaLatency d p }] } :=
  s.micaPortRead_open h (Cell.read_other hc)

theorem State.micaPortRead_corrected {n : Nat} (hc : (s.micaCell d p w).syn = .single n) : s.micaPortRead d p w =
    { s.micaCE d false (p * 4096 + w) n with
      micaOut := s.micaOut ++ [{ die := d, port := p, status := 0,
                                 data := if n < 64 then (s.micaCell d p w).data ^^^ BitVec.ofNat 64 (2 ^ n) else (s.micaCell d p w).data,
                                 poison := false, cause := 0, corr := true, wait := s.micaLatency d p }] } :=
  s.micaPortRead_open h (Cell.read_single hc)

end

/-! ## Requests -/

section
variable {s : State} {d p : Nat} (take : State → State)

theorem State.micaRequest_stopped (h : s.micaClock d p = false) : s.micaRequest d p take = s := by
  unfold State.micaRequest
  rw [if_pos (by rw [h]; decide)]

theorem State.micaRequest_busy (h : s.micaClock d p = true) (hr : s.micaReady d p = false) : s.micaRequest d p take = s.micaEdge d p := by
  unfold State.micaRequest
  rw [if_neg (fun hn => hn h), if_neg (Bool.eq_false_iff.mp hr)]

theorem State.micaRequest_taken (h : s.micaClock d p = true) (hr : s.micaReady d p = true) : s.micaRequest d p take = take (s.micaEdge d p) := by
  unfold State.micaRequest
  rw [if_neg (fun hn => hn h), if_pos hr]

end

theorem State.micaPortWrite_frame (s : State) (d p w : Nat) (x : W64) (be : Byte) (poison : Bool) :
    ∃ m o, s.micaPortWrite d p w x be poison = { s with mica := m, micaOut := o } := by
  unfold State.micaPortWrite
  split
  · exact ⟨_, _, rfl⟩
  · split
    · exact ⟨_, _, rfl⟩
    · exact ⟨_, _, rfl⟩

theorem State.micaPortRead_frame (s : State) (d p w : Nat) :
    ∃ r x o, s.micaPortRead d p w = { s with regs := r, out := x, micaOut := o } := by
  cases h : s.exported d (p / 16) with
  | true => exact ⟨_, _, _, State.micaPortRead_exported h⟩
  | false =>
    obtain ⟨r, x, hn⟩ := regsOnly_micaNote s d false (p * 4096 + w) (s.micaCell d p w).read
    exact ⟨r, x, _, by rw [s.micaPortRead_open h rfl, hn]⟩

section
variable {s u : State} (h : keep s u = u) {d p w : Nat}
include h

theorem State.keep_micaPortWrite {x : W64} {be : Byte} {poison : Bool} :
    keep s (u.micaPortWrite d p w x be poison) = u.micaPortWrite d p w x be poison := by
  obtain ⟨m, o, hf⟩ := u.micaPortWrite_frame d p w x be poison
  rw [hf]
  exact congrArg (fun t : State => { t with mica := m, micaOut := o }) h

theorem State.keep_micaPortRead : keep s (u.micaPortRead d p w) = u.micaPortRead d p w := by
  obtain ⟨r, x, o, hf⟩ := u.micaPortRead_frame d p w
  rw [hf]
  exact congrArg (fun t : State => { t with regs := r, out := x, micaOut := o }) h

end

/-- The state in which a port accepts a read of a word that has suffered no upset. -/
def State.micaReading (s : State) (d p w : Nat) : State := (s.micaUpset d p w []).micaEdge d p

theorem State.micaReading_eq (s : State) (d p w : Nat) :
    s.micaReading d p w = (s.micaEdge d p).withMica (s.micaUpset d p w []).mica :=
  s.micaEdge_withMica d p (s.micaUpset d p w []).mica

theorem State.keep_micaReading (s : State) (d p w : Nat) : keep s (s.micaReading d p w) = s.micaReading d p w := by
  rw [State.micaReading_eq]
  exact congrArg (fun t : State => t.withMica _) (portsOnly_micaEdge s d p).keep

theorem State.micaCell_micaReading (s : State) (d p w d' p' w' : Nat) : (s.micaReading d p w).micaCell d' p' w' = s.micaCell d' p' w' := by
  rw [State.micaReading_eq]
  exact s.micaCell_micaUpset_nil d p w d' p' w'

theorem State.exported_micaReading (s : State) (d p w g : Nat) : (s.micaReading d p w).exported d g = s.exported d g := by
  rw [State.micaReading_eq]
  exact (portsOnly_micaEdge s d p).exported d g

theorem State.fld_micaReading (s : State) (d p w : Nat) (f : RField) : (s.micaReading d p w).fld f = s.fld f := by
  rw [State.micaReading_eq]
  exact (portsOnly_micaEdge s d p).fld f

section
variable {s : State} {d : Fin 4} {p : Fin 3072} {w : BitVec 12} (hup : s.up = true)
include hup

theorem exec_micaWrite (x : W64) (be : Byte) (poison : Bool) : exec (.micaWrite d p w x be poison) s =
    .next (keep s (s.micaRequest d.val p.val fun t => t.micaPortWrite d.val p.val w.toNat x be poison)) :=
  onDevice_up hup fun s => s.micaRequest d.val p.val fun t => t.micaPortWrite d.val p.val w.toNat x be poison

theorem exec_micaRead : exec (.micaRead d p w []) s =
    .next (keep s ((s.micaUpset d.val p.val w.toNat []).micaRequest d.val p.val fun t => t.micaPortRead d.val p.val w.toNat)) :=
  onDevice_up hup fun s => (s.micaUpset d.val p.val w.toNat []).micaRequest d.val p.val fun t => t.micaPortRead d.val p.val w.toNat

theorem exec_micaWrite_stopped (hclk : s.micaClock d.val p.val = false) (x : W64) (be : Byte) (poison : Bool) :
    exec (.micaWrite d p w x be poison) s = .next s := by
  rw [exec_micaWrite hup, State.micaRequest_stopped _ hclk, keep_self]

theorem exec_micaRead_stopped (hclk : s.micaClock d.val p.val = false) :
    exec (.micaRead d p w []) s = .next (s.micaUpset d.val p.val w.toNat []) := by
  rw [exec_micaRead hup, State.micaRequest_stopped _ (show (s.micaUpset d.val p.val w.toNat []).micaClock d.val p.val = false from hclk)]
  rfl

variable (hclk : s.micaClock d.val p.val = true)
include hclk

theorem exec_micaWrite_busy (hr : s.micaReady d.val p.val = false) (x : W64) (be : Byte) (poison : Bool) :
    exec (.micaWrite d p w x be poison) s = .next (s.micaEdge d.val p.val) := by
  rw [exec_micaWrite hup, State.micaRequest_busy _ hclk hr, (portsOnly_micaEdge s d.val p.val).keep]

theorem exec_micaRead_busy (hr : s.micaReady d.val p.val = false) :
    exec (.micaRead d p w []) s = .next (s.micaReading d.val p.val w.toNat) := by
  have h := State.micaRequest_busy (s := s.micaUpset d.val p.val w.toNat []) (fun t => t.micaPortRead d.val p.val w.toNat) hclk hr
  rw [exec_micaRead hup, h]
  exact congrArg Host.Outcome.next (s.keep_micaReading d.val p.val w.toNat)

variable (hr : s.micaReady d.val p.val = true)
include hr

theorem exec_micaWrite_ready (x : W64) (be : Byte) (poison : Bool) : exec (.micaWrite d p w x be poison) s =
    .next ((s.micaEdge d.val p.val).micaPortWrite d.val p.val w.toNat x be poison) := by
  rw [exec_micaWrite hup, State.micaRequest_taken _ hclk hr, State.keep_micaPortWrite (portsOnly_micaEdge s d.val p.val).keep]

theorem exec_micaRead_ready : exec (.micaRead d p w []) s =
    .next ((s.micaReading d.val p.val w.toNat).micaPortRead d.val p.val w.toNat) := by
  have h := State.micaRequest_taken (s := s.micaUpset d.val p.val w.toNat []) (fun t => t.micaPortRead d.val p.val w.toNat) hclk hr
  rw [exec_micaRead hup, h]
  exact congrArg Host.Outcome.next (State.keep_micaPortRead (s.keep_micaReading d.val p.val w.toNat))

end

end Sys2Proof.Machine
end

section
/-! How the oldest response of a Mica port comes onto its outputs, or is discarded (R190, R192, R198). -/

namespace Sys2Proof.Machine

/-- After `n` edges of its port's clock response `m`, which stood before `rest`, has left the queue: it is on the outputs of a port whose
sector runs, and gone where the sector has stopped. -/
structure MicaResponded (s t : State) (d p : Nat) (m : MicaResp) (rest : List MicaResp) (n : Nat) : Prop where
  frame : PortsOnly s t
  queue : t.micaOut = rest.map (MicaResp.later d p n)
  shown : s.sectorRuns d (s.groupSector d (p / 16)) = true →
    SMap.find t.micaShown (3072 * d + p) = some { m with wait := 0 } ∧ t.out = s.out ++ [.mica { m with wait := 0 }]
  discarded : s.sectorRuns d (s.groupSector d (p / 16)) = false → SMap.find t.micaShown (3072 * d + p) = none ∧ t.out = s.out

section
variable {s : State} {d p : Nat} {m : MicaResp} {rest : List MicaResp}

section
variable (hq : s.micaOut = m :: rest) (hd : m.die = d) (hp : m.port = p)
include hq hd hp

theorem State.micaOut_first : (s.micaOut.find? fun r => r.die = d && r.port = p) = some m := by
  rw [hq, List.find?_cons_of_pos]
  simp [hd, hp]

theorem State.micaOut_firstIdx : s.micaOut.findIdx? (fun r => r.die = d && r.port = p) = some 0 := by
  rw [hq, List.findIdx?_cons, if_pos]
  simp [hd, hp]

/-- A response that has still to wait stays in the queue. -/
theorem State.micaDue_early (hw : 1 < m.wait) : s.micaDue d p = s.micaUnshow d p := by
  unfold State.micaDue
  rw [State.micaOut_first hq hd hp]
  exact if_neg (by simp; omega)

/-- The oldest response leaves the queue once its time has come. -/
theorem State.micaDue_late (hw : m.wait ≤ 1) : s.micaDue d p = (s.micaUnshow d p).micaTake d p 0 m := by
  have hr : (s.micaUnshow d p).micaRespond d p = (s.micaUnshow d p).micaTake d p 0 m :=
    State.micaRespond_at (s := s.micaUnshow d p) (State.micaOut_firstIdx hq hd hp) (congrArg (·[0]?) hq)
  rw [← hr]
  unfold State.micaDue
  rw [State.micaOut_first hq hd hp]
  exact if_pos (by simpa using hw)

theorem State.micaEdge_early (hw : 1 < m.wait) : (s.micaEdge d p).micaOut = { m with wait := m.wait - 1 } :: rest.map (MicaResp.later d p 1) ∧
    (s.micaEdge d p).out = s.out := by
  have hm : m.later d p 1 = { m with wait := m.wait - 1 } := if_pos ⟨hd, hp⟩
  have hu : (s.micaUnshow d p).micaOut = m :: rest := hq
  rw [State.micaEdge_eq, State.micaDue_early hq hd hp hw]
  dsimp only
  rw [hu, List.map_cons, hm]
  exact ⟨rfl, rfl⟩

theorem micaResponded_micaEdge (hw : m.wait ≤ 1) : MicaResponded s (s.micaEdge d p) d p m rest 1 := by
  have hu : listDropAt (s.micaUnshow d p).micaOut 0 = rest := by
    rw [show (s.micaUnshow d p).micaOut = m :: rest from hq]
    rfl
  have hs : (s.micaUnshow d p).sectorRuns d ((s.micaUnshow d p).groupSector d (portGroup p)) = s.sectorRuns d (s.groupSector d (p / 16)) := rfl
  have ht := State.micaDue_late hq hd hp hw
  unfold State.micaTake at ht
  rw [hs, hu] at ht
  refine ⟨portsOnly_micaEdge s d p, ?_, fun hrun => ?_, fun hrun => ?_⟩
  · rw [State.micaEdge_eq, ht]
    split
    · rfl
    · rfl
  · rw [if_pos hrun] at ht
    rw [State.micaEdge_eq, ht]
    exact ⟨SMap.find_set_same _ _ _, rfl⟩
  · rw [if_neg (Bool.eq_false_iff.mp hrun)] at ht
    rw [State.micaEdge_eq, ht]
    exact ⟨SMap.find_drop_same _ _, rfl⟩

end

theorem micaResponded_micaEdges (n : Nat) (hq : s.micaOut = m :: rest) (hd : m.die = d) (hp : m.port = p) (hn : max 1 m.wait = n + 1) :
    MicaResponded s (s.micaEdges d p (n + 1)) d p m rest (n + 1) := by
  induction n generalizing s m rest with
  | zero => exact micaResponded_micaEdge hq hd hp (by omega)
  | succ n ih =>
    obtain ⟨hq', hout⟩ := State.micaEdge_early hq hd hp (by omega)
    have he := portsOnly_micaEdge s d p
    obtain ⟨hframe, hqueue, hshown, hdisc⟩ := ih hq' hd hp (show max 1 (m.wait - 1) = n + 1 by omega)
    rw [he.sectorRuns, hout] at hshown hdisc
    refine ⟨he.trans hframe, ?_, hshown, hdisc⟩
    have hl : MicaResp.later d p (n + 1) ∘ MicaResp.later d p 1 = MicaResp.later d p (n + 1 + 1) := by
      funext r
      rw [Function.comp_apply, MicaResp.later_later, Nat.add_comm 1]
    rw [List.map_map, hl] at hqueue
    exact hqueue

end

section
variable {s : State} {d : Fin 4} {p : Fin 3072} (hup : s.up = true)
include hup

theorem exec_micaResponse : exec (.micaResponse d p) s = .next (keep s (s.micaLeave d.val p.val)) :=
  onDevice_up hup fun s => s.micaLeave d.val p.val

theorem exec_micaResponse_stopped (hclk : s.micaClock d.val p.val = false) : exec (.micaResponse d p) s = .next s := by
  have hl : s.micaLeave d.val p.val = s := by
    unfold State.micaLeave
    rw [hclk]
    split
    · rfl
    · rfl
  rw [exec_micaResponse hup, hl, keep_self]

theorem micaResponse_delivers (hclk : s.micaClock d.val p.val = true) {m : MicaResp} {rest : List MicaResp} (hq : s.micaOut = m :: rest)
    (hd : m.die = d.val) (hp : m.port = p.val) :
    Completes (.micaResponse d p) s fun t => MicaResponded s t d.val p.val m rest (max 1 m.wait) := by
  obtain ⟨n, hn⟩ : ∃ n, max 1 m.wait = n + 1 := ⟨max 1 m.wait - 1, by omega⟩
  have hdel := micaResponded_micaEdges n hq hd hp hn
  have hl : s.micaLeave d.val p.val = s.micaEdges d.val p.val (n + 1) := by
    unfold State.micaLeave
    rw [State.micaOut_first hq hd hp, ← hn]
    exact if_pos hclk
  refine ⟨_, exec_micaResponse hup, ?_⟩
  rw [hl, hdel.frame.keep, hn]
  exact hdel

end

end Sys2Proof.Machine
end

section
/-! O39: the edges of a Mica port's clock, what is answered to a read and to a write, and how a response comes onto the outputs. -/

namespace Sys2Proof.Machine

/-- Every word of Mica holds what it held. -/
def SameWords (s t : State) : Prop := ∀ d p w, t.micaCell d p w = s.micaCell d p w

section
variable {s : State} {d : Fin 4} {p : Fin 3072} {w : BitVec 12}

theorem State.micaReading_latency (s : State) (d p w : Nat) : (s.micaReading d p w).micaLatency d p = (s.micaEdge d p).micaLatency d p := by
  rw [State.micaReading_eq]
  rfl

theorem State.micaReading_micaOut (s : State) (d p w : Nat) : (s.micaReading d p w).micaOut = (s.micaEdge d p).micaOut := by
  rw [State.micaReading_eq]
  rfl

/-- What a read does beside recording its events and answering. -/
theorem State.micaReading_noted (s : State) {d p w : Nat} {u : State} (h : RegsOnly (s.micaReading d p w) u) (o : List MicaResp) :
    let t : State := { u with micaOut := o }
    SameWords s t ∧
      t = { ({ s.micaEdge d p with mica := t.mica, micaOut := t.micaOut } : State) with regs := t.regs, out := t.out } := by
  obtain ⟨r, x, rfl⟩ := h
  refine ⟨s.micaCell_micaReading d p w, ?_⟩
  rw [State.micaReading_eq]
  rfl

/-- Beside what the words' table lists, a port accepts a read where an edge of its clock has left it. -/
theorem State.micaReading_answered (s : State) (d p w : Nat) (r : MicaResp) :
    SameWords s ((s.micaReading d p w).answered r) ∧
      (s.micaReading d p w).answered r =
        { s.micaEdge d p with mica := ((s.micaReading d p w).answered r).mica, micaOut := (s.micaEdge d p).micaOut ++ [r] } := by
  refine ⟨s.micaCell_micaReading d p w, ?_⟩
  rw [State.micaReading_eq]
  rfl

variable (hup : s.up = true) (hclk : s.micaClock d.val p.val = true) (hr : s.micaReady d.val p.val = true)
include hup hclk hr

/-- A ready port accepts a read that it answers with `r` and without an event. -/
theorem micaRead_answers {r : MicaResp}
    (h : (s.micaReading d.val p.val w.toNat).micaPortRead d.val p.val w.toNat = (s.micaReading d.val p.val w.toNat).answered r) :
    Completes (.micaRead d p w []) s fun t => SameWords s t ∧
      t = { s.micaEdge d.val p.val with mica := t.mica, micaOut := (s.micaEdge d.val p.val).micaOut ++ [r] } := by
  refine ⟨_, exec_micaRead_ready hup hclk hr, ?_⟩
  rw [h]
  exact s.micaReading_answered d.val p.val w.toNat r

/-- A whole word is written where its group is not exported, and no other word changes. -/
theorem micaWrite_stores (h : s.exported d.val (p.val / 16) = false) (x : W64) (poison : Bool) :
    Completes (.micaWrite d p w x 0xFF poison) s fun t =>
      t = { s.micaEdge d.val p.val with
            mica := t.mica
            micaOut := (s.micaEdge d.val p.val).micaOut ++
              [{ MicaResp.plain d.val p.val 0 with wait := (s.micaEdge d.val p.val).micaLatency d.val p.val }] } ∧
      t.micaCell d.val p.val w.toNat = (if poison then ⟨2, .poison⟩ else ⟨x, .clean⟩) ∧
      ∀ d' p' w', d' < 4 → p' < 3072 → w' < 4096 → (d', p', w') ≠ (d.val, p.val, w.toNat) → t.micaCell d' p' w' = s.micaCell d' p' w' := by
  have hu := portsOnly_micaEdge s d.val p.val
  have hx : (s.micaEdge d.val p.val).exported d.val (p.val / 16) = false := (hu.exported _ _).trans h
  refine ⟨_, exec_micaWrite_ready hup hclk hr x 0xFF poison, ?_⟩
  rw [State.micaPortWrite_whole hx]
  refine ⟨rfl, ?_, fun d' p' w' _ hp' hw' hne => ?_⟩
  · have hsame := (s.micaEdge d.val p.val).micaCell_setMica_same d.val p.val w.toNat (Cell.store x poison)
    refine hsame.trans ?_
    cases poison <;> rfl
  · have hkey : micaKey d' p' w' ≠ micaKey d.val p.val w.toNat := by
      intro hk
      obtain ⟨rfl, rfl, rfl⟩ := micaKey_inj p.isLt w.isLt hp' hw' hk
      exact hne rfl
    refine ((s.micaEdge d.val p.val).micaCell_setMica_other (Cell.store x poison) hkey).trans ?_
    unfold State.micaCell
    rw [hu.mica]

variable (h : s.exported d.val (p.val / 16) = false)
include h

/-- An uncorrectable word is answered with poison, counted and logged. -/
theorem micaRead_uncorrectable {b : Bool} {bits : BitVec 72} (hc : (s.micaCell d.val p.val w.toNat).syn = .other b bits) :
    Completes (.micaRead d p w []) s fun t => SameWords s t ∧
      t.micaOut = (s.micaEdge d.val p.val).micaOut ++
        [{ die := d.val, port := p.val, status := 0, data := 0, poison := true, cause := 0, corr := false,
           wait := (s.micaEdge d.val p.val).micaLatency d.val p.val }] ∧
      SignalsOnly { s.micaEdge d.val p.val with mica := t.mica, micaOut := t.micaOut } t
        (fun a => a = Reg.MCA_UECOUNT d.val ∨ a = Reg.MCA_UELOG d.val ∨ a = Reg.MCA_IRQ_STATUS d.val) ∧
      t.fld (Fld.MCA_IRQ_STATUS_UE d.val) = 1 ∧ t.fld (Fld.MCA_UELOG_VALID d.val) = 1 ∧
      (s.fld (Fld.MCA_UELOG_VALID d.val) = 0 → t.fld (Fld.MCA_UELOG_VEIN d.val) = 0 ∧
        t.fld (Fld.MCA_UELOG_ADDR d.val) = 4096 * p.val + w.toNat) := by
  have hcell := s.micaCell_micaReading d.val p.val w.toNat
  have hopen := (s.exported_micaReading d.val p.val w.toNat (p.val / 16)).trans h
  have hue := State.micaPortRead_uncorrectable hopen ((congrArg Cell.syn (hcell _ _ _)).trans hc)
  refine ⟨_, exec_micaRead_ready hup hclk hr, ?_⟩
  rw [hue, State.micaReading_latency]
  rw [State.micaReading_micaOut]
  obtain ⟨hsame, hframe⟩ := s.micaReading_noted (regsOnly_micaUE (s.micaReading d.val p.val w.toNat) d.val false (p.val * 4096 + w.toNat))
    ((s.micaEdge d.val p.val).micaOut ++ [{ die := d.val, port := p.val, status := 0, data := 0, poison := true, cause := 0, corr := false,
                                            wait := (s.micaEdge d.val p.val).micaLatency d.val p.val }])
  refine ⟨hsame, rfl, ⟨hframe, fun a ha => ?_⟩, State.micaUE_irq _ _ _ _, State.micaUE_valid _ _ _ _, fun hfree => ?_⟩
  · simp only [not_or] at ha
    obtain ⟨⟨hcount, hlog, hirq⟩, hpba⟩ := ha
    refine (State.micaUE_reg_other _ _ _ _ hpba hcount hlog hirq).trans ?_
    rw [State.micaReading_eq]
    rfl
  · obtain ⟨hvein, haddr⟩ := State.micaUE_free (s.micaReading d.val p.val w.toNat) d.val false (p.val * 4096 + w.toNat)
      ((s.fld_micaReading _ _ _ _).trans hfree)
    exact ⟨hvein, haddr.trans (by rw [Nat.mod_eq_of_lt (micaAddr_lt p.isLt w.isLt), Nat.mul_comm])⟩

/-- A word with one wrong bit is answered corrected; in an empty log its event takes the first entry. -/
theorem micaRead_corrected {n : Nat} (hc : (s.micaCell d.val p.val w.toNat).syn = .single n) (hn : n < 72)
    (hlog : ∀ e, e < 16 → s.fld (Fld.MCA_LOG_A_VALID d.val e) = 0) :
    Completes (.micaRead d p w []) s fun t => SameWords s t ∧
      t.micaOut = (s.micaEdge d.val p.val).micaOut ++
        [{ die := d.val, port := p.val, status := 0,
           data := if n < 64 then (s.micaCell d.val p.val w.toNat).data ^^^ BitVec.ofNat 64 (2 ^ n) else (s.micaCell d.val p.val w.toNat).data,
           poison := false, cause := 0, corr := true, wait := (s.micaEdge d.val p.val).micaLatency d.val p.val }] ∧
      t.fld (Fld.MCA_LOG_A_VALID d.val 0) = 1 ∧ t.fld (Fld.MCA_LOG_A_VEIN d.val 0) = 0 ∧
      t.fld (Fld.MCA_LOG_A_ADDR d.val 0) = 4096 * p.val + w.toNat ∧ t.fld (Fld.MCA_LOG_B_COUNT d.val 0) = 1 ∧
      t.fld (Fld.MCA_LOG_B_BIT d.val 0) = n ∧
      (t.fld (Fld.MCA_LOG_A_STICKY d.val 0) = 1 ↔ s.fld (Fld.MCA_CETHRESH_THRESH d.val) = 1) := by
  have hcell := s.micaCell_micaReading d.val p.val w.toNat
  have hopen := (s.exported_micaReading d.val p.val w.toNat (p.val / 16)).trans h
  have hce := State.micaPortRead_corrected hopen ((congrArg Cell.syn (hcell _ _ _)).trans hc)
  obtain ⟨hvalid, hvein, haddr, hcount, hbit, hsticky⟩ :=
    State.micaCE_empty_user (s.micaReading d.val p.val w.toNat) d.val (p.val * 4096 + w.toNat) n
      (fun e he => (s.fld_micaReading _ _ _ _).trans (hlog e he)) (micaAddr_lt p.isLt w.isLt) (by omega)
  refine ⟨_, exec_micaRead_ready hup hclk hr, ?_⟩
  rw [hce, State.micaReading_latency, State.micaReading_micaOut, hcell]
  refine ⟨(s.micaReading_noted (regsOnly_micaCE _ _ _ _ _) _).1, rfl, hvalid, hvein, haddr.trans (by rw [Nat.mul_comm]), hcount, hbit, ?_⟩
  exact hsticky.trans (by rw [s.fld_micaReading])

end

/-- Settles O39: a port whose clock runs makes one edge of each request and of each cycle that a response waits. -/
theorem micaPorts : Obligations.MicaPorts := by
  intro s d p w x be poison c u port late key answered hidden same reply plain edged
  have hu : PortsOnly s u := portsOnly_micaEdge s d.val p.val
  have hedged : ∀ {t}, PortsOnly s t → edged t := by
    rintro _ ⟨o, sh, y, q, rfl⟩
    rfl
  have hcell := s.micaCell_micaReading d.val p.val w.toNat
  have hexp := hu.exported d.val (p.val / 16)
  have hexp' := s.exported_micaReading d.val p.val w.toNat (p.val / 16)
  have hlate := s.micaReading_latency d.val p.val w.toNat
  refine ⟨⟨hedged hu, hu.mica, s.micaPort_micaEdge d.val p.val, s.micaReady_micaEdge_divided d.val p.val,
    s.micaReady_micaEdge_undivided d.val p.val⟩, ?_, ?_, ?_, ?_⟩
  · intro hup hclk
    exact ⟨⟨s, exec_micaWrite_stopped hup hclk x be poison, rfl⟩,
      ⟨_, exec_micaRead_stopped hup hclk, s.micaCell_micaUpset_nil d.val p.val w.toNat, rfl⟩, ⟨s, exec_micaResponse_stopped hup hclk, rfl⟩⟩
  · intro hup hclk hr
    refine ⟨⟨_, exec_micaWrite_busy hup hclk hr x be poison, rfl⟩, ⟨_, exec_micaRead_busy hup hclk hr, hcell, ?_⟩⟩
    rw [State.micaReading_eq]
    rfl
  · intro hup hclk hr
    refine ⟨fun h => ?_, fun h hbe => ?_, fun h hbe => ?_, fun h => ?_, fun h hc => ?_, fun h hc h1 h3 => ?_,
      fun b bits h hc => micaRead_uncorrectable hup hclk hr h hc, fun n h hc hn hlog => micaRead_corrected hup hclk hr h hc hn hlog⟩
    · exact ⟨_, exec_micaWrite_ready hup hclk hr x be poison, State.micaPortWrite_exported (hexp.trans h) x be poison⟩
    · exact ⟨_, exec_micaWrite_ready hup hclk hr x be poison, State.micaPortWrite_partial (hexp.trans h) hbe x poison⟩
    · subst hbe
      exact micaWrite_stores hup hclk hr h x poison
    · have ha := State.micaPortRead_exported (w := w.toNat) (hexp'.trans h)
      rw [hlate] at ha
      exact micaRead_answers hup hclk hr ha
    · have ha := State.micaPortRead_clean (hexp'.trans h) ((congrArg Cell.syn (hcell _ _ _)).trans hc)
      rw [hlate, hcell] at ha
      exact micaRead_answers hup hclk hr ha
    · have hc' := hcell d.val p.val w.toNat
      have ha := State.micaPortRead_poison (hexp'.trans h) ((congrArg Cell.syn hc').trans hc) (hc' ▸ h1) (hc' ▸ h3)
      rw [hlate, hcell] at ha
      exact micaRead_answers hup hclk hr ha
  · intro m rest hup hclk hq hd hp
    obtain ⟨t, ht, hframe, hqueue, hshown, hdisc⟩ := micaResponse_delivers hup hclk hq hd hp
    exact ⟨t, ht, hedged hframe, hframe.mica, hqueue, hshown, hdisc⟩

end Sys2Proof.Machine
end

section
/-! Accepted writes to the registers of the MCA and VEN blocks, over any path (R205, R211, R399). -/

namespace Sys2Proof.Machine

/-- Nothing changes but registers, what leaves the device, the arm that a write uses up and a management frame that it ends. -/
def AccessFrame (s t : State) : Prop := ∃ r x a l, t = { s with regs := r, out := x, arms := a, heldAcc := l }

theorem AccessFrame.trans {s t u : State} (h : AccessFrame s t) (k : AccessFrame t u) : AccessFrame s u := by
  obtain ⟨r, x, a, l, rfl⟩ := h
  obtain ⟨r', x', a', l', rfl⟩ := k
  exact ⟨_, _, _, _, rfl⟩

theorem RegsOnly.accessFrame {s t : State} (h : RegsOnly s t) : AccessFrame s t := by
  obtain ⟨r, o, rfl⟩ := h
  exact ⟨_, _, _, _, rfl⟩

theorem accessFrame_opened (s : State) (path : Path) (b : BlockAt) (r : RegDesc) : AccessFrame s (s.opened path b r) := by
  obtain ⟨l, a, h⟩ := s.opened_frame path b r
  exact ⟨_, _, a, l, h⟩

theorem accessFrame_acked (s : State) (path : Path) : AccessFrame s (s.acked path) := by
  obtain ⟨o, h⟩ := s.acked_frame path
  exact ⟨_, o, _, _, h⟩

theorem AccessFrame.keep {s t : State} (h : AccessFrame s t) : keep s t = t := by
  obtain ⟨r, x, a, l, rfl⟩ := h
  rfl

theorem AccessFrame.accessOnly {s t : State} (h : AccessFrame s t) {p : Nat → Prop} (hr : sameRegs s t p) : AccessOnly s t p := by
  refine ⟨?_, fun a ha => hr a fun hp => ha (.inl hp)⟩
  obtain ⟨r, x, a, l, rfl⟩ := h
  rfl

theorem State.acked_fld (s : State) (path : Path) (f : RField) : (s.acked path).fld f = s.fld f := State.fld_eq _ _ (s.acked_regs path) f

theorem State.opened_fld (s : State) (path : Path) (b : BlockAt) (r : RegDesc) (f : RField) : (s.opened path b r).fld f = s.fld f :=
  State.fld_eq _ _ (s.opened_regs path b r) f

theorem keep_setFld {s u : State} (h : keep s u = u) (f : RField) (x : Nat) : keep s (u.setFld f x) = u.setFld f x :=
  congrArg (·.setFld f x) h

theorem sameRegs_setFld (s : State) (f : RField) (x : Nat) : sameRegs s (s.setFld f x) fun a => a = f.addr :=
  fun a ha => State.reg_setFld_other s f x a ha

/-! ## The word that is written -/

theorem natBit_go (x : Word) : natBit (0x80000000#32 ||| x).toNat 31 = true := by
  unfold natBit
  rw [BitVec.toNat_or, Nat.testBit_or]
  rfl

/-- An index beside GO reads back. -/
theorem bits_go {k : Nat} (hk : k + 1 ≤ 32) (h0 : bits 0x80000000#32 k 0 = 0) (n : BitVec (k + 1)) :
    bits (0x80000000#32 ||| n.setWidth 32) k 0 = n.toNat := by
  have hn : n.toNat < 2 ^ 32 := Nat.lt_of_lt_of_le n.isLt (Nat.pow_le_pow_right (by decide) hk)
  rw [bits_or, h0, Nat.zero_or, bits, natBits, BitVec.toNat_setWidth, Nat.mod_eq_of_lt hn, Nat.pow_zero, Nat.div_one]
  exact Nat.mod_eq_of_lt n.isLt

theorem State.kept_mica (s : State) {b : BlockAt} (hb : b.desc.blk = .mca ∨ b.desc.blk = .ven) (v : Word) : s.kept b v = v := by
  unfold State.kept
  rw [if_neg]
  rintro ⟨hu, -⟩
  simp [hu] at hb

section
variable {s : State} {path : Path} {addr : Nat} {v : Word} {b : BlockAt} {r : RegDesc} (h : s.accepts path addr v = true)
  (hs : regSel addr = some (b, .reg r))
include h hs

theorem State.writeReg_mca (hb : b.desc.blk = .mca) : s.writeReg path addr v = ((s.opened path b r).writeMca r b addr v).acked path := by
  rw [State.writeReg_accepted s path addr v h b r hs, State.kept_mica s (.inl hb)]
  unfold State.doWrite
  rw [hb]

theorem State.writeReg_venRewrite (hb : b.desc.blk = .ven) (ho : b.off = 0x10) (hv : natBit v.toNat 31 = true) :
    s.writeReg path addr v = ((s.opened path b r).veinRewrite b.die (bits v 20 0)).acked path := by
  rw [State.writeReg_accepted s path addr v h b r hs, State.kept_mica s (.inr hb)]
  unfold State.doWrite
  rw [hb]
  dsimp only
  rw [if_pos ho, if_pos hv]

end

section
variable (s : State) (r : RegDesc) {b : BlockAt} (addr : Nat) {v : Word} (hv : natBit v.toNat 31 = true)
include hv

theorem State.writeMca_erase (ho : b.off = 0x20) : s.writeMca r b addr v = s.eraseStart b.die (bits v 7 0) := by
  unfold State.writeMca
  rw [if_pos ho, if_pos hv]

theorem State.writeMca_log {e : Nat} (ho : b.off = 0x100 + 8 * e) : s.writeMca r b addr v = s.logClear b.die e := by
  unfold State.writeMca
  rw [if_neg (by omega), if_pos (by omega), if_pos ⟨by omega, hv⟩, show (b.off - 0x100) / 8 = e by omega]

end

section
variable {s : State} {path : Path} {d : Fin 4}

theorem exec_mcaErase {g : BitVec 8} (h : s.accepts path (Reg.MCA_ERASE d.val) (0x80000000#32 ||| g.setWidth 32) = true) :
    ∃ b r, exec (.mcaErase path d g) s = .next (keep s (((s.opened path b r).eraseStart d.val g.toNat).acked path)) := by
  have hx : exec (.mcaErase path d g) s = .next (keep s (s.writeReg path (Reg.MCA_ERASE d.val) (0x80000000#32 ||| g.setWidth 32))) := rfl
  have hw := State.writeReg_mca h (sel_MCA_ERASE d) rfl
  rw [State.writeMca_erase _ _ _ (natBit_go _) rfl, bits_go (by decide) (by decide) g] at hw
  rw [hx, hw]
  exact ⟨_, _, rfl⟩

theorem exec_mcaLogClear {e : Fin 16} (h : s.accepts path (Reg.MCA_LOG_A d.val e.val) 0x80000000#32 = true) :
    ∃ b r, exec (.mcaLogClear path d e) s = .next (keep s (((s.opened path b r).logClear d.val e.val).acked path)) := by
  have hx : exec (.mcaLogClear path d e) s = .next (keep s (s.writeReg path (Reg.MCA_LOG_A d.val e.val) 0x80000000#32)) := rfl
  have hw := State.writeReg_mca h (sel_MCA_LOG_A d e) rfl
  rw [State.writeMca_log _ _ _ (show natBit (0x80000000#32).toNat 31 = true by decide) rfl] at hw
  rw [hx, hw]
  exact ⟨_, _, rfl⟩

theorem exec_venRewrite {n : BitVec 21} (h : s.accepts path (Reg.VEN_REWRITE d.val) (0x80000000#32 ||| n.setWidth 32) = true) :
    ∃ b r, exec (.venRewrite path d n []) s =
      .next (keep s ((((s.veinUpset d.val n.toNat []).opened path b r).veinRewrite d.val n.toNat).acked path)) := by
  have hx : exec (.venRewrite path d n []) s =
      .next (keep s ((s.veinUpset d.val n.toNat []).writeReg path (Reg.VEN_REWRITE d.val) (0x80000000#32 ||| n.setWidth 32))) := rfl
  have hw := State.writeReg_venRewrite (s := s.veinUpset d.val n.toNat []) h (sel_VEN_REWRITE d) rfl rfl (natBit_go _)
  rw [bits_go (by decide) (by decide) n] at hw
  rw [hx, hw]
  exact ⟨_, _, rfl⟩

end

end Sys2Proof.Machine
end

section
/-! Rewriting vein words: what a correction leaves in each word of a line (R399). -/

namespace Sys2Proof.Machine

/-- A code word after a read with correction and a write back; one that cannot be corrected stays as it is. -/
def Cell.fixed (c : Cell) : Cell := if c.read.corrected.isSome then Cell.of c.read.data else c

theorem Cell.fixed_single {c : Cell} {n : Nat} (h : c.syn = .single n) :
    c.fixed = ⟨if n < 64 then c.data ^^^ BitVec.ofNat 64 (2 ^ n) else c.data, .clean⟩ := by
  unfold Cell.fixed
  rw [Cell.read_single h]
  rfl

theorem Cell.fixed_of_not_single {c : Cell} (h : ∀ n, c.syn ≠ .single n) : c.fixed = c := by
  unfold Cell.fixed
  have hn : c.read.corrected = none := by
    unfold Cell.read
    split
    · rfl
    · next n hs => exact absurd hs (h n)
    · split
      · rfl
      · rfl
    · rfl
  rw [hn]
  rfl

/-- One word of a die read with correction and written back. -/
def State.veinStep (s : State) (d idx : Nat) : State :=
  let r := (s.veinCell d idx).read
  if r.corrected.isSome then (s.micaNote d true idx r).setVein d idx (Cell.of r.data) else s.micaNote d true idx r

theorem State.veinFix_succ (s : State) (d idx k : Nat) : s.veinFix d idx (k + 1) = (s.veinStep d idx).veinFix d (idx + 1) k := rfl

theorem State.veinCell_veinStep (s : State) (d idx i : Nat) :
    (s.veinStep d idx).veinCell d i = if i = idx then (s.veinCell d i).fixed else s.veinCell d i := by
  have hn := regsOnly_micaNote s d true idx (s.veinCell d idx).read
  unfold State.veinStep
  by_cases hc : (s.veinCell d idx).read.corrected.isSome = true
  · dsimp only
    rw [if_pos hc]
    by_cases hi : i = idx
    · rw [hi, State.veinCell_setVein_same, if_pos rfl, Cell.fixed, if_pos hc]
    · rw [if_neg hi, State.veinCell_setVein_other, hn.veinCell]
      unfold veinKey
      omega
  · dsimp only
    rw [if_neg hc, hn.veinCell]
    split
    · next hi => rw [hi, Cell.fixed, if_neg hc]
    · rfl

theorem State.veinCell_veinFix (s : State) (d idx n i : Nat) :
    (s.veinFix d idx n).veinCell d i = if idx ≤ i ∧ i < idx + n then (s.veinCell d i).fixed else s.veinCell d i := by
  induction n generalizing s idx with
  | zero => rw [if_neg (by omega)]; rfl
  | succ k ih =>
    rw [State.veinFix_succ, ih, State.veinCell_veinStep]
    by_cases hi : i = idx
    · rw [if_neg (by omega), if_pos hi, if_pos (by omega)]
    · rw [if_neg hi]
      exact ite_congr (propext (by omega)) (fun _ => rfl) fun _ => rfl

/-- A rewrite corrects the words of one line of eight. -/
theorem State.veinCell_veinRewrite (s : State) (d n i : Nat) :
    (s.veinRewrite d n).veinCell d i = if i / 8 = n / 8 then (s.veinCell d i).fixed else s.veinCell d i := by
  unfold State.veinRewrite
  rw [State.veinCell_veinFix]
  exact ite_congr (propext (by omega)) (fun _ => rfl) fun _ => rfl

theorem AccessFrame.veinCell {s t : State} (h : AccessFrame s t) (d i : Nat) : t.veinCell d i = s.veinCell d i := by
  obtain ⟨r, x, a, l, rfl⟩ := h
  rfl

end Sys2Proof.Machine
end

section
/-! O40: initialisation, erasing, the correction log and a rewritten vein line. -/

namespace Sys2Proof.Machine

theorem State.bit_iff (s : State) (f : RField) : s.bit f = true ↔ s.fld f = 1 := decide_eq_true_iff

section
variable (s : State) (d : Nat)

/-- The words of a die hold nothing but UNWRITTEN poison (R203). -/
def State.dieCleared : State :=
  { s with mica := SMap.dropIf s.mica (fun k => k / (3072 * 4096) = d), vein := SMap.dropIf s.vein (fun k => k / 2 ^ 21 = d) }

theorem State.micaCell_dieCleared {d' p w : Nat} (hp : p < 3072) (hw : w < 4096) :
    (s.dieCleared d).micaCell d' p w = if d' = d then Cell.unwritten else s.micaCell d' p w := by
  unfold State.micaCell State.dieCleared
  rw [SMap.get_dropIf, micaKey_die hp hw]
  exact ite_congr (propext decide_eq_true_iff) (fun _ => rfl) fun _ => rfl

theorem State.veinCell_dieCleared {i : Nat} (hi : i < 2 ^ 21) : (s.dieCleared d).veinCell d i = Cell.unwritten := by
  unfold State.veinCell State.dieCleared
  rw [SMap.get_dropIf, veinKey_die hi]
  exact if_pos (decide_eq_true rfl)

/-- The words of a group hold nothing but UNWRITTEN poison, and its erase is over (R205). -/
def State.groupErased (g : Nat) : State :=
  { s with mica := SMap.dropIf s.mica (fun k => k / (16 * 4096) = d * 192 + g), erasing := SMap.drop s.erasing d }

theorem State.micaCell_groupErased {g d' p w : Nat} (hg : g < 192) (hp : p < 3072) (hw : w < 4096) :
    (s.groupErased d g).micaCell d' p w = if d' = d ∧ p / 16 = g then Cell.unwritten else s.micaCell d' p w := by
  have hgrp : d' * 192 + p / 16 = d * 192 + g ↔ d' = d ∧ p / 16 = g := by omega
  unfold State.micaCell State.groupErased
  rw [SMap.get_dropIf, micaKey_group hw]
  exact ite_congr (propext (decide_eq_true_iff.trans hgrp)) (fun _ => rfl) fun _ => rfl

end

section
variable (s : State) (d : Fin 4)

theorem micaInitDone_initialises (hup : s.up = true) (hdom : s.fld (Fld.PWR_DOM_STATE (slateDom d.val 9)) ≠ 0)
    (hinit : s.fld (Fld.MCA_STATUS_INIT_DONE d.val) = 0) :
    Completes (.micaInitDone d) s fun t => t.fld (Fld.MCA_STATUS_INIT_DONE d.val) = 1 ∧
      (∀ p w, p < 3072 → w < 4096 → t.micaCell d.val p w = Cell.unwritten) ∧ (∀ i, i < 2 ^ 21 → t.veinCell d.val i = Cell.unwritten) ∧
      (∀ d' p w, d' ≠ d.val → p < 3072 → w < 4096 → t.micaCell d' p w = s.micaCell d' p w) ∧
      WritesOnly { s with mica := t.mica, vein := t.vein } t fun a => a = Reg.MCA_STATUS d.val := by
  have hbit : ¬s.bit (Fld.MCA_STATUS_INIT_DONE d.val) = true := by
    rw [State.bit_iff, hinit]
    decide
  have hx : exec (.micaInitDone d) s = .next (keep s (s.micaInitDone d.val)) := onDevice_up hup fun s => s.micaInitDone d.val
  have ht : s.micaInitDone d.val = (s.dieCleared d.val).setFld (Fld.MCA_STATUS_INIT_DONE d.val) 1 := if_pos ⟨hdom, hbit⟩
  have hregs := regsOnly_setFld (s.dieCleared d.val) (Fld.MCA_STATUS_INIT_DONE d.val) 1
  rw [ht, keep_setFld rfl] at hx
  refine ⟨_, hx, State.fld_setFld_same _ _ 1 (Nat.le_refl 2) (show 2 < 32 by decide), fun p w hp hw => ?_, fun i hi => ?_,
    fun d' p w hd hp hw => ?_, rfl, sameRegs_setFld (s.dieCleared d.val) _ 1⟩
  · rw [hregs.micaCell, State.micaCell_dieCleared s d.val hp hw, if_pos rfl]
  · rw [hregs.veinCell, State.veinCell_dieCleared s d.val hi]
  · rw [hregs.micaCell, State.micaCell_dieCleared s d.val hp hw, if_neg hd]

theorem eraseDone_erases (hup : s.up = true) {i : Nat} (hi : SMap.find s.erasing d.val = some i) (hlt : i < 192) :
    Completes (.eraseDone d) s fun t => t.fld (Fld.MCA_STATUS_ERASE_BUSY d.val) = 0 ∧ SMap.find t.erasing d.val = none ∧
      (∀ d' p w, p < 3072 → w < 4096 →
        t.micaCell d' p w = if d' = d.val ∧ p / 16 = i then Cell.unwritten else s.micaCell d' p w) ∧
      WritesOnly { s with mica := t.mica, erasing := t.erasing } t fun a => a = Reg.MCA_STATUS d.val := by
  have hx : exec (.eraseDone d) s = .next (keep s (s.eraseDone d.val)) := onDevice_up hup fun s => s.eraseDone d.val
  have ht : s.eraseDone d.val = (s.groupErased d.val i).setFld (Fld.MCA_STATUS_ERASE_BUSY d.val) 0 := by
    unfold State.eraseDone
    rw [hi]
    rfl
  rw [ht, keep_setFld rfl] at hx
  refine ⟨_, hx, State.fld_setFld_same _ _ 0 (Nat.le_refl 3) (show 3 < 32 by decide), SMap.find_drop_same _ _, fun d' p w hp hw => ?_,
    rfl, sameRegs_setFld (s.groupErased d.val i) _ 0⟩
  rw [(regsOnly_setFld (s.groupErased d.val i) _ 0).micaCell, State.micaCell_groupErased s d.val hlt hp hw]

end

/-! ## Erasing -/

/-- MCA_ERASE refuses the group: there is none, it is exported, or another erase is under way (R205). -/
def State.eraseBarred (s : State) (d g : Nat) : Prop := 191 < g ∨ s.exported d g = true ∨ s.fld (Fld.MCA_STATUS_ERASE_BUSY d) = 1

theorem State.eraseStart_barred {s : State} {d g : Nat} (h : s.eraseBarred d g) :
    s.eraseStart d g = s.setFld (Fld.MCA_STATUS_ERASE_REFUSED d) 1 :=
  if_pos (h.imp_right (Or.imp_right (s.bit_iff _).mpr))

/-- The state in which group `g` of die `d` is being erased. -/
def State.eraseMarked (s : State) (d g : Nat) : State := { s with erasing := SMap.set s.erasing d g }

theorem State.eraseStart_free {s : State} {d g : Nat} (h : ¬s.eraseBarred d g) :
    s.eraseStart d g = (s.eraseMarked d g).setFld (Fld.MCA_STATUS_ERASE_BUSY d) 1 :=
  if_neg fun hb => h (hb.imp_right (Or.imp_right (s.bit_iff _).mp))

theorem State.eraseBarred_congr {s t : State} (h : t.regs = s.regs) (d g : Nat) : t.eraseBarred d g ↔ s.eraseBarred d g := by
  unfold State.eraseBarred State.exported
  rw [State.fld_eq t s h, State.reg_eq t s h]

theorem AccessFrame.eraseMarked {s t : State} (h : AccessFrame s t) (d g : Nat) : AccessFrame (s.eraseMarked d g) (t.eraseMarked d g) := by
  obtain ⟨r, x, a, l, rfl⟩ := h
  exact ⟨_, _, _, _, rfl⟩

theorem AccessFrame.erasing {s t : State} (h : AccessFrame s t) : t.erasing = s.erasing := by
  obtain ⟨r, x, a, l, rfl⟩ := h
  rfl

theorem State.micaReady_erasing {s : State} {d p : Nat} (h : SMap.find s.erasing d = some (portGroup p)) : s.micaReady d p = false := by
  simp [State.micaReady, h]

section
variable {s : State} {d : Fin 4} {path : Path} {g : BitVec 8} (h : s.accepts path (Reg.MCA_ERASE d.val) (0x80000000#32 ||| g.setWidth 32) = true)
include h

theorem mcaErase_refused (hbar : s.eraseBarred d.val g.toNat) :
    Completes (.mcaErase path d g) s fun t => t.fld (Fld.MCA_STATUS_ERASE_REFUSED d.val) = 1 ∧
      t.fld (Fld.MCA_STATUS_ERASE_BUSY d.val) = s.fld (Fld.MCA_STATUS_ERASE_BUSY d.val) ∧ AccessOnly s t fun a => a = Reg.MCA_STATUS d.val := by
  obtain ⟨b, r, hex⟩ := exec_mcaErase h
  have ho := accessFrame_opened s path b r
  have hs : (s.opened path b r).eraseStart d.val g.toNat = (s.opened path b r).setFld (Fld.MCA_STATUS_ERASE_REFUSED d.val) 1 :=
    State.eraseStart_barred ((State.eraseBarred_congr (s.opened_regs path b r) _ _).mpr hbar)
  have hf := (ho.trans (regsOnly_setFld _ (Fld.MCA_STATUS_ERASE_REFUSED d.val) 1).accessFrame).trans (accessFrame_acked _ path)
  refine ⟨_, hex, ?_⟩
  rw [hs, hf.keep]
  refine ⟨?_, ?_, hf.accessOnly fun a ha => ?_⟩
  · rw [State.acked_fld]
    exact State.fld_setFld_same _ _ 1 (Nat.le_refl 4) (show 4 < 32 by decide)
  · rw [State.acked_fld]
    exact (State.fld_setFld_beside _ (Fld.MCA_STATUS_ERASE_REFUSED d.val) (Fld.MCA_STATUS_ERASE_BUSY d.val) 1 rfl (Nat.le_refl 4)
      (show 4 < 32 by decide) (.inl (show 3 < 4 by decide))).trans (s.opened_fld path b r _)
  · rw [State.acked_reg, sameRegs_setFld _ _ _ a ha, State.opened_reg]

theorem mcaErase_begins (hbar : ¬s.eraseBarred d.val g.toNat) :
    Completes (.mcaErase path d g) s fun t => t.fld (Fld.MCA_STATUS_ERASE_BUSY d.val) = 1 ∧ SMap.find t.erasing d.val = some g.toNat ∧
      (∀ p, p / 16 = g.toNat → t.micaReady d.val p = false) ∧
      AccessOnly { s with erasing := t.erasing } t fun a => a = Reg.MCA_STATUS d.val := by
  obtain ⟨b, r, hex⟩ := exec_mcaErase h
  have hs := State.eraseStart_free fun hb => hbar ((State.eraseBarred_congr (s.opened_regs path b r) d.val g.toNat).mp hb)
  have hf := (((accessFrame_opened s path b r).eraseMarked d.val g.toNat).trans
    (regsOnly_setFld _ (Fld.MCA_STATUS_ERASE_BUSY d.val) 1).accessFrame).trans (accessFrame_acked _ path)
  have hfind := (congrArg (SMap.find · d.val) hf.erasing).trans (SMap.find_set_same s.erasing d.val g.toNat)
  rw [hs] at hex
  refine ⟨_, hex.trans (congrArg Host.Outcome.next hf.keep), ?_, hfind,
    fun p hp => State.micaReady_erasing (hfind.trans (congrArg some hp.symm)), ?_⟩
  · rw [State.acked_fld]
    exact State.fld_setFld_same _ _ 1 (Nat.le_refl 3) (show 3 < 32 by decide)
  · rw [hf.erasing]
    refine hf.accessOnly fun a ha => ?_
    rw [State.acked_reg, sameRegs_setFld _ _ _ a ha]
    exact s.opened_reg path b r a

end

/-- A write of VALID clears its entry. -/
theorem mcaLogClear_clears {s : State} {path : Path} {d : Fin 4} {e : Fin 16}
    (h : s.accepts path (Reg.MCA_LOG_A d.val e.val) 0x80000000#32 = true) :
    Completes (.mcaLogClear path d e) s fun t => t.reg (Reg.MCA_LOG_A d.val e.val) = 0 ∧ t.reg (Reg.MCA_LOG_B d.val e.val) = 0 ∧
      AccessOnly s t fun a => a = Reg.MCA_LOG_A d.val e.val ∨ a = Reg.MCA_LOG_B d.val e.val := by
  obtain ⟨b, r, hex⟩ := exec_mcaLogClear h
  have hne := Reg.MCA_LOG_A_ne_B d.val e.val
  have hlog : RegsOnly (s.opened path b r) ((s.opened path b r).logClear d.val e.val) :=
    (regsOnly_setReg _ _ _).trans (regsOnly_setReg _ _ _)
  have hf := ((accessFrame_opened s path b r).trans hlog.accessFrame).trans (accessFrame_acked _ path)
  refine ⟨_, hex, ?_⟩
  rw [hf.keep]
  refine ⟨?_, ?_, hf.accessOnly fun a ha => ?_⟩
  · rw [State.acked_reg, State.logClear, State.reg_setReg_other _ _ hne, State.reg_setReg_same]
  · rw [State.acked_reg, State.logClear, State.reg_setReg_same]
  · obtain ⟨hA, hB⟩ := not_or.mp ha
    rw [State.acked_reg, State.logClear, State.reg_setReg_other _ _ hB, State.reg_setReg_other _ _ hA, State.opened_reg]

/-- A rewrite corrects the words of its line and leaves the others. -/
theorem venRewrite_fixes {s : State} {path : Path} {d : Fin 4} {n : BitVec 21}
    (h : s.accepts path (Reg.VEN_REWRITE d.val) (0x80000000#32 ||| n.setWidth 32) = true) :
    Completes (.venRewrite path d n []) s fun t =>
      ∀ i, t.veinCell d.val i = if i / 8 = n.toNat / 8 then (s.veinCell d.val i).fixed else s.veinCell d.val i := by
  obtain ⟨b, r, hex⟩ := exec_venRewrite h
  refine ⟨_, hex, fun i => ?_⟩
  have hcell : ((s.veinUpset d.val n.toNat []).opened path b r).veinCell d.val i = s.veinCell d.val i :=
    ((accessFrame_opened _ path b r).veinCell d.val i).trans (s.veinCell_veinUpset_nil d.val n.toNat d.val i)
  refine ((accessFrame_acked _ path).veinCell d.val i).trans ?_
  rw [State.veinCell_veinRewrite, hcell]

/-- Settles O40: each row is its register's accepted write, or what the array does once its time has come. -/
theorem micaMaintenance : Obligations.MicaMaintenance := by
  intro s path d g e busy bad inDie
  refine ⟨micaInitDone_initialises s d, fun h => ⟨mcaErase_refused h, mcaErase_begins h⟩, fun i hup hi hlt => eraseDone_erases s d hup hi hlt,
    mcaLogClear_clears, fun n h => ?_⟩
  obtain ⟨t, ht, hcell⟩ := venRewrite_fixes h
  refine ⟨t, ht, fun i _ => (hcell i).trans ?_⟩
  cases hsyn : (s.veinCell d.val i).syn with
  | single b => rw [Cell.fixed_single hsyn]
  | clean => rw [Cell.fixed_of_not_single (by simp [hsyn]), ite_self]
  | poison => rw [Cell.fixed_of_not_single (by simp [hsyn]), ite_self]
  | other b bits => rw [Cell.fixed_of_not_single (by simp [hsyn]), ite_self]

end Sys2Proof.Machine
end

section
/-! The issue of an instruction that writes scalar registers, SR or address registers in stage A, and of a branch (R247, R288). -/

namespace Sys2Proof.Machine

/-- The engine on which stage A works: the writes of the cycle before have landed and TIMER has counted. -/
abbrev EngSt.stageA (v : EngSt) : EngSt := { v.land.count with stall := 0 }

/-- The engine after stage A of a branch that leaves `y` in the scalar registers and `q` for the SR that RETI restores. -/
abbrev EngSt.branching (v : EngSt) (y : List Word) (q : Option Word) : EngSt := { v.stageA with s := y, reti := q }

/-- What landing and counting leave alone. -/
theorem EngSt.land_count_frame (v : EngSt) :
    v.land.count = { v with v := v.land.v, s := v.land.s, pend := [], sr := v.land.sr, ov := v.land.ov,
                            timer := v.land.count.timer, tevent := v.land.count.tevent } := by
  obtain ⟨x, y, h⟩ := v.land_frame
  rw [h]
  unfold EngSt.count
  split
  · rfl
  · split <;> rfl

theorem EngSt.stageA_slots (v : EngSt) : v.stageA.slots = v.slots := (congrArg EngSt.slots v.land_count_frame :)

theorem EngSt.stageA_rptLeft (v : EngSt) : v.stageA.rptLeft = v.rptLeft := (congrArg EngSt.rptLeft v.land_count_frame :)

theorem EngSt.stageA_exit (v : EngSt) : v.stageA.exit = v.exit := (congrArg EngSt.exit v.land_count_frame :)

theorem EngSt.stageA_run (v : EngSt) : v.stageA.run = v.run := (congrArg EngSt.run v.land_count_frame :)

theorem EngSt.count_withLoop (v : EngSt) (l : Option LoopCache) : (v.withLoop l).count = v.count.withLoop l := by
  unfold EngSt.count EngSt.withLoop
  dsimp only
  split
  · rfl
  · split <;> rfl

theorem EngSt.stageA_withLoop (v : EngSt) (l : Option LoopCache) : (v.withLoop l).stageA = v.stageA.withLoop l := by
  unfold EngSt.stageA
  rw [EngSt.land_loop, EngSt.count_withLoop]
  rfl

theorem EngSt.advance_branch (z : EngSt) (w : W64) (t : BitVec 10) (hrpt : z.rptLeft = 0) (hexit : z.exit = false) :
    z.advance w 0 (some t) = { z with held := none, slots := 2, target := t, pc := z.pc + 1 } := by
  cases z
  subst hrpt hexit
  rfl

theorem EngSt.running_not_settled {a b : EngSt} (hab : a = b) (hb : b.run = .running) : (if a.run = .running then a else a.settle) = b := by
  subst hab
  exact if_pos hb

/-- A running engine after a branch outside repeats: its accumulators, its transfers and the delay slots to come. -/
theorem EngSt.finish_branch (u v : EngSt) (w : W64) (x : BitVec 32) (hx : w.setWidth 32 = x) (t : BitVec 10) (pend : List PendWr)
    (st : List (Nat × Nat × W64)) (hrpt : u.rptLeft = 0) (hexit : u.exit = false) (hrun : u.run = .running)
    (hst : ∀ z : EngSt, st.foldl (fun (z : EngSt) m => z.store m.1 m.2.1 (Cell.of m.2.2)) z =
        { z with xm := v.storeOf z.xm (xSlot x), ym := v.storeOf z.ym (ySlot x) }) :
    u.finish v w u.w 0 [] { pend := pend, stores := st, fault := none } 0 (some t) =
      { u.cycle u.w 0 with xm := v.storeOf u.xm (xSlot x), ym := v.storeOf u.ym (ySlot x), ar := AReg.updates v.ar u.ar (slotsOf x),
                           pend := pend, held := none, pc := u.pc + 1, slots := 2, target := t } := by
  have ha := EngSt.advance_branch { u.cycle u.w 0 with
      xm := v.storeOf u.xm (xSlot x), ym := v.storeOf u.ym (ySlot x), ar := AReg.updates v.ar u.ar (slotsOf x), pend := pend } w t hrpt hexit
  unfold EngSt.finish
  dsimp only at ha ⊢
  rw [hst, hx, List.append_nil]
  exact EngSt.running_not_settled ha hrun

section
variable {c : Instr} {s : State} {r : EngRef} {w : W64} {x : BitVec 32} (h : Issues s r w x)
include h

/-- An instruction that writes scalar registers, SR and address registers, and nothing else, in stage A. -/
theorem Issues.writes {op : EngSt → EngSt → OpRes} (hc : exec c s = onDevice (fun s => s.issue r w op) s)
    (y : List Word) (f : Word) (a : List AReg)
    (ho : ∀ l, op ((s.eng r.key).withLoop l) ((s.eng r.key).stageA.withLoop l) =
      .regs ({ (s.eng r.key).stageA with s := y, sr := f, ar := a }.withLoop l)) :
    IssuesAs c s r { (s.eng r.key).issued x with s := y, sr := f, ar := AReg.updates (s.eng r.key).ar a (slotsOf x) } := by
  obtain ⟨hslots, hrpt, hexit, -⟩ := h.straight
  have key := State.issuesAs c s r w x h op hc { (s.eng r.key).stageA with s := y, sr := f, ar := a } (s.eng r.key).stageA.w 0 []
    (fun l => ⟨l, (congrArg (op _) (EngSt.stageA_withLoop _ l)).trans (ho l)⟩)
    ((EngSt.stageA_slots _).trans hslots) ((EngSt.stageA_rptLeft _).trans hrpt)
    ((EngSt.stageA_exit _).trans hexit) ((EngSt.stageA_run _).trans h.run)
  rw [List.append_nil] at key
  refine cast (congrArg (IssuesAs c s r) ?_) key
  unfold EngSt.issued EngSt.stageA
  rw [EngSt.land_count_frame]
  rfl

/-- A branch that writes scalar registers in stage A; its two delay slots follow, then `t`. -/
theorem Issues.branches {branch : EngSt → Option (BitVec 10)} {op : EngSt → EngSt → OpRes}
    (hc : exec c s = onDevice (fun s => s.issueWith r w (fun _ => 0) branch op) s) (t : BitVec 10) (y : List Word) (q : Option Word)
    (hb : ∀ l, branch ((s.eng r.key).withLoop l) = some t)
    (ho : ∀ l, ∃ k, op ((s.eng r.key).withLoop l) ((s.eng r.key).stageA.withLoop l) =
      .regs (((s.eng r.key).branching y q).withLoop k)) :
    IssuesAs c s r { (s.eng r.key).branchDone x t with s := y, reti := q } := by
  obtain ⟨-, hrpt, hexit, -⟩ := h.straight
  obtain ⟨k, hk⟩ := Classical.axiomOfChoice ho
  obtain ⟨l, st, hi, hst⟩ := State.issueWith_next s r w x h (fun _ => 0) branch op
    (fun l => ((s.eng r.key).branching y q).withLoop (k l)) (s.eng r.key).stageA.w 0 []
    (fun l => (congrArg (op _) (EngSt.stageA_withLoop _ l)).trans (hk l))
  refine ⟨k l, ?_⟩
  have hfin := EngSt.finish_branch (((s.eng r.key).branching y q).withLoop (k l)) ((s.eng r.key).withLoop l) w x h.transfers
    t ((s.eng r.key).loadsOf x) st ((EngSt.stageA_rptLeft _).trans hrpt) ((EngSt.stageA_exit _).trans hexit)
    ((EngSt.stageA_run _).trans h.run) hst
  rw [hc, onDevice_up h.up, hi, hb]
  refine congrArg (fun u => Host.Outcome.next (keep s (s.setEng r.key u))) (hfin.trans ?_)
  unfold EngSt.branchDone EngSt.issued EngSt.branching EngSt.stageA
  rw [EngSt.land_count_frame]
  rfl

end

end Sys2Proof.Machine
end

section
/-! Bit reversal and the updates of address registers (R279 to R281). -/

namespace Sys2Proof.Machine

/-! ## Reversed numbers -/

theorem revBits_lt (k v : Nat) : revBits k v < 2 ^ k := by
  induction k generalizing v with
  | zero => simp [revBits]
  | succ j ih =>
    have hlow := ih (v / 2)
    have htop : v % 2 ≤ 1 := by omega
    have hmul := Nat.mul_le_mul_right (2 ^ j) htop
    rw [revBits, Nat.pow_succ]
    omega

theorem revBits_testBit (k v i : Nat) : (revBits k v).testBit i = (decide (i < k) && v.testBit (k - 1 - i)) := by
  induction k generalizing v with
  | zero => simp [revBits]
  | succ j ih =>
    rw [revBits, Nat.mul_comm, Nat.testBit_two_pow_mul_add _ (revBits_lt j (v / 2))]
    rcases Nat.lt_trichotomy i j with hlt | rfl | hgt
    · rw [if_pos hlt, ih, Nat.testBit_div_two, show j - 1 - i + 1 = j + 1 - 1 - i by omega]
      simp [hlt, Nat.lt_succ_of_lt hlt]
    · simp
    · rw [if_neg (by omega), ← Nat.pow_one 2, Nat.testBit_mod_two_pow]
      simp [show ¬i - j < 1 by omega, show ¬i < j + 1 by omega]

theorem revBits_revBits {k v : Nat} (h : v < 2 ^ k) : revBits k (revBits k v) = v := by
  apply Nat.eq_of_testBit_eq
  intro i
  rw [revBits_testBit, revBits_testBit]
  by_cases hi : i < k
  · simp [hi, show k - 1 - i < k by omega, show k - 1 - (k - 1 - i) = i by omega]
  · simp [hi, Nat.testBit_lt_two_pow (Nat.lt_of_lt_of_le h (Nat.pow_le_pow_right (by decide) (Nat.le_of_not_lt hi)))]

/-! ## The circular update -/

theorem AReg.len_le (a : AReg) : a.len ≤ 1024 := by
  unfold AReg.len
  split <;> omega

/-- Where the offset lies in the buffer and the modifier is less than its length, one wrap is a remainder (R280). -/
theorem wrap_eq_emod {o m l : Int} (ho : 0 ≤ o) (hol : o < l) (hml : -l < m) (hmu : m < l) :
    (if l ≤ o + m then o + m - l else if o + m < 0 then o + m + l else o + m) = (o + m) % l := by
  split
  next hover => rw [← Int.sub_emod_right, Int.emod_eq_of_lt (by omega) (by omega)]
  next hfits =>
    split
    next hunder => rw [← Int.add_emod_right, Int.emod_eq_of_lt (by omega) (by omega)]
    next hin => rw [Int.emod_eq_of_lt (by omega) (by omega)]

theorem AReg.circular_toNat {a : AReg} {m : Int} (ho : (a.a - a.b).toNat < a.len) (hml : -(a.len : Int) < m) (hmu : m < a.len) :
    (a.circular m).toNat = (a.b.toNat + ((((a.a - a.b).toNat : Nat) + m) % (a.len : Int)).toNat) % 1024 := by
  have hnonneg := Int.emod_nonneg (((a.a - a.b).toNat : Nat) + m) (b := (a.len : Int)) (by omega)
  unfold AReg.circular
  dsimp only
  rw [wrap_eq_emod (by omega) (by omega) hml hmu, BitVec.toNat_ofInt]
  omega

/-! ## The bit-reversed update -/

theorem AReg.log2Len_of_pow {a : AReg} {k : Nat} (hk : k ≤ 10) (h : a.len = 2 ^ k) : a.log2Len = some k := by
  unfold AReg.log2Len
  rw [List.find?_range_eq_some]
  refine ⟨by simp [h], by simp; omega, fun j hj => ?_⟩
  have hlt := Nat.pow_lt_pow_right (a := 2) (by decide) hj
  simp [h, Nat.ne_of_lt hlt]

theorem AReg.log2Len_of_not_pow {a : AReg} (h : ∀ k, k ≤ 10 → a.len ≠ 2 ^ k) : a.log2Len = none := by
  unfold AReg.log2Len
  rw [List.find?_eq_none]
  intro k hk
  have hlt := List.mem_range.mp hk
  simpa using (h k (by omega)).symm

theorem AReg.update_reverse_of_pow {a : AReg} {k : Nat} (hk : k ≤ 10) (h : a.len = 2 ^ k) : a.update 3 = some (a.reversed k) := by
  simp [AReg.update, AReg.log2Len_of_pow hk h]

theorem AReg.update_reverse_of_not_pow {a : AReg} (h : ∀ k, k ≤ 10 → a.len ≠ 2 ^ k) : a.update 3 = none := by
  simp [AReg.update, AReg.log2Len_of_not_pow h]

theorem natCast_two_pow (k : Nat) : ((2 ^ k : Nat) : Int) = 2 ^ k := Int.natCast_pow 2 k

/-- The offset that a bit-reversed update leaves is the reverse of the natural count. -/
theorem AReg.reversed_offset {a : AReg} {k : Nat} (hk : k ≤ 10) (h : a.len = 2 ^ k) :
    (a.reversed k - a.b).toNat = revBits k (((revBits k ((a.a - a.b).toNat % 2 ^ k) : Nat) + a.m.toInt) % (2 ^ k : Int)).toNat := by
  have hlt := revBits_lt k (((revBits k ((a.a - a.b).toNat % 2 ^ k) : Nat) + a.m.toInt) % (2 ^ k : Int)).toNat
  have hpow := Nat.pow_le_pow_right (n := 2) (by decide) hk
  unfold AReg.reversed
  dsimp only
  rw [h, natCast_two_pow, BitVec.toNat_sub, BitVec.toNat_ofNat]
  omega

/-- A bit-reversed update counts in natural order inside the reversed domain (R281). -/
theorem AReg.revBits_reversed {a : AReg} {k : Nat} (hk : k ≤ 10) (h : a.len = 2 ^ k) :
    revBits k (a.reversed k - a.b).toNat = (((revBits k ((a.a - a.b).toNat % 2 ^ k) : Nat) + a.m.toInt) % (2 ^ k : Int)).toNat := by
  have hpos : (0 : Int) < 2 ^ k := Int.pow_pos (by decide)
  have hnonneg := Int.emod_nonneg ((revBits k ((a.a - a.b).toNat % 2 ^ k) : Nat) + a.m.toInt) (Int.ne_of_gt hpos)
  have hlt := Int.emod_lt_of_pos ((revBits k ((a.a - a.b).toNat % 2 ^ k) : Nat) + a.m.toInt) hpos
  rw [AReg.reversed_offset hk h, revBits_revBits]
  rwa [Int.toNat_lt hnonneg, natCast_two_pow]

end Sys2Proof.Machine
end

section
/-! O3 and O4: the SALU and SIMM classes. -/

namespace Sys2Proof.Machine

theorem wordLegal_of_opLegal {w : W64} (h : opLegal w = false) : wordLegal w = false := by
  unfold wordLegal
  rw [h, Bool.false_and]

/-! ## Results (R290 to R292) -/

theorem EngSt.scalar_some (c : EngSt) (sd : BitVec 3) (y : Word) :
    c.scalar sd (some y) = .regs { c with s := listSet c.s sd.toNat y, sr := setBits c.sr 0 0 (if y = 0 then 1 else 0) } := by
  unfold EngSt.scalar srZ putBit b2n
  simp only [decide_eq_true_eq]
  rfl

theorem saluOp_slt (a b : Word) : saluOp 8 a b = some (if a.slt b then 1 else 0) := by
  simp [saluOp, BitVec.slt]

theorem saluOp_sltu (a b : Word) : saluOp 9 a b = some (if a.ult b then 1 else 0) := by
  simp [saluOp, BitVec.ult]

theorem slt_iff_not_le (a b : Word) : b.slt a = true ↔ ¬a.toInt ≤ b.toInt := by
  rw [BitVec.slt, decide_eq_true_eq, Int.not_le]

theorem saluOp_min (a b : Word) : saluOp 10 a b = some (if b.slt a then b else a) := by
  simp only [saluOp, slt_iff_not_le, ite_not]

theorem saluOp_max (a b : Word) : saluOp 11 a b = some (if b.slt a then a else b) := by
  simp only [saluOp, slt_iff_not_le, ite_not]

theorem saluOp_carry (a b : Word) : saluOp 14 a b = some (if (a + b).ult a then 1 else 0) := by
  have hcarry : 2 ^ 32 ≤ a.toNat + b.toNat ↔ (a + b).ult a = true := by
    rw [BitVec.ult, decide_eq_true_eq, BitVec.toNat_add]
    omega
  simp only [saluOp, hcarry]

theorem simmOp_lui (a : Word) (imm : BitVec 16) : simmOp 8 a imm = some (imm.zeroExtend 32 * 65536) := by
  have hshift : imm.setWidth 32 <<< (16 : Nat) = imm.setWidth 32 * 65536#32 := by
    apply BitVec.eq_of_toNat_eq
    simp [Nat.shiftLeft_eq]
  exact congrArg some hshift

theorem simmOp_slti (a : Word) (imm : BitVec 16) : simmOp 9 a imm = some (if a.slt (imm.signExtend 32) then 1 else 0) := by
  simp [simmOp, BitVec.slt]

/-! ## Issue -/

section
variable {c : Instr} {s : State} {r : EngRef} {x : BitVec 32} {op : Nat} {sd sa sb : BitVec 3} {imm : BitVec 16} {y : Word}

theorem Issues.scalar {w : W64} (h : Issues s r w x) {res : EngSt → Option Word}
    (hc : exec c s = onDevice (fun s => s.issue r w fun v c => c.scalar sd (res v)) s)
    (hres : ∀ l, res ((s.eng r.key).withLoop l) = some y) : IssuesAs c s r ((s.eng r.key).scalarDone x sd y) := by
  refine h.writes hc (listSet (s.eng r.key).land.s sd.toNat y) (setBits (s.eng r.key).land.sr 0 0 (if y = 0 then 1 else 0))
    (s.eng r.key).ar fun l => ?_
  rw [hres, EngSt.scalar_some, EngSt.stageA, EngSt.land_count_frame]
  rfl

theorem issuesAs_salu (hc : exec c s = s.salu op r sd sa sb x) (hy : saluOp op ((s.eng r.key).sreg sa) ((s.eng r.key).sreg sb) = some y)
    (h : Issues s r (wSalu op sd sa sb x) x) : IssuesAs c s r ((s.eng r.key).scalarDone x sd y) :=
  h.scalar (res := fun v => saluOp op (v.sreg sa) (v.sreg sb)) hc fun _ => hy

theorem issuesAs_simm (hc : exec c s = s.simm op r sd sa imm x) (hy : simmOp op ((s.eng r.key).sreg sa) imm = some y)
    (h : Issues s r (wSimm op sd sa imm x) x) : IssuesAs c s r ((s.eng r.key).scalarDone x sd y) :=
  h.scalar (res := fun v => simmOp op (v.sreg sa) imm) hc fun _ => hy

end

/-! ## Illegal words -/

theorem opLegal_salu {w : W64} (h : wbits w 63 60 = 2) :
    opLegal w = (wbits w 59 55 ≤ 14 && wbits w 45 32 = 0 && (wbits w 59 55 ≠ 13 || wbits w 48 46 = 0)) := by
  unfold opLegal
  dsimp only
  rw [h]
  rfl

theorem opLegal_simm {w : W64} (h : wbits w 63 60 = 3) :
    opLegal w = (wbits w 59 56 ≤ 9 && wbits w 49 48 = 0 && (!(4 ≤ wbits w 59 56 && wbits w 59 56 ≤ 6) || wbits w 47 37 = 0)
      && (!(wbits w 59 56 = 7 || wbits w 59 56 = 8) || wbits w 52 50 = 0)) := by
  unfold opLegal
  dsimp only
  rw [h]
  rfl

theorem wordLegal_salu_false {w : W64} (h : wbits w 63 60 = 2)
    (hbad : 15 ≤ wbits w 59 55 ∨ (wbits w 59 55 = 13 ∧ wbits w 48 46 ≠ 0) ∨ wbits w 45 32 ≠ 0) : wordLegal w = false := by
  apply wordLegal_of_opLegal
  rw [opLegal_salu h]
  rcases hbad with hop | ⟨hmov, hsb⟩ | hres
  · simp [show ¬wbits w 59 55 ≤ 14 by omega]
  · simp [hmov, hsb]
  · simp [hres]

theorem wordLegal_simm_false {w : W64} (h : wbits w 63 60 = 3)
    (hbad : 10 ≤ wbits w 59 56 ∨ (4 ≤ wbits w 59 56 ∧ wbits w 59 56 ≤ 6 ∧ wbits w 47 37 ≠ 0) ∨
      ((wbits w 59 56 = 7 ∨ wbits w 59 56 = 8) ∧ wbits w 52 50 ≠ 0) ∨ wbits w 49 48 ≠ 0) : wordLegal w = false := by
  apply wordLegal_of_opLegal
  rw [opLegal_simm h]
  rcases hbad with hop | ⟨hlo, hhi, himm⟩ | ⟨hop, hsa⟩ | hres
  · simp [show ¬wbits w 59 56 ≤ 9 by omega]
  · simp [hlo, hhi, himm]
  · rcases hop with hop | hop <;> simp [hop, hsa]
  · simp [hres]

/-- Settles O3: each operation is the issue of a scalar result, and a word with a field out of its range is refused by its class. -/
theorem scalarOperations : Obligations.ScalarOperations := by
  intro s r sd sa sb x v a b
  exact ⟨issuesAs_salu rfl rfl, issuesAs_salu rfl rfl, issuesAs_salu rfl rfl, issuesAs_salu rfl rfl, issuesAs_salu rfl rfl,
    issuesAs_salu rfl rfl, issuesAs_salu rfl rfl, issuesAs_salu rfl rfl, issuesAs_salu rfl (saluOp_slt a b),
    issuesAs_salu rfl (saluOp_sltu a b), issuesAs_salu rfl (saluOp_min a b), issuesAs_salu rfl (saluOp_max a b),
    issuesAs_salu rfl rfl, issuesAs_salu rfl rfl, issuesAs_salu rfl (saluOp_carry a b), fun _ => wordLegal_salu_false⟩

/-- Settles O4: each operation is the issue of a scalar result, and a word with a field out of its range is refused by its class. -/
theorem immediateOperations : Obligations.ImmediateOperations := by
  intro s r sd sa imm x v a se ze
  exact ⟨issuesAs_simm rfl rfl, issuesAs_simm rfl rfl, issuesAs_simm rfl rfl, issuesAs_simm rfl rfl, issuesAs_simm rfl rfl,
    issuesAs_simm rfl rfl, issuesAs_simm rfl rfl, issuesAs_simm rfl rfl, issuesAs_simm rfl (simmOp_lui _ imm),
    issuesAs_simm rfl (simmOp_slti a imm), fun _ => wordLegal_simm_false⟩

end Sys2Proof.Machine
end

section
/-! O6: branches, their delay slots and their conditions. -/

namespace Sys2Proof.Machine

/-! ## Conditions (R286, R287) -/

theorem condMet_z_iff (sr c : Word) : condMet 1 sr c = true ↔ sr.getLsbD 0 = true := Iff.rfl

theorem condMet_nz_iff (sr c : Word) : condMet 2 sr c = true ↔ sr.getLsbD 0 = false := iff_of_eq (Bool.not_eq_true' _)

theorem condMet_n_iff (sr c : Word) : condMet 3 sr c = true ↔ c.msb = true := by
  rw [BitVec.msb_eq_getLsbD_last]
  exact Iff.rfl

theorem condMet_nn_iff (sr c : Word) : condMet 4 sr c = true ↔ c.msb = false := by
  rw [BitVec.msb_eq_getLsbD_last]
  exact iff_of_eq (Bool.not_eq_true' _)

theorem condMet_c_iff (sr c : Word) : condMet 5 sr c = true ↔ c.getLsbD 0 = true := Iff.rfl

theorem condMet_nc_iff (sr c : Word) : condMet 6 sr c = true ↔ c.getLsbD 0 = false := iff_of_eq (Bool.not_eq_true' _)

theorem condMet_dec_iff (sr c : Word) : condMet 7 sr c = true ↔ c ≠ 1 := by
  have hone : c - 1 = 0 ↔ c = 1 := by bv_omega
  rw [condMet, decide_eq_true_eq, ne_eq, hone]

theorem opLegal_branch_cond {w : W64} (h : wbits w 63 60 = 1) (hc : 8 ≤ wbits w 57 54) : opLegal w = false := by
  unfold opLegal
  dsimp only
  rw [h]
  simp [show ¬wbits w 57 54 ≤ 7 by omega]

/-! ## The four kinds (R285 to R289) -/

/-- DEC is all that the condition of a branch writes, beside the loop cache. -/
theorem EngSt.branchRegs_stageA (v : EngSt) (l : Option LoopCache) (cond : BitVec 4) (sc : BitVec 3) (t : BitVec 10) :
    ∃ k, (v.withLoop l).branchRegs (v.stageA.withLoop l) cond sc t = ({ v.stageA with s := v.decDone cond sc } : EngSt).withLoop k := by
  unfold EngSt.branchRegs EngSt.decDone EngSt.stageA
  rw [EngSt.land_count_frame]
  by_cases hd : cond = 7
  · rw [if_pos hd, if_pos hd]
    split <;> exact ⟨_, rfl⟩
  · rw [if_neg hd, if_neg hd]
    split <;> exact ⟨_, rfl⟩

section
variable {s : State} {r : EngRef} {cond : BitVec 4} {sc sd : BitVec 3} {t : BitVec 10} {x : BitVec 32}

theorem issuesAs_b (h : Issues s r (wBr 0 cond sc 0 t x) x) :
    let v := s.eng r.key
    IssuesAs (.b r cond sc t x) s r { v.branchDone x (v.next3 (v.taken cond sc) t) with s := v.decDone cond sc } := by
  refine h.branches rfl _ _ _ (fun _ => rfl) fun l => ?_
  obtain ⟨k, hk⟩ := (s.eng r.key).branchRegs_stageA l cond sc t
  exact ⟨k, congrArg OpRes.regs hk⟩

theorem issuesAs_call (h : Issues s r (wBr 1 cond sc sd t x) x) :
    let v := s.eng r.key
    IssuesAs (.call r cond sc sd t x) s r
      { v.branchDone x (v.next3 (v.taken cond sc) t) with
        s := if v.taken cond sc then listSet (v.decDone cond sc) sd.toNat ((v.pc + 3).setWidth 32) else v.decDone cond sc } := by
  refine h.branches rfl _ _ _ (fun _ => rfl) fun l => ?_
  obtain ⟨k, hk⟩ := (s.eng r.key).branchRegs_stageA l cond sc t
  refine ⟨k, congrArg OpRes.regs ?_⟩
  rw [hk, show ((s.eng r.key).withLoop l).taken cond sc = (s.eng r.key).taken cond sc from rfl]
  split <;> rfl

theorem issuesAs_jr (h : Issues s r (wBr 2 cond sc sd 0 x) x) :
    let v := s.eng r.key
    IssuesAs (.jr r cond sc sd x) s r
      { v.branchDone x (v.next3 (v.taken cond sc) ((v.sreg sd).setWidth 10)) with s := v.decDone cond sc } := by
  refine h.branches rfl _ _ _ (fun _ => rfl) fun l => ?_
  obtain ⟨k, hk⟩ := (s.eng r.key).branchRegs_stageA l cond sc (((s.eng r.key).sreg sd).setWidth 10)
  exact ⟨k, congrArg OpRes.regs hk⟩

theorem issuesAs_reti (h : Issues s r (wBr 3 0 0 0 0 x) x) :
    let v := s.eng r.key
    IssuesAs (.reti r x) s r { v.branchDone x v.epc with reti := some (v.esr &&& 0xF8FF#32) } :=
  h.branches rfl _ _ _ (fun _ => rfl) fun _ => ⟨_, rfl⟩

end

/-- Settles O6: each kind is the issue of a branch to its target or to b + 3, and each condition reads one bit or the count. -/
theorem branches : Obligations.Branches := by
  refine ⟨fun s r cond sc sd t x => ⟨issuesAs_b, issuesAs_call, issuesAs_jr, issuesAs_reti⟩, fun sr c => ?_, fun w hclass hcond => ?_⟩
  · exact ⟨rfl, condMet_z_iff sr c, condMet_nz_iff sr c, condMet_n_iff sr c, condMet_nn_iff sr c, condMet_c_iff sr c,
      condMet_nc_iff sr c, condMet_dec_iff sr c⟩
  · exact wordLegal_of_opLegal (opLegal_branch_cond hclass hcond)

end Sys2Proof.Machine
end

section
/-! O7: the address register class. -/

namespace Sys2Proof.Machine

/-! ## Fields (R293) -/

theorem bitVec2_cases (fld : BitVec 2) : fld = 0 ∨ fld = 1 ∨ fld = 2 ∨ fld = 3 := by
  revert fld
  decide

theorem AReg.put_eq (a : AReg) (fld : BitVec 2) (y : BitVec 11) :
    a.put fld y = if fld = 0 then { a with a := y.setWidth 10 } else if fld = 1 then { a with b := y.setWidth 10 }
      else if fld = 2 then { a with l := y } else { a with m := y } := by
  rcases bitVec2_cases fld with rfl | rfl | rfl | rfl <;> rfl

theorem AReg.get_eq (a : AReg) (fld : BitVec 2) :
    a.get fld = if fld = 0 then a.a.zeroExtend 32 else if fld = 1 then a.b.zeroExtend 32 else if fld = 2 then a.l.zeroExtend 32
      else a.m.signExtend 32 := by
  rcases bitVec2_cases fld with rfl | rfl | rfl | rfl <;> rfl

/-! ## Issue -/

theorem EngSt.areg_stageA (v : EngSt) (l : Option LoopCache) (ar : BitVec 3) : (v.stageA.withLoop l).areg ar = v.areg ar := by
  unfold EngSt.stageA
  rw [EngSt.land_count_frame]
  rfl

section
variable {s : State} {r : EngRef} {ar sr : BitVec 3} {fld : BitVec 2} {imm : BitVec 11} {x : BitVec 32}

/-- An instruction that makes one address register, as it stands before the cycle, anew. -/
theorem Issues.writesAr {c : Instr} {w : W64} (h : Issues s r w x) (f : EngSt → AReg → AReg)
    (hc : exec c s = onDevice (fun s => s.issue r w fun v c => .regs (c.setAr ar (f v (c.areg ar)))) s)
    (hf : ∀ l a, f ((s.eng r.key).withLoop l) a = f (s.eng r.key) a) :
    IssuesAs c s r ((s.eng r.key).arDone x ar (f (s.eng r.key) ((s.eng r.key).areg ar))) := by
  refine h.writes hc (s.eng r.key).stageA.s (s.eng r.key).stageA.sr
    (listSet (s.eng r.key).ar ar.toNat (f (s.eng r.key) ((s.eng r.key).areg ar))) fun l => ?_
  rw [EngSt.areg_stageA, hf, EngSt.stageA, EngSt.land_count_frame]
  rfl

theorem issuesAs_seti (h : Issues s r (wAreg 0 ar fld 0 imm x) x) :
    IssuesAs (.seti r ar fld imm x) s r ((s.eng r.key).arDone x ar (((s.eng r.key).areg ar).put fld imm)) :=
  h.writesAr (fun _ a => a.put fld imm) rfl fun _ _ => rfl

theorem issuesAs_sets (h : Issues s r (wAreg 1 ar fld sr 0 x) x) :
    IssuesAs (.sets r ar fld sr x) s r
      ((s.eng r.key).arDone x ar (((s.eng r.key).areg ar).put fld (((s.eng r.key).sreg sr).setWidth 11))) :=
  h.writesAr (fun v a => a.put fld ((v.sreg sr).setWidth 11)) rfl fun _ _ => rfl

theorem issuesAs_get (h : Issues s r (wAreg 2 ar fld sr 0 x) x) :
    IssuesAs (.get r ar fld sr x) s r ((s.eng r.key).sDone x sr (((s.eng r.key).areg ar).get fld)) := by
  refine h.writes (op := fun v c => .regs (c.setS sr ((v.areg ar).get fld))) rfl
    (listSet (s.eng r.key).land.s sr.toNat (((s.eng r.key).areg ar).get fld)) (s.eng r.key).stageA.sr (s.eng r.key).ar fun l => ?_
  rw [EngSt.stageA, EngSt.land_count_frame]
  rfl

theorem issuesAs_adda (h : Issues s r (wAreg 3 ar 0 0 imm x) x) :
    IssuesAs (.adda r ar imm x) s r
      ((s.eng r.key).arDone x ar { (s.eng r.key).areg ar with a := ((s.eng r.key).areg ar).circular imm.toInt }) :=
  h.writesAr (fun v a => { a with a := (v.areg ar).circular imm.toInt }) rfl fun _ _ => rfl

end

/-- Settles O7: the four operations are issues that write one register; the updates count in the buffer and in the reversed domain. -/
theorem addressRegisters : Obligations.AddressRegisters := by
  refine ⟨fun s r ar sr fld imm x => ?_, fun a m => AReg.circular_toNat, fun a k => AReg.update_reverse_of_pow,
    fun a => AReg.update_reverse_of_not_pow, fun a k => AReg.revBits_reversed⟩
  intro v a put
  have hput : ∀ y, put y = a.put fld y := fun y => (a.put_eq fld y).symm
  refine ⟨?_, ?_, ?_, issuesAs_adda⟩
  · rw [hput]
    exact issuesAs_seti
  · rw [hput]
    exact issuesAs_sets
  · rw [← AReg.get_eq]
    exact issuesAs_get

end Sys2Proof.Machine
end
